-- ==== Sys2Proof/Word.lean ====
section
/-! DEFINITION. The word types of the TB80 compute side and their plainest arithmetic. -/
namespace Sys2Proof

/-- One byte, the smallest addressable unit (00_scope.md R19). -/
abbrev Byte := BitVec 8
/-- A binary32 lane or a 32-bit register of configuration space (R60, R107). -/
abbrev Word32 := BitVec 32
/-- A scalar register, a tally state word or an instruction word (R62, R67, R191). -/
abbrev Word64 := BitVec 64
/-- One 64 B line: a vector register, a fetch line, a memory line (R62, R63). -/
abbrev Line := BitVec 512

/-- Bits `[lo + w - 1 : lo]` of a natural number. -/
def bitsAt (x lo w : Nat) : Nat := (x >>> lo) % 2 ^ w

/-- Bit `i` of a natural number. -/
def bitAt (x i : Nat) : Bool := (x >>> i) % 2 = 1

/-- The number 1 for true, 0 for false. -/
def b2n (b : Bool) : Nat := if b then 1 else 0

end Sys2Proof
end

