-- ==== Sys2Proof/Syntax/Fields.lean ====
section
/-! DEFINITION. Operand types of the commands: where a stall stands, and the fields of a stall's instruction formats with
every bit of the word, reserved bits included, so that a command names one 64-bit word exactly. -/
namespace Sys2Proof

/-- A stall's die and coordinates (00_scope.md R5, R6); an ID whose local index names no stall has no value here. -/
structure StallId where
  die : Fin 16
  x : Fin 64
  y : Fin 80
  deriving DecidableEq, Repr

/-- The 17-bit stall ID (R6). -/
def StallId.num (i : StallId) : Nat := i.die.val * 8192 + i.y.val * 64 + i.x.val

/-- The stall that a 17-bit ID names, none for a local index of 5,120 to 8,191 (R6). -/
def StallId.ofNum (n : Nat) : Option StallId :=
  if h : n / 8192 < 16 ∧ n % 8192 / 64 < 80 then
    some ⟨⟨n / 8192, h.1⟩, ⟨n % 64, Nat.mod_lt _ (by decide)⟩, ⟨n % 8192 / 64, h.2⟩⟩
  else none

/-- The row of 32 stalls (R7). -/
def StallId.row (i : StallId) : Nat := i.y.val * 2 + i.x.val / 32

/-- Format C (02_stall.md Table STL.2). -/
structure FmtC where
  rsv : BitVec 36
  e : BitVec 1
  target : BitVec 15
  deriving DecidableEq, Repr

/-- Format B. -/
structure FmtB where
  sa : BitVec 5
  sb : BitVec 5
  rsv : BitVec 27
  target : BitVec 15
  deriving DecidableEq, Repr

/-- Format S. -/
structure FmtS where
  sd : BitVec 5
  sa : BitVec 5
  sb : BitVec 5
  rsv : BitVec 37
  deriving DecidableEq, Repr

/-- Format I. -/
structure FmtI where
  sd : BitVec 5
  sa : BitVec 5
  rsv : BitVec 10
  imm : BitVec 32
  deriving DecidableEq, Repr

/-- The two forms of a scalar function: OP 0x02 with a register operand, OP 0x03 with an immediate (R71). -/
inductive AluForm where
  | reg (f : FmtS)
  | imm (f : FmtI)
  deriving DecidableEq, Repr

/-- Format L. -/
structure FmtL where
  vd : BitVec 7
  sa : BitVec 5
  n : BitVec 6
  rsv : BitVec 16
  off : BitVec 18
  deriving DecidableEq, Repr

/-- Format V. -/
structure FmtV where
  qd : BitVec 5
  qa : BitVec 5
  qb : BitVec 5
  qc : BitVec 5
  bs : BitVec 1
  sen : BitVec 1
  lane : BitVec 6
  rsv2 : BitVec 2
  rm : BitVec 2
  rsv20 : BitVec 20
  deriving DecidableEq, Repr

/-- TRN.LD (Table STL.9). -/
structure FmtTLd where
  tb : BitVec 1
  sa : BitVec 5
  rows : BitVec 7
  len : BitVec 4
  stride : BitVec 18
  rsv : BitVec 17
  deriving DecidableEq, Repr

/-- TRN.RD (Table STL.9). -/
structure FmtTRd where
  tb : BitVec 1
  vd : BitVec 7
  w : BitVec 2
  rows : BitVec 7
  cols : BitVec 8
  rsv : BitVec 27
  deriving DecidableEq, Repr

/-- Format A. -/
structure FmtA where
  qd : BitVec 5
  am : BitVec 4
  bank : BitVec 1
  clr : BitVec 1
  cf : BitVec 4
  rsv : BitVec 37
  deriving DecidableEq, Repr

/-- Format M without its FMT field, which the mnemonic fixes. -/
structure FmtM where
  tca : BitVec 4
  tcw : BitVec 4
  tcd : BitVec 4
  bank : BitVec 1
  mode : BitVec 2
  reuse : BitVec 1
  sga : BitVec 1
  sgw : BitVec 1
  gen : BitVec 1
  gate : BitVec 6
  win : BitVec 1
  pb0 : BitVec 5
  pn : BitVec 5
  rsv : BitVec 18
  deriving DecidableEq, Repr

/-- TC.SET (04_tile_ops.md Table TILE.2). -/
structure FmtTcSet where
  t : BitVec 4
  sa : BitVec 5
  sb : BitVec 5
  rsv : BitVec 38
  deriving DecidableEq, Repr

/-- TC.GET (Table TILE.2). -/
structure FmtTcGet where
  t : BitVec 4
  sd : BitVec 5
  h : BitVec 1
  rsv : BitVec 42
  deriving DecidableEq, Repr

/-- PRT.GO (05_porter.md Table PRT.1). -/
structure FmtPrtGo where
  va : BitVec 7
  sd : BitVec 5
  rsv : BitVec 40
  deriving DecidableEq, Repr

/-- PRT.KILL. -/
structure FmtPrtKill where
  slot : BitVec 3
  rsv : BitVec 49
  deriving DecidableEq, Repr

/-- PRT.STAT. -/
structure FmtPrtStat where
  slot : BitVec 3
  rsv4 : BitVec 4
  sd : BitVec 5
  rsv : BitVec 40
  deriving DecidableEq, Repr

/-- PRT.DRAIN. -/
structure FmtPrtDrain where
  rsv : BitVec 52
  deriving DecidableEq, Repr

/-- TLY.SET (06_tallies.md Table TLY.3). -/
structure FmtTSet where
  t : BitVec 6
  sa : BitVec 5
  gc : BitVec 1
  rsv : BitVec 40
  deriving DecidableEq, Repr

/-- TLY.ADD. -/
structure FmtTAdd where
  t : BitVec 6
  amt : BitVec 16
  rsv : BitVec 30
  deriving DecidableEq, Repr

/-- TLY.SIG. -/
structure FmtTSig where
  sa : BitVec 5
  amt : BitVec 16
  ord : BitVec 1
  rsv : BitVec 30
  deriving DecidableEq, Repr

/-- TLY.WAIT. -/
structure FmtTWait where
  t : BitVec 6
  sd : BitVec 5
  inc : BitVec 16
  rsv : BitVec 25
  deriving DecidableEq, Repr

/-- TLY.WAITV. -/
structure FmtTWaitV where
  t : BitVec 6
  sd : BitVec 5
  sb : BitVec 5
  rsv : BitVec 36
  deriving DecidableEq, Repr

/-- TLY.TAKE. -/
structure FmtTTake where
  t : BitVec 6
  sd : BitVec 5
  amt : BitVec 16
  rsv : BitVec 25
  deriving DecidableEq, Repr

/-- TLY.RD and TLY.CFG: a tally and one scalar register. -/
structure FmtTReg where
  t : BitVec 6
  s : BitVec 5
  rsv : BitVec 41
  deriving DecidableEq, Repr

/-- RCK.BIND, RCK.ARR, RCK.WAIT and RCK.AW: a binding and one scalar register (Table TLY.6). -/
structure FmtRck where
  b : BitVec 3
  s : BitVec 5
  rsv : BitVec 44
  deriving DecidableEq, Repr

/-- RCK.CFG. -/
structure FmtRckCfg where
  sa : BitVec 5
  sb : BitVec 5
  sc : BitVec 5
  sd : BitVec 5
  rsv : BitVec 32
  deriving DecidableEq, Repr

/-- ALLOC (08_ledger_dray.md). -/
structure FmtAlloc where
  sd : BitVec 5
  sa : BitVec 5
  sb : BitVec 5
  sz : BitVec 1
  tier : BitVec 3
  pol : BitVec 2
  w : BitVec 1
  die : BitVec 4
  now : BitVec 1
  rsv : BitVec 25
  deriving DecidableEq, Repr

/-- FREE. -/
structure FmtFree where
  sd : BitVec 5
  sa : BitVec 5
  sb : BitVec 5
  sz : BitVec 1
  rsv : BitVec 36
  deriving DecidableEq, Repr

/-- HINT. -/
structure FmtHint where
  sd : BitVec 5
  sa : BitVec 5
  sb : BitVec 5
  sz : BitVec 1
  tier : BitVec 3
  pol : BitVec 2
  setpol : BitVec 1
  die : BitVec 4
  rsv : BitVec 26
  deriving DecidableEq, Repr

/-- What the SECDED check of a read meets (R100, 07_depot_memory.md R234, R242): the environment's part of an access. -/
inductive Ecc where
  | none
  | single
  | double
  deriving DecidableEq, Repr

/-- What comes back from outside the module for a request that left it: nothing (the module itself answers), a line of host
memory or an acknowledgement, or an error response (07_depot_memory.md R248, R249). -/
inductive Reply where
  | none
  | data (l : Line)
  | ack
  | err
  deriving DecidableEq, Repr

/-- A Weago message (10_weago.md Table WGO.6): header cell, extension cell where EXT = 1, data lines. -/
structure Msg where
  hdr : BitVec 128
  ext : BitVec 128
  data : List Line
  deriving DecidableEq, Repr

/-- A flit block of Table WGO.2 in plain text: its header fields (Table WGO.3) and the messages its cells hold. Credits stand in
the order REQ, RSP, ORD, SYS. -/
structure Block where
  kind : Nat
  nak : Bool
  seq : Nat
  ack : Nat
  credits : List Nat
  msgs : List Msg
  deriving DecidableEq, Repr

/-- What the power core and the die controllers measure over the interval that ends at a decision (14_power_ageing_resets.md R444,
R449, R471): input energy in mJ, input voltage in 10 mV, input current in 0.1 A, the hottest sensor and the input power of each die,
the hottest HBM stack; the free phase step that R51 allows, in cy. -/
structure Telemetry where
  energy : Nat
  vin : Nat
  iin : Nat
  temps : List Nat
  powers : List Nat
  hbm : Nat
  step : Int
  deriving DecidableEq, Repr

/-- What the host edge brings (11_host_rings.md R361, R363), or a fault of a clock-crossing queue (15_check_unit_queues.md R486). -/
inductive HostAccess where
  /-- a 4 B write at a local address -/
  | write (addr : Nat) (value : BitVec 32)
  /-- a 4 B read at a local address -/
  | read (addr : Nat)
  /-- any message: the die of its edge and its header cell (Table HST.1) -/
  | message (edge : Nat) (cell : BitVec 128)
  /-- a read of an EMPTY queue of a die -/
  | underrun (die queue : Nat)
  /-- a write to a FULL queue of a die -/
  | overrun (die queue : Nat)
  deriving DecidableEq, Repr

/-- What an operation of the environment meets where the module reads or writes host memory (11_host_rings.md R378): the bytes, the
host die's error response (07_depot_memory.md R248), or no response within 2^20 cy (R251). -/
inductive HostMem where
  | bytes (l : List Byte)
  | refused
  | late
  deriving DecidableEq, Repr

/-- The bytes that host memory answers with. -/
def HostMem.data : HostMem → Option (List Byte)
  | .bytes l => some l
  | _ => none

/-- What one voltage domain measures (14_power_ageing_resets.md R453 to R455): VPASS (none where it fails at code 200), RATIO. -/
structure DomainTrim where
  die : Nat
  domain : Nat
  vpass : Option Nat
  ratio : Nat
  /-- whether its ring-oscillator pairs passed (Table PWR.3) -/
  ok : Bool
  deriving DecidableEq, Repr

/-- The ageing log's accepted records (R460, R462): per domain 20n + k the FLOOR and the fences of the latest, RATIO0 of the baseline,
records written, REPLANS; the bytes of the baseline record and of the circular log's records, newest first (Table PWR.4). -/
structure AgeingLog where
  floors : List (Nat × Nat)
  fenced : List Nat
  ratio0 : List (Nat × Nat)
  records : Nat
  replans : Nat
  base : List Byte
  recs : List (List Byte)
  deriving DecidableEq, Repr

/-- A firmware image as the assayer knows it (13_trust.md R423, R424): the first failing check (0 where it is valid), the header
fields that the module takes from it, its measurement and those of its components. -/
structure FwImage where
  check : Nat
  version : Nat
  ifMin : Nat
  ifMax : Nat
  keyidx : Nat
  m : List Byte
  comps : List (List Byte)
  deriving DecidableEq, Repr

/-- The on-carrier flash beyond its identity records (13_trust.md Table TRU.2): both image slots, both copies of the slot selector,
16 bytes each, the ageing log. -/
structure Flash where
  slotA : FwImage
  slotB : FwImage
  sel0 : List Byte
  sel1 : List Byte
  log : AgeingLog
  deriving DecidableEq, Repr

/-- What a boot meets (13_trust.md R425, 14_power_ageing_resets.md R453, R462, 01_bell.md R29): flights of star lanes in cy (receiving
and sending die), dies that fail self-test and identity, stacks that fail training, what the domains measure, ageing
records ignored and whether the baseline was accepted, whether the boot's own log record could be written. -/
structure BootReport where
  laneFlights : List (Nat × Nat × Int)
  selfTestFail : List Nat
  identityFail : List Nat
  stackFail : List (Nat × Nat)
  trims : List DomainTrim
  ignored : Nat
  baseline : Bool
  logWritten : Bool
  deriving DecidableEq, Repr

/-- What a line meets whose reader or writer is no porter: a corrected error, an uncorrectable one (07_depot_memory.md R234, R242), an
address that the host die does not back (R248), no answer in 2^20 cy (R251). -/
inductive MetErr where
  | single
  | double
  | absent
  | late
  deriving DecidableEq, Repr

/-- A line that meets an error: its address, local or virtual as its command says, and the error. -/
structure Met where
  addr : Nat
  err : MetErr
  deriving DecidableEq, Repr

end Sys2Proof
end

