-- ==== Sys2Proof/Syntax.lean ====
section
/-! DEFINITION. The commands: one constructor for each row of the opcode table (95_what_each_step_holds.md lists what each holds).
A command of a stall names the stall and the whole instruction word, field by field; an event of the module names the unit it befalls
and what the environment brings to it. -/
namespace Sys2Proof

/-- The commands of the block. -/
inductive Instr where
  /-- NOP: 02_stall.md Table STL.4 -/
  | nop (sid : StallId) (f : FmtC)
  /-- BELL_WAIT: 02_stall.md Table STL.4 -/
  | bellWait (sid : StallId) (f : FmtC)
  /-- FENCE: 02_stall.md Table STL.4 -/
  | fence (sid : StallId) (f : FmtC)
  /-- ILLEGAL_OPCODE: a stall meets a word whose OP or FN is unlisted (R68) -/
  | illegalOpcode (sid : StallId) (word : Word64)
  /-- BR_EQ: Table STL.4 -/
  | brEq (sid : StallId) (f : FmtB)
  /-- BR_NE: Table STL.4 -/
  | brNe (sid : StallId) (f : FmtB)
  /-- BR_LT: Table STL.4 -/
  | brLt (sid : StallId) (f : FmtB)
  /-- BR_GE: Table STL.4 -/
  | brGe (sid : StallId) (f : FmtB)
  /-- BR_LTU: Table STL.4 -/
  | brLtu (sid : StallId) (f : FmtB)
  /-- BR_GEU: Table STL.4 -/
  | brGeu (sid : StallId) (f : FmtB)
  /-- J: Table STL.4 -/
  | j (sid : StallId) (f : FmtB)
  /-- JR: Table STL.4 -/
  | jr (sid : StallId) (f : FmtB)
  /-- LOOP: Table STL.4 -/
  | loop (sid : StallId) (f : FmtB)
  /-- ADD: Table STL.5 -/
  | add (sid : StallId) (f : AluForm)
  /-- SUB: Table STL.5 -/
  | sub (sid : StallId) (f : AluForm)
  /-- AND: Table STL.5 -/
  | and (sid : StallId) (f : AluForm)
  /-- OR: Table STL.5 -/
  | or (sid : StallId) (f : AluForm)
  /-- XOR: Table STL.5 -/
  | xor (sid : StallId) (f : AluForm)
  /-- SLL: Table STL.5 -/
  | sll (sid : StallId) (f : AluForm)
  /-- SRL: Table STL.5 -/
  | srl (sid : StallId) (f : AluForm)
  /-- SRA: Table STL.5 -/
  | sra (sid : StallId) (f : AluForm)
  /-- MUL: Table STL.5 -/
  | mul (sid : StallId) (f : AluForm)
  /-- MIN: Table STL.5 -/
  | min (sid : StallId) (f : AluForm)
  /-- MAX: Table STL.5 -/
  | max (sid : StallId) (f : AluForm)
  /-- MINU: Table STL.5 -/
  | minu (sid : StallId) (f : AluForm)
  /-- MAXU: Table STL.5 -/
  | maxu (sid : StallId) (f : AluForm)
  /-- SLT: Table STL.5 -/
  | slt (sid : StallId) (f : AluForm)
  /-- SLTU: Table STL.5 -/
  | sltu (sid : StallId) (f : AluForm)
  /-- ORHI: Table STL.5 -/
  | orhi (sid : StallId) (f : FmtI)
  /-- RDS: Table STL.5 -/
  | rds (sid : StallId) (f : FmtI)
  /-- VLD: Table STL.6 -/
  | vld (sid : StallId) (f : FmtL)
  /-- VST: Table STL.6 -/
  | vst (sid : StallId) (f : FmtL)
  /-- LD_S: Table STL.6 -/
  | ldS (sid : StallId) (f : FmtI)
  /-- ST_S: Table STL.6 -/
  | stS (sid : StallId) (f : FmtI)
  /-- REL: Table STL.6 -/
  | rel (sid : StallId) (f : FmtL)
  /-- FETCH_LINE_ARRIVAL: the oldest requested line reaches the fetch buffer (R63) -/
  | fetchLineArrival (sid : StallId) (ecc : Ecc)
  /-- LOAD_STORE_COMPLETE: the next line of the load or store with this issue number (R74) -/
  | loadStoreComplete (sid : StallId) (seq : Nat) (ecc : Ecc)
  /-- MM_H16: Table STL.8 -/
  | mmH16 (sid : StallId) (f : FmtM)
  /-- MM_Q8F: Table STL.8 -/
  | mmQ8f (sid : StallId) (f : FmtM)
  /-- MM_Q8G: Table STL.8 -/
  | mmQ8g (sid : StallId) (f : FmtM)
  /-- MM_Q8FG: Table STL.8 -/
  | mmQ8fg (sid : StallId) (f : FmtM)
  /-- MM_Q8GF: Table STL.8 -/
  | mmQ8gf (sid : StallId) (f : FmtM)
  /-- MM_I8: Table STL.8 -/
  | mmI8 (sid : StallId) (f : FmtM)
  /-- MM_Q4: Table STL.8 -/
  | mmQ4 (sid : StallId) (f : FmtM)
  /-- MM_I4: Table STL.8 -/
  | mmI4 (sid : StallId) (f : FmtM)
  /-- MATRIX_RETIRE: the oldest matrix instruction in flight retires (R83, R161) -/
  | matrixRetire (sid : StallId)
  /-- SQUARE_GO: the square with this origin decides on GO (R155) -/
  | squareGo (die : Fin 16) (x0 y0 : Nat)
  /-- SQUARE_MEMBER_STOP: STOP reaches the square (R157) -/
  | squareMemberStop (die : Fin 16) (x0 y0 : Nat)
  /-- ACC_RD: Table STL.7 -/
  | accRd (sid : StallId) (f : FmtA)
  /-- ACC_WR: Table STL.7 -/
  | accWr (sid : StallId) (f : FmtA)
  /-- ACC_MOVE_RETIRE: the accumulator move in flight retires (Table STL.7) -/
  | accMoveRetire (sid : StallId)
  /-- TRN_LD: Table STL.9 -/
  | trnLd (sid : StallId) (f : FmtTLd)
  /-- TRN_RD: Table STL.9 -/
  | trnRd (sid : StallId) (f : FmtTRd)
  /-- TURN_BUFFER_COMPLETE: the turn buffer transfer with this issue number ends (R87) -/
  | turnBufferComplete (sid : StallId) (seq : Nat) (ecc : Ecc)
  /-- VADD: Table STL.10 -/
  | vadd (sid : StallId) (f : FmtV)
  /-- VSUB: Table STL.10 -/
  | vsub (sid : StallId) (f : FmtV)
  /-- VMUL: Table STL.10 -/
  | vmul (sid : StallId) (f : FmtV)
  /-- VFMA: Table STL.10 -/
  | vfma (sid : StallId) (f : FmtV)
  /-- VFNMA: Table STL.10 -/
  | vfnma (sid : StallId) (f : FmtV)
  /-- VMAX: Table STL.10 -/
  | vmax (sid : StallId) (f : FmtV)
  /-- VMIN: Table STL.10 -/
  | vmin (sid : StallId) (f : FmtV)
  /-- VABS: Table STL.10 -/
  | vabs (sid : StallId) (f : FmtV)
  /-- VNEG: Table STL.10 -/
  | vneg (sid : StallId) (f : FmtV)
  /-- VSEL: Table STL.10 -/
  | vsel (sid : StallId) (f : FmtV)
  /-- VCMPLT: Table STL.10 -/
  | vcmplt (sid : StallId) (f : FmtV)
  /-- VCMPEQ: Table STL.10 -/
  | vcmpeq (sid : StallId) (f : FmtV)
  /-- VRSUM: Table STL.10 -/
  | vrsum (sid : StallId) (f : FmtV)
  /-- VEXT: Table STL.10 -/
  | vext (sid : StallId) (f : FmtV)
  /-- VINS: Table STL.10 -/
  | vins (sid : StallId) (f : FmtV)
  /-- VCVT_TO: Table STL.10 -/
  | vcvtTo (sid : StallId) (f : FmtV)
  /-- VCVT_FROM: Table STL.10 -/
  | vcvtFrom (sid : StallId) (f : FmtV)
  /-- VECTOR_WRITEBACK: the next vector-unit result is written (R90) -/
  | vectorWriteback (sid : StallId)
  /-- PB_F: Table STL.11 -/
  | pbF (sid : StallId) (f : FmtV)
  /-- PB_D: Table STL.11 -/
  | pbD (sid : StallId) (f : FmtV)
  /-- PB_LD: Table STL.11 -/
  | pbLd (sid : StallId) (f : FmtV)
  /-- PRICE_BOARD_RESULT: the next price-board result is written (R94) -/
  | priceBoardResult (sid : StallId)
  /-- PB_LD_COMPLETE: the PB.LD in flight ends (R96) -/
  | pbLdComplete (sid : StallId) (ecc : Ecc)
  /-- SCL_ATT: Table STL.12 -/
  | sclAtt (sid : StallId) (f : FmtV)
  /-- SCL_RD: Table STL.12 -/
  | sclRd (sid : StallId) (f : FmtV)
  /-- SCL_ROLL: Table STL.12 -/
  | sclRoll (sid : StallId) (f : FmtV)
  /-- SCL_CLR: Table STL.12 -/
  | sclClr (sid : StallId) (f : FmtV)
  /-- SCL_PROP: Table STL.12 -/
  | sclProp (sid : StallId) (f : FmtV)
  /-- TC_SET: 04_tile_ops.md Table TILE.2 -/
  | tcSet (sid : StallId) (f : FmtTcSet)
  /-- TC_GET: Table TILE.2 -/
  | tcGet (sid : StallId) (f : FmtTcGet)
  /-- PRT_GO: 05_porter.md Table PRT.1 -/
  | prtGo (sid : StallId) (f : FmtPrtGo)
  /-- PRT_KILL: Table PRT.1 -/
  | prtKill (sid : StallId) (f : FmtPrtKill)
  /-- PRT_STAT: Table PRT.1 -/
  | prtStat (sid : StallId) (f : FmtPrtStat)
  /-- PRT_DRAIN: Table PRT.1 -/
  | prtDrain (sid : StallId) (f : FmtPrtDrain)
  /-- PORTER_REQUEST: the porter issues its next request, round-robin (R180) -/
  | porterRequest (sid : StallId)
  /-- PORTER_LINE_ARRIVAL: the answer of a read request reaches the porter (R182) -/
  | porterLineArrival (sid : StallId) (req : Nat) (ecc : Ecc) (reply : Reply)
  /-- REGISTER_DELIVERY: the first waiting register line of the delivery buffer is written (R178) -/
  | registerDelivery (sid : StallId)
  /-- PORTER_WRITE_ACK: the answer of a write request reaches the porter (R177) -/
  | porterWriteAck (sid : StallId) (req : Nat) (reply : Reply)
  /-- MESH_FLIT: one flit crosses the link out of the stall in this direction (R223) -/
  | meshFlit (sid : StallId) (dir : Fin 4) (ecc : Ecc)
  /-- TLY_SET: 06_tallies.md Table TLY.3 -/
  | tlySet (sid : StallId) (f : FmtTSet)
  /-- TLY_ADD: Table TLY.3 -/
  | tlyAdd (sid : StallId) (f : FmtTAdd)
  /-- TLY_SIG: Table TLY.3 -/
  | tlySig (sid : StallId) (f : FmtTSig)
  /-- TLY_WAIT: Table TLY.3 -/
  | tlyWait (sid : StallId) (f : FmtTWait)
  /-- TLY_WAITV: Table TLY.3 -/
  | tlyWaitv (sid : StallId) (f : FmtTWaitV)
  /-- TLY_TAKE: Table TLY.3 -/
  | tlyTake (sid : StallId) (f : FmtTTake)
  /-- TLY_RD: Table TLY.3 -/
  | tlyRd (sid : StallId) (f : FmtTReg)
  /-- TLY_CFG: Table TLY.3 -/
  | tlyCfg (sid : StallId) (f : FmtTReg)
  /-- TALLY_SIGNAL_APPLY: the pending changes of the stall and the named signals in flight are applied in one cy (R192) -/
  | tallySignalApply (sid : StallId) (ids : List Nat)
  /-- RCK_BIND: Table TLY.6 -/
  | rckBind (sid : StallId) (f : FmtRck)
  /-- RCK_ARR: Table TLY.6 -/
  | rckArr (sid : StallId) (f : FmtRck)
  /-- RCK_WAIT: Table TLY.6 -/
  | rckWait (sid : StallId) (f : FmtRck)
  /-- RCK_AW: Table TLY.6 -/
  | rckAw (sid : StallId) (f : FmtRck)
  /-- RCK_CFG: Table TLY.6 -/
  | rckCfg (sid : StallId) (f : FmtRckCfg)
  /-- RCK_ARRIVAL: the named arrivals reach the unit in one cy (R211) -/
  | rckArrival (unit : Nat) (ids : List Nat)
  /-- RCK_COMPLETION: the broadcast with this number reaches the stalls (R212) -/
  | rckCompletion (id : Nat)
  /-- RCK_PARENT_ANSWER: a parent's answer reaches its child unit (R213) -/
  | rckParentAnswer (id : Nat)
  /-- ALLOC: 08_ledger_dray.md Table LDG.6 -/
  | alloc (sid : StallId) (f : FmtAlloc)
  /-- FREE: Table LDG.6 -/
  | free (sid : StallId) (f : FmtFree)
  /-- HINT: Table LDG.6 -/
  | hint (sid : StallId) (f : FmtHint)
  /-- TRANSLATE: the ledger resolves the address of the slot's next request; `ecc` is what its table reads meet (R262) -/
  | translate (sid : StallId) (slot : Fin 8) (ecc : Ecc)
  /-- SPINE_ACCEPT: the spine of this row accepts one request (R224) -/
  | spineAccept (die : Fin 16) (row : Nat)
  /-- DEPOT_ADMIT: a slice admits up to four requests (R229) -/
  | depotAdmit (die : Fin 16) (slice : Fin 32)
  /-- DEPOT_BANK_ACCESS: a bank serves the first request of its queue (R227) -/
  | depotBankAccess (die : Fin 16) (slice : Fin 32) (bank : Fin 16) (ecc : Ecc)
  /-- HBM_ACCESS: the HBM controller serves this request of the slice (R238) -/
  | hbmAccess (die : Fin 16) (slice : Fin 32) (req : Nat) (ecc : Ecc)
  /-- STOCK_WINDOW_RELAY: the first relayed access of the slice (R235) -/
  | stockWindowRelay (die : Fin 16) (slice : Fin 32) (ecc : Ecc)
  /-- EDGE_FORWARD: the first request of the slice's edge queue goes one hop on (R245) -/
  | edgeForward (die : Fin 16) (slice : Fin 32)
  /-- UCIE_LINK_FAILED: a link whose retraining failed: 16 a + b for dies a < b, 256 + d for the host edge of die d (R246) -/
  | ucieLinkFailed (link : Nat)
  /-- DDR_TIMEOUT: this DDR5 request has had no answer for 2^20 cy (R251) -/
  | ddrTimeout (req : Nat)
  /-- CTL: a control-network message is taken (Table HST.1) -/
  | ctl (src dst : Fin 16)
  /-- DIE_MEM_PEAK_CLR: a write of 1 to DIE_MEM_PEAK_CLR (Table DEP.7) -/
  | dieMemPeakClr (die : Fin 16)
  /-- TSIG: the first REQ message of the port, a tally signal (R345) -/
  | tsig (port : Fin 16)
  /-- RARR: the first REQ message of the port, a reckoning arrival (R346) -/
  | rarr (port : Fin 16)
  /-- RCPL: the first REQ message of the port, a completion (R346) -/
  | rcpl (port : Fin 16)
  /-- DRAY_PLACE: a planned first placement of a crate runs (R274) -/
  | drayPlace (ctx va : Nat)
  /-- DRAY_EVICT: the dray makes room in a tier below its water mark (R275) -/
  | drayEvict (tier : Nat)
  /-- DRAY_IMPORT: a sealed crate in host memory returns: its header and body (R283) -/
  | drayImport (ctx va : Nat) (hdr body : HostMem)
  /-- MOVE_COPY: the copy of a moving crate: host memory's answer where the source is a public crate, and the errors its lines meet, by local address (R276) -/
  | moveCopy (ctx va : Nat) (src : HostMem) (met : List Met)
  /-- STORAGE_DRAIN: a drain of storage ends (R268) -/
  | storageDrain (index : Nat)
  /-- FORWARD: the message at the head of a class queue of the port is for another module (R336) -/
  | forward (port : Fin 16) (cls : Fin 4)
  /-- WGO_RD: the first REQ message of the port, a read; the errors its lines meet, by local address (R340) -/
  | wgoRd (port : Fin 16) (met : List Met)
  /-- WGO_WR: the first REQ message of the port, a write; the errors its lines meet, by local address (R341) -/
  | wgoWr (port : Fin 16) (met : List Met)
  /-- WGO_RDR: the first RSP message of the port, read data (R340) -/
  | wgoRdr (port : Fin 16)
  /-- WGO_WRA: the first RSP message of the port, a write acknowledgement (R341) -/
  | wgoWra (port : Fin 16)
  /-- WGO_ERR: the first RSP message of the port, an ERR (R342) -/
  | wgoErr (port : Fin 16)
  /-- NOROUTE: the first RSP message of the port, a NOROUTE (R337) -/
  | noroute (port : Fin 16)
  /-- REMOTE_TIMEOUT: this remote request has had no answer for 2^20 cy (R342) -/
  | remoteTimeout (tag : Nat)
  /-- ROOM_REQ: the first REQ message of the port, a crate message ROOM_REQ (R347) -/
  | roomReq (port : Fin 16)
  /-- ROOM_GRANT: the first REQ message of the port, a crate message ROOM_GRANT (R347) -/
  | roomGrant (port : Fin 16)
  /-- ROOM_DENY: the first REQ message of the port, a crate message ROOM_DENY (R347) -/
  | roomDeny (port : Fin 16)
  /-- PUT: the first REQ message of the port, a crate message PUT (R347) -/
  | put (port : Fin 16)
  /-- PUT_DONE: the first REQ message of the port, a crate message PUT_DONE (R347) -/
  | putDone (port : Fin 16)
  /-- OPENED: the first REQ message of the port, a crate message OPENED (R347) -/
  | opened (port : Fin 16)
  /-- REFUSED: the first REQ message of the port, a crate message REFUSED (R347) -/
  | refused (port : Fin 16)
  /-- FETCH: the first REQ message of the port, a crate message FETCH; the errors the crate's lines meet, by local address (R347) -/
  | fetch (port : Fin 16) (met : List Met)
  /-- RETURN: the first REQ message of the port, a crate message RETURN (R347) -/
  | returnImage (port : Fin 16)
  /-- RETURN_DONE: the first REQ message of the port, a crate message RETURN_DONE (R347) -/
  | returnDone (port : Fin 16)
  /-- ROOM_FREE: the first REQ message of the port, a crate message ROOM_FREE (R347) -/
  | roomFree (port : Fin 16)
  /-- PORT_TRAINING: the next training step of the port ends: the good lanes of step 1, the flight of step 2 in cy (R326) -/
  | portTraining (port : Fin 16) (lanes : BitVec 8) (flight : Nat)
  /-- TRAINING_TIMEOUT: the port is not UP 2^29 cy after its training began (R326) -/
  | trainingTimeout (port : Fin 16)
  /-- DOWN_RETRY: a DOWN port trains again (R326) -/
  | downRetry (port : Fin 16)
  /-- RETRAIN: a write of WGO_PORT_CTRL.RETRAIN (R328) -/
  | retrain (port : Fin 16)
  /-- PORT_RESET: a write of WGO_PORT_CTRL.RESET (R330) -/
  | portReset (port : Fin 16)
  /-- BLOCK_SEND: a block slot is sent; the instant within the cy at which its first symbol passes, in 0.125 ns (R323, R352) -/
  | blockSend (port : Fin 16) (sub : Fin 4)
  /-- BLOCK_RECEIVE: a block slot is received: the instant within the cy, whether its FEC passes, the symbols corrected on each lane, and its
  bytes as FEC decoder and descrambler give them (R319, R322, R328, R352) -/
  | blockReceive (port : Fin 16) (sub : Fin 4) (fec : Bool) (fixed : List (Nat × Nat)) (bytes : List Byte)
  /-- RESEND_TIMER: replay has made no progress for 4,096 cy (R323) -/
  | resendTimer (port : Fin 16)
  /-- LANE_LOST: lanes of the port are lost; how many slots ahead this end sets the switch (R328) -/
  | laneLost (port : Fin 16) (lanes : BitVec 8) (ahead : Nat)
  /-- WIDTH_SWITCH: the switch slot of a width change comes (R328) -/
  | widthSwitch (port : Fin 16)
  /-- HELLO: the first SYS message of the port, a HELLO; whether the entropy source passes its health test (R327) -/
  | hello (port : Fin 16) (entropy : Bool)
  /-- LANES: the first SYS message of the port, a LANES (R328) -/
  | lanes (port : Fin 16)
  /-- CERT: the first SYS message of the port, a fragment of the peer's identity record (R433) -/
  | cert (port : Fin 16)
  /-- EK_LINK: the first SYS message of the port, a fragment of EK_link and its signature (R433) -/
  | ekLink (port : Fin 16) (entropy : Bool)
  /-- CT_LINK: the first SYS message of the port, a fragment of CT_link and its signature (R433) -/
  | ctLink (port : Fin 16)
  /-- OC: the first SYS message of the port, an owner check (R435) -/
  | oc (port : Fin 16)
  /-- SYNC_EXCHANGE: a time-sync exchange starts (R353) -/
  | syncExchange
  /-- TSYNC_REQUEST: the first SYS message of the port, a TSYNC request (R353) -/
  | tsyncRequest (port : Fin 16)
  /-- TSYNC_ANSWER: the first SYS message of the port, a TSYNC answer (R353) -/
  | tsyncAnswer (port : Fin 16)
  /-- SYNC_HOLDOVER: 64 bells have passed with no accepted exchange (R355) -/
  | syncHoldover
  /-- NOP_ORDER: the next order of the ring, a NOP, starts (Table HST.9) -/
  | nopOrder (ring : Nat)
  /-- CTX_CREATE: the next order of the ring, a CTX_CREATE, starts (Table CLK.4) -/
  | ctxCreate (ring : Nat)
  /-- CTX_KILL: the next order of the ring, a CTX_KILL, starts (Table CLK.4) -/
  | ctxKill (ring : Nat)
  /-- CTX_RESET: the next order of the ring, a CTX_RESET, starts (Table CLK.4) -/
  | ctxReset (ring : Nat)
  /-- REGION_ASSIGN: the next order of the ring, a REGION_ASSIGN, starts (Table CLK.4) -/
  | regionAssign (ring : Nat)
  /-- REGION_RELEASE: the next order of the ring, a REGION_RELEASE, starts (Table CLK.4) -/
  | regionRelease (ring : Nat)
  /-- PLAN_DISPATCH: the next order of the ring, a PLAN_DISPATCH, starts (Table CLK.4) -/
  | planDispatch (ring : Nat)
  /-- CTX_SAVE: the next order of the ring, a CTX_SAVE, starts (Table CLK.4) -/
  | ctxSave (ring : Nat)
  /-- CTX_RESTORE: the next order of the ring, a CTX_RESTORE, starts (Table CLK.4) -/
  | ctxRestore (ring : Nat)
  /-- CTX_POLICY: the next order of the ring, a CTX_POLICY, starts (Table CLK.4) -/
  | ctxPolicy (ring : Nat)
  /-- RCK_ASSIGN: the next order of the ring, a RCK_ASSIGN, starts (Table CLK.4) -/
  | rckAssign (ring : Nat)
  /-- RCK_RELEASE: the next order of the ring, a RCK_RELEASE, starts (Table CLK.4) -/
  | rckRelease (ring : Nat)
  /-- CTX_QUERY: the next order of the ring, a CTX_QUERY, starts (Table CLK.4) -/
  | ctxQuery (ring : Nat)
  /-- SQ_BIND: the next order of the ring, a SQ_BIND, starts (Table CLK.4) -/
  | sqBind (ring : Nat)
  /-- SQ_BIND_ANY: the next order of the ring, a SQ_BIND_ANY, starts (Table CLK.4) -/
  | sqBindAny (ring : Nat)
  /-- SQ_UNBIND: the next order of the ring, a SQ_UNBIND, starts (Table CLK.4) -/
  | sqUnbind (ring : Nat)
  /-- SQ_QUERY: the next order of the ring, a SQ_QUERY, starts (Table CLK.4) -/
  | sqQuery (ring : Nat)
  /-- PLAN_LOADER_WRITE: the image of entry `e` of a dispatch has been read and written: the errors its lines meet, by VA, what host memory answers for a public crate (R404) -/
  | planLoaderWrite (order e : Nat) (met : List Met) (host : HostMem)
  /-- STOP_REPORT: the stop report of a stopped stall reaches the stop collector (R399) -/
  | stopReport (sid : StallId)
  /-- POLICY: the scheduler core runs its policy once (R410) -/
  | policy
  /-- ALLOC_ORDER: the next order of the ring, a ALLOC_ORDER, starts (R271) -/
  | allocOrder (ring : Nat)
  /-- FREE_ORDER: the next order of the ring, a FREE_ORDER, starts (R271) -/
  | freeOrder (ring : Nat)
  /-- LEND_STOCK: the next order of the ring, a LEND_STOCK, starts (R271) -/
  | lendStock (ring : Nat)
  /-- PUBLIC_MAP: the next order of the ring, a PUBLIC_MAP, starts (R271) -/
  | publicMap (ring : Nat)
  /-- SHARE: the next order of the ring, a SHARE, starts (R271) -/
  | share (ring : Nat)
  /-- EXPORT: the next order of the ring, a EXPORT, starts (R271) -/
  | exportOrder (ring : Nat)
  /-- IMPORT: the next order of the ring, an IMPORT, starts: the images in host memory (R284) -/
  | importOrder (ring : Nat) (image : HostMem)
  /-- CAMPUS_COPY: the next order of the ring, a CAMPUS_COPY, starts: the images in host memory (R350) -/
  | campusCopy (ring : Nat) (image : HostMem)
  /-- SAVE_COMPLETE: every save write of the context is acknowledged (R406) -/
  | saveComplete (ctx : Fin 64)
  /-- RESTORE_COMPLETE: the last write of the context's restore is made (R408) -/
  | restoreComplete (ctx : Fin 64)
  /-- GATHER: the next order of the ring, a GATHER, starts (R300) -/
  | gather (ring : Nat)
  /-- GATHER_COMPLETE: a gather ends: lines that lie outside the module's dies, the errors its lines meet, by VA, lines written before an error (R301) -/
  | gatherComplete (order : Nat) (host : List (Nat × Line)) (met : List Met) (written : List Nat)
  /-- REDUCE_BIND: the next order of the ring, a REDUCE_BIND, starts: table lines that lie outside the module's dies (R306) -/
  | reduceBind (ring : Nat) (host : List (Nat × Line))
  /-- REDUCE_RELEASE: the next order of the ring, a REDUCE_RELEASE, starts (R312) -/
  | reduceRelease (ring : Nat)
  /-- BUCKET_START: the next bucket of a set starts: lines of the region outside the dies, the errors its lines meet, by VA (R307) -/
  | bucketStart (setid : Nat) (host : List (Nat × Line)) (met : List Met)
  /-- REDUCE_LINE: the first ORD message of the port reaches its reducer (R309) -/
  | reduceLine (port : Fin 16) (host : List (Nat × Line)) (met : List Met)
  /-- BUCKET_COMPLETE: every line of the oldest bucket is written and acknowledged (R311) -/
  | bucketComplete (setid : Nat)
  /-- SET_ABORT: an abort of a set comes round a ring (R312) -/
  | setAbort (setid member cause : Nat)
  /-- BELL_DECISION: the scheduled decision cy is reached: what the interval that ends there measured (R36) -/
  | bellDecision (tel : Telemetry)
  /-- BELL_LATCH: the bell in flight that latches first latches in every stall (R41) -/
  | bellLatch
  /-- STAR_SYMBOL: a receive port takes a star symbol: its die, the sender of its lane, the symbol (R31) -/
  | starSymbol (die lane : Fin 16) (sym : BitVec 8)
  /-- BELL_WATCHDOG: neither BELL nor HOLD has latched at a die 1,024 cy after the expected latch (R35) -/
  | bellWatchdog (die : Fin 16)
  /-- COMPARATOR_TRIP: a current-limit comparator of the die trips (R53) -/
  | comparatorTrip (die : Fin 16)
  /-- THERMAL_TRIP: a sensor of the die reaches TRIP_C (R53) -/
  | thermalTrip (die : Fin 16)
  /-- HOLD_REQ: the HOLD_REQ land takes a level (R500) -/
  | holdReq (high : Bool)
  /-- HOLD_LATCH: the HOLD in flight that latches first latches (R55) -/
  | holdLatch
  /-- RELEASE_LATCH: the RELEASE in flight that latches first latches (R59) -/
  | releaseLatch
  /-- BELL_RELEASE_GO: a write of BELL_RELEASE (R58) -/
  | bellReleaseGo (v : BitVec 32)
  /-- BELL_HOLD_CAUSE: a write of BELL_HOLD_CAUSE (R58) -/
  | bellHoldCause (v : BitVec 32)
  /-- REGISTER_WRITE: what the host edge brings (R361, R363) -/
  | registerWrite (a : HostAccess)
  /-- MOD_DRV_IF: a write of MOD_DRV_IF (R367) -/
  | modDrvIf (v : BitVec 32)
  /-- HANDSHAKE: the comparison of the driver version ends (R367) -/
  | handshake
  /-- MOD_COMMIT: a write of MOD_COMMIT (R369) -/
  | modCommit (v : BitVec 32)
  /-- COMMIT_CHECK: the check of a commit ends: the route image in host memory (R370) -/
  | commitCheck (route : HostMem)
  /-- DOORBELL_READ: the doorbell page returns; completion rings with the entry whose write host memory has refused since the last read, and that of the incident ring (R376, R378) -/
  | doorbellRead (page : HostMem) (badRings : List (Fin 64 × Nat)) (badIncidents : Option Nat)
  /-- ORDER_FETCH: the next sampled order of a ring and its argument block return (R376, R380) -/
  | orderFetch (ring : Fin 64) (desc args : HostMem)
  /-- INTERRUPT_GAP: the gap of a vector ends (R389) -/
  | interruptGap (vector : Fin 66)
  /-- ATTEST: the next order of the ring, an ATTEST, starts; whether the random source passes its health test (R427) -/
  | attest (ring : Nat) (entropy : Bool)
  /-- GET_IDENTITY: the next order of the ring, a GET_IDENTITY, starts (Table TRU.5) -/
  | getIdentity (ring : Nat)
  /-- SESSION_OPEN: the next order of the ring, a SESSION_OPEN, starts (Table TRU.5) -/
  | sessionOpen (ring : Nat)
  /-- SESSION_CLOSE: the next order of the ring, a SESSION_CLOSE, starts (Table TRU.5) -/
  | sessionClose (ring : Nat)
  /-- FW_ACTIVATE: the next order of the ring, a FW_ACTIVATE, starts (Table TRU.5) -/
  | fwActivate (ring : Nat)
  /-- FW_DISCARD: the next order of the ring, a FW_DISCARD, starts (Table TRU.5) -/
  | fwDiscard (ring : Nat)
  /-- FW_STAGE: the next order of the ring, a FW_STAGE, starts: the image in host memory, whether its flash write succeeds (R438) -/
  | fwStage (ring : Nat) (image : HostMem) (flashOk : Bool)
  /-- ACTIVATION_COMPLETE: every core is in service after an activation (R441) -/
  | activationComplete
  /-- ACTIVATION_REVERTED: a core is not in service at the eighth decision of an activation (R441) -/
  | activationReverted
  /-- CORE_WATCHDOG: a core fires: 0 control, 1 scheduler, 2 power, 3 assayer; 1 watchdog, 2 fatal exception, 3 SRAM error (R411) -/
  | coreWatchdog (die : Fin 16) (core cause : Fin 4)
  /-- CORE_KICK: a restarted core kicks its watchdog for the first time (R412) -/
  | coreKick (die : Fin 16) (core : Fin 4)
  /-- CORE_RESTART_FAILED: a core is not in service at the eighth decision after its fire (R412) -/
  | coreRestartFailed (die : Fin 16) (core : Fin 3)
  /-- SUPERVISOR_TRIP: the input leaves 42.0 to 62.0 V (R444) -/
  | supervisorTrip
  /-- STANDBY_ENTRY: the input has stood at 46.0 V or more for 1 ms; the I3C address lands (R444, R498) -/
  | standbyEntry (addrPins : BitVec 2)
  /-- INPUT_RANGE: the input voltage, in 10 mV, has stood for 2 us (R444) -/
  | inputRange (vin : Nat)
  /-- EMERGENCY_HOLD: a stretch has stood at its maximum for 16 decisions while its condition holds (R451) -/
  | emergencyHold
  /-- CANARY: a canary of a domain fires; whether a log record can be written (R456) -/
  | canary (die : Fin 16) (domain : Fin 20) (logged : Bool)
  /-- REPLAN: the re-plan: fresh RATIO measurements, whether its log record can be written (R457) -/
  | replan (ratios : List DomainTrim) (logged : Bool)
  /-- DOMAIN_POWER_OFF: a fenced domain that nothing occupies is powered off (R458) -/
  | domainPowerOff (die : Fin 16) (domain : Fin 20)
  /-- DOMAIN_POWER_UP: this domain of every die is powered in a DARK exit (R464) -/
  | domainPowerUp (domain : Fin 20)
  /-- RESET_N_LOW: RESET_N has been low for 1 us (R464) -/
  | resetNLow
  /-- MODULE_RESET: a write of MOD_RESET with KIND 2 (R466) -/
  | moduleReset (key : BitVec 16)
  /-- REFCLK_LOST: REFCLK has stopped for 1 us (R499) -/
  | refclkLost
  /-- BOOT: RESET_N is high and REFCLK runs: the boot and what it meets (R425) -/
  | boot (r : BootReport)
  /-- WARM_CLEAR: a write of MOD_RESET with KIND 1 (R467) -/
  | warmClear (key : BitVec 16)
  /-- DIE_RESET: a write of DIE_RESET (R468) -/
  | dieReset (die : Fin 16) (v : BitVec 32)
  /-- DIE_RESET_DONE: a die reset completes: fresh measurements, whether its log record can be written (R468) -/
  | dieResetDone (die : Fin 16) (trims : List DomainTrim) (logged : Bool)
  /-- START: a write of CHK_CTRL.START (R473) -/
  | start (die : Fin 16) (unit : Fin 4)
  /-- FEED_B: a write of CHK_FEED_B (R475) -/
  | feedB (die : Fin 16) (unit : Fin 4) (v : BitVec 32)
  /-- FEED_H: a write of CHK_FEED_H (R475) -/
  | feedH (die : Fin 16) (unit : Fin 4) (v : BitVec 32)
  /-- FEED_W: a write of CHK_FEED_W (R475) -/
  | feedW (die : Fin 16) (unit : Fin 4) (v : BitVec 32)
  /-- ARM: a write of CHK_SNOOP_CTRL.ARM (R479) -/
  | arm (die : Fin 16) (unit : Fin 4)
  /-- RESUME: a write of CHK_SNOOP_CTRL.RESUME (R483) -/
  | resume (die : Fin 16) (unit : Fin 4)
  /-- SNOOP_LINE: the unit takes the next line of its window (R480) -/
  | snoopLine (die : Fin 16) (unit : Fin 4)
  /-- QUEUE_MISMATCH: the pointer copies of a queue differ; the occupancy its reader last saw (R487) -/
  | queueMismatch (die : Fin 16) (queue : Fin 17) (occ : Nat)
  /-- FLASH_SEL_N: the FLASH_SEL_N land takes a level; what an external programmer has left in the flash (R502) -/
  | flashSelN (high : Bool) (flash : Option Flash)
  /-- I3C_PRIVATE_WRITE: an I3C private write (R501) -/
  | i3cPrivateWrite (index : BitVec 16)
  /-- I3C_PRIVATE_READ: an I3C private read of n bytes (R501) -/
  | i3cPrivateRead (n : Nat)
  /-- SETDASA: SETDASA to a static address (R501) -/
  | setdasa (static dyn : BitVec 7)
  /-- ENTDAA: ENTDAA gives the port an address (R501) -/
  | entdaa (dyn : BitVec 7)
  /-- TRST_N: the TRST_N land takes a level (R503) -/
  | trstN (high : Bool)
  /-- IDCODE: IDCODE is loaded (R505) -/
  | idcode
  /-- SAMPLE: SAMPLE is loaded, and the lands stand so (R504) -/
  | sample (bits : Nat)
  /-- PRELOAD: PRELOAD is loaded, and these bits are shifted in (R504) -/
  | preload (bits : Nat)
  /-- EXTEST: EXTEST is loaded (R506) -/
  | extest
  /-- EXTEST_PULSE: EXTEST_PULSE is loaded (R506) -/
  | extestPulse
  /-- EXTEST_TRAIN: EXTEST_TRAIN is loaded (R506) -/
  | extestTrain
  /-- CELLS_TAKE_LANDS: the boundary cells take the lands (R506) -/
  | cellsTakeLands
  /-- BYPASS: BYPASS is loaded (R504) -/
  | bypass
  /-- TAP_RESET: five TCK cycles with TMS high (R503) -/
  | tapReset
  deriving DecidableEq, Repr

end Sys2Proof
end

