-- ==== Sys2Proof/Decode.lean ====
section
/-! DEFINITION. The 64-bit words of a stall's instructions (02_stall.md Tables STL.2 and STL.3 and the table of each block):
`encode` writes a command's word, `decodeWord` reads a word for a stall. Every bit of a word has a place in the command, so the two
agree. `decodeTableWord` is the host's question: no row of the opcode table has bits, so no table word spells a command. -/
namespace Sys2Proof

/-- The word of FmtC under an OP and FN. -/
def FmtC.word (op fn : BitVec 6) (f : FmtC) : Word64 :=
  op ++ fn ++ f.rsv ++ f.e ++ f.target

/-- The fields of a word read as FmtC. -/
def FmtC.ofWord (w : Word64) : FmtC :=
  ⟨w.extractLsb' 16 36, w.extractLsb' 15 1, w.extractLsb' 0 15⟩

/-- The word of FmtB under an OP and FN. -/
def FmtB.word (op fn : BitVec 6) (f : FmtB) : Word64 :=
  op ++ fn ++ f.sa ++ f.sb ++ f.rsv ++ f.target

/-- The fields of a word read as FmtB. -/
def FmtB.ofWord (w : Word64) : FmtB :=
  ⟨w.extractLsb' 47 5, w.extractLsb' 42 5, w.extractLsb' 15 27, w.extractLsb' 0 15⟩

/-- The word of FmtS under an OP and FN. -/
def FmtS.word (op fn : BitVec 6) (f : FmtS) : Word64 :=
  op ++ fn ++ f.sd ++ f.sa ++ f.sb ++ f.rsv

/-- The fields of a word read as FmtS. -/
def FmtS.ofWord (w : Word64) : FmtS :=
  ⟨w.extractLsb' 47 5, w.extractLsb' 42 5, w.extractLsb' 37 5, w.extractLsb' 0 37⟩

/-- The word of FmtI under an OP and FN. -/
def FmtI.word (op fn : BitVec 6) (f : FmtI) : Word64 :=
  op ++ fn ++ f.sd ++ f.sa ++ f.rsv ++ f.imm

/-- The fields of a word read as FmtI. -/
def FmtI.ofWord (w : Word64) : FmtI :=
  ⟨w.extractLsb' 47 5, w.extractLsb' 42 5, w.extractLsb' 32 10, w.extractLsb' 0 32⟩

/-- The word of FmtL under an OP and FN. -/
def FmtL.word (op fn : BitVec 6) (f : FmtL) : Word64 :=
  op ++ fn ++ f.vd ++ f.sa ++ f.n ++ f.rsv ++ f.off

/-- The fields of a word read as FmtL. -/
def FmtL.ofWord (w : Word64) : FmtL :=
  ⟨w.extractLsb' 45 7, w.extractLsb' 40 5, w.extractLsb' 34 6, w.extractLsb' 18 16, w.extractLsb' 0 18⟩

/-- The word of FmtV under an OP and FN. -/
def FmtV.word (op fn : BitVec 6) (f : FmtV) : Word64 :=
  op ++ fn ++ f.qd ++ f.qa ++ f.qb ++ f.qc ++ f.bs ++ f.sen ++ f.lane ++ f.rsv2 ++ f.rm ++ f.rsv20

/-- The fields of a word read as FmtV. -/
def FmtV.ofWord (w : Word64) : FmtV :=
  ⟨w.extractLsb' 47 5, w.extractLsb' 42 5, w.extractLsb' 37 5, w.extractLsb' 32 5, w.extractLsb' 31 1, w.extractLsb' 30 1, w.extractLsb' 24 6, w.extractLsb' 22 2, w.extractLsb' 20 2, w.extractLsb' 0 20⟩

/-- The word of FmtTLd under an OP and FN. -/
def FmtTLd.word (op fn : BitVec 6) (f : FmtTLd) : Word64 :=
  op ++ fn ++ f.tb ++ f.sa ++ f.rows ++ f.len ++ f.stride ++ f.rsv

/-- The fields of a word read as FmtTLd. -/
def FmtTLd.ofWord (w : Word64) : FmtTLd :=
  ⟨w.extractLsb' 51 1, w.extractLsb' 46 5, w.extractLsb' 39 7, w.extractLsb' 35 4, w.extractLsb' 17 18, w.extractLsb' 0 17⟩

/-- The word of FmtTRd under an OP and FN. -/
def FmtTRd.word (op fn : BitVec 6) (f : FmtTRd) : Word64 :=
  op ++ fn ++ f.tb ++ f.vd ++ f.w ++ f.rows ++ f.cols ++ f.rsv

/-- The fields of a word read as FmtTRd. -/
def FmtTRd.ofWord (w : Word64) : FmtTRd :=
  ⟨w.extractLsb' 51 1, w.extractLsb' 44 7, w.extractLsb' 42 2, w.extractLsb' 35 7, w.extractLsb' 27 8, w.extractLsb' 0 27⟩

/-- The word of FmtA under an OP and FN. -/
def FmtA.word (op fn : BitVec 6) (f : FmtA) : Word64 :=
  op ++ fn ++ f.qd ++ f.am ++ f.bank ++ f.clr ++ f.cf ++ f.rsv

/-- The fields of a word read as FmtA. -/
def FmtA.ofWord (w : Word64) : FmtA :=
  ⟨w.extractLsb' 47 5, w.extractLsb' 43 4, w.extractLsb' 42 1, w.extractLsb' 41 1, w.extractLsb' 37 4, w.extractLsb' 0 37⟩

/-- The word of FmtTcSet under an OP and FN. -/
def FmtTcSet.word (op fn : BitVec 6) (f : FmtTcSet) : Word64 :=
  op ++ fn ++ f.t ++ f.sa ++ f.sb ++ f.rsv

/-- The fields of a word read as FmtTcSet. -/
def FmtTcSet.ofWord (w : Word64) : FmtTcSet :=
  ⟨w.extractLsb' 48 4, w.extractLsb' 43 5, w.extractLsb' 38 5, w.extractLsb' 0 38⟩

/-- The word of FmtTcGet under an OP and FN. -/
def FmtTcGet.word (op fn : BitVec 6) (f : FmtTcGet) : Word64 :=
  op ++ fn ++ f.t ++ f.sd ++ f.h ++ f.rsv

/-- The fields of a word read as FmtTcGet. -/
def FmtTcGet.ofWord (w : Word64) : FmtTcGet :=
  ⟨w.extractLsb' 48 4, w.extractLsb' 43 5, w.extractLsb' 42 1, w.extractLsb' 0 42⟩

/-- The word of FmtPrtGo under an OP and FN. -/
def FmtPrtGo.word (op fn : BitVec 6) (f : FmtPrtGo) : Word64 :=
  op ++ fn ++ f.va ++ f.sd ++ f.rsv

/-- The fields of a word read as FmtPrtGo. -/
def FmtPrtGo.ofWord (w : Word64) : FmtPrtGo :=
  ⟨w.extractLsb' 45 7, w.extractLsb' 40 5, w.extractLsb' 0 40⟩

/-- The word of FmtPrtKill under an OP and FN. -/
def FmtPrtKill.word (op fn : BitVec 6) (f : FmtPrtKill) : Word64 :=
  op ++ fn ++ f.slot ++ f.rsv

/-- The fields of a word read as FmtPrtKill. -/
def FmtPrtKill.ofWord (w : Word64) : FmtPrtKill :=
  ⟨w.extractLsb' 49 3, w.extractLsb' 0 49⟩

/-- The word of FmtPrtStat under an OP and FN. -/
def FmtPrtStat.word (op fn : BitVec 6) (f : FmtPrtStat) : Word64 :=
  op ++ fn ++ f.slot ++ f.rsv4 ++ f.sd ++ f.rsv

/-- The fields of a word read as FmtPrtStat. -/
def FmtPrtStat.ofWord (w : Word64) : FmtPrtStat :=
  ⟨w.extractLsb' 49 3, w.extractLsb' 45 4, w.extractLsb' 40 5, w.extractLsb' 0 40⟩

/-- The word of FmtPrtDrain under an OP and FN. -/
def FmtPrtDrain.word (op fn : BitVec 6) (f : FmtPrtDrain) : Word64 :=
  op ++ fn ++ f.rsv

/-- The fields of a word read as FmtPrtDrain. -/
def FmtPrtDrain.ofWord (w : Word64) : FmtPrtDrain :=
  ⟨w.extractLsb' 0 52⟩

/-- The word of FmtTSet under an OP and FN. -/
def FmtTSet.word (op fn : BitVec 6) (f : FmtTSet) : Word64 :=
  op ++ fn ++ f.t ++ f.sa ++ f.gc ++ f.rsv

/-- The fields of a word read as FmtTSet. -/
def FmtTSet.ofWord (w : Word64) : FmtTSet :=
  ⟨w.extractLsb' 46 6, w.extractLsb' 41 5, w.extractLsb' 40 1, w.extractLsb' 0 40⟩

/-- The word of FmtTAdd under an OP and FN. -/
def FmtTAdd.word (op fn : BitVec 6) (f : FmtTAdd) : Word64 :=
  op ++ fn ++ f.t ++ f.amt ++ f.rsv

/-- The fields of a word read as FmtTAdd. -/
def FmtTAdd.ofWord (w : Word64) : FmtTAdd :=
  ⟨w.extractLsb' 46 6, w.extractLsb' 30 16, w.extractLsb' 0 30⟩

/-- The word of FmtTSig under an OP and FN. -/
def FmtTSig.word (op fn : BitVec 6) (f : FmtTSig) : Word64 :=
  op ++ fn ++ f.sa ++ f.amt ++ f.ord ++ f.rsv

/-- The fields of a word read as FmtTSig. -/
def FmtTSig.ofWord (w : Word64) : FmtTSig :=
  ⟨w.extractLsb' 47 5, w.extractLsb' 31 16, w.extractLsb' 30 1, w.extractLsb' 0 30⟩

/-- The word of FmtTWait under an OP and FN. -/
def FmtTWait.word (op fn : BitVec 6) (f : FmtTWait) : Word64 :=
  op ++ fn ++ f.t ++ f.sd ++ f.inc ++ f.rsv

/-- The fields of a word read as FmtTWait. -/
def FmtTWait.ofWord (w : Word64) : FmtTWait :=
  ⟨w.extractLsb' 46 6, w.extractLsb' 41 5, w.extractLsb' 25 16, w.extractLsb' 0 25⟩

/-- The word of FmtTWaitV under an OP and FN. -/
def FmtTWaitV.word (op fn : BitVec 6) (f : FmtTWaitV) : Word64 :=
  op ++ fn ++ f.t ++ f.sd ++ f.sb ++ f.rsv

/-- The fields of a word read as FmtTWaitV. -/
def FmtTWaitV.ofWord (w : Word64) : FmtTWaitV :=
  ⟨w.extractLsb' 46 6, w.extractLsb' 41 5, w.extractLsb' 36 5, w.extractLsb' 0 36⟩

/-- The word of FmtTTake under an OP and FN. -/
def FmtTTake.word (op fn : BitVec 6) (f : FmtTTake) : Word64 :=
  op ++ fn ++ f.t ++ f.sd ++ f.amt ++ f.rsv

/-- The fields of a word read as FmtTTake. -/
def FmtTTake.ofWord (w : Word64) : FmtTTake :=
  ⟨w.extractLsb' 46 6, w.extractLsb' 41 5, w.extractLsb' 25 16, w.extractLsb' 0 25⟩

/-- The word of FmtTReg under an OP and FN. -/
def FmtTReg.word (op fn : BitVec 6) (f : FmtTReg) : Word64 :=
  op ++ fn ++ f.t ++ f.s ++ f.rsv

/-- The fields of a word read as FmtTReg. -/
def FmtTReg.ofWord (w : Word64) : FmtTReg :=
  ⟨w.extractLsb' 46 6, w.extractLsb' 41 5, w.extractLsb' 0 41⟩

/-- The word of FmtRck under an OP and FN. -/
def FmtRck.word (op fn : BitVec 6) (f : FmtRck) : Word64 :=
  op ++ fn ++ f.b ++ f.s ++ f.rsv

/-- The fields of a word read as FmtRck. -/
def FmtRck.ofWord (w : Word64) : FmtRck :=
  ⟨w.extractLsb' 49 3, w.extractLsb' 44 5, w.extractLsb' 0 44⟩

/-- The word of FmtRckCfg under an OP and FN. -/
def FmtRckCfg.word (op fn : BitVec 6) (f : FmtRckCfg) : Word64 :=
  op ++ fn ++ f.sa ++ f.sb ++ f.sc ++ f.sd ++ f.rsv

/-- The fields of a word read as FmtRckCfg. -/
def FmtRckCfg.ofWord (w : Word64) : FmtRckCfg :=
  ⟨w.extractLsb' 47 5, w.extractLsb' 42 5, w.extractLsb' 37 5, w.extractLsb' 32 5, w.extractLsb' 0 32⟩

/-- The word of FmtAlloc under an OP and FN. -/
def FmtAlloc.word (op fn : BitVec 6) (f : FmtAlloc) : Word64 :=
  op ++ fn ++ f.sd ++ f.sa ++ f.sb ++ f.sz ++ f.tier ++ f.pol ++ f.w ++ f.die ++ f.now ++ f.rsv

/-- The fields of a word read as FmtAlloc. -/
def FmtAlloc.ofWord (w : Word64) : FmtAlloc :=
  ⟨w.extractLsb' 47 5, w.extractLsb' 42 5, w.extractLsb' 37 5, w.extractLsb' 36 1, w.extractLsb' 33 3, w.extractLsb' 31 2, w.extractLsb' 30 1, w.extractLsb' 26 4, w.extractLsb' 25 1, w.extractLsb' 0 25⟩

/-- The word of FmtFree under an OP and FN. -/
def FmtFree.word (op fn : BitVec 6) (f : FmtFree) : Word64 :=
  op ++ fn ++ f.sd ++ f.sa ++ f.sb ++ f.sz ++ f.rsv

/-- The fields of a word read as FmtFree. -/
def FmtFree.ofWord (w : Word64) : FmtFree :=
  ⟨w.extractLsb' 47 5, w.extractLsb' 42 5, w.extractLsb' 37 5, w.extractLsb' 36 1, w.extractLsb' 0 36⟩

/-- The word of FmtHint under an OP and FN. -/
def FmtHint.word (op fn : BitVec 6) (f : FmtHint) : Word64 :=
  op ++ fn ++ f.sd ++ f.sa ++ f.sb ++ f.sz ++ f.tier ++ f.pol ++ f.setpol ++ f.die ++ f.rsv

/-- The fields of a word read as FmtHint. -/
def FmtHint.ofWord (w : Word64) : FmtHint :=
  ⟨w.extractLsb' 47 5, w.extractLsb' 42 5, w.extractLsb' 37 5, w.extractLsb' 36 1, w.extractLsb' 33 3, w.extractLsb' 31 2, w.extractLsb' 30 1, w.extractLsb' 26 4, w.extractLsb' 0 26⟩

/-- The word of format M with an FMT value (Table STL.2). -/
def FmtM.word (fmt : BitVec 4) (f : FmtM) : Word64 :=
  0x08#6 ++ fmt ++ f.tca ++ f.tcw ++ f.tcd ++ f.bank ++ f.mode ++ f.reuse ++ f.sga ++ f.sgw ++ f.gen ++ f.gate ++ f.win ++ f.pb0 ++ f.pn ++ f.rsv

/-- The fields of a word read as FmtM. -/
def FmtM.ofWord (w : Word64) : FmtM :=
  ⟨w.extractLsb' 50 4, w.extractLsb' 46 4, w.extractLsb' 42 4, w.extractLsb' 41 1, w.extractLsb' 39 2, w.extractLsb' 38 1, w.extractLsb' 37 1, w.extractLsb' 36 1, w.extractLsb' 35 1, w.extractLsb' 29 6, w.extractLsb' 28 1, w.extractLsb' 23 5, w.extractLsb' 18 5, w.extractLsb' 0 18⟩

/-- The word of a scalar function in its register or immediate form (R71). -/
def AluForm.word (fn : BitVec 6) : AluForm → Word64
  | .reg f => f.word 0x02#6 fn
  | .imm f => f.word 0x03#6 fn

/-- The instruction word of a command that is an instruction of a stall (Table STL.3); other commands have none. -/
def encode : Instr → Option Word64
  | .nop _ f => some (f.word 0x00#6 0x00#6)
  | .bellWait _ f => some (f.word 0x00#6 0x01#6)
  | .fence _ f => some (f.word 0x00#6 0x02#6)
  | .brEq _ f => some (f.word 0x01#6 0x00#6)
  | .brNe _ f => some (f.word 0x01#6 0x01#6)
  | .brLt _ f => some (f.word 0x01#6 0x02#6)
  | .brGe _ f => some (f.word 0x01#6 0x03#6)
  | .brLtu _ f => some (f.word 0x01#6 0x04#6)
  | .brGeu _ f => some (f.word 0x01#6 0x05#6)
  | .j _ f => some (f.word 0x01#6 0x06#6)
  | .jr _ f => some (f.word 0x01#6 0x07#6)
  | .loop _ f => some (f.word 0x01#6 0x08#6)
  | .add _ f => some (f.word 0x00#6)
  | .sub _ f => some (f.word 0x01#6)
  | .and _ f => some (f.word 0x02#6)
  | .or _ f => some (f.word 0x03#6)
  | .xor _ f => some (f.word 0x04#6)
  | .sll _ f => some (f.word 0x05#6)
  | .srl _ f => some (f.word 0x06#6)
  | .sra _ f => some (f.word 0x07#6)
  | .mul _ f => some (f.word 0x08#6)
  | .min _ f => some (f.word 0x09#6)
  | .max _ f => some (f.word 0x0A#6)
  | .minu _ f => some (f.word 0x0B#6)
  | .maxu _ f => some (f.word 0x0C#6)
  | .slt _ f => some (f.word 0x0D#6)
  | .sltu _ f => some (f.word 0x0E#6)
  | .orhi _ f => some (f.word 0x03#6 0x10#6)
  | .rds _ f => some (f.word 0x03#6 0x20#6)
  | .vld _ f => some (f.word 0x04#6 0x00#6)
  | .vst _ f => some (f.word 0x04#6 0x01#6)
  | .ldS _ f => some (f.word 0x04#6 0x02#6)
  | .stS _ f => some (f.word 0x04#6 0x03#6)
  | .rel _ f => some (f.word 0x06#6 0x00#6)
  | .trnLd _ f => some (f.word 0x05#6 0x00#6)
  | .trnRd _ f => some (f.word 0x05#6 0x01#6)
  | .vadd _ f => some (f.word 0x10#6 0x00#6)
  | .vsub _ f => some (f.word 0x10#6 0x01#6)
  | .vmul _ f => some (f.word 0x10#6 0x02#6)
  | .vfma _ f => some (f.word 0x10#6 0x03#6)
  | .vfnma _ f => some (f.word 0x10#6 0x04#6)
  | .vmax _ f => some (f.word 0x10#6 0x05#6)
  | .vmin _ f => some (f.word 0x10#6 0x06#6)
  | .vabs _ f => some (f.word 0x10#6 0x07#6)
  | .vneg _ f => some (f.word 0x10#6 0x08#6)
  | .vsel _ f => some (f.word 0x10#6 0x09#6)
  | .vcmplt _ f => some (f.word 0x10#6 0x0A#6)
  | .vcmpeq _ f => some (f.word 0x10#6 0x0B#6)
  | .vrsum _ f => some (f.word 0x10#6 0x0C#6)
  | .vext _ f => some (f.word 0x10#6 0x0E#6)
  | .vins _ f => some (f.word 0x10#6 0x0F#6)
  | .vcvtTo _ f => some (f.word 0x10#6 0x10#6)
  | .vcvtFrom _ f => some (f.word 0x10#6 0x11#6)
  | .pbF _ f => some (f.word 0x12#6 0x00#6)
  | .pbD _ f => some (f.word 0x12#6 0x01#6)
  | .pbLd _ f => some (f.word 0x12#6 0x02#6)
  | .accRd _ f => some (f.word 0x13#6 0x00#6)
  | .accWr _ f => some (f.word 0x13#6 0x01#6)
  | .sclAtt _ f => some (f.word 0x14#6 0x00#6)
  | .sclRd _ f => some (f.word 0x14#6 0x01#6)
  | .sclRoll _ f => some (f.word 0x14#6 0x02#6)
  | .sclClr _ f => some (f.word 0x14#6 0x03#6)
  | .sclProp _ f => some (f.word 0x14#6 0x04#6)
  | .tcSet _ f => some (f.word 0x18#6 0x00#6)
  | .tcGet _ f => some (f.word 0x18#6 0x01#6)
  | .prtGo _ f => some (f.word 0x20#6 0x00#6)
  | .prtKill _ f => some (f.word 0x20#6 0x01#6)
  | .prtStat _ f => some (f.word 0x20#6 0x02#6)
  | .prtDrain _ f => some (f.word 0x20#6 0x03#6)
  | .tlySet _ f => some (f.word 0x21#6 0x00#6)
  | .tlyAdd _ f => some (f.word 0x21#6 0x01#6)
  | .tlySig _ f => some (f.word 0x21#6 0x02#6)
  | .tlyWait _ f => some (f.word 0x21#6 0x03#6)
  | .tlyWaitv _ f => some (f.word 0x21#6 0x04#6)
  | .tlyTake _ f => some (f.word 0x21#6 0x05#6)
  | .tlyRd _ f => some (f.word 0x21#6 0x06#6)
  | .tlyCfg _ f => some (f.word 0x21#6 0x07#6)
  | .rckBind _ f => some (f.word 0x22#6 0x00#6)
  | .rckArr _ f => some (f.word 0x22#6 0x01#6)
  | .rckWait _ f => some (f.word 0x22#6 0x02#6)
  | .rckAw _ f => some (f.word 0x22#6 0x03#6)
  | .rckCfg _ f => some (f.word 0x22#6 0x04#6)
  | .alloc _ f => some (f.word 0x24#6 0x00#6)
  | .free _ f => some (f.word 0x24#6 0x01#6)
  | .hint _ f => some (f.word 0x24#6 0x02#6)
  | .mmH16 _ f => some (f.word 0x0#4)
  | .mmQ8f _ f => some (f.word 0x1#4)
  | .mmQ8g _ f => some (f.word 0x2#4)
  | .mmQ8fg _ f => some (f.word 0x3#4)
  | .mmQ8gf _ f => some (f.word 0x4#4)
  | .mmI8 _ f => some (f.word 0x5#4)
  | .mmQ4 _ f => some (f.word 0x6#4)
  | .mmI4 _ f => some (f.word 0x7#4)
  | _ => none

/-- The scalar function with this FN, in the form given (Table STL.5). -/
def decodeAlu (sid : StallId) (fn : Nat) (f : AluForm) : Option Instr :=
  match fn with
  | 0 => some (.add sid f)
  | 1 => some (.sub sid f)
  | 2 => some (.and sid f)
  | 3 => some (.or sid f)
  | 4 => some (.xor sid f)
  | 5 => some (.sll sid f)
  | 6 => some (.srl sid f)
  | 7 => some (.sra sid f)
  | 8 => some (.mul sid f)
  | 9 => some (.min sid f)
  | 10 => some (.max sid f)
  | 11 => some (.minu sid f)
  | 12 => some (.maxu sid f)
  | 13 => some (.slt sid f)
  | 14 => some (.sltu sid f)
  | _ => none

/-- OP 0x00 by its FN (Table STL.3). -/
def decodeControl (sid : StallId) (fn : Nat) (w : Word64) : Option Instr :=
  match fn with
  | 0 => some (.nop sid (FmtC.ofWord w))
  | 1 => some (.bellWait sid (FmtC.ofWord w))
  | 2 => some (.fence sid (FmtC.ofWord w))
  | _ => none

/-- OP 0x01 by its FN (Table STL.3). -/
def decodeBranch (sid : StallId) (fn : Nat) (w : Word64) : Option Instr :=
  match fn with
  | 0 => some (.brEq sid (FmtB.ofWord w))
  | 1 => some (.brNe sid (FmtB.ofWord w))
  | 2 => some (.brLt sid (FmtB.ofWord w))
  | 3 => some (.brGe sid (FmtB.ofWord w))
  | 4 => some (.brLtu sid (FmtB.ofWord w))
  | 5 => some (.brGeu sid (FmtB.ofWord w))
  | 6 => some (.j sid (FmtB.ofWord w))
  | 7 => some (.jr sid (FmtB.ofWord w))
  | 8 => some (.loop sid (FmtB.ofWord w))
  | _ => none

/-- OP 0x04 by its FN (Table STL.3). -/
def decodeLoadStore (sid : StallId) (fn : Nat) (w : Word64) : Option Instr :=
  match fn with
  | 0 => some (.vld sid (FmtL.ofWord w))
  | 1 => some (.vst sid (FmtL.ofWord w))
  | 2 => some (.ldS sid (FmtI.ofWord w))
  | 3 => some (.stS sid (FmtI.ofWord w))
  | _ => none

/-- OP 0x06 by its FN (Table STL.3). -/
def decodeRelease (sid : StallId) (fn : Nat) (w : Word64) : Option Instr :=
  match fn with
  | 0 => some (.rel sid (FmtL.ofWord w))
  | _ => none

/-- OP 0x05 by its FN (Table STL.3). -/
def decodeTurn (sid : StallId) (fn : Nat) (w : Word64) : Option Instr :=
  match fn with
  | 0 => some (.trnLd sid (FmtTLd.ofWord w))
  | 1 => some (.trnRd sid (FmtTRd.ofWord w))
  | _ => none

/-- OP 0x10 by its FN (Table STL.3). -/
def decodeVector (sid : StallId) (fn : Nat) (w : Word64) : Option Instr :=
  match fn with
  | 0 => some (.vadd sid (FmtV.ofWord w))
  | 1 => some (.vsub sid (FmtV.ofWord w))
  | 2 => some (.vmul sid (FmtV.ofWord w))
  | 3 => some (.vfma sid (FmtV.ofWord w))
  | 4 => some (.vfnma sid (FmtV.ofWord w))
  | 5 => some (.vmax sid (FmtV.ofWord w))
  | 6 => some (.vmin sid (FmtV.ofWord w))
  | 7 => some (.vabs sid (FmtV.ofWord w))
  | 8 => some (.vneg sid (FmtV.ofWord w))
  | 9 => some (.vsel sid (FmtV.ofWord w))
  | 10 => some (.vcmplt sid (FmtV.ofWord w))
  | 11 => some (.vcmpeq sid (FmtV.ofWord w))
  | 12 => some (.vrsum sid (FmtV.ofWord w))
  | 14 => some (.vext sid (FmtV.ofWord w))
  | 15 => some (.vins sid (FmtV.ofWord w))
  | 16 => some (.vcvtTo sid (FmtV.ofWord w))
  | 17 => some (.vcvtFrom sid (FmtV.ofWord w))
  | _ => none

/-- OP 0x12 by its FN (Table STL.3). -/
def decodePrice (sid : StallId) (fn : Nat) (w : Word64) : Option Instr :=
  match fn with
  | 0 => some (.pbF sid (FmtV.ofWord w))
  | 1 => some (.pbD sid (FmtV.ofWord w))
  | 2 => some (.pbLd sid (FmtV.ofWord w))
  | _ => none

/-- OP 0x13 by its FN (Table STL.3). -/
def decodeAccum (sid : StallId) (fn : Nat) (w : Word64) : Option Instr :=
  match fn with
  | 0 => some (.accRd sid (FmtA.ofWord w))
  | 1 => some (.accWr sid (FmtA.ofWord w))
  | _ => none

/-- OP 0x14 by its FN (Table STL.3). -/
def decodeScale (sid : StallId) (fn : Nat) (w : Word64) : Option Instr :=
  match fn with
  | 0 => some (.sclAtt sid (FmtV.ofWord w))
  | 1 => some (.sclRd sid (FmtV.ofWord w))
  | 2 => some (.sclRoll sid (FmtV.ofWord w))
  | 3 => some (.sclClr sid (FmtV.ofWord w))
  | 4 => some (.sclProp sid (FmtV.ofWord w))
  | _ => none

/-- OP 0x18 by its FN (Table STL.3). -/
def decodeTileCfg (sid : StallId) (fn : Nat) (w : Word64) : Option Instr :=
  match fn with
  | 0 => some (.tcSet sid (FmtTcSet.ofWord w))
  | 1 => some (.tcGet sid (FmtTcGet.ofWord w))
  | _ => none

/-- OP 0x20 by its FN (Table STL.3). -/
def decodePorter (sid : StallId) (fn : Nat) (w : Word64) : Option Instr :=
  match fn with
  | 0 => some (.prtGo sid (FmtPrtGo.ofWord w))
  | 1 => some (.prtKill sid (FmtPrtKill.ofWord w))
  | 2 => some (.prtStat sid (FmtPrtStat.ofWord w))
  | 3 => some (.prtDrain sid (FmtPrtDrain.ofWord w))
  | _ => none

/-- OP 0x21 by its FN (Table STL.3). -/
def decodeTally (sid : StallId) (fn : Nat) (w : Word64) : Option Instr :=
  match fn with
  | 0 => some (.tlySet sid (FmtTSet.ofWord w))
  | 1 => some (.tlyAdd sid (FmtTAdd.ofWord w))
  | 2 => some (.tlySig sid (FmtTSig.ofWord w))
  | 3 => some (.tlyWait sid (FmtTWait.ofWord w))
  | 4 => some (.tlyWaitv sid (FmtTWaitV.ofWord w))
  | 5 => some (.tlyTake sid (FmtTTake.ofWord w))
  | 6 => some (.tlyRd sid (FmtTReg.ofWord w))
  | 7 => some (.tlyCfg sid (FmtTReg.ofWord w))
  | _ => none

/-- OP 0x22 by its FN (Table STL.3). -/
def decodeReckon (sid : StallId) (fn : Nat) (w : Word64) : Option Instr :=
  match fn with
  | 0 => some (.rckBind sid (FmtRck.ofWord w))
  | 1 => some (.rckArr sid (FmtRck.ofWord w))
  | 2 => some (.rckWait sid (FmtRck.ofWord w))
  | 3 => some (.rckAw sid (FmtRck.ofWord w))
  | 4 => some (.rckCfg sid (FmtRckCfg.ofWord w))
  | _ => none

/-- OP 0x24 by its FN (Table STL.3). -/
def decodeLedger (sid : StallId) (fn : Nat) (w : Word64) : Option Instr :=
  match fn with
  | 0 => some (.alloc sid (FmtAlloc.ofWord w))
  | 1 => some (.free sid (FmtFree.ofWord w))
  | 2 => some (.hint sid (FmtHint.ofWord w))
  | _ => none

/-- OP 0x08 by its FMT (Table STL.8). -/
def decodeMatrix (sid : StallId) (fmt : Nat) (w : Word64) : Option Instr :=
  match fmt with
  | 0 => some (.mmH16 sid (FmtM.ofWord w))
  | 1 => some (.mmQ8f sid (FmtM.ofWord w))
  | 2 => some (.mmQ8g sid (FmtM.ofWord w))
  | 3 => some (.mmQ8fg sid (FmtM.ofWord w))
  | 4 => some (.mmQ8gf sid (FmtM.ofWord w))
  | 5 => some (.mmI8 sid (FmtM.ofWord w))
  | 6 => some (.mmQ4 sid (FmtM.ofWord w))
  | 7 => some (.mmI4 sid (FmtM.ofWord w))
  | _ => none

/-- The command that a word spells for a stall; `none` for an unlisted OP or FN, or FMT 8 to 15 (R68, R86). -/
def decodeWord (sid : StallId) (w : Word64) : Option Instr :=
  let fn := (w.extractLsb' 52 6).toNat
  match (w.extractLsb' 58 6).toNat with
  | 0x02 => decodeAlu sid fn (.reg (FmtS.ofWord w))
  | 0x03 =>
    if fn = 0x10 then some (.orhi sid (FmtI.ofWord w))
    else if fn = 0x20 then some (.rds sid (FmtI.ofWord w))
    else decodeAlu sid fn (.imm (FmtI.ofWord w))
  | 0x08 => decodeMatrix sid (w.extractLsb' 54 4).toNat w
  | 0x00 => decodeControl sid fn w
  | 0x01 => decodeBranch sid fn w
  | 0x04 => decodeLoadStore sid fn w
  | 0x06 => decodeRelease sid fn w
  | 0x05 => decodeTurn sid fn w
  | 0x10 => decodeVector sid fn w
  | 0x12 => decodePrice sid fn w
  | 0x13 => decodeAccum sid fn w
  | 0x14 => decodeScale sid fn w
  | 0x18 => decodeTileCfg sid fn w
  | 0x20 => decodePorter sid fn w
  | 0x21 => decodeTally sid fn w
  | 0x22 => decodeReckon sid fn w
  | 0x24 => decodeLedger sid fn w
  | _ => none

/-- The command that a word of the opcode table spells: none, since no row of the table has bits (the table gives every row
without fields; the commands of stalls are read by `decodeWord`, which also needs the stall). -/
def decodeTableWord (_nbits _w : Nat) : Option Instr := none

end Sys2Proof
end

