-- ==== Sys2Proof/Config.lean ====
section
/-! DEFINITION. What the spec leaves free: constants without a body, so that no proof can see a value of one.
Each is named in notes/assumptions. -/
namespace Sys2Proof

/-- The value the price board's tables hold for a slot, its function or its derivative, and an input; a lane takes it only where R95
and R133 allow it, and every lane of every stall takes the same (R289, log entry 10). -/
opaque Config.freePrice (slot : Nat) (deriv : Bool) (x : Word32) : Word32

/-- What a byte of HBM reads as that nothing has written under key epoch `epoch` (R508, log entry 11). -/
opaque Config.freeHbm (epoch addr : Nat) : Byte

/-- What a restored stall's turn buffer rows and its FREE porter slots hold, whose contents no saved image carries (log entry 13). -/
opaque Config.freeLost : Nat → Nat

/-- The AES-256 block cipher: the block that a key of 32 bytes and a block give (R240, R280, R321, R383, log entry 12). -/
opaque Config.aes (key : List Byte) (block : BitVec 128) : BitVec 128

/-- The 30 parity symbols of an RS(544,514) codeword by their index, from the 514 symbols of its message (R316, R319, log entry 168). -/
opaque Config.rsParity (message : List Nat) (index : Nat) : BitVec 10

/-- Byte `i` of the SHAKE256 output stream for an input (R424, R427, R430, log entry 12). -/
opaque Config.shakeByte (input : List Byte) (i : Nat) : Byte

/-- SHAKE256 with an output of `n` bytes: the first ones of the stream (log entry 12). -/
def Config.shake (n : Nat) (input : List Byte) : List Byte := (List.range n).map (Config.shakeByte input)

/-- Whether a Falcon-1024 signature verifies (R416, log entry 12). -/
opaque Config.falconOk (pub msg sig : List Byte) : Bool

/-- The padded Falcon-1024 signature by the device key of a die, with its signing randomness (R417, log entry 12). -/
opaque Config.falconSign (die random : Nat) (msg : List Byte) : List Byte

/-- An ML-KEM-1024 key pair, encapsulation key first, from its randomness (R417, log entry 12). -/
opaque Config.kemGen : Nat → List Byte × List Byte

/-- An ML-KEM-1024 encapsulation, cipher text and secret, from its randomness (log entry 12). -/
opaque Config.kemEncap (random : Nat) (ek : List Byte) : List Byte × List Byte

/-- An ML-KEM-1024 decapsulation (log entry 12). -/
opaque Config.kemDecap (dk ct : List Byte) : List Byte

/-- The module serial number, written at manufacture (Table TRU.1, log entry 12). -/
opaque Config.serial : Nat

/-- The fuzzy-extractor helper data of a die (Table TRU.1, log entry 12). -/
opaque Config.helper : Nat → List Byte

/-- The Falcon-1024 public key of a die (R419, Table TRU.1, log entry 12). -/
opaque Config.pubKey : Nat → List Byte

/-- The vendor's signature in the identity record of a die (R420, Table TRU.1, log entry 12). -/
opaque Config.vendorSig : Nat → List Byte

/-- The four vendor firmware keys in ROM (R416, log entry 12). -/
opaque Config.fwKey : Nat → List Byte

/-- The records that the ageing log holds at reset: 0 the baseline of manufacture, 1 the record of the boot (R460, log entries 2 and 12). -/
opaque Config.logBytes : Nat → List Byte

/-- The vendor identity key in ROM (R416, log entry 12). -/
opaque Config.vendorKey : List Byte

/-- Where the allocator starts its search for free storage, and which lender the dray asks (log entry 42). -/
opaque Config.freeUnit : Nat → Nat

end Sys2Proof
end

