-- ==== Sys2Proof/Machine/Bits.lean ====
section
/-! DEFINITION. Sparse tables, packing of elements into lines and the other plain helpers the meanings share. -/
namespace Sys2Proof.Machine

/-- A sparse table: entries in rising order of key; a key without an entry has the table's default value. -/
abbrev Tbl (α : Type) := List (Nat × α)

/-- The entry under key `k`. -/
def tfind {α : Type} : Tbl α → Nat → Option α
  | [], _ => none
  | (a, v) :: r, k => if a = k then some v else tfind r k

/-- The value under key `k`, `d` where there is no entry. -/
def tget {α : Type} (t : Tbl α) (d : α) (k : Nat) : α := (tfind t k).getD d

/-- The table with `v` under key `k`. -/
def tput {α : Type} : Tbl α → Nat → α → Tbl α
  | [], k, v => [(k, v)]
  | (a, w) :: r, k, v =>
    if k < a then (k, v) :: (a, w) :: r else if a = k then (k, v) :: r else (a, w) :: tput r k v

/-- The table without key `k`. -/
def tdel {α : Type} : Tbl α → Nat → Tbl α
  | [], _ => []
  | (a, w) :: r, k => if a = k then tdel r k else (a, w) :: tdel r k

/-- The value under key `k` changed by `f`. -/
def tmod {α : Type} (t : Tbl α) (d : α) (k : Nat) (f : α → α) : Tbl α := tput t k (f (tget t d k))

/-- Every value of the table changed by `f`. -/
def tmap {α : Type} (t : Tbl α) (f : Nat → α → α) : Tbl α := t.map fun p => (p.1, f p.1 p.2)

/-- The numbers `a`, `a + 1`, … , `a + n - 1`. -/
def upFrom (a : Nat) : Nat → List Nat
  | 0 => []
  | n + 1 => a :: upFrom (a + 1) n

/-- The first element of the list on which `p` holds. -/
def firstNat (p : Nat → Bool) (l : List Nat) : Option Nat := l.find? p

/-- Sum of a list of numbers. -/
def sumNat (l : List Nat) : Nat := l.foldl (· + ·) 0

/-- A count that stops at 2^32 - 1 (the counters of every register table that saturates). -/
def satInc (n : Nat) : Nat := if n ≥ 4294967295 then 4294967295 else n + 1

/-- `a / b` rounded up. -/
def ceilDiv (a b : Nat) : Nat := (a + b - 1) / b

/-- The number whose elements of `w` bits, lowest first, are `l` (R111). -/
def packN (w : Nat) (l : List Nat) : Nat := l.foldr (fun x acc => x % 2 ^ w + acc <<< w) 0

/-- The `n` elements of `w` bits of `x`, lowest first (R111). -/
def unpackN (w n x : Nat) : List Nat := (upFrom 0 n).map fun i => bitsAt x (w * i) w

/-- Lines laid one after another as one number, the first lowest. -/
def catLines (l : List Line) : Nat := packN 512 (l.map BitVec.toNat)

/-- The first `n` lines of a number. -/
def splitLines (n x : Nat) : List Line := (unpackN 512 n x).map (BitVec.ofNat 512)

/-- A quad's 64 lanes, lane 0 first (R90). -/
def lanesOf (q : List Line) : List Word32 := (unpackN 32 64 (catLines q)).map (BitVec.ofNat 32)

/-- The four lines of 64 lanes (R90). -/
def linesOfLanes (l : List Word32) : List Line := splitLines 4 (packN 32 (l.map BitVec.toNat))

/-- A line's 64 bytes, byte 0 first. -/
def bytesOfLine (l : Line) : List Byte := (unpackN 8 64 l.toNat).map (BitVec.ofNat 8)

/-- The line of 64 bytes. -/
def lineOfBytes (l : List Byte) : Line := BitVec.ofNat 512 (packN 8 (l.map BitVec.toNat))

/-- Bytes as one little-endian number (R19). -/
def leNat (l : List Byte) : Nat := packN 8 (l.map BitVec.toNat)

/-- The `n` little-endian bytes of a number (R19). -/
def leBytes (n x : Nat) : List Byte := (unpackN 8 n x).map (BitVec.ofNat 8)

/-- A list of exactly `n` bytes: cut, or filled up with zeros. -/
def fitBytes (n : Nat) (l : List Byte) : List Byte := (l ++ List.replicate n 0#8).take n

/-- The pairs of two lists, as long as the shorter. -/
def zipW {α β γ : Type} (f : α → β → γ) : List α → List β → List γ
  | a :: r, b :: s => f a b :: zipW f r s
  | _, _ => []

/-- The two's complement value of the low `w` bits. -/
def sgn (w x : Nat) : Int := if bitAt x (w - 1) then (x % 2 ^ w : Nat) - (2 ^ w : Nat) else (x % 2 ^ w : Nat)

/-- The low `w` bits of an integer in two's complement. -/
def toBits (w : Nat) (x : Int) : Nat := (x % (2 ^ w : Nat)).toNat

/-- Floor of the base-2 logarithm (0 for 0). -/
def ilog2 (n : Nat) : Nat := Nat.log2 n

/-- `n` bytes of a descriptor from `lo` as a number. -/
def fieldAt (l : List Byte) (lo n : Nat) : Nat := leNat ((l.drop lo).take n)

/-- ASCII bytes of a label (13_trust.md Table TRU.8). -/
def ascii (t : String) : List Byte := t.toList.map fun c => BitVec.ofNat 8 c.toNat

end Sys2Proof.Machine
end

