-- ==== Sys2Proof/Machine/Crypto.lean ====
section
/-! DEFINITION. AES-256-GCM and AES-GMAC as every block of the machine uses them (08_ledger_dray.md R280, R283, 10_weago.md R321,
11_host_rings.md R383, 13_trust.md R430): the mode of operation over the block cipher of Config. PRESUMED: the mode is that of
NIST SP 800-38D, which the spec names and does not write out (log entry 12). -/
namespace Sys2Proof.Machine

/-- Bytes as one big-endian number. -/
def beNat (l : List Byte) : Nat := leNat l.reverse

/-- The `n` big-endian bytes of a number. -/
def beBytes (n x : Nat) : List Byte := (leBytes n x).reverse

/-- One bit of a GHASH product for each unit of fuel: `x` from its most significant bit on, `v` shifted, `z` summed. -/
def gmulBits : Nat → Nat → Nat → Nat → Nat
  | 0, _, _, z => z
  | n + 1, x, v, z =>
    gmulBits n x (if v % 2 = 1 then (v >>> 1) ^^^ (0xE1 <<< 120) else v >>> 1) (if bitAt x n then z ^^^ v else z)

/-- Product in the field of GHASH. -/
def gmul (x y : Nat) : Nat := gmulBits 128 x y 0

/-- GHASH of whole blocks of 16 bytes. -/
def ghash (h : Nat) : Nat → Nat → List Byte → Nat
  | 0, y, _ => y
  | n + 1, y, l => ghash h n (gmul (y ^^^ beNat (l.take 16)) h) (l.drop 16)

/-- Bytes filled up with zeros to whole blocks. -/
def padBlocks (l : List Byte) : List Byte := fitBytes (16 * ceilDiv l.length 16) l

/-- Key stream block `i`, counted from 1 for the tag's (IV of 12 bytes). -/
def gcmStream (key iv : List Byte) (i : Nat) : List Byte :=
  beBytes 16 (Config.aes key (BitVec.ofNat 128 (beNat (fitBytes 12 iv) * 2 ^ 32 + i))).toNat

/-- A body with the key stream added, which encrypts and decrypts. -/
def gcmCrypt (key iv body : List Byte) : List Byte :=
  zipW (· ^^^ ·) body ((upFrom 2 (ceilDiv body.length 16)).flatMap (gcmStream key iv))

/-- The tag over AAD and cipher text. -/
def gcmTag (key iv aad ct : List Byte) : List Byte :=
  let h := (Config.aes key 0#128).toNat
  let l := padBlocks aad ++ padBlocks ct ++ beBytes 8 (8 * aad.length) ++ beBytes 8 (8 * ct.length)
  zipW (· ^^^ ·) (beBytes 16 (ghash h (l.length / 16) 0 l)) (gcmStream key iv 1)

/-- AES-256-GCM: cipher text and tag of IV, AAD and body. -/
def gcmSeal (key iv aad body : List Byte) : List Byte × List Byte :=
  let ct := gcmCrypt key iv body
  (ct, gcmTag key iv aad ct)

/-- AES-256-GCM opened: the body where the tag is valid. -/
def gcmOpen (key iv aad ct tag : List Byte) : Option (List Byte) :=
  if tag = gcmTag key iv aad ct then some (gcmCrypt key iv ct) else none

/-- The IV of a record's tag: its sequence value, its ring or 64 for the incident ring, and its kind: 0 order, 1 completion, 2 incident
(11_host_rings.md R383). -/
def recordIv (index ring kind : Nat) : List Byte := leBytes 4 index ++ leBytes 1 ring ++ leBytes 1 kind ++ leBytes 6 0

/-- The AES-GMAC tag of a record under the session's order key (11_host_rings.md R383). -/
def recordTag (key index ring kind : Nat) (aad : List Byte) : BitVec 128 :=
  BitVec.ofNat 128 (leNat (gcmSeal (leBytes 32 key) (recordIv index ring kind) aad []).2)

end Sys2Proof.Machine
end

