-- ==== Sys2Proof/Machine/Float.lean ====
section
/-! DEFINITION. Number formats and arithmetic of 03_formats.md: exact binary values, rounding, binary32 operations,
conversions, block exponents and applied exponents. -/
namespace Sys2Proof.Machine

/-- An exact binary value: plus or minus `m * 2^e`. -/
structure Dy where
  neg : Bool
  m : Nat
  e : Int
  deriving DecidableEq, Repr

/-- A binary32 value as R116 knows it. -/
inductive Fl where
  | nan
  | inf (neg : Bool)
  | fin (d : Dy)
  deriving DecidableEq, Repr

/-- Rounding directions of Table FMT.5. -/
inductive Rnd where
  | rne
  | rtz
  | rna
  deriving DecidableEq, Repr

/-- The direction that a two-bit RM field names (Table FMT.5); 11 is undefined. -/
def Rnd.ofRM : Nat → Option Rnd
  | 0 => some .rne
  | 1 => some .rtz
  | 2 => some .rna
  | _ => none

/-- The canonical NaN (R109, R116). -/
def canonNaN : Word32 := 0x7FC00000#32

/-- The value of a binary32 code. -/
def unpack32 (w : Word32) : Fl :=
  let n := w.toNat
  let neg := bitAt n 31
  let ex := bitsAt n 23 8
  let fr := n % 2 ^ 23
  if ex = 255 then (if fr = 0 then .inf neg else .nan)
  else if ex = 0 then .fin ⟨neg, fr, -149⟩
  else .fin ⟨neg, fr + 2 ^ 23, (ex : Int) - 150⟩

/-- `x` divided by `2^k` and rounded to an integer; `sticky` says that a non-zero part below was already dropped. -/
def roundShift (r : Rnd) (x k : Nat) (sticky : Bool) : Nat :=
  let q := x >>> k
  let rem := x - q <<< k
  let twice := 2 * rem
  let one := 2 ^ k
  match r with
  | .rtz => q
  | .rna => if twice ≥ one then q + 1 else q
  | .rne => if twice > one ∨ (twice = one ∧ (sticky ∨ q % 2 = 1)) then q + 1 else q

/-- The magnitude code of `m * 2^e` in a format with `F` fraction bits and smallest quantum `2^qmin`, without an upper end:
codes of rising values rise by one (R107, R108, R124). -/
def roundCode (F : Nat) (qmin : Int) (r : Rnd) (m : Nat) (e : Int) (sticky : Bool) : Nat :=
  if m = 0 then 0 else
    let q := max ((ilog2 m : Int) + e - F) qmin
    let n := if e ≥ q then (if sticky then roundShift r (m <<< ((e - q).toNat + 2)) 2 sticky else m <<< (e - q).toNat)
      else roundShift r m (q - e).toNat sticky
    (q - qmin).toNat * 2 ^ F + n

/-- A binary32 code from its sign and magnitude code. -/
def sign32 (neg : Bool) (mag : Nat) : Word32 := BitVec.ofNat 32 (mag + (b2n neg) <<< 31)

/-- Rounding to binary32 with the overflow rule of R130. -/
def round32 (r : Rnd) (d : Dy) (sticky : Bool := false) : Word32 :=
  let c := roundCode 23 (-149) r d.m d.e sticky
  let top := if r = .rtz then 0x7F7FFFFF else 0x7F800000
  sign32 d.neg (if c ≥ 0x7F800000 then top else c)

/-- Exact sum; an exact zero is negative only where both operands are (R116). -/
def Dy.add (a b : Dy) : Dy :=
  let e := min a.e b.e
  let x : Int := (a.m <<< (a.e - e).toNat : Nat)
  let y : Int := (b.m <<< (b.e - e).toNat : Nat)
  let v := (if a.neg then -x else x) + (if b.neg then -y else y)
  if v = 0 then ⟨a.neg && b.neg, 0, e⟩ else ⟨v < 0, v.natAbs, e⟩

/-- Exact product. -/
def Dy.mul (a b : Dy) : Dy := ⟨a.neg != b.neg, a.m * b.m, a.e + b.e⟩

/-- Exact scaling by a power of two (R130). -/
def Dy.scale (a : Dy) (k : Int) : Dy := { a with e := a.e + k }

/-- Comparison of two exact values. -/
def Dy.lt (a b : Dy) : Bool :=
  let e := min a.e b.e
  let x : Int := (a.m <<< (a.e - e).toNat : Nat)
  let y : Int := (b.m <<< (b.e - e).toNat : Nat)
  decide ((if a.neg then -x else x) < (if b.neg then -y else y))

/-- A binary32 sum (R116). -/
def fAdd (a b : Word32) : Word32 :=
  match unpack32 a, unpack32 b with
  | .nan, _ => canonNaN
  | _, .nan => canonNaN
  | .inf n, .inf k => if n = k then sign32 n 0x7F800000 else canonNaN
  | .inf n, .fin _ => sign32 n 0x7F800000
  | .fin _, .inf n => sign32 n 0x7F800000
  | .fin x, .fin y => round32 .rne (x.add y)

/-- Bit 31 turned over. -/
def fNeg (a : Word32) : Word32 := a ^^^ 0x80000000#32

/-- Bit 31 cleared. -/
def fAbs (a : Word32) : Word32 := a &&& 0x7FFFFFFF#32

/-- The exact product of two binary32 values, or the special value it is. -/
def fProd (a b : Word32) : Fl :=
  match unpack32 a, unpack32 b with
  | .nan, _ => .nan
  | _, .nan => .nan
  | .inf n, .inf k => .inf (n != k)
  | .inf n, .fin y => if y.m = 0 then .nan else .inf (n != y.neg)
  | .fin x, .inf k => if x.m = 0 then .nan else .inf (x.neg != k)
  | .fin x, .fin y => .fin (x.mul y)

/-- A special or exact value plus a binary32 value, rounded once. -/
def fAddTo (p : Fl) (c : Word32) : Word32 :=
  match p, unpack32 c with
  | .nan, _ => canonNaN
  | _, .nan => canonNaN
  | .inf n, .inf k => if n = k then sign32 n 0x7F800000 else canonNaN
  | .inf n, .fin _ => sign32 n 0x7F800000
  | .fin _, .inf n => sign32 n 0x7F800000
  | .fin x, .fin y => round32 .rne (x.add y)

/-- A binary32 product (R116). -/
def fMul (a b : Word32) : Word32 :=
  match fProd a b with
  | .nan => canonNaN
  | .inf n => sign32 n 0x7F800000
  | .fin d => round32 .rne d

/-- `a * b + c`, rounded once (R116, Table STL.10 VFMA). -/
def fFma (a b c : Word32) : Word32 := fAddTo (fProd a b) c

/-- `a - b` (R116). -/
def fSub (a b : Word32) : Word32 :=
  match unpack32 b with
  | .nan => canonNaN
  | _ => fAdd a (fNeg b)

/-- Whether a code is a NaN. -/
def isNaN32 (a : Word32) : Bool := unpack32 a = .nan

/-- A rank that rises with the value; minus zero lies below plus zero (R117). -/
def rank32 (a : Word32) : Int := if bitAt a.toNat 31 then -((a.toNat % 2 ^ 31 : Nat) : Int) - 1 else (a.toNat : Int)

/-- VMAX of two lanes (R117). -/
def fMax (a b : Word32) : Word32 :=
  if isNaN32 a then (if isNaN32 b then canonNaN else b) else if isNaN32 b then a
  else if rank32 a < rank32 b then b else a

/-- VMIN of two lanes (R117). -/
def fMin (a b : Word32) : Word32 :=
  if isNaN32 a then (if isNaN32 b then canonNaN else b) else if isNaN32 b then a
  else if rank32 b < rank32 a then b else a

/-- Whether a code is a zero of either sign. -/
def isZero32 (a : Word32) : Bool := a &&& 0x7FFFFFFF#32 = 0#32

/-- 1.0 or 0.0. -/
def fBool (b : Bool) : Word32 := if b then 0x3F800000#32 else 0#32

/-- VCMPLT of two lanes (R117). -/
def fLt (a b : Word32) : Word32 :=
  fBool (!isNaN32 a && !isNaN32 b && !(isZero32 a && isZero32 b) && rank32 a < rank32 b)

/-- VCMPEQ of two lanes (R117). -/
def fEq (a b : Word32) : Word32 :=
  fBool (!isNaN32 a && !isNaN32 b && ((isZero32 a && isZero32 b) || a = b))

/-- The quotient of two binary32 values to nearest even, for finite operands and a non-zero divisor; the other cases follow IEEE 754. -/
def fDiv (a b : Word32) : Word32 :=
  match unpack32 a, unpack32 b with
  | .nan, _ => canonNaN
  | _, .nan => canonNaN
  | .inf _, .inf _ => canonNaN
  | .inf n, .fin y => sign32 (n != y.neg) 0x7F800000
  | .fin x, .inf k => sign32 (x.neg != k) 0
  | .fin x, .fin y =>
    if y.m = 0 then (if x.m = 0 then canonNaN else sign32 (x.neg != y.neg) 0x7F800000)
    else
      let num := x.m <<< 64
      round32 .rne ⟨x.neg != y.neg, num / y.m, x.e - 64 - y.e⟩ (num % y.m ≠ 0)

/-- One level of the VRSUM tree (R91). -/
def pairSums : List Word32 → List Word32
  | a :: b :: r => fAdd a b :: pairSums r
  | r => r

/-- The 64 lanes added in the fixed tree of R91. -/
def treeSum (l : List Word32) : Word32 :=
  (pairSums (pairSums (pairSums (pairSums (pairSums (pairSums l)))))).headD 0

/-- The formats of Table STL.10a. -/
inductive Fmt where
  | b32
  | h16
  | q8f
  | q8g
  | q4
  | i8s
  | i8u
  | i4s
  | i4u
  deriving DecidableEq, Repr

/-- The format of a code (Table STL.10a); the other codes are illegal. -/
def Fmt.ofCode : Nat → Option Fmt
  | 0 => some .b32
  | 1 => some .h16
  | 2 => some .q8f
  | 3 => some .q8g
  | 4 => some .q4
  | 5 => some .i8s
  | 6 => some .i8u
  | 7 => some .i4s
  | 8 => some .i4u
  | _ => none

/-- Element width in bits (Table FMT.1, R112). -/
def Fmt.bits : Fmt → Nat
  | .b32 => 32
  | .h16 => 16
  | .q4 => 4
  | .i4s => 4
  | .i4u => 4
  | _ => 8

/-- Fraction bits and smallest quantum exponent of a short float (Table FMT.1). -/
def Fmt.shape : Fmt → Nat × Int
  | .h16 => (8, -71)
  | .q8f => (3, -10)
  | .q8g => (2, -17)
  | .q4 => (1, -1)
  | _ => (23, -149)

/-- Whether the format is an integer (R112). -/
def Fmt.isInt : Fmt → Bool
  | .i8s => true
  | .i8u => true
  | .i4s => true
  | .i4u => true
  | _ => false

/-- Whether an integer format is signed. -/
def Fmt.isSigned : Fmt → Bool
  | .i8s => true
  | .i4s => true
  | _ => false

/-- The exact value of an element; void is a NaN (R108, R109, R112). -/
def elemVal (f : Fmt) (code : Nat) : Fl :=
  let w := f.bits
  let c := code % 2 ^ w
  if f = .b32 then unpack32 (BitVec.ofNat 32 c)
  else if f.isInt then
    let v : Int := if f.isSigned then sgn w c else (c : Int)
    .fin ⟨decide (v < 0), v.natAbs, 0⟩
  else
    let neg := bitAt c (w - 1)
    let mag := c % 2 ^ (w - 1)
    let F := f.shape.1
    let qmin := f.shape.2
    let ex := mag / 2 ^ F
    let fr := mag % 2 ^ F
    if mag = 0 then (if neg then .nan else .fin ⟨false, 0, qmin⟩)
    else if ex = 0 then .fin ⟨neg, fr, qmin⟩
    else .fin ⟨neg, fr + 2 ^ F, qmin + (ex : Int) - 1⟩

/-- Conversion of a value to a short float (R124). -/
def toShort (f : Fmt) (r : Rnd) (x : Fl) : Nat :=
  let w := f.bits
  let sbit := 2 ^ (w - 1)
  match x with
  | .nan => sbit
  | .inf neg => (sbit - 1) + (if neg then sbit else 0)
  | .fin d =>
    let c := min (roundCode f.shape.1 f.shape.2 r d.m d.e false) (sbit - 1)
    if c = 0 then 0 else c + (if d.neg then sbit else 0)

/-- Rounding of an exact value to an integer. -/
def roundInt (r : Rnd) (d : Dy) : Int :=
  let n := if d.e ≥ 0 then d.m <<< d.e.toNat else roundShift r d.m (-d.e).toNat false
  if d.neg then -(n : Int) else (n : Int)

/-- Least and greatest code values of an integer format (R112). -/
def Fmt.intRange (f : Fmt) : Int × Int :=
  let w := f.bits
  if f.isSigned then (-(2 ^ (w - 1) : Nat), (2 ^ (w - 1) : Nat) - 1) else (0, (2 ^ w : Nat) - 1)

/-- Conversion of a value to an integer format (R125). -/
def toIntFmt (f : Fmt) (r : Rnd) (x : Fl) : Nat :=
  match x with
  | .nan => 0
  | .inf neg => toBits f.bits (if neg then f.intRange.1 else f.intRange.2)
  | .fin d =>
    -- a magnitude of 2^40 or more lies outside every integer format, so its integer need not be formed
    if (ilog2 d.m : Int) + d.e > 40 ∧ d.m ≠ 0 then toBits f.bits (if d.neg then f.intRange.1 else f.intRange.2)
    else toBits f.bits (max f.intRange.1 (min f.intRange.2 (roundInt r d)))

/-- Conversion of a value, once scaled by `2^k`, to a format (R124, R125, R130). -/
def toFmt (f : Fmt) (r : Rnd) (k : Int) (x : Fl) : Nat :=
  let y : Fl := match x with
    | .fin d => .fin (d.scale k)
    | s => s
  if f = .b32 then
    match y with
    | .nan => canonNaN.toNat
    | .inf neg => (sign32 neg 0x7F800000).toNat
    | .fin d => (round32 r d).toNat
  else if f.isInt then toIntFmt f r y
  else toShort f r y

/-- The binary32 code of an element's value, scaled by `2^k` and rounded by `r` (R126, R130). -/
def fromFmt (f : Fmt) (r : Rnd) (k : Int) (code : Nat) : Word32 :=
  BitVec.ofNat 32 (toFmt .b32 r k (elemVal f code))

/-- Whether `m * 2^e` is at most `n * 2^k`. -/
def leScaled (m : Nat) (e : Int) (n : Nat) (k : Int) : Bool :=
  let q := min e k
  m <<< (e - q).toNat ≤ n <<< (k - q).toNat

/-- Largest finite value of a format as `(n, k)`, meaning `n * 2^k` (R127, Table FMT.2). -/
def Fmt.maxVal : Fmt → Nat × Int
  | .b32 => (16777215, 104)
  | .h16 => (511, 55)
  | .q8f => (240, 0)
  | .q8g => (57344, 0)
  | .q4 => (6, 0)
  | .i8s => (127, 0)
  | .i8u => (255, 0)
  | .i4s => (7, 0)
  | .i4u => (15, 0)

/-- The exponent X(M, c) of R127 for a non-negative binary32 magnitude. -/
def scaleExp (mag : Word32) (f : Fmt) : Int :=
  match unpack32 mag with
  | .nan => 0
  | .inf _ => -64
  | .fin d =>
    if d.m = 0 then 0 else
      let top := f.maxVal
      -- the candidate whose leading bit meets the largest value's, corrected by one
      let c := (ilog2 top.1 : Int) + top.2 - ((ilog2 d.m : Int) + d.e)
      let E := if leScaled d.m (d.e + c) top.1 top.2 then c else c - 1
      max (-64) (min 63 E)

/-- The larger of a scale's magnitude and a value's; NaN leaves it (R97, R129). -/
def scaleSee (amax : Word32) (x : Fl) : Word32 :=
  match x with
  | .nan => amax
  | .inf _ => 0x7F800000#32
  | .fin d =>
    let v := round32 .rne { d with neg := false }
    if v.toNat > amax.toNat then v else amax

/-- The block exponent of R115 for values already scaled. -/
def blockExp (l : List Fl) : Int :=
  let mags := l.filterMap fun x => match x with
    | .fin d => some (some { d with neg := false })
    | .inf _ => some none
    | .nan => none
  if mags.any (· = none) then 31 else
    let m := mags.foldl (fun (acc : Dy) x => match x with
      | some d => if acc.lt d then d else acc
      | none => acc) ⟨false, 0, 0⟩
    if m.m = 0 then 0 else
      let c := (ilog2 m.m : Int) + m.e - 2
      let b := if leScaled m.m (m.e - c) 6 0 then c else c + 1
      max (-32) (min 31 b)

/-- The scale byte of a block exponent (R113). -/
def blockByte (b : Int) : Nat := toBits 8 b

/-- The exponent a scale byte holds (R113). -/
def blockOfByte (x : Nat) : Int := sgn 6 x

/-- Q4 codes and scale bytes of values, 32 to a block (R114, R115). -/
def toQ4Block (r : Rnd) (k : Int) (l : List Fl) : List Nat × Nat :=
  let scaled := l.map fun x => match x with
    | .fin d => Fl.fin (d.scale k)
    | s => s
  let b := blockExp scaled
  (scaled.map (toFmt .q4 r (-b)), blockByte b)

end Sys2Proof.Machine
end

