-- ==== Sys2Proof/Machine/Parts.lean ====
section
/-! DEFINITION. The parts of the machine's state for chapters 01 to 08: plain data, one structure per piece of hardware. -/
namespace Sys2Proof.Machine

/-- Kinds of star symbol that matter in flight (01_bell.md R30); `slip` is a decision that sent no symbol but faults contexts
at its latch (R46). -/
inductive SymKind where
  | bell
  | hold
  | release
  | slip
  deriving DecidableEq, Repr

/-- A fault decided with a bell: context, incident code 0x0102 or 0x0103, first overrunning stall (R46, R47). -/
structure BellFault where
  ctx : Nat
  code : Nat
  stall : Nat
  deriving DecidableEq, Repr

/-- What had been asked of the engines when a bell was decided (00_scope.md R18, 12_clerk_firmware.md R395): contexts with a reported
stop, with a reset or kill; a session close; the orders of square requests, gathers, set bindings and set releases; die resets; due
fences as 20n + k; reckoning units that wait for a bell; contexts that can be saved and restored (R406, R408); whether the bell is
quiescent (13_trust.md R439). -/
structure Due where
  faults : List Nat
  ends : List Nat
  close : Bool
  orders : List Nat
  dies : List Nat
  fences : List Nat
  units : List Nat
  ready : List Nat
  restorable : List Nat
  quiescent : Bool
  deriving DecidableEq, Repr

/-- Nothing asked. -/
def Due.none : Due := ⟨[], [], false, [], [], [], [], [], [], false⟩

/-- A star symbol between its decision and its latch 90 cy later (R28). -/
structure Symbol where
  kind : SymKind
  src : Nat
  bp : Nat
  decided : Nat
  latch : Nat
  cause : Nat
  faults : List BellFault
  due : Due
  deriving DecidableEq, Repr

/-- The bell generator and the hold (01_bell.md R60 and the state R32 to R58 name). -/
structure Bell where
  lead : Nat
  locked : Bool
  held : Bool
  slipped : Bool
  slipRun : Nat
  stretch : Nat
  stretchNext : Nat
  phase : Int
  inRange : Nat
  count : Nat
  slips : Nat
  cause : Nat
  /-- cy of a GO that waits for the next decision (R58) -/
  go : Option Nat
  /-- decision cys of the HOLDs that may still let a GO lapse (R58) -/
  holds : List Nat
  lastD : Nat
  nextD : Nat
  symbols : List Symbol
  dieCount : Tbl Nat
  lastLatch : Nat
  /-- deskew pads of the star's receive lanes, by 16 × receiving die + sending die (R29) -/
  pads : Tbl Nat
  deriving DecidableEq, Repr

/-- Whether and why a stall issues (02_stall.md R65, R70; 01_bell.md R41, R42). -/
inductive Status where
  /-- runs no plan -/
  | idle
  /-- issues -/
  | running
  /-- parked at BELL.WAIT: resume index, E, cy of its issue -/
  | parked (target : Nat) (e : Bool) (cy : Nat)
  /-- issue stopped: incident code, cy -/
  | stopped (cause : Nat) (cy : Nat)
  deriving DecidableEq, Repr

/-- What an issued and not yet retired instruction still has to do. -/
inductive OpKind where
  /-- VLD: first register, stock offset, lines, lines done -/
  | vld (vd off n k : Nat)
  /-- VST: first register, stock offset, lines, lines done -/
  | vst (vd off n k : Nat)
  /-- LD.S: scalar register, stock offset -/
  | lds (sd off : Nat)
  /-- ST.S: stock offset, value read at issue -/
  | sts (off : Nat) (v : Word64)
  /-- a matrix instruction with the operand blocks it read at issue, one line list per block -/
  | mm (fmt bank mode na m n k d b0 p : Nat) (trans sga sgw : Bool) (tcs regs : List Nat)
      (act : List (List Line)) (wt : List (List Line)) (aScale wScale : List Line)
  /-- ACC.RD: quad, arrays, bank, CLR, format -/
  | accRd (qd : Nat) (arrays : List Nat) (bank : Nat) (clr : Bool) (f : Fmt)
  /-- ACC.WR: quad, arrays, bank -/
  | accWr (qd : Nat) (arrays : List Nat) (bank : Nat)
  /-- TRN.LD: buffer, stock offset, rows, bytes a row, stride -/
  | trnLd (tb off rows len stride : Nat)
  /-- TRN.RD: buffer, first register, element bits, rows, columns -/
  | trnRd (tb vd w rows cols : Nat)
  /-- a vector-unit result: registers, scalar result, the quad it is seen at and the values seen there (R97) -/
  | vec (regs : List (Nat × Line)) (sreg : Option (Nat × Word64)) (quad : Option Nat) (seen : List Word32)
  /-- a price-board result -/
  | pb (regs : List (Nat × Line)) (quad : Nat) (seen : List Word32)
  /-- PB.LD: slot, stock offset -/
  | pbld (slot off : Nat)
  deriving DecidableEq, Repr

/-- An issued and not yet retired instruction (R64): its number in issue order, the cy of its next effect, its PC. -/
structure Op where
  seq : Nat
  due : Nat
  pc : Nat
  kind : OpKind
  deriving DecidableEq, Repr

/-- A scale (R97): AMAX, PREV and its attachment (kind 0 to 3 with its two operands). -/
structure Scale where
  amax : Word32
  prev : Word32
  att : Nat
  lo : Nat
  hi : Nat
  deriving DecidableEq, Repr

/-- A scale at the start of a context (R62). -/
def Scale.zero : Scale := ⟨0#32, 0#32, 0, 0, 0⟩

/-- One accumulator bank (R85): 256 binary32 values in row-major order, EMPTY or HELD. -/
structure Bank where
  held : Bool
  v : Tbl Word32
  deriving DecidableEq, Repr

/-- An EMPTY bank. -/
def Bank.empty : Bank := ⟨false, []⟩

/-- A weight latch (R82): register location, tile configuration, the 512 B block. -/
structure Latch where
  loc : Nat
  cfg : BitVec 128
  block : List Line
  scale : Line
  deriving DecidableEq, Repr

/-- A loaded user slot of the price board (R96): LO, HI, w of R134 and the 768 coefficients. -/
structure UserSlot where
  lo : Word32
  hi : Word32
  w : Word32
  coef : List Word32
  deriving DecidableEq, Repr

/-- A tally state word (06_tallies.md Table TLY.1); OWNER is absent where the tally belongs to its holder since the start of the context. -/
structure Tally where
  value : Nat
  owner : Option Nat
  mode : Bool
  ra : Bool
  sat : Bool
  under : Bool
  orph : Bool
  deriving DecidableEq, Repr

/-- A tally at the start of a context (R191). -/
def Tally.zero : Tally := ⟨0, none, false, false, false, false, false⟩

/-- A change of a tally that is applied in the cy after its cause (R192, R195, R198). -/
inductive Change where
  | set (t v ctx : Nat)
  | cfg (t v : Nat)
  | add (t : Nat) (amt : Int)
  deriving DecidableEq, Repr

/-- A reckoning binding (R210). -/
structure Binding where
  id : Nat
  lgen : Nat
  cpl : Nat
  orph : Bool
  valid : Bool
  deriving DecidableEq, Repr

/-- An invalid binding. -/
def Binding.none : Binding := ⟨0, 0, 0, false, false⟩

/-- A stream descriptor's fields (05_porter.md Table PRT.2). -/
structure Desc where
  raw : Line
  src : Nat
  dst : Nat
  counts : List Nat
  strides : List Int
  sfmt : Nat
  dfmt : Nat
  rm : Nat
  sen : Bool
  sc : Nat
  pack : Bool
  tagen : Bool
  tag : Nat
  dkind : Nat
  dspace : Nat
  dir : Nat
  x0 : Nat
  y0 : Nat
  x1 : Nat
  y1 : Nat
  filled : Nat
  fillen : Bool
  freed : Nat
  freeden : Bool
  nbuf : Nat
  chunk : Nat
  id : Nat
  deriving DecidableEq, Repr

/-- A slot's state (R163). -/
inductive SlotState where
  | free
  | running
  | draining
  deriving DecidableEq, Repr

/-- A porter slot (R163, R166, R170, R179): the stream's descriptor and progress, and what a FREE slot keeps of its last stream. -/
structure Slot where
  state : SlotState
  desc : Option Desc
  pc : Nat
  goSeq : Nat
  f0 : Nat
  e : Int
  faulted : Bool
  chunks : Nat
  streamId : Nat
  /-- the run the next request reads and the line (or element) in it (R170, R171) -/
  run : Nat
  line : Nat
  /-- requests not yet answered -/
  outstanding : Nat
  /-- converted elements of output lines that are not whole yet -/
  asm : Tbl Nat
  /-- output lines written, sent or acknowledged, per chunk that is not whole -/
  chunkDone : Tbl Nat
  /-- writes of this stream's lines still to be made by a receiver, or acknowledgements still to come -/
  inFlight : Nat
  /-- the cy of the earliest first request (Table PRT.4) -/
  due : Nat
  /-- instructions of the stall issued before the PRT.GO (R165) -/
  before : Nat
  /-- first element of a stream resumed after a save; earlier ones of its line are dropped (R188) -/
  skipTo : Nat
  deriving DecidableEq, Repr

/-- A slot that has run nothing. -/
def Slot.idle : Slot := ⟨.free, none, 0, 0, 0, 0, false, 0, 0, 0, 0, 0, [], [], 0, 0, 0, 0⟩

/-- A line bound for a register that waits in a delivery buffer (R178): the stream's root and slot, the line's place, its register. -/
structure Deliv where
  root : Nat
  slot : Nat
  goSeq : Nat
  line : Nat
  reg : Nat
  data : Line
  deriving DecidableEq, Repr

/-- What a receiving stall knows of one stream (R179): lines written per chunk and the next chunk to signal. -/
structure Rx where
  root : Nat
  slot : Nat
  goSeq : Nat
  nextChunk : Nat
  counts : Tbl Nat
  deriving DecidableEq, Repr

/-- A line of the fetch buffer (R63). -/
structure FLine where
  line : Nat
  data : Line
  deriving DecidableEq, Repr

/-- One stall (02_stall.md Table STL.1 and the state of chapters 04 to 06 that lives in a stall). -/
structure Stall where
  occ : Option Nat
  started : Bool
  status : Status
  pc : Nat
  s : Tbl Word64
  v : Tbl Line
  full : BitVec 128
  tc : Tbl (BitVec 128)
  acc : Tbl Bank
  latch : List Latch
  turn : Tbl Nat
  scales : Tbl Scale
  gates : Tbl Nat
  user : Tbl UserSlot
  fetch : List FLine
  fetchReq : List (Nat × Nat)
  curLine : Option Nat
  ops : List Op
  opSeq : Nat
  nextIssue : Nat
  /-- cy from which the price board takes the next quad (R94) -/
  pbNext : Nat
  arrEnd : Nat
  ready : Option (Nat × Nat)
  eccBell : Bool
  eccCount : Nat
  segStart : Nat
  skeep : Nat
  deriving DecidableEq, Repr

/-- What chapters 05 and 06 give a stall: porter, tallies, bindings, translation cache. -/
structure StallPort where
  slots : Tbl Slot
  last : Nat
  /-- cy from which the next request may be issued (R180) -/
  reqNext : Nat
  credit : Nat
  goSeq : Nat
  deliv : List Deliv
  rx : List Rx
  tallies : Tbl Tally
  /-- changes not yet applied, with the cy in which each reached the tally file (R192) -/
  pend : List (Nat × Change)
  rb : Tbl Binding
  xcache : List (Nat × Nat)
  meshLast : Tbl Nat
  /-- PC of an RCK.AW whose arrival has been sent (Table TLY.6) -/
  aw : Option Nat
  deriving DecidableEq, Repr

/-- A stall that runs no plan and holds nothing. -/
def Stall.fresh : Stall :=
  ⟨none, false, .idle, 0, [], [], 0#128, [], [], [], [], [], [], [], [], [], none, [], 0, 0, 0, 0, none, false, 0, 0, 0⟩

/-- A porter with every slot FREE, tallies zero, bindings invalid. DESIGN CHOICE: the round-robin pointer starts at 7, so that slot 0 is
looked at first (05_porter.md R180, log entry 159). -/
def StallPort.fresh : StallPort := ⟨[], 7, 0, 64, 0, [], [], [], [], [], [], [], none⟩

/-- A bound square (04_tile_ops.md R148 to R160). -/
structure Square where
  die : Nat
  x0 : Nat
  y0 : Nat
  ctx : Nat
  /-- last cy of the previous square pass at the origin, `none` before the first -/
  passEnd : Nat
  issued : Nat
  /-- a GO withheld or the square stopped, with its incident (R156, R157) -/
  stop : Option Nat
  /-- an order or the end of a context asks for the unbinding (R151) -/
  unbind : Bool
  deriving DecidableEq, Repr

/-- A tally signal in flight (R196, R200). -/
structure Sig where
  id : Nat
  src : Nat
  tally : Nat
  stall : Nat
  ctx : Nat
  amt : Int
  /-- has crossed its mesh link or the signal network -/
  arrived : Bool
  deriving DecidableEq, Repr

/-- What a mesh flit carries (R223). -/
inductive Payload where
  /-- one porter line: root, slot, stream number, line, descriptor, data -/
  | line (root slot goSeq idx : Nat) (d : Desc) (data : Line)
  /-- a signal with no line to ride on, by its number -/
  | sig (id : Nat)
  deriving DecidableEq, Repr

/-- A flit waiting at a stall's mesh output (R223): the stall, the direction, the input it came from. -/
structure Flit where
  at_ : Nat
  dir : Nat
  input : Nat
  load : Payload
  deriving DecidableEq, Repr

/-- Where a porter request stands (07_depot_memory.md). -/
inductive Stage where
  /-- a write whose address the ledger has still to translate: the context and virtual address -/
  | xlate (ctx va : Nat)
  /-- a read of the issuing stall's own stock -/
  | own
  /-- at the stall, waiting for the row spine (R224) -/
  | spine
  /-- in its row port's buffer (R225) -/
  | port
  /-- in an edge port's buffer of a die, with the slice of that port (R226, R244) -/
  | edge (die slice : Nat)
  /-- admitted: die, slice, queue 0-15 bank, 16 HBM, 17 edge, 18 relay (R227) -/
  | queue (die slice q : Nat)
  /-- in the HBM tracker that the HBM queue of a slice feeds (R227, R241) -/
  | tracker (die slice : Nat)
  /-- left for the host die in this cy (R251) -/
  | host (cy : Nat)
  /-- left for another module under this tag (10_weago.md R341) -/
  | remote (tag : Nat)
  /-- answered with data -/
  | data (l : Line)
  /-- a write acknowledged -/
  | ack
  /-- answered with an error: the incident of the block that answered -/
  | err (code : Nat)
  deriving DecidableEq, Repr

/-- A porter request (R180, R224): the stall, the slot and stream, its place in the stream, its address, its data where it writes. -/
structure Req where
  seq : Nat
  sid : Nat
  slot : Nat
  goSeq : Nat
  /-- first element it brings (reads) or output line (writes) -/
  idx : Nat
  count : Nat
  byteOff : Nat
  addr : Nat
  wdata : Option Line
  cost : Nat
  stage : Stage
  /-- whether it travels on the detoured virtual channel (R243, R246) -/
  detour : Bool
  /-- the dies still to pass, from its admission to an edge queue of its own die on (R245, R246) -/
  route : List Nat
  /-- the edge ports entered, newest first, as 32 × die + slice (R226) -/
  path : List Nat
  /-- cy in which it left its own die (R251) -/
  left : Option Nat
  deriving DecidableEq, Repr

/-- A reckoning unit (06_tallies.md R209). -/
structure Unit where
  gen : Nat
  arrived : Nat
  parked : Nat
  n : Nat
  bellm : Bool
  pen : Bool
  parent : Nat
  owner : Nat
  assigned : Bool
  orph : Bool
  pending : Bool
  /-- child units that arrived for GEN and for GEN + 1, each 256 × module + unit (R213) -/
  kids : List Nat
  kidsNext : List Nat
  /-- modules that sent an arrival: 2 × module for GEN, 2 × module + 1 for GEN + 1 (10_weago.md R346) -/
  mods : List Nat
  deriving DecidableEq, Repr

/-- A unit that no context owns. -/
def Unit.free : Unit := ⟨0, 0, 0, 0, false, false, 0, 0, false, false, false, [], [], []⟩

/-- An arrival in flight to a unit (R211): tag, context field, the arriving stall, context and module, or the child unit. -/
structure Arrival where
  id : Nat
  unit : Nat
  tag : Nat
  ctxField : Nat
  stall : Nat
  ctx : Nat
  child : Option Nat
  fromModule : Nat
  deriving DecidableEq, Repr

/-- A completion or orphaning broadcast that has not reached every stall (R212, R216). -/
structure Broadcast where
  id : Nat
  unit : Nat
  gen : Nat
  orphan : Bool
  /-- the unit's module -/
  module : Nat
  deriving DecidableEq, Repr

/-- A parent's answer on its way to a child unit (R213). -/
structure Answer where
  id : Nat
  child : Nat
  gen : Nat
  deriving DecidableEq, Repr

/-- A depot crossbar slice's pointers (07_depot_memory.md R229). -/
structure Slice where
  lastQ : Nat
  lastIn : Tbl Nat
  deriving DecidableEq, Repr

/-- A crate named by context, address and size (08_ledger_dray.md R254). -/
structure Crate where
  ctx : Nat
  va : Nat
  /-- 2 MiB where true, 64 KiB where false -/
  big : Bool
  deriving DecidableEq, Repr

/-- What is registered between bells for the next one, with the cy of its registration kept beside it in `asks` (00_scope.md R18): an
order that starts, a stop report of a context, a fence that falls due, a reckoning unit that waits for a bell, a die reset, a link
that failed. -/
inductive Ask where
  | order (id : Nat)
  | fault (ctx : Nat)
  | fence (domain : Nat)
  | unit (u : Nat)
  | die (d : Nat)
  | link (l : Nat)
  deriving DecidableEq, Repr

/-- Storage: tier code, local address or host address, module (R257). -/
structure Store where
  tier : Nat
  addr : Nat
  module : Nat
  deriving DecidableEq, Repr

/-- Where a move stands (R276). -/
inductive MovePhase where
  /-- asked for, waits for the page commit that sets MOVE -/
  | asked
  /-- MOVE set, waits for the drain and the copy -/
  | moving
  /-- copied, waits for the page commit that ends it -/
  | copied
  /-- met an error response, waits for the commit that clears MOVE -/
  | failed
  /-- its engine's die became held: cancelled at the next page commit, started again at the one after (R273) -/
  | handover
  /-- an owner image lies in new storage and waits for the page commit that makes the leaf name it (R266, R284) -/
  | imported
  deriving DecidableEq, Repr

/-- A move of a crate (R276), or an export's copy (R284). -/
structure Move where
  crate : Crate
  phase : MovePhase
  src : Store
  dst : Store
  version : Nat
  isExport : Bool
  /-- ring entry the export order completes, if any -/
  order : Option Nat
  /-- requests in flight at the commit that set MOVE (R268) -/
  fence : List Nat
  /-- die whose dray engine serves it (R273) -/
  engine : Nat
  /-- whether the dray chose it to make room (R275) -/
  evict : Bool
  /-- cy in which its phase began (R267, 00_scope.md R18) -/
  since : Nat
  deriving DecidableEq, Repr

/-- Storage given up that waits for its requests (R268). -/
structure Drain where
  store : Store
  units : Nat
  fence : List Nat
  deriving DecidableEq, Repr

/-- A change of POL, W or SHR that waits for a page commit (R266, R267). -/
structure PolChange where
  crate : Crate
  pol : Option Nat
  shr : Option Bool
  /-- cy in which it was asked for (00_scope.md R18) -/
  asked : Nat
  deriving DecidableEq, Repr

/-- A share that waits for the receiving context's page commit (R271). -/
structure ShareReq where
  crate : Crate
  toCtx : Nat
  toVa : Nat
  w : Bool
  order : Option Nat
  /-- cy in which it was asked for (00_scope.md R18) -/
  asked : Nat
  deriving DecidableEq, Repr

/-- A translation of an engine that waits for a placement or an import (R262, R274): the requester, its context and VA, and the cause with
which it has been refused since, if it has. -/
structure Waiter where
  who : Nat
  ctx : Nat
  va : Nat
  code : Option Nat
  deriving DecidableEq, Repr

/-- Used storage: first 64 KiB unit and count. -/
structure Span where
  start : Nat
  len : Nat
  deriving DecidableEq, Repr

/-- The ledger, the allocator and the dray (08_ledger_dray.md). -/
structure Ledger where
  /-- table entries and version shadows by their local HBM address (R255 to R259) -/
  tabs : Tbl Nat
  hbmUsed : List Span
  depotUsed : List Span
  ddrUsed : List Span
  /-- units of HBM that hold tables: context, first unit, next free byte offset -/
  tabUnits : List (Nat × Nat × Nat)
  /-- every crate that has a leaf, in the order of mapping -/
  crates : List Crate
  /-- tiers in which the dray is making room (R275) -/
  evicting : List Nat
  /-- mappings of storage that several contexts map (R271) -/
  shares : List (Store × Crate)
  drains : List Drain
  /-- frees asked for, each with its cy (00_scope.md R18) -/
  pendFree : List (Crate × Nat)
  pendPol : List PolChange
  pendShare : List ShareReq
  moves : List Move
  /-- placement tier and die of TIER 0 crates (R270) -/
  places : List (Crate × Nat × Nat)
  /-- crates that a translation or NOW = 1 waits for, with the requesting die (R274) -/
  demands : List (Crate × Nat)
  sweepHbm : Nat
  sweepDepot : Nat
  sweepBells : Nat
  sealCount : Nat
  ownerFloor : Nat
  importRefused : Nat
  movesDone : Nat
  hintsSkipped : Nat
  faultVa : Nat
  faultCtx : Nat
  dieCache : Tbl (List (Nat × Nat))
  /-- upper-level entries of each die's cache, by the address of the pointer entry (R261) -/
  upper : Tbl (List Nat)
  /-- translations of engines that wait (R262) -/
  waiters : List Waiter
  /-- modules that have denied room since the last page commit (log entry 163) -/
  denied : List Nat
  deriving DecidableEq, Repr

/-- The memory registers and flags of one die (07_depot_memory.md Table DEP.7). -/
structure DieMem where
  stack0 : Bool
  stack1 : Bool
  keyed : Bool
  absent : Bool
  depotCe : Nat
  depotUe : Nat
  hbmCe : Nat
  hbmUe : Nat
  ueAddr : Nat
  ueSrc : Nat
  hbmPeak : Nat
  peakDepth : Nat
  peakSlice : Nat
  peakQueue : Nat
  ddrTimeouts : Nat
  depotCeBell : Bool
  hbmCeBell : Bool
  deriving DecidableEq, Repr

/-- A context (12_clerk_firmware.md Table CLK.3). -/
inductive CtxState where
  | free
  | created
  | running
  | saving
  | saved
  | restoring
  | faulted
  deriving DecidableEq, Repr

/-- A stall's saved image and slot (R104, R188, R219, R406). -/
structure Image where
  /-- the stall it is restored on, and the stall it was saved from -/
  stall : Nat
  home : Nat
  sqX : Nat
  sqY : Nat
  skeep : Nat
  st : Stall
  port : StallPort
  /-- stock ranges kept, by offset and length, and their bytes by offset -/
  kept : List (Nat × Nat)
  stock : List Host.Cell
  deriving DecidableEq, Repr

/-- An incident as its block reports it (00_scope.md R24, 11_host_rings.md R386): code, die, context, stall or unit, PC, bell, details. -/
structure Incident where
  code : Nat
  die : Nat
  ctx : Option Nat
  whre : Nat
  pc : Nat
  bell : Nat
  detail : List Nat
  deriving DecidableEq, Repr

/-- What the module sends to the host die: bytes written to host memory, an interrupt of a vector (11_host_rings.md R385 to R388), or
an answer to a configuration access. -/
inductive HostWrite where
  | bytes (addr : Nat) (l : List Byte)
  | int (vector : Nat)
  /-- the answer of a configuration read (R363) -/
  | reg (addr : Nat) (value : Nat)
  /-- the acknowledgement of a configuration write -/
  | ackReg (addr : Nat)
  /-- an ERR message with its cause (Table HST.1) -/
  | err (cause : Nat)
  deriving DecidableEq, Repr

/-- The incident ring's counters (R374, R382, R387) and the incidents held until the first commit (R373). -/
structure Inc where
  held : List Incident
  index : Nat
  tail : Nat
  head : Nat
  lost : Nat
  /-- the record that stands for the last place was written, and further incidents only count (R387) -/
  full : Bool
  /-- the index ran out under this session (R382) -/
  exhausted : Bool
  /-- a write to the ring failed (R387) -/
  broken : Bool
  /-- every incident raised, newest first, whether or not the ring took it -/
  log : List Incident
  deriving DecidableEq, Repr

/-- The module's own registers and state machines (11_host_rings.md Table HST.3). -/
structure Mod where
  id : Nat
  state : Nat
  configValid : Bool
  session : Bool
  orderKey : Nat
  deriving DecidableEq, Repr

/-- An entry of a plan dispatch (12_clerk_firmware.md Table CLK.7). -/
structure PlanEntry where
  die : Nat
  x0 : Nat
  y0 : Nat
  x1 : Nat
  y1 : Nat
  image : Nat
  len : Nat
  load : Nat
  entry : Nat
  skeep : Nat
  deriving DecidableEq, Repr

/-- A dispatch that has started and not completed (R404): its order, its entries, S1, the entries whose image is loaded, whether its
stalls run, and the stalls that have not yet reported plan end. -/
structure Dispatch where
  order : Nat
  ctx : Nat
  entries : List PlanEntry
  s1 : Nat
  loaded : List Nat
  lastWrite : Nat
  running : Bool
  waits : List Nat
  deriving DecidableEq, Repr

/-- A context (12_clerk_firmware.md R396 to R410). -/
structure Ctx where
  state : CtxState
  prio : Nat
  quantum : Nat
  minrun : Nat
  /-- the overrun policy: true faults, false slips (R44) -/
  ovrFault : Bool
  /-- HBM address of the root table (R254) -/
  root : Option Nat
  assign : List Nat
  saveArea : List Nat
  images : List Image
  /-- a kill (true) or reset (false) that waits for its bell, with its order (R400) -/
  ending : Option (Bool × Nat)
  /-- the first stop reported and its stall (R399) -/
  cause : Option (Nat × Nat)
  resumed : Nat
  /-- an ordered or chosen save that waits (R406), with its order where it has one -/
  save : Option (Option Nat)
  /-- an ordered restore that waits (R408) -/
  restore : Option Nat
  /-- squares held at the save: die, x0, y0 (R152) -/
  squares : List (Nat × Nat × Nat)
  /-- forwarding of signals to stalls that the context has left: old stall, new stall (R215) -/
  forward : List (Nat × Nat)
  /-- the last write of a restore has been made (R408) -/
  restored : Bool
  deriving DecidableEq, Repr

/-- A context number that is unused. -/
def Ctx.none : Ctx :=
  ⟨.free, 0, 0, 0, false, Option.none, [], [], [], Option.none, Option.none, 0, Option.none, Option.none, [], [], false⟩

/-- An order taken from a ring (11_host_rings.md Table HST.8) with the argument block read at its fetch (R380). -/
structure Order where
  id : Nat
  ring : Nat
  op : Nat
  intr : Bool
  fence : Bool
  seq : Nat
  ctx : Nat
  ovr : Bool
  user : Nat
  inl : List Byte
  args : List Byte
  /-- cy in which it was taken -/
  taken : Nat
  deriving DecidableEq, Repr

/-- The fields of a package message's header cell (11_host_rings.md Table HST.1). -/
structure PkgHead where
  type : Nat
  vc : Nat
  lines : Nat
  sdie : Nat
  ddie : Nat
  tag : Nat
  ctx : Nat
  addr : Nat
  w4 : Bool
  data : Nat
  rsv : Nat
  deriving DecidableEq, Repr

/-- A ring pair (R374 to R378): state 0 OFF, 1 RUNNING, 2 DRAINING, 3 STOPPED (Table HST.3). -/
structure Ring where
  state : Nat
  cause : Nat
  ohead : Nat
  ctail : Nat
  chead : Nat
  eseq : Nat
  cidx : Nat
  /-- descriptors sampled and not yet fetched (R376) -/
  toFetch : Nat
  /-- taken and not started, oldest first -/
  intake : List Order
  /-- started and not completed -/
  started : List Order
  /-- the completion ring failed: completions are lost (R378) -/
  broken : Bool
  /-- completions counted as lost (R378, R382) -/
  lost : Nat
  /-- ESEQ or the completion index has run out: the ring runs no more until a new session opens (R382) -/
  spent : Bool
  /-- the last completion index of the session has been used: no IV repeats (R382, R383) -/
  cplSpent : Bool
  deriving DecidableEq, Repr

/-- A ring that is off. -/
def Ring.off : Ring := ⟨0, 0, 0, 0, 0, 0, 0, 0, [], [], false, 0, false, false⟩

end Sys2Proof.Machine
end

