-- ==== Sys2Proof/Machine/Parts2.lean ====
section
/-! DEFINITION. The parts of the machine's state for chapters 09 to 16: plain data, one structure per piece of hardware. -/
namespace Sys2Proof.Machine

/-! ## Weago (10_weago.md) -/

/-- The sequence numbers and the replay buffer of a port (R322, R323), which a full retraining keeps while it numbers its own blocks from 0
(R329, log entry 52). -/
structure Seqs where
  base : Nat
  top : Nat
  rewinds : Tbl Nat
  replay : List Block
  expect : Nat
  deriving DecidableEq, Repr

/-- One Weago port: the registers of Table WGO.12, its training, both ends of its link layer and its message queues. -/
structure WPort where
  /-- 0 OFF; 1 TRAINING; 2 UP; 3 NARROWING; 4 DOWN -/
  state : Nat
  width : Nat
  lanesOk : Nat
  peerPort : Nat
  peerHall : Bool
  peerId : Nat
  flight : Nat
  long : Bool
  resends : Nat
  badBlocks : Nat
  authErr : Nat
  retrains : Nat
  /-- training step of Table WGO.5, 0 outside training -/
  step : Nat
  /-- cy at which training began, or at which DOWN was entered -/
  since : Nat
  /-- the credits are set afresh at step 3 (R324) -/
  fresh : Bool
  /-- no training before the next accepted commit (R327) -/
  barred : Bool
  /-- the transmitter (R323) -/
  base : Nat
  top : Nat
  next : Nat
  rewind : Option Nat
  rewinds : Tbl Nat
  replay : List Block
  lastMove : Nat
  credit : Tbl Nat
  lastC : Nat
  tx : Tbl (List Msg)
  /-- the receiver (R322) -/
  expect : Nat
  nak : Bool
  ret : Tbl Nat
  rx : Tbl (List Msg)
  /-- epoch and block counts of both directions (R321) -/
  epoch : Nat
  btx : Nat
  brx : Nat
  /-- receive slots of the tag failures that count toward AUTH_MAX (R328) -/
  authSlots : List Nat
  /-- switch slot and the lanes that stay (R328) -/
  switch : Option (Nat × Nat)
  /-- link keying (13_trust.md R433): items seen, keys agreed, owned for this epoch (R435) -/
  certSeen : Bool
  ekSeen : Bool
  keyed : Bool
  owned : Bool
  /-- fragments of the items received, own HELLO cell, the peer's, the peer's public key, own ML-KEM pair, EK_link, LK -/
  items : Tbl (List Byte)
  hello : Nat
  peerHello : Nat
  peerPub : List Byte
  kem : List Byte × List Byte
  ek : List Byte
  lk : List Byte
  /-- blocks sent, newest first -/
  sent : List Block
  /-- owned in an epoch before this one, whose owner check is still to come (R329, 13_trust.md R435) -/
  prior : Bool
  /-- lanes of the chosen group, bit by bit (R315, R327) -/
  active : Nat
  /-- block slots sent and received since power-on (R328, R353) -/
  slots : Nat
  rslots : Nat
  /-- corrected symbols of each lane with their slots, and the lanes with more than 1,024 of them in 2^16 slots (R328) -/
  fixes : Tbl (List (Nat × Nat))
  worn : Nat
  /-- what a full retraining keeps (R329) -/
  kept : Option Seqs
  /-- scrambler of the sending direction, and the symbols of the last slot by lane (R319) -/
  scram : Nat
  wire : Tbl (List Nat)
  /-- stamps of the last block slots, and those of the TSYNC messages received and not yet taken (R352) -/
  txStamp : Int
  rxStamp : Int
  stampsIn : List Int
  deriving DecidableEq, Repr

/-- A port that is OFF. -/
def WPort.off : WPort :=
  ⟨0, 0, 0, 0, false, 0, 0, false, 0, 0, 0, 0, 0, 0, true, false, 0, 0, 0, none, [], [], 0, [], 3, [], 0, false, [], [], 0, 0, 0, [],
    none, false, false, false, false, [], 0, 0, [], ([], []), [], [], [], false, 0, 0, 0, [], 0, none, 0, [], 0, 0, []⟩

/-- A request that left for another module (R340 to R342): tag, destination, first address, lines, whether it writes, PSEL, the
porter requests it joins (none for a write of a gather stall or a reducer), the cy in which its message left the port, if it has. -/
structure Remote where
  tag : Nat
  dest : Nat
  addr : Nat
  lines : Nat
  wr : Bool
  psel : Nat
  reqs : List Nat
  sent : Option Nat
  deriving DecidableEq, Repr

/-- A REQ message that this module sends or holds back and that no porter's request waits for: its tag, the die, context and stall or unit
that a refusal of it names (06_tallies.md R221), and the message. -/
structure Sent where
  tag : Nat
  die : Nat
  ctx : Option Nat
  whre : Nat
  msg : Msg
  deriving DecidableEq, Repr

/-- Storage granted to a home module (R348, R349): home, context and VA of the crate there, size, local address, whether opened. -/
structure Grant where
  home : Nat
  ctx : Nat
  va : Nat
  big : Bool
  addr : Nat
  opened : Bool
  deriving DecidableEq, Repr

/-- An image that arrives line by line (R347, R350): sender, context, VA, size, image lines by their offset in the image. -/
structure Inbox where
  src : Nat
  ctx : Nat
  va : Nat
  big : Bool
  lines : Tbl Line
  deriving DecidableEq, Repr

/-- A crate exchange at the home module (R348), or a campus copy (R350): the lender, the crate, where it stands (0 room asked, 1 room
granted, 2 image sent, 3 image opened, 4 fetch sent, 5 returned, 6 failed), the address granted, the order of a campus copy, the version of a first placement's
image (08_ledger_dray.md R258). -/
structure Exchange where
  peer : Nat
  crate : Crate
  phase : Nat
  addr : Nat
  order : Option Nat
  version : Nat
  deriving DecidableEq, Repr

/-- Time sync (R351 to R355), in units of 0.125 ns. -/
structure Sync where
  /-- the offset last applied, its change since the one before, the local time between them, and the local time at which it was applied
  (R353) -/
  offset : Int
  rate : Int
  span : Nat
  since : Int
  exch : Nat
  /-- exchange in flight: its number, its port, its t1 once its block has left -/
  open_ : Option (Nat × Nat × Option Int)
  /-- port and slot count at which the last exchange started -/
  started : Option (Nat × Nat)
  /-- offset and delay of the last eight exchanges, newest first -/
  samples : List (Int × Int)
  lockedParent : Bool
  altUsed : Bool
  holdover : Bool
  delay : Nat
  /-- bells since the last accepted exchange, and whether R355's record has been made since -/
  quiet : Nat
  said : Bool
  /-- the root has set its offset since hall mode began (R352) -/
  zeroed : Bool
  deriving DecidableEq, Repr

/-- The module's Weago endpoint. -/
structure Fabric where
  ports : Tbl WPort
  routes : List Nat
  badPaths : List (Nat × Nat)
  psel : Tbl Nat
  remotes : List Remote
  /-- error codes that answered writes of gather stalls and reducers, by tag (09_training.md R301, R311) -/
  failedWrites : Tbl Nat
  held : List Sent
  /-- messages without answer, by tag, the latest 16,383 of them (R331, log entry 162) -/
  sent : List Sent
  tagSeq : Nat
  timeouts : Nat
  noroutes : Nat
  grants : List Grant
  inbox : List Inbox
  exchanges : List Exchange
  sync : Sync
  deriving DecidableEq, Repr

/-! ## Configuration and the host (11_host_rings.md) -/

/-- The handshake and the commit in progress (R367 to R373). -/
structure Conf where
  /-- MOD_HANDSHAKE.STATE -/
  hs : Nat
  /-- version whose comparison runs -/
  hsRun : Option Nat
  drvIf : Nat
  /-- MOD_COMMIT_STATUS -/
  status : Nat
  overrun : Bool
  rule : Nat
  applied : Nat
  /-- staged values copied at the COMMIT, and its CRC word -/
  copy : Tbl Nat
  crc : Nat
  /-- route entries read for the commit in progress (10_weago.md R335) -/
  routes : List Nat
  /-- cy at which the check completed -/
  checked : Nat
  capGen : Nat
  /-- die of the ring engine (R362) -/
  ringDie : Nat
  /-- a doorbell read is out (R376) -/
  dbOut : Bool
  dbRefused : Bool
  deriving DecidableEq, Repr

/-! ## Training (09_training.md) -/

/-- A gather (R299 to R301): its order, its context, its descriptor, whether it runs, whether its rectangle is still held. -/
structure Gather where
  order : Nat
  ctx : Nat
  desc : List Byte
  running : Bool
  finished : Bool
  /-- lines written so far, in ascending order (R301) -/
  next : Nat
  /-- tag and line of each write to another module (R232, R301) -/
  acks : List (Nat × Nat)
  deriving DecidableEq, Repr

/-- A bucket in progress on a member (R307, R308): its number, counted over all steps since binding; the group sums that end at this
member, by line; the lines written; tag and line of each write to another module (R232, R311). -/
structure Bucket where
  num : Nat
  sums : Tbl Line
  written : List Nat
  acks : List (Nat × Nat)
  deriving DecidableEq, Repr

/-- A line of a reduction (R308, R309): kind (0 partial and 3 final of level 1, 1 partial and 2 final of level 2, 4 a line of this member
that starts a sum), bucket, line, value. -/
structure RLine where
  kind : Nat
  num : Nat
  line : Nat
  value : Line
  deriving DecidableEq, Repr

/-- A bound reduction set (R305 to R312). -/
structure RSet where
  setid : Nat
  ctx : Nat
  desc : List Byte
  members : List (Nat × Nat)
  reducers : List Nat
  /-- KiB of fill received in all (R307) -/
  fill : Nat
  /-- next bucket to start, counted over all steps -/
  nextStart : Nat
  /-- next bucket whose completion DONE is to count -/
  nextDone : Nat
  buckets : List Bucket
  /-- lines taken from predecessors, and lines of this member that start a sum, not yet used -/
  waiting : List RLine
  /-- place of the next line to take in the predecessor's sequence, for each reducer and kind (4 × reducer + kind): bucket and index -/
  seen : Tbl (Nat × Nat)
  /-- lines computed whose turn to be sent has not come (R309) -/
  outq : List RLine
  /-- place of the next line to send in this member's own sequence -/
  sentAt : Tbl (Nat × Nat)
  /-- a fault of the set has stopped its reducers (R312) -/
  faulted : Bool
  /-- order of a release that waits (R312) -/
  release : Option Nat
  deriving DecidableEq, Repr

/-- A reduction set bound at the next bell's step 6 (R306). -/
structure RBind where
  order : Nat
  ctx : Nat
  desc : List Byte
  /-- lines of the tables that lie outside the module, by VA -/
  host : Tbl Line
  deriving DecidableEq, Repr

/-! ## The clerk's pending work (12_clerk_firmware.md) -/

/-- A square binding or unbinding asked for (R149, R151, R405). -/
structure SqReq where
  order : Nat
  ctx : Nat
  any : Bool
  unbind : Bool
  die : Nat
  x0 : Nat
  y0 : Nat
  deriving DecidableEq, Repr

/-- A core of a die controller (R392, R411, R412): state 0 INACTIVE, 1 RUNNING, 2 RESTARTING, 3 FAILED; restarts; last cause; the
scheduled decision at which it last fired. -/
structure Core where
  state : Nat
  restarts : Nat
  cause : Nat
  fired : Nat
  deriving DecidableEq, Repr

/-! ## Trust (13_trust.md) -/

/-- The assayer's state (R425 to R441). -/
structure Trust where
  image : FwImage
  slot : Nat
  fallback : Bool
  staged : Option FwImage
  /-- order of the activation that is pending, its deferral, the decision at which the cores were reset -/
  act : Option Nat
  deferred : Bool
  deferLogged : Bool
  reloading : Option Nat
  /-- pending KEM key: its number, and bytes 0 to 2303 of the evidence that carried it -/
  kem : Option (Nat × List Byte)
  sessions : Nat
  ownerId : List Byte
  crateKey : List Byte
  /-- order of a session close that waits for its bell -/
  close : Option Nat
  deriving DecidableEq, Repr

/-! ## Power (14_power_ageing_resets.md) -/

/-- A voltage domain (R447, R455, R456). -/
structure Domain where
  vcode : Nat
  vpass : Option Nat
  floor : Nat
  ratio : Nat
  ratio0 : Nat
  /-- fence due, with its cause: 0 boot, 1 re-plan, 2 canary -/
  due : Option Nat
  /-- bell of the last 0x0D06 -/
  canaryBell : Option Nat
  powered : Bool
  deriving DecidableEq, Repr

/-- A domain whose trims no boot has measured. -/
def Domain.fresh : Domain := ⟨16, some 0, 0, 32768, 32768, none, none, true⟩

/-- The power core (R449 to R452) and the power states (R464). -/
structure Power where
  spow : Nat
  sth : Nat
  s : Nat
  /-- consecutive decisions with S_pow, S_th at SMAX × P, up to 16; 17 once the hold of R451 is due -/
  runPow : Nat
  runTh : Nat
  level : Nat
  emergBell : Nat
  first : Bool
  /-- input voltage (10 mV) and current (0.1 A) as last read, and whether it lies out of range -/
  vin : Nat
  iin : Nat
  inputOut : Bool
  powerNow : Nat
  tmax : Nat
  hmax : Nat
  energy : Nat
  /-- what the interval that ended at the last decision measured, its length in cy, and the energy of all intervals (R471) -/
  tel : Telemetry
  telCy : Nat
  energySum : Nat
  /-- per die: hottest sensor, peak, power -/
  dieTemp : Tbl Nat
  diePeak : Tbl Nat
  diePower : Tbl Nat
  canaries : Tbl Nat
  domSel : Tbl Nat
  domains : Tbl Domain
  /-- cy until which a tripped comparator's source stays active; dies whose thermal source is active -/
  tripUntil : Nat
  hotDies : List Nat
  replans : Nat
  replanDue : Bool
  /-- kinds of the ageing log records whose write failed, retried at the next re-plan (R461) -/
  logDue : List Nat
  /-- DARK exit: latch cy -/
  exit : Option Nat
  /-- domains powered so far in a DARK exit (20n + k) -/
  powered : List Nat
  /-- dies whose reset waits for a bell, and dies under reset -/
  dieResetAsked : List Nat
  dieResetting : List Nat
  deriving DecidableEq, Repr

/-! ## Check units (15_check_unit_queues.md) -/

/-- A check unit (Table CHK.2). -/
structure CheckUnit where
  cfg : Nat
  poly : Nat
  init : Nat
  xorout : Nat
  state : Nat
  fed : Nat
  snoop : Nat
  /-- W1C status bits [7:2] in place -/
  status : Nat
  /-- attached, and the slot's stream number, none while it waits for the next PRT.GO -/
  attached : Bool
  goSeq : Option Nat
  /-- next output line expected, and lines that wait in the window with whether their source is public -/
  nextLine : Nat
  window : Tbl (Line × Bool)
  /-- STATE and FED before each line fed of the attached stream (R482) -/
  marks : Tbl (Nat × Nat)
  deriving DecidableEq, Repr

/-- A check unit at power-on. -/
def CheckUnit.fresh : CheckUnit := ⟨32, 0, 0, 0, 0, 0, 0, 0, false, none, 0, [], []⟩

/-- The queue registers of one clock-crossing queue (Table CHK.5) and the last value read from it (R486). -/
structure CQueue where
  underrun : Bool
  overrun : Bool
  levelHit : Bool
  level : Nat
  resets : Nat
  armed : Bool
  deriving DecidableEq, Repr

/-- A queue at power-on. -/
def CQueue.fresh : CQueue := ⟨false, false, false, 0, 0, true⟩

/-! ## Package (16_package_test.md) -/

/-- Pins, I3C port and TAP (R498 to R507). -/
structure Pkg where
  resetN : Bool
  refclk : Bool
  holdReq : Bool
  flashSelN : Bool
  /-- main rails in regulation (R446) -/
  rails : Bool
  i3cIndex : Nat
  dynAddr : Option Nat
  addrPins : Nat
  /-- TRST_N, low while the land is not driven -/
  trstN : Bool
  /-- current TAP instruction (Table PKG.6 opcode) -/
  ir : Nat
  /-- cy of the Update-IR of an EXTEST-family instruction, and whether the cells hold the lands -/
  extest : Option Nat
  cells : Bool
  /-- the boundary scan register's bits preloaded and captured -/
  bsr : Nat
  bootStage : Nat
  aValid : Bool
  bValid : Bool
  aCheck : Nat
  bCheck : Nat
  diesOk : Nat
  /-- bytes returned over I3C, newest read first -/
  i3cOut : List (List Byte)
  /-- what the data register that the instruction selects has captured (R504, R505) -/
  dr : Nat
  /-- what the instruction register captured at its last scan, 0 before the first (R504) -/
  irCap : Nat
  deriving DecidableEq, Repr

end Sys2Proof.Machine
end

