-- ==== Sys2Proof/Machine/State.lean ====
section
/-! DEFINITION. The machine's state, its reset value, and the reasons a command can stop. -/
namespace Sys2Proof.Machine

/-- Faults of the model: none. Every failure the spec names is an effect on the state (an incident record, a stopped stall, a
refused order, an error response), so no command raises a fault; this is safe, since nothing is cut short. -/
inductive Fault where
  deriving DecidableEq, Repr

/-- Refusals of the model. -/
inductive Refusal where
  /-- Raised only by the dispatcher for a command that has no meaning yet; safe, since the run stops there. -/
  | notModelled (mnemonic : String)
  deriving DecidableEq, Repr

/-- The state of the compute side. -/
structure State where
  /-- the cy reached (log entry 3) -/
  now : Nat
  /-- free values used so far: the model's own field (log entry 4) -/
  freeCtr : Nat
  bell : Bell
  /-- what has been registered since the last decision, with its cy (R18) -/
  asks : List (Ask × Nat)
  /-- scheduled decisions since power-on (R411) -/
  decisions : Nat
  /-- HBM, depot and stock -/
  mem : List Host.Cell
  hbmEpoch : Nat
  stalls : Tbl Stall
  ports : Tbl StallPort
  squares : List Square
  sqReqs : List SqReq
  sigs : List Sig
  flits : List Flit
  reqs : List Req
  idSeq : Nat
  /-- last requester accepted by each row spine, row ports of dies in order (R224) -/
  spine : Tbl Nat
  slices : Tbl Slice
  units : Tbl Unit
  arrivals : List Arrival
  casts : List Broadcast
  answers : List Answer
  tlySats : Nat
  tlyRejects : Nat
  ledger : Ledger
  dieMem : Tbl DieMem
  /-- UCIe links marked failed, and those that fail at the next bell (R246) -/
  failedLinks : List Nat
  failing : List Nat
  /-- storage lent to this module that its lender no longer holds for it (R285, 10_weago.md R349) -/
  lostStores : List Store
  fab : Fabric
  ctxs : Tbl Ctx
  dispatches : List Dispatch
  gathers : List Gather
  sets : List RSet
  binds : List RBind
  /-- aborts sent round the rings: SETID, member at fault, its cause (R312) -/
  aborts : List (Nat × Nat × Nat)
  cores : Tbl Core
  /-- ring served last by the policy (R410) -/
  served : Nat
  fencedDoms : List Nat
  deadDies : List Nat
  heldDies : List Nat
  /-- staged values of ST fields and the values of RW fields, by offset in configuration space -/
  regs : Tbl Nat
  /-- live values of ST fields -/
  live : Tbl Nat
  mod : Mod
  conf : Conf
  inc : Inc
  /-- what went to the host die, newest first -/
  out : List HostWrite
  /-- what waits while the ring engine's control core restarts, newest first (R412) -/
  outWait : List HostWrite
  rings : Tbl Ring
  /-- cy of the last interrupt of each vector, and the vectors held back (R389) -/
  intLast : Tbl Nat
  intHeld : List Nat
  trust : Trust
  flash : Flash
  pow : Power
  cus : Tbl CheckUnit
  queues : Tbl CQueue
  pkg : Pkg
  /-- commands that wait, first in, first out -/
  pending : List Instr
  deriving DecidableEq, Repr

/-! ## Reset: the module right after a power-on boot (14_power_ageing_resets.md R464, R466; log entries 1 and 2) -/

/-- An image whose header names version 0 and whose measurements are empty (log entry 2). -/
def FwImage.blank (check : Nat) : FwImage := ⟨check, 0, 0, 0, 0, [], []⟩

/-- The flash as a factory leaves it: slot A valid, slot B empty, both selector copies erased, the baseline and one boot record in the
ageing log (log entry 2). -/
def Flash.reset : Flash := ⟨FwImage.blank 0, FwImage.blank 1, [], [], ⟨[], [], [], 1, 0, Config.logBytes 0, [Config.logBytes 1]⟩⟩

/-- The bell generator of die 3, locked to nothing, HELD, first decision at cy 22,500 (01_bell.md R34, Table BELL.8; log entry 1). -/
def Bell.reset : Bell :=
  ⟨3, false, true, false, 0, 0, 0, 0, 0, 0, 0, 0, none, [], 0, 22500, [], [], 0, []⟩

/-- Empty ledger (08_ledger_dray.md Table LDG.10). -/
def Ledger.reset : Ledger :=
  ⟨[], [], [], [], [], [], [], [], [], [], [], [], [], [], [], 0, 0, 0, 0, 0, 0, 0, 0, 0, 0, [], [], [], []⟩

/-- Time sync before its first exchange. -/
def Sync.reset : Sync := ⟨0, 0, 0, 0, 0, none, none, [], false, false, false, 0, 0, false, false⟩

/-- The Weago endpoint with every port OFF (10_weago.md Table WGO.12). -/
def Fabric.reset : Fabric := ⟨[], [], [], [], [], [], [], [], 0, 0, 0, [], [], [], Sync.reset⟩

/-- No telemetry yet. -/
def Telemetry.zero : Telemetry := ⟨0, 0, 0, [], [], 0, 0⟩

/-- The power core after boot (14_power_ageing_resets.md Table PWR.10). -/
def Power.reset : Power :=
  ⟨0, 0, 0, 0, 0, 0, 0, true, 0, 0, false, 0, 0, 0, 0, Telemetry.zero, 0, 0, [], [], [], [], [], [], 0, [], 0, false, [], none, [], [], []⟩

/-- The assayer after boot, no session, nothing staged (13_trust.md Table TRU.12). -/
def Trust.reset : Trust :=
  ⟨FwImage.blank 0, 0, false, none, none, false, false, none, none, 0, [], [], none⟩

/-- Cores after the election of die 3: every control core RUNNING, and on die 3 the scheduler core, the power core and the assayer
(12_clerk_firmware.md R392, R393, Table CLK.12). -/
def coresReset : Tbl Core :=
  (upFrom 0 16).flatMap fun d => if d = 3 then [(12, ⟨1, 0, 0, 0⟩), (13, ⟨1, 0, 0, 0⟩), (14, ⟨1, 0, 0, 0⟩), (15, ⟨1, 0, 0, 0⟩)]
    else [(4 * d, ⟨1, 0, 0, 0⟩)]

/-- Pins and test access after boot (16_package_test.md). -/
def Pkg.reset : Pkg :=
  ⟨true, true, false, true, true, 0, none, 0, false, 1, none, false, 0, 5, true, false, 0, 0, 65535, [], 0x10080A75, 0⟩

/-- The record of the change from STANDBY to HELD, held until the first commit (14_power_ageing_resets.md R465). -/
def bootRecord : Incident := ⟨0x0D0B, 0xFF, none, 0, 0xFFFFFFFF, 0, [1, 2]⟩

/-- The machine right after a power-on boot. -/
def State.reset : State :=
  { now := 0
    freeCtr := 0
    bell := Bell.reset
    asks := []
    decisions := 0
    mem := []
    hbmEpoch := 0
    stalls := []
    ports := []
    squares := []
    sqReqs := []
    sigs := []
    flits := []
    reqs := []
    idSeq := 0
    spine := []
    slices := []
    units := []
    arrivals := []
    casts := []
    answers := []
    tlySats := 0
    tlyRejects := 0
    ledger := Ledger.reset
    dieMem := []
    failedLinks := []
    failing := []
    lostStores := []
    fab := Fabric.reset
    ctxs := []
    dispatches := []
    gathers := []
    sets := []
    binds := []
    aborts := []
    cores := coresReset
    served := 0
    fencedDoms := []
    deadDies := []
    heldDies := []
    regs := []
    live := []
    mod := ⟨0, 2, false, false, 0⟩
    conf := ⟨0, none, 0, 0, false, 0, 0, [], 0, [], 0, 0, 0, false, false⟩
    inc := ⟨[bootRecord], 0, 0, 0, 0, false, false, false, [bootRecord]⟩
    out := []
    outWait := []
    rings := []
    intLast := []
    intHeld := []
    trust := Trust.reset
    flash := Flash.reset
    pow := Power.reset
    cus := []
    queues := []
    pkg := Pkg.reset
    pending := [] }

end Sys2Proof.Machine
end

