-- ==== Sys2Proof/Machine/Ops.lean ====
section
/-! DEFINITION. The named operations over memory, registers and incidents that every meaning uses. -/
namespace Sys2Proof.Machine

/-- The outcome of a command that answers a next state, as every command does. -/
abbrev Out := Host.Outcome State Fault Refusal

/-! ## Time -/

/-- The state no earlier than cy `c` (log entry 3). -/
def State.at (s : State) (c : Nat) : State := { s with now := max s.now c }

/-- Something is registered in the present cy for the next bell (R18). -/
def State.ask (s : State) (e : Ask) : State := { s with asks := s.asks ++ [(e, s.now)] }

/-- Several registrations in one cy. -/
def State.askAll (s : State) (l : List Ask) : State := { s with asks := s.asks ++ l.map fun e => (e, s.now) }

/-- Whether something was registered in cy `d`, or later, and so belongs to the bell after the one decided in cy `d` (R18). -/
def State.young (s : State) (d : Nat) (e : Ask) : Bool := s.asks.any fun p => p.1 = e && decide (d ≤ p.2)

/-! ## Memory (00_scope.md Table SCO.3) -/

/-- First address past the HBM window. -/
def hbmTop : Nat := 0x20000000000
/-- First address of the depots. -/
def depotBase : Nat := 0x200000000000
/-- First address past the depots. -/
def depotTop : Nat := 0x200100000000
/-- First address of the stock windows. -/
def stockWin : Nat := 0x210000000000
/-- First address past the stock windows. -/
def stockTop : Nat := 0x210800000000
/-- First address of the host DDR5 window. -/
def ddrBase : Nat := 0x300000000000
/-- First address of configuration space. -/
def cfgBase : Nat := 0x3F0000000000
/-- Bytes of a stall's stock (R14). -/
def stockBytes : Nat := 196608

/-- Local address of byte `off` of stall `k`'s stock (R14, Table SCO.3). -/
def stockAddr (k off : Nat) : Nat := stockWin + k * 0x40000 + off

/-- What an address that the memory does not list reads as: zero in stock and depot, unspecified in HBM (R508). -/
def State.unlisted (s : State) (a : Nat) : Byte := if a < hbmTop then Config.freeHbm s.hbmEpoch a else 0#8

/-- The byte listed at an address. -/
def cellAt : List Host.Cell → Nat → Option Byte
  | [], _ => none
  | (b, v) :: r, a => if b = a then some v else cellAt r a

/-- The list with byte `v` at address `a`; a zero outside HBM is what an unlisted address reads as and is not listed. -/
def cellPut : List Host.Cell → Nat → Byte → List Host.Cell
  | [], a, v => if hbmTop ≤ a ∧ v = 0#8 then [] else [(a, v)]
  | (b, w) :: r, a, v =>
    if b < a then (b, w) :: cellPut r a v
    else
      let tail := if b = a then r else (b, w) :: r
      if hbmTop ≤ a ∧ v = 0#8 then tail else (a, v) :: tail

/-- Addresses rise strictly from `lo` on, and no entry outside HBM is zero. -/
def cellsFrom (lo : Nat) : List Host.Cell → Bool
  | [] => true
  | (a, v) :: r => decide (lo ≤ a) && !(decide (hbmTop ≤ a) && v == 0#8) && cellsFrom (a + 1) r

/-- The memory's canonical form. -/
def Memory.wf (m : List Host.Cell) : Bool := cellsFrom 0 m

/-- One byte of memory. -/
def State.byte (s : State) (a : Nat) : Byte := (cellAt s.mem a).getD (s.unlisted a)

/-- `n` bytes of memory from `a`. -/
def State.bytes (s : State) (a n : Nat) : List Byte := (upFrom a n).map s.byte

/-- Bytes written one after another from `a`. -/
def cellsPut (m : List Host.Cell) (a : Nat) : List Byte → List Host.Cell
  | [] => m
  | v :: r => cellsPut (cellPut m a v) (a + 1) r

/-- The state with bytes written from `a`. -/
def State.write (s : State) (a : Nat) (l : List Byte) : State := { s with mem := cellsPut s.mem a l }

/-- One 64 B line of memory. -/
def State.line (s : State) (a : Nat) : Line := lineOfBytes (s.bytes a 64)

/-- The state with one 64 B line written. -/
def State.putLine (s : State) (a : Nat) (l : Line) : State := s.write a (bytesOfLine l)

/-- The cells of a range removed, which leaves the range reading as nothing written. -/
def cellsDrop (m : List Host.Cell) (lo hi : Nat) : List Host.Cell := m.filter fun c => c.1 < lo || hi ≤ c.1

/-- The cells of a range. -/
def cellsIn (m : List Host.Cell) (lo hi : Nat) : List Host.Cell := m.filter fun c => lo ≤ c.1 && c.1 < hi

/-! ## Stalls, porters, contexts -/

/-- Stall number `k`. -/
def State.stall (s : State) (k : Nat) : Stall := tget s.stalls Stall.fresh k
/-- The state with stall `k` replaced. -/
def State.setStall (s : State) (k : Nat) (t : Stall) : State := { s with stalls := tput s.stalls k t }
/-- Porter, tallies and bindings of stall `k`. -/
def State.port (s : State) (k : Nat) : StallPort := tget s.ports StallPort.fresh k
/-- The state with the porter of stall `k` replaced. -/
def State.setPort (s : State) (k : Nat) (p : StallPort) : State := { s with ports := tput s.ports k p }
/-- Context `c`. -/
def State.ctx (s : State) (c : Nat) : Ctx := tget s.ctxs Ctx.none c
/-- The state with context `c` replaced. -/
def State.setCtx (s : State) (c : Nat) (x : Ctx) : State := { s with ctxs := tput s.ctxs c x }

/-- Die of a stall number (R6). -/
def dieOf (k : Nat) : Nat := k / 8192
/-- Column of a stall number (R5). -/
def xOf (k : Nat) : Nat := k % 64
/-- Line of a stall number (R5). -/
def yOf (k : Nat) : Nat := k % 8192 / 64
/-- Stall number of a die and coordinates (R6). -/
def stallNum (d x y : Nat) : Nat := d * 8192 + y * 64 + x
/-- Whether a number names a stall (R6). -/
def namesStall (k : Nat) : Bool := decide (k < 131072) && decide (k % 8192 < 5120)

/-- Whether the stall's die is fenced whole or its voltage domain is fenced (R29, 14_power_ageing_resets.md R447, R458). -/
def State.fenced (s : State) (k : Nat) : Bool :=
  s.deadDies.contains (dieOf k) || s.fencedDoms.contains (20 * dieOf k + yOf k / 4)

/-- The contexts, 0 to 63. -/
def ctxNums : List Nat := upFrom 0 64

/-- The stalls that a context occupies (R397). -/
def State.stallsOf (s : State) (c : Nat) : List Nat :=
  (s.stalls.filter fun p => p.2.occ = some c).map (·.1)

/-! ## Configuration space registers -/

/-- The live value of a register that commits set, by its offset in configuration space (R364). -/
def State.liveReg (s : State) (dflt off : Nat) : Nat := tget s.live dflt off

/-- Bell period P in force for new intervals (Table BELL.8). -/
def State.period (s : State) : Nat := s.liveReg 0x57E4 0x10000
/-- BELL_CTRL. -/
def State.bellCtrl (s : State) : Nat := s.liveReg 0x40 0x10004
/-- Hall mode (Table BELL.8 MODE = 1). -/
def State.hallMode (s : State) : Bool := decide (s.bellCtrl % 4 = 1)
/-- SLIP_MAX. -/
def State.slipMax (s : State) : Nat := bitsAt s.bellCtrl 4 4
/-- Incident ring base (Table HST.3). -/
def State.incBase (s : State) : Nat := s.liveReg 0 0x40 + (s.liveReg 0 0x44) * 2 ^ 32
/-- Incident ring records (Table HST.3). -/
def State.incSize (s : State) : Nat := 2 ^ (s.liveReg 8 0x48)
/-- Status page base (Table HST.3). -/
def State.stsBase (s : State) : Nat := s.liveReg 0 0x38 + (s.liveReg 0 0x3C) * 2 ^ 32

/-! ## Output to the host (12_clerk_firmware.md R412) -/

/-- Core `kind` of a die: 0 control, 1 scheduler, 2 power, 3 assayer (Table CLK.2). -/
def State.core (s : State) (die kind : Nat) : Core := tget s.cores ⟨0, 0, 0, 0⟩ (4 * die + kind)

/-- Whether the host edge of CD0 or CD8 can be used (11_host_rings.md R362). -/
def State.edgeUp (s : State) (d : Nat) : Bool := !s.deadDies.contains d && !s.failedLinks.contains (256 + d)

/-- Whether the ring engine can live on CD0 or CD8: its host edge can be used and it is not held (11_host_rings.md R362,
12_clerk_firmware.md R413). -/
def State.ringUp (s : State) (d : Nat) : Bool := s.edgeUp d && !s.heldDies.contains d

/-- Whether the host has a path to the module (11_host_rings.md R362). -/
def State.hostPath (s : State) : Bool := s.edgeUp 0 || s.edgeUp 8

/-- Whether the ring engine can send now: it lives on a die that it can live on, whose control core runs (11_host_rings.md R362,
12_clerk_firmware.md Table CLK.10). -/
def State.sends (s : State) : Bool := s.ringUp s.conf.ringDie && (s.core s.conf.ringDie 0).state = 1

/-- What the ring engine writes goes out at once, or waits while the control core of its die restarts (Table CLK.10) or until it has
moved off a die that it cannot live on; with both paths lost nothing goes out (11_host_rings.md R362). -/
def State.emit (s : State) (l : List HostWrite) : State :=
  if !s.ringUp 0 && !s.ringUp 8 then s
  else if s.sends then { s with out := l ++ s.out } else { s with outWait := l ++ s.outWait }

/-! ## Interrupts (11_host_rings.md R373, R388, R389) -/

/-- Whether the gap since the last interrupt of a vector has passed (R389). -/
def State.gapOver (s : State) (vector : Nat) : Bool :=
  match tfind s.intLast vector with
  | none => true
  | some c => decide (s.now ≥ c + s.liveReg 2250 0x50)

/-- An interrupt of a vector goes to the host, or is held back by the gap or while the ring engine cannot send; none leaves before the
first commit (R373, R388, R389, 12_clerk_firmware.md Table CLK.10). -/
def State.interrupt (s : State) (vector : Nat) : State :=
  if !s.mod.configValid then s
  else if s.sends && s.gapOver vector then
    ({ s with intLast := tput s.intLast vector s.now, intHeld := s.intHeld.filter (· ≠ vector) } : State).emit [.int vector]
  else if s.intHeld.contains vector then s
  else { s with intHeld := s.intHeld ++ [vector] }

/-! ## Incidents (11_host_rings.md R373, R386, R387) -/

/-- Bytes 0 to 47 of an incident record (Table HST.13). -/
def Incident.bytes (i : Incident) (index : Nat) : List Byte :=
  leBytes 2 i.code ++ leBytes 1 i.die ++ leBytes 1 (match i.ctx with | some c => c % 64 + 64 | none => 0)
    ++ leBytes 4 index ++ leBytes 4 i.whre ++ leBytes 4 i.pc ++ leBytes 8 i.bell
    ++ leBytes 8 (i.detail.getD 0 0) ++ leBytes 8 (i.detail.getD 1 0) ++ leBytes 8 (i.detail.getD 2 0)

/-- Whether the incident ring is enabled: its base lies in host DDR5 (log entry 6). -/
def State.incRing (s : State) : Bool := s.mod.configValid && decide (s.incBase ≥ ddrBase)

/-- One record written to the incident ring, with the status page's counters and interrupt vector 64 after it (R386, R388). -/
def State.incWrite (s : State) (i : Incident) : State :=
  let k := s.inc.index
  let body := i.bytes k
  let tag := if s.mod.session then (recordTag s.mod.orderKey k 64 2 body).toNat else 0
  let rec_ := body ++ leBytes 16 tag
  let inc' := { s.inc with
    index := if s.mod.session ∧ k ≥ 4294967295 then k else (k + 1) % 4294967296
    tail := (s.inc.tail + 1) % 4294967296
    exhausted := s.inc.exhausted || (s.mod.session && decide (k ≥ 4294967295)) }
  let sts := HostWrite.bytes (s.stsBase + 1024) (leBytes 4 inc'.tail ++ leBytes 4 inc'.lost ++ leBytes 8 0)
  (({ s with inc := inc' } : State).emit [sts, .bytes (s.incBase + 64 * (s.inc.tail % s.incSize)) rec_]).interrupt 64

/-- An incident counted and not written (R373, R382, R387). -/
def State.incLose (s : State) : State :=
  let inc' := { s.inc with lost := satInc s.inc.lost }
  let sts := HostWrite.bytes (s.stsBase + 1024) (leBytes 4 inc'.tail ++ leBytes 4 inc'.lost ++ leBytes 8 0)
  let t : State := { s with inc := inc' }
  if s.incRing then t.emit [sts] else t

/-- One record written, or, under a session's last incident index, 0x0A0A in its place while it is counted as lost (R382). -/
def State.incPut (s : State) (i : Incident) : State :=
  if s.mod.session ∧ s.inc.index ≥ 4294967295 then
    (s.incWrite { i with code := 0x0A0A, die := 0xFF, ctx := none, whre := 64, pc := 0xFFFFFFFF, detail := [] }).incLose
  else s.incWrite i

/-- Records of the incident ring that the host has not consumed (Table HST.7). -/
def State.incUsed (s : State) : Nat := (s.inc.tail + 4294967296 - s.inc.head) % 4294967296

/-- With one free record left 0x0A08 is written in it, and further incidents only count (R387). -/
def State.incLast (s : State) (i : Incident) : State :=
  if s.inc.exhausted || s.incUsed + 1 < s.incSize then s
  else
    let t := if s.incUsed + 1 = s.incSize then
      s.incPut { i with code := 0x0A08, die := 0xFF, ctx := none, whre := 0, pc := 0xFFFFFFFF, detail := [s.inc.tail] } else s
    { t with inc := { t.inc with full := true } }

/-- One record offered to the ring: written, and 0x0A08 after it where it leaves one free record, or counted as lost (R382, R387). -/
def State.incOffer (s : State) (i : Incident) : State :=
  if s.inc.broken || s.inc.full || s.inc.exhausted then s.incLose
  else if s.incUsed + 1 < s.incSize then (s.incPut i).incLast i
  else (s.incLast i).incLose

/-- An incident is reported (R24, R61): it enters the log, then the ring, or is held before the first commit (R373). -/
def State.raise (s : State) (code die : Nat) (ctx : Option Nat) (whre pc : Nat) (detail : List Nat) : State :=
  let i : Incident := ⟨code, die, ctx, whre, pc, s.bell.count, detail⟩
  let t := { s with inc := { s.inc with log := i :: s.inc.log } }
  if s.incRing then t.incOffer i
  else if s.inc.held.length < 64 then { t with inc := { t.inc with held := t.inc.held ++ [i] } }
  else { t with inc := { t.inc with lost := satInc t.inc.lost } }

/-- An incident of a stall and of its instruction at `pc`: stall ID, context and PC go to their fixed homes (R105, R386). -/
def State.raiseStallAt (s : State) (code k pc : Nat) (detail : List Nat) : State :=
  s.raise code (dieOf k) (s.stall k).occ k pc detail

/-- An incident of a stall at its PC. -/
def State.raiseStall (s : State) (code k : Nat) (detail : List Nat) : State :=
  s.raiseStallAt code k (s.stall k).pc detail

/-- An incident of a die with no stall. -/
def State.raiseDie (s : State) (code die : Nat) (detail : List Nat) : State :=
  s.raise code die none 0 0xFFFFFFFF detail

/-- An incident of the module. -/
def State.raiseMod (s : State) (code : Nat) (detail : List Nat) : State :=
  s.raise code 0xFF none 0 0xFFFFFFFF detail

/-! ## Free values -/

/-- The state with `n` free values used up. -/
def State.useFree (s : State) (n : Nat) : State := { s with freeCtr := s.freeCtr + n }

end Sys2Proof.Machine
end

