-- ==== Sys2Proof/Machine/Operands.lean ====
section
/-! DEFINITION. The operand forms of a stall's instructions: scalar registers, vector registers and quads, stock offsets,
tile configuration entries. -/
namespace Sys2Proof.Machine

/-- Scalar register `i`; s0 reads 0 (02_stall.md R62). -/
def Stall.sreg (t : Stall) (i : Nat) : Word64 := if i = 0 then 0#64 else tget t.s 0#64 i

/-- A write of scalar register `i`; writes to s0 are discarded (R62). -/
def Stall.setS (t : Stall) (i : Nat) (v : Word64) : Stall := if i = 0 then t else { t with s := tput t.s i v }

/-- Vector register `i` as 64 B. -/
def Stall.vreg (t : Stall) (i : Nat) : Line := tget t.v 0#512 i

/-- The FULL bit of vector register `i` (R72). -/
def Stall.isFull (t : Stall) (i : Nat) : Bool := t.full.getLsbD i

/-- Register `i` written whole and set FULL (R72, R73). -/
def Stall.setV (t : Stall) (i : Nat) (l : Line) : Stall :=
  { t with v := tput t.v i l, full := t.full ||| (1#128 <<< i) }

/-- Registers set from a list (R72). -/
def Stall.setVs (t : Stall) : List (Nat × Line) → Stall
  | [] => t
  | (i, l) :: r => (t.setV i l).setVs r

/-- Register `i` set EMPTY; its bits are not read while it is EMPTY (R72, Table STL.6 REL). -/
def Stall.emptyV (t : Stall) (i : Nat) : Stall :=
  { t with v := tdel t.v i, full := t.full &&& ~~~(1#128 <<< i) }

/-- The registers of quad `q` (Table STL.1). -/
def quadRegs (q : Nat) : List Nat := upFrom (4 * q) 4

/-- The 64 lanes of quad `q` (R90). -/
def Stall.lanes (t : Stall) (q : Nat) : List Word32 := lanesOf ((quadRegs q).map t.vreg)

/-- `n` registers from `i` as one number. -/
def Stall.regsNat (t : Stall) (i n : Nat) : Nat := catLines ((upFrom i n).map t.vreg)

/-- The second operand of a scalar function: a register, or the immediate sign-extended (R71). -/
def aluSd : AluForm → Nat
  | .reg f => f.sd.toNat
  | .imm f => f.sd.toNat

/-- The scalar registers a form reads. -/
def aluSrcs : AluForm → List Nat
  | .reg f => [f.sa.toNat, f.sb.toNat]
  | .imm f => [f.sa.toNat]

/-- The first operand. -/
def aluA (t : Stall) : AluForm → Word64
  | .reg f => t.sreg f.sa.toNat
  | .imm f => t.sreg f.sa.toNat

/-- The second operand. -/
def aluB (t : Stall) : AluForm → Word64
  | .reg f => t.sreg f.sb.toNat
  | .imm f => f.imm.signExtend 64

/-- Whether the form's reserved bits are zero (R67). -/
def aluRsvZero : AluForm → Bool
  | .reg f => f.rsv = 0#37
  | .imm f => f.rsv = 0#10

/-- Tile configuration entry `i` (04_tile_ops.md R135). -/
def Stall.tcReg (t : Stall) (i : Nat) : BitVec 128 := tget t.tc 0#128 i

/-- The fields of a tile configuration entry (Table TILE.1). -/
structure Tile where
  valid : Bool
  fmt : Nat
  trans : Bool
  rows : Nat
  cols : Nat
  rbase : Nat
  astride : Nat
  na : Nat
  sbase : Nat
  deriving DecidableEq, Repr

/-- An entry taken apart; ROWS and COLS are given as counts (Table TILE.1). -/
def tileOf (v : BitVec 128) : Tile :=
  let n := v.toNat
  ⟨bitAt n 0, bitsAt n 1 4, bitAt n 5, bitsAt n 8 9 + 1, bitsAt n 17 9 + 1, bitsAt n 26 7, bitsAt n 33 7, bitsAt n 40 2, bitsAt n 42 7⟩

/-- Gate count `i`; every gate count starts at 1 (R62). -/
def Stall.gate (t : Stall) (i : Nat) : Nat := tget t.gates 1 i

/-- Accumulator bank `b` of array `a` (R62). -/
def Stall.bank (t : Stall) (a b : Nat) : Bank := tget t.acc Bank.empty (2 * a + b)

/-- The stall with a bank replaced. -/
def Stall.setBank (t : Stall) (a b : Nat) (x : Bank) : Stall := { t with acc := tput t.acc (2 * a + b) x }

/-- Element `i` of a bank; an EMPTY bank reads as zeros (R85). -/
def Bank.elem (x : Bank) (i : Nat) : Word32 := if x.held then tget x.v 0#32 i else 0#32

/-- Scale `i` (R97). -/
def Stall.scale (t : Stall) (i : Nat) : Scale := tget t.scales Scale.zero i

/-- The applied exponent of scale `i` for a format (03_formats.md R128). -/
def Stall.appliedExp (t : Stall) (i : Nat) (f : Fmt) : Int := scaleExp (t.scale i).prev f

/-- Values seen at an attachment point update every scale attached there (R97, R129). -/
def Stall.see (t : Stall) (watch : Scale → Bool) (vals : List Fl) : Stall :=
  { t with scales := tmap t.scales fun _ c => if watch c then { c with amax := vals.foldl scaleSee c.amax } else c }

/-- Whether a scale watches vector-unit and price-board results of quad `q` (Table STL.12 kind 1). -/
def Scale.watchesQuad (c : Scale) (q : Nat) : Bool := c.att = 1 && decide (c.lo ≤ q) && decide (q ≤ c.hi)

/-- Whether a scale watches ACC.RD of array `a` (kind 2). -/
def Scale.watchesArray (c : Scale) (a : Nat) : Bool := c.att = 2 && bitAt c.lo a

/-- Whether a scale watches porter tag `g` (kind 3). -/
def Scale.watchesTag (c : Scale) (g : Nat) : Bool := c.att = 3 && decide (c.lo = g)

/-- The value of a local tally that an issue check sees (06_tallies.md R192). -/
def StallPort.tally (p : StallPort) (i : Nat) : Tally := tget p.tallies Tally.zero i

/-- Whether a tally satisfies a gate or wait: its VALUE has reached the threshold, or it is saturated (06_tallies.md R205). -/
def Tally.reaches (t : Tally) (n : Nat) : Bool := t.sat || decide (t.value ≥ n)

end Sys2Proof.Machine
end

