-- ==== Sys2Proof/Machine/Flags.lean ====
section
/-! DEFINITION. The flags of the issue scoreboard: FULL and EMPTY registers, pending reads and writes, HELD banks, the state of
the fetch buffer (02_stall.md R63, R72, R77 to R80). -/
namespace Sys2Proof.Machine

/-- Vector registers an issued instruction still has to read (R72, R78). -/
def OpKind.vReads : OpKind → List Nat
  | .vst vd _ n k => upFrom (vd + k) (n - k)
  | .mm _ _ _ _ _ _ _ _ _ _ _ _ _ _ regs _ _ _ _ => regs
  | .accWr qd arrays _ => upFrom (4 * qd) (16 * arrays.length)
  | _ => []

/-- Registers of one array's output in format `f`, Q4 with its scale bytes (R84, 03_formats.md R114). -/
def accOutRegs (f : Fmt) : Nat := if f = .q4 then 3 else f.bits / 2

/-- Vector registers an issued instruction still has to write (R72). -/
def OpKind.vWrites : OpKind → List Nat
  | .vld vd _ n k => upFrom (vd + k) (n - k)
  | .accRd qd arrays _ _ f => upFrom (4 * qd) (accOutRegs f * arrays.length)
  | .trnRd _ vd w rows cols => upFrom vd (ceilDiv (rows * cols * w) 512)
  | .vec regs _ _ _ => regs.map (·.1)
  | .pb regs _ _ => regs.map (·.1)
  | _ => []

/-- Scalar registers an issued instruction still has to write. -/
def OpKind.sWrites : OpKind → List Nat
  | .lds sd _ => [sd]
  | .vec _ (some (sd, _)) _ _ => [sd]
  | _ => []

/-- Whether every register of the list is FULL with no write pending (R72). -/
def Stall.vReady (t : Stall) (l : List Nat) : Bool :=
  l.all fun i => t.isFull i && t.ops.all fun o => !o.kind.vWrites.contains i

/-- Whether no earlier instruction still reads or writes a register of the list (R72). -/
def Stall.vFree (t : Stall) (l : List Nat) : Bool :=
  t.ops.all fun o => l.all fun i => !o.kind.vWrites.contains i && !o.kind.vReads.contains i

/-- Whether no scalar register of the list waits for a result (Table STL.6 LD.S, Table STL.10 VEXT; log entry 21). -/
def Stall.sReady (t : Stall) (l : List Nat) : Bool :=
  t.ops.all fun o => l.all fun i => i = 0 || !o.kind.sWrites.contains i

/-- Whether the buffer holds a line (R63). -/
def Stall.holdsLine (t : Stall) (l : Nat) : Bool := t.fetch.any fun f => f.line = l

/-- The line requested from stock at cy `now` unless it is held, requested or past the end of stock (R63). -/
def Stall.request (t : Stall) (l now : Nat) : Stall :=
  if t.holdsLine l || t.fetchReq.any (fun r => r.1 = l) || decide (3072 ≤ l) then t
  else { t with fetchReq := t.fetchReq ++ [(l, now + 3)] }

/-- The line fetched again from stock, whether or not it is held (R70, R76). -/
def Stall.refetch (t : Stall) (l now : Nat) : Stall :=
  ({ t with fetch := t.fetch.filter (fun f => f.line ≠ l), fetchReq := t.fetchReq.filter (fun r => r.1 ≠ l) } : Stall).request l now

/-- The instruction word that the buffer holds at a PC. -/
def Stall.wordAt (t : Stall) (pc : Nat) : Option Word64 :=
  (t.fetch.find? fun f => f.line = pc / 64).map fun f => BitVec.ofNat 64 (bitsAt f.data.toNat (8 * (pc % 64)) 64)

/-- A scale may be read or changed: no earlier instruction whose values it watches is in flight (R98). -/
def Stall.scaleQuiet (t : Stall) (c : Scale) : Bool :=
  t.ops.all fun o => match o.kind with
    | .vec _ _ (some q) _ => !c.watchesQuad q
    | .pb _ q _ => !c.watchesQuad q
    | .accRd _ arrays _ _ _ => arrays.all fun a => !c.watchesArray a
    | _ => true

end Sys2Proof.Machine
end

