-- ==== Sys2Proof/Machine/Issue.lean ====
section
/-! DEFINITION. Issue of an instruction by a stall's executor (02_stall.md R63 to R66, R106): one shared operation. -/
namespace Sys2Proof.Machine

/-- Where issue goes on after an instruction. -/
inductive Next where
  /-- the next word -/
  | seq
  /-- a taken branch, with `true` for J, which refetches its target line (R66, R76) -/
  | jump (pc : Nat) (refetch : Bool)
  /-- the same word again: the first of two issue slots (06_tallies.md Table TLY.6 RCK.AW) -/
  | stay
  /-- BELL.WAIT: the stall parks (R70) -/
  | park (target : Nat) (e : Bool)
  deriving DecidableEq, Repr

/-- What an instruction does at its issue point. -/
inductive Issue where
  /-- it waits at issue (R64) -/
  | wait
  /-- a precise fault with its incident code and details (R65) -/
  | fault (code : Nat) (detail : List Nat)
  /-- it issues: the module and the stall after it, and where issue goes on -/
  | go (s : State) (t : Stall) (nx : Next)

/-- The stall stops issue with a fault, which is reported (R65). -/
def State.stallFault (s : State) (k code : Nat) (detail : List Nat) : State :=
  let t := s.stall k
  (s.raiseStall code k detail).setStall k { t with status := .stopped code s.now }

/-- Whether a stall may issue: the module is OPEN and no HOLD is in effect, the stall is neither fenced nor on a held die, it runs,
and no square instruction of it waits at READY (01_bell.md R55, R42, 04_tile_ops.md R155). -/
def State.mayIssue (s : State) (k : Nat) : Bool :=
  s.mod.state = 3 && !s.bell.held && !s.fenced k && !s.heldDies.contains (dieOf k)
    && (s.stall k).status = .running && (s.stall k).ready = none

/-- The cost of a taken branch beyond its own issue (R66). -/
def branchCost (held refetch : Bool) : Nat := if refetch then 3 else if held then 1 else 3

/-- The stall after an instruction has issued in cy `now` (R63, R66, R70). -/
def Stall.advance (t : Stall) (now : Nat) (nx : Next) : Stall :=
  let l := t.pc / 64
  let u := if t.curLine = some l then t else { t with curLine := some l }.request (l + 1) now
  match nx with
  | .seq => { u with pc := u.pc + 8, nextIssue := now + 1 }
  | .stay => { u with nextIssue := now + 1 }
  | .jump pc refetch =>
    let cost := branchCost (u.holdsLine (pc / 64)) refetch
    let w := if refetch then u.refetch (pc / 64) now else u.request (pc / 64) now
    { w with pc := pc, nextIssue := now + 1 + cost }
  | .park target e =>
    { u.refetch (target * 8 / 64) now with
      pc := target * 8, nextIssue := now + 1, status := .parked target e now }

/-- The stall's next word as the executor meets it in the cy after its last issue (R63, R64). -/
def State.issueAt (s0 : State) (sid : StallId) (word : Word64) (f : State → Nat → Stall → Issue) : State :=
  let k := sid.num
  if !s0.mayIssue k then s0
  else
    let s := s0.at (s0.stall k).nextIssue
    let t := s.stall k
    if t.pc ≥ stockBytes then s.stallFault k 0x0205 []
    else match t.wordAt t.pc with
      | none => s.setStall k (t.request (t.pc / 64) s.now)
      | some w =>
        if w ≠ word then s0
        else match f s k t with
          | .wait => s0
          | .fault c d => s.stallFault k c d
          | .go s' t' nx => s'.setStall k (t'.advance s.now nx)

/-- The lowest code among the causes that hold (R106). -/
def lowestCode (l : List (Bool × Nat)) : Option Nat :=
  l.foldl (fun acc p => if p.1 then match acc with
    | none => some p.2
    | some c => some (min c p.2) else acc) none

/-- Causes first, then waits, then the effect (R65, R106). -/
def issueIf (causes : List (Bool × Nat)) (ready : Bool) (go : Issue) : Issue :=
  match lowestCode causes with
  | some c => .fault c []
  | none => if ready then go else .wait

/-- A local instruction: waits for scalar operands first, since a cause may depend on them. -/
def issueLocal (t : Stall) (srcs : List Nat) (causes : List (Bool × Nat)) (ready : Bool) (go : Issue) : Issue :=
  if t.sReady srcs then issueIf causes ready go else .wait

/-- An issued instruction enters the list of those in flight (R64). -/
def Stall.pushOp (t : Stall) (due : Nat) (k : OpKind) : Stall :=
  { t with ops := t.ops ++ [⟨t.opSeq, due, t.pc, k⟩], opSeq := t.opSeq + 1 }

end Sys2Proof.Machine
end

