-- ==== Sys2Proof/Machine/Rings.lean ====
section
/-! DEFINITION. Rings and the completion of orders (11_host_rings.md R374 to R385): the shared operations. -/
namespace Sys2Proof.Machine

/-- Ring `i`. -/
def State.ring (s : State) (i : Nat) : Ring := tget s.rings Ring.off i
/-- The state with ring `i` replaced. -/
def State.setRing (s : State) (i : Nat) (r : Ring) : State := { s with rings := tput s.rings i r }
/-- Entries of ring `i` (Table HST.3 MOD_RING_SIZE). -/
def State.ringSize (s : State) (i : Nat) : Nat := 2 ^ (s.liveReg 4 (0x110 + 0x20 * i))
/-- Base of the completion ring. -/
def State.cplBase (s : State) (i : Nat) : Nat :=
  s.liveReg 0 (0x108 + 0x20 * i) + s.liveReg 0 (0x10C + 0x20 * i) * 2 ^ 32
/-- Whether ring `i` is enabled. -/
def State.ringOn (s : State) (i : Nat) : Bool :=
  if i < 32 then bitAt (s.liveReg 0 0x54) i else bitAt (s.liveReg 0 0x58) (i - 32)

/-- Status values of Table HST.12. -/
def stDone : Nat := 0
/-- FAILED. -/
def stFailed : Nat := 1
/-- FORMAT. -/
def stFormat : Nat := 2
/-- SEQUENCE. -/
def stSequence : Nat := 3
/-- AUTH. -/
def stAuth : Nat := 4
/-- NO_SESSION. -/
def stNoSession : Nat := 5
/-- CANCELLED. -/
def stCancelled : Nat := 6
/-- REJECTED. -/
def stRejected : Nat := 7

/-- Bytes 0 to 47 of a completion record (Table HST.11). -/
def cplBytes (o : Order) (status inc cidx result bell detail : Nat) : List Byte :=
  leBytes 1 o.op ++ leBytes 1 status ++ leBytes 2 inc ++ leBytes 4 o.seq ++ leBytes 1 o.ctx ++ leBytes 1 o.ring
    ++ leBytes 2 0 ++ leBytes 4 cidx ++ leBytes 8 o.user ++ leBytes 8 result ++ leBytes 8 bell ++ leBytes 8 detail

/-- The status page entry of a ring (Table HST.7). -/
def State.stsEntry (s : State) (i : Nat) : HostWrite :=
  let r := s.ring i
  .bytes (s.stsBase + 16 * i) (leBytes 4 r.ohead ++ leBytes 4 r.ctail ++ leBytes 4 r.eseq ++ leBytes 4 0)

/-- A ring stops, with the incident that stopped it in CAUSE (R376, R378, R382). -/
def State.stopRing (s : State) (i code : Nat) (detail : List Nat) : State :=
  let r := s.ring i
  (s.setRing i { r with state := 3, cause := code % 256 }).raise code 0xFF none i 0xFFFFFFFF detail

/-- A ring whose ESEQ or completion index has run out: 0x0A0A, and it is STOPPED until a new session opens (R382). -/
def State.spendRing (s : State) (i : Nat) : State :=
  let r := s.ring i
  if r.spent then s
  else if r.state = 3 then
    (s.setRing i { r with spent := true }).raise 0x0A0A 0xFF none i 0xFFFFFFFF []
  else (s.setRing i { r with spent := true, toFetch := 0 }).stopRing i 0x0A0A []

/-- A DRAINING ring with nothing out is OFF (R378). -/
def State.settleRing (s : State) (i : Nat) : State :=
  let r := s.ring i
  if r.state = 2 ∧ r.intake.isEmpty ∧ r.started.isEmpty then s.setRing i { r with state := 0 } else s

/-- The completion record of an order is written, then CTAIL, then its interrupt (R385, R388); it is counted as lost where the completion
ring failed, or where the session's last completion index has been used (R378, R382, R383). -/
def State.writeCpl (s : State) (o : Order) (status inc result detail : Nat) : State :=
  let r := s.ring o.ring
  if r.broken || (s.mod.session && r.cplSpent) then s.setRing o.ring { r with lost := r.lost + 1 }
  else
    let body := cplBytes o status inc r.cidx result s.bell.count detail
    let tag := if s.mod.session then (recordTag s.mod.orderKey r.cidx o.ring 1 body).toNat else 0
    let rec_ := HostWrite.bytes (s.cplBase o.ring + 64 * (r.ctail % s.ringSize o.ring)) (body ++ leBytes 16 tag)
    let last := s.mod.session && decide (r.cidx ≥ 4294967295)
    let s1 := s.setRing o.ring { r with
      ctail := (r.ctail + 1) % 4294967296, cidx := (r.cidx + 1) % 4294967296, cplSpent := r.cplSpent || last }
    let s2 := s1.emit [s1.stsEntry o.ring, rec_]
    let s3 := if o.intr then s2.interrupt o.ring else s2
    if last then s3.spendRing o.ring else s3

/-- Host memory has refused the write of entry `e` of a completion ring: 0x0A07, the ring is STOPPED, and the completions from that
entry on are lost (R378). -/
def State.cplRefused (s : State) (i e : Nat) : State :=
  let r := s.ring i
  let n := (r.ctail + 2 ^ 32 - e) % 2 ^ 32
  if r.state = 0 ∨ r.broken ∨ n = 0 ∨ s.ringSize i < n then s
  else
    (s.setRing i { r with broken := true, toFetch := 0, lost := r.lost + n }).stopRing i 0x0A07
      [s.cplBase i + 64 * (e % s.ringSize i)]

/-- Completion rings with an entry whose write was refused. -/
def State.cplsRefused (s : State) : List (Fin 64 × Nat) → State
  | [] => s
  | p :: r => (s.cplRefused p.1.val p.2).cplsRefused r

/-- Incidents counted as lost (R387). -/
def State.incLoseAll (s : State) : Nat → State
  | 0 => s
  | n + 1 => s.incLose.incLoseAll n

/-- Host memory has refused the write of entry `e` of the incident ring: it and every later record are lost until a commit changes the
ring (R387). -/
def State.incRefused (s : State) (e : Option Nat) : State :=
  match e with
  | none => s
  | some e =>
    let n := (s.inc.tail + 2 ^ 32 - e) % 2 ^ 32
    if !s.incRing || s.inc.broken || n = 0 || decide (s.incSize < n) then s
    else ({ s with inc := { s.inc with broken := true } } : State).incLoseAll n

/-- The latest entry before `top` that stands at place `j` of a ring of `size`. -/
def entryAt (top size j : Nat) : Nat := (top + 2 ^ 32 - 1 - (top + 2 * 2 ^ 32 - 1 - j) % size) % 2 ^ 32

/-- The order with this number, taken or started. -/
def State.findOrder (s : State) (id : Nat) : Option Order :=
  s.rings.findSome? fun p => (p.2.started ++ p.2.intake).find? fun o => o.id = id

/-- An order ends: it leaves its ring, and its record is written (R385). -/
def State.complete (s : State) (id status inc result detail : Nat) : State :=
  match s.findOrder id with
  | none => s
  | some o =>
    let r := s.ring o.ring
    let s1 := s.setRing o.ring { r with
      started := r.started.filter (fun x => x.id ≠ id), intake := r.intake.filter (fun x => x.id ≠ id) }
    (s1.writeCpl o status inc result detail).settleRing o.ring

/-- A number for a new order, signal, request or message. -/
def State.newId (s : State) : Nat := s.idSeq

/-- The state after a number has been given out. -/
def State.tick (s : State) : State := { s with idSeq := s.idSeq + 1 }

/-- A stall reports plan end to the clerk: its dispatch waits for one stall less, and completes DONE with the last (R168, R401). -/
def State.planEnd (s : State) (k : Nat) : State :=
  match s.dispatches.find? fun d => d.running && d.waits.contains k with
  | none => s
  | some d =>
    let d' := { d with waits := d.waits.filter (· ≠ k) }
    if d'.waits.isEmpty then
      ({ s with dispatches := s.dispatches.filter (fun x => x.order ≠ d.order) } : State).complete d.order stDone 0 0 0
    else { s with dispatches := s.dispatches.map fun x => if x.order = d.order then d' else x }

/-- Whether every slot of the stall is FREE (R163). -/
def StallPort.allFree (p : StallPort) : Bool := p.slots.all fun q => q.2.state = .free

/-- Plan end is reported once the stall is parked with E = 1 and every slot is FREE (R168). -/
def State.checkPlanEnd (s : State) (k : Nat) : State :=
  match (s.stall k).status with
  | .parked _ true _ => if (s.port k).allFree then s.planEnd k else s
  | _ => s

end Sys2Proof.Machine
end

