-- ==== Sys2Proof/Machine/Weago.lean ====
section
/-! DEFINITION. Weago messages, routes and the sending of messages (10_weago.md R331 to R340): shared operations. -/
namespace Sys2Proof

/-! ## Messages (Tables WGO.6, WGO.7) -/

/-- TYPE. -/
def Msg.ty (m : Msg) : Nat := bitsAt m.hdr.toNat 0 4
/-- CLASS: 0 REQ, 1 RSP, 2 ORD, 3 SYS. -/
def Msg.cls (m : Msg) : Nat := bitsAt m.hdr.toNat 4 2
/-- LINES. -/
def Msg.lines (m : Msg) : Nat := bitsAt m.hdr.toNat 6 5
/-- EXT. -/
def Msg.hasExt (m : Msg) : Bool := bitAt m.hdr.toNat 11
/-- PSEL. -/
def Msg.psel (m : Msg) : Nat := bitsAt m.hdr.toNat 12 1
/-- HOPS. -/
def Msg.hops (m : Msg) : Nat := bitsAt m.hdr.toNat 13 4
/-- DEST. -/
def Msg.dest (m : Msg) : Nat := bitsAt m.hdr.toNat 17 18
/-- SRC. -/
def Msg.src (m : Msg) : Nat := bitsAt m.hdr.toNat 35 18
/-- CTX. -/
def Msg.ctx (m : Msg) : Nat := bitsAt m.hdr.toNat 53 6
/-- TAG. -/
def Msg.tag (m : Msg) : Nat := bitsAt m.hdr.toNat 59 14
/-- ADDR. -/
def Msg.addr (m : Msg) : Nat := bitsAt m.hdr.toNat 73 46
/-- Data lines that follow the header (R332). -/
def Msg.dataLines (m : Msg) : Nat := if m.ty = 1 then 0 else m.lines
/-- Cells of a message (R331). -/
def Msg.cells (m : Msg) : Nat := 1 + b2n m.hasExt + 4 * m.dataLines

/-- A message from its fields. -/
def mkMsg (ty cls lines psel dest src ctx tag addr : Nat) (ext : Option Nat) (data : List Line) : Msg :=
  ⟨BitVec.ofNat 128 (ty % 16 + cls % 4 * 16 + lines % 32 * 64 + b2n ext.isSome * 2048 + psel % 2 * 4096 + dest % 2 ^ 18 * 2 ^ 17
      + src % 2 ^ 18 * 2 ^ 35 + ctx % 64 * 2 ^ 53 + tag % 2 ^ 14 * 2 ^ 59 + addr % 2 ^ 46 * 2 ^ 73),
    BitVec.ofNat 128 (ext.getD 0), data⟩

/-- The message with another PSEL. -/
def Msg.withPsel (m : Msg) (p : Nat) : Msg :=
  { m with hdr := BitVec.ofNat 128 (m.hdr.toNat - m.psel * 4096 + p % 2 * 4096) }

/-- The message with another TAG. -/
def Msg.withTag (m : Msg) (t : Nat) : Msg :=
  { m with hdr := BitVec.ofNat 128 (m.hdr.toNat - m.tag * 2 ^ 59 + t % 2 ^ 14 * 2 ^ 59) }

/-- The message after one more forwarding module (R336). -/
def Msg.hop (m : Msg) : Msg := { m with hdr := BitVec.ofNat 128 (m.hdr.toNat + 2 ^ 13) }

/-- OP of a CRATE message (Table WGO.11). -/
def Msg.crateOp (m : Msg) : Nat := bitsAt m.ext.toNat 0 4
/-- The crate that a CRATE message names, in the home context of its header. -/
def Msg.crate (m : Msg) : Machine.Crate := ⟨m.ctx, bitsAt m.ext.toNat 8 56, bitAt m.ext.toNat 4⟩
/-- ARG. -/
def Msg.arg (m : Msg) : Nat := bitsAt m.ext.toNat 64 64

/-- Whether a message keeps every column of Table WGO.7 and its reserved bits (R331). -/
def Msg.ok (m : Msg) : Bool :=
  let n := m.ext.toNat
  bitsAt m.hdr.toNat 119 9 = 0 && m.data.length = m.dataLines &&
  match m.ty with
  | 1 => m.cls = 0 && !m.hasExt && decide (1 ≤ m.lines) && decide (m.lines ≤ 16) && m.addr % 64 = 0
  | 2 => (m.cls = 0 || m.cls = 2) && !m.hasExt && decide (1 ≤ m.lines) && decide (m.lines ≤ 16) && m.addr % 64 = 0
  | 3 => m.cls = 1 && !m.hasExt && decide (1 ≤ m.lines) && decide (m.lines ≤ 16)
  | 4 => m.cls = 1 && !m.hasExt && m.lines = 0
  | 5 => m.cls = 1 && !m.hasExt && m.lines = 0 && decide (1 ≤ m.addr) && decide (m.addr ≤ 3)
  | 6 => m.cls = 0 && !m.hasExt && m.lines = 0 && m.addr >>> 39 = 0
  | 7 => m.cls = 0 && !m.hasExt && m.lines = 0 && m.addr >>> 19 = 0
  | 8 => m.cls = 0 && !m.hasExt && m.lines = 0 && m.addr >>> 11 = 0
  | 9 => m.cls = 0 && m.hasExt && decide (m.lines ≤ 16) && decide (1 ≤ bitsAt n 0 4) && decide (bitsAt n 0 4 ≤ 11)
      && bitsAt n 5 3 = 0
  | 10 => m.cls = 1 && !m.hasExt && m.lines = 0
  | 11 => m.cls = 3 && m.hasExt && m.lines = 0
  | 12 => m.cls = 3 && m.hasExt && m.lines = 0 && decide (1 ≤ bitsAt n 0 4) && decide (bitsAt n 0 4 ≤ 3)
  | _ => false

end Sys2Proof

namespace Sys2Proof.Machine

/-! ## Ports and routes -/

/-- Weago port `p`. -/
def State.wport (s : State) (p : Nat) : WPort := tget s.fab.ports WPort.off p
/-- The state with a port replaced. -/
def State.setWport (s : State) (p : Nat) (w : WPort) : State := { s with fab := { s.fab with ports := tput s.fab.ports p w } }
/-- WGO_HALL_BASE. -/
def State.hallBase (s : State) : Nat := s.liveReg 0 0x13004
/-- WGO_HALL_SIZE. -/
def State.hallSize (s : State) : Nat := s.liveReg 0 0x13008
/-- Whether a module ID lies in this module's hall (R334). -/
def State.inHall (s : State) (m : Nat) : Bool := decide (s.hallBase ≤ m) && decide (m < s.hallBase + s.hallSize)

/-- The route entry of a module (R335). -/
def State.route (s : State) (dest : Nat) : Nat :=
  if s.inHall dest then s.fab.routes.getD (dest - s.hallBase) 0
  else s.fab.routes.getD (s.hallSize + dest / 1024 % 256) 0

/-- The port that an entry names for a route selector, where it names one. -/
def routePort (e psel : Nat) : Option Nat :=
  if psel = 0 then (if bitAt e 4 then some (bitsAt e 0 4) else none)
  else if bitAt e 9 then some (bitsAt e 5 4) else none

/-- Whether a port takes messages: TRAINING, UP or NARROWING, its die not fenced (R336, R337). -/
def State.portTakes (s : State) (p : Nat) : Bool :=
  let w := s.wport p
  (w.state = 1 || w.state = 2 || w.state = 3) && !s.deadDies.contains p

/-- Whether a message may travel over a port that no owner check covers (13_trust.md R435). -/
def State.ownerless (s : State) (m : Msg) : Bool := m.cls = 3 || (m.ty = 9 && !(s.inHall m.dest && s.inHall m.src))

/-- Whether a port takes every message: its owner check of this epoch has passed, or it was owned before a retraining or width change and
holds what comes until the next check, or it trains and holds what comes (R329, R336, 13_trust.md R435, log entry 169). -/
def WPort.carries (w : WPort) : Bool := w.owned || w.prior || w.state = 1

/-- The port over which this module sends a message (R335, R336, R435). -/
def State.egress (s : State) (m : Msg) : Option Nat :=
  match routePort (s.route m.dest) m.psel with
  | some p => if s.portTakes p && ((s.wport p).carries || s.ownerless m) then some p else none
  | none => none

/-- A message enters the transmit queue of its class at a port. -/
def State.queueMsg (s : State) (p : Nat) (m : Msg) : State :=
  let w := s.wport p
  s.setWport p { w with tx := tput w.tx m.cls (tget w.tx [] m.cls ++ [m]) }

/-- A NOROUTE counted (WGO_NOROUTES). -/
def State.countNoroute (s : State) : State := { s with fab := { s.fab with noroutes := satInc s.fab.noroutes } }

/-- A message sent by this module along its own PSEL; where no port takes it, it is dropped with 0x0907 (R336). -/
def State.sendMsg (s : State) (m : Msg) : State :=
  match s.egress m with
  | some p => s.queueMsg p m
  | none => s.raiseMod 0x0907 [m.dest, m.psel, s.mod.id]

/-! ## Origin rules (R337) -/

/-- A path is usable while the origin's port for it takes messages and no NOROUTE for it has come since the last emitted bell. -/
def State.pathUsable (s : State) (dest psel : Nat) (campus : Bool) : Bool :=
  match routePort (s.route dest) psel with
  | some p => s.portTakes p && ((s.wport p).carries || campus) && !s.fab.badPaths.contains (dest, psel)
  | none => false

/-- Whether a module is unreachable (R337). -/
def State.unreachable (s : State) (dest : Nat) : Bool := !s.pathUsable dest 0 false && !s.pathUsable dest 1 false

/-- What the origin does with a REQ message. -/
inductive Sending where
  | send (psel : Nat)
  | hold
  | unreachable
  deriving DecidableEq, Repr

/-- PSEL for a REQ message to `dest`; a change of PSEL waits until no request to `dest` is unanswered (R337). -/
def State.sending (s : State) (dest : Nat) (campus : Bool) : Sending :=
  let u0 := s.pathUsable dest 0 campus
  if !u0 && !s.pathUsable dest 1 campus then .unreachable
  else
    let want := if u0 then 0 else 1
    let cur := tget s.fab.psel want dest
    if cur = want then .send want
    else if s.fab.remotes.any fun r => r.dest = dest then .hold else .send want

/-- A signal or arrival refused: counted and recorded, with its cause (06_tallies.md R197, R211). -/
def State.refuseSignal (s : State) (code die : Nat) (ctx : Option Nat) (whre : Nat) (detail : List Nat) : State :=
  ({ s with tlyRejects := satInc s.tlyRejects } : State).raise code die ctx whre 0xFFFFFFFF detail

/-- The exchange that a crate message of the home module serves fails: a campus copy's order fails with it, a move keeps its crate at its
source, and a first placement finds the exchange failed (R337, R348). -/
def State.failCrate (s : State) (m : Msg) : State :=
  let op := m.crateOp
  if !(op = 1 || op = 4 || op = 5 || op = 8) then s
  else match s.fab.exchanges.find? fun x => x.crate = m.crate && x.peer = m.dest with
  | none => s
  | some x =>
    match x.order with
    | some o =>
      ({ s with fab := { s.fab with exchanges := s.fab.exchanges.filter fun y => y ≠ x } } : State).complete o stFailed 0x0907 0 0
    | none =>
      { s with
        fab := { s.fab with exchanges := s.fab.exchanges.map fun y => if y = x then { y with phase := 6 } else y }
        ledger := { s.ledger with moves := s.ledger.moves.map fun y =>
          if y.crate = x.crate && y.phase = .moving && (y.dst.tier = 6 || y.src.tier = 6) then { y with phase := .failed, since := s.now }
          else y } }

/-- A REQ message without answer that did not reach its module: a signal or arrival is refused (06_tallies.md R197), a crate message fails
its exchange. -/
def State.undelivered (s : State) (x : Sent) : State :=
  if x.msg.ty = 6 ∨ x.msg.ty = 7 then s.refuseSignal 0x0504 x.die x.ctx x.whre [3]
  else if x.msg.ty = 9 then s.failCrate x.msg else s

/-- A REQ message whose module is unreachable: 0x0907 is recorded but for signals and arrivals (R337). -/
def State.lost (s : State) (x : Sent) : State :=
  (if x.msg.ty = 6 ∨ x.msg.ty = 7 then s else s.raiseMod 0x0907 [x.msg.dest, 0, s.mod.id]).undelivered x

/-- A REQ message without answer leaves with a tag of its own, or is held back (R337); the flag says whether its module was reachable.
DESIGN CHOICE: the tags of such messages come from the count that gives requests theirs (R331, log entry 162). -/
def State.sendFrom (s : State) (die : Nat) (ctx : Option Nat) (whre : Nat) (m : Msg) : State × Bool :=
  match s.sending m.dest (m.ty = 9 && !s.inHall m.dest) with
  | .unreachable => (s.lost ⟨0, die, ctx, whre, m⟩, false)
  | .hold => ({ s with fab := { s.fab with held := s.fab.held ++ [⟨0, die, ctx, whre, m⟩] } }, true)
  | .send p =>
    let tag := s.fab.tagSeq % 16383 + 1
    let m1 := (m.withPsel p).withTag tag
    let x : Sent := ⟨tag, die, ctx, whre, { m1 with data := [] }⟩
    (({ s with fab := { s.fab with
      psel := tput s.fab.psel m.dest p, tagSeq := s.fab.tagSeq + 1
      sent := (s.fab.sent.filter fun y => y.tag ≠ tag) ++ [x] } } : State).sendMsg m1, true)

/-- A message of the module as a whole. -/
def State.sendReq (s : State) (m : Msg) : State × Bool := s.sendFrom 0xFF none 0 m

/-- Messages sent one after another. -/
def State.sendReqs (s : State) : List Msg → State
  | [] => s
  | m :: r => (s.sendReq m).1.sendReqs r

/-- Messages that were held back, sent one after another. -/
def State.sendHeld (s : State) : List Sent → State
  | [] => s
  | x :: r => (s.sendFrom x.die x.ctx x.whre x.msg).1.sendHeld r

/-- Messages held back for a change of PSEL go out once that is possible (R337). -/
def State.flushHeld (s : State) : State :=
  let l := s.fab.held
  ({ s with fab := { s.fab with held := [] } } : State).sendHeld l

/-- The message without answer that a NOROUTE or ERR names by its tag. -/
def State.sentOf (s : State) (tag : Nat) : Option Sent := s.fab.sent.find? fun x => x.tag = tag

/-- The state without it. -/
def State.forgetSent (s : State) (tag : Nat) : State :=
  { s with fab := { s.fab with sent := s.fab.sent.filter fun x => x.tag ≠ tag } }

/-! ## Receive queues -/

/-- The first message of a class at a port. -/
def State.headMsg (s : State) (p cls : Nat) : Option Msg := (tget (s.wport p).rx [] cls).head?

/-- The state after that message has been taken; its cells come back as credit (R324). -/
def State.takeMsg (s : State) (p cls : Nat) : State :=
  let w := s.wport p
  match tget w.rx [] cls with
  | [] => s
  | m :: r => s.setWport p { w with rx := tput w.rx cls r, ret := tput w.ret cls (tget w.ret 0 cls + m.cells) }

/-- A message for this module at the head of a class queue: it is taken and `f` says what it does; otherwise nothing. -/
def State.onMsg (s : State) (p cls : Nat) (want : Msg → Bool) (f : Msg → State → State) : State :=
  match s.headMsg p cls with
  | some m => if want m && (m.dest = s.mod.id || m.cls = 3) then f m (s.takeMsg p cls) else s
  | none => s

end Sys2Proof.Machine
end

