-- ==== Sys2Proof/Machine/Ledger.lean ====
section
/-! DEFINITION. The ledger's tables and translation (08_ledger_dray.md R254 to R268): shared operations. -/
namespace Sys2Proof.Machine

/-! ## Crates and entries -/

/-- Bytes of a crate (R254). -/
def crateBytes (big : Bool) : Nat := if big then 0x200000 else 0x10000
/-- 64 KiB units of a crate (R269). -/
def crateUnits (big : Bool) : Nat := if big then 32 else 1

/-- The crate of either size that holds a virtual address. -/
def crateAt (ctx va : Nat) (big : Bool) : Crate := ⟨ctx, va / crateBytes big * crateBytes big, big⟩

/-- V of an entry (Table LDG.2). -/
def eV (e : Nat) : Bool := bitAt e 0
/-- LEAF. -/
def eLeaf (e : Nat) : Bool := bitAt e 1
/-- POL. -/
def ePol (e : Nat) : Nat := bitsAt e 2 2
/-- W. -/
def eW (e : Nat) : Bool := bitAt e 4
/-- SHR. -/
def eShr (e : Nat) : Bool := bitAt e 5
/-- MOVE. -/
def eMove (e : Nat) : Bool := bitAt e 6
/-- A. -/
def eA (e : Nat) : Bool := bitAt e 7
/-- D. -/
def eD (e : Nat) : Bool := bitAt e 8
/-- TIER. -/
def eTier (e : Nat) : Nat := bitsAt e 9 3
/-- LADDR as a local address. -/
def eAddr (e : Nat) : Nat := bitsAt e 12 34 * 4096
/-- MODULE. -/
def eModule (e : Nat) : Nat := bitsAt e 46 18

/-- A leaf entry (Table LDG.2). -/
def mkLeaf (pol : Nat) (w shr move a d : Bool) (st : Store) : Nat :=
  3 + pol * 4 + b2n w * 16 + b2n shr * 32 + b2n move * 64 + b2n a * 128 + b2n d * 256 + st.tier * 512
    + st.addr / 4096 * 4096 + st.module * 2 ^ 46

/-- A pointer entry (Table LDG.2). -/
def mkPtr (addr : Nat) : Nat := 1 + addr

/-- The storage a leaf names. -/
def eStore (e : Nat) : Store := ⟨eTier e, eAddr e, eModule e⟩

/-- Bits `[i]` to `[i]` of an entry set to a value. -/
def setBit (e i : Nat) (b : Bool) : Nat := if bitAt e i then (if b then e else e - 2 ^ i) else (if b then e + 2 ^ i else e)

/-! ## Populated storage -/

/-- First address past the populated HBM of a full module (00_scope.md Table SCO.3). -/
def hbmEnd : Nat := 0x0165A0BC0000

/-- Memory status of die `n` (07_depot_memory.md Table DEP.7). -/
def DieMem.fresh : DieMem := ⟨true, true, true, false, 0, 0, 0, 0, 0, 0, 0, 0, 0, 0, 0, false, false⟩
/-- The memory registers of die `n`. -/
def State.dmem (s : State) (n : Nat) : DieMem := tget s.dieMem DieMem.fresh n
/-- The state with them replaced. -/
def State.setDmem (s : State) (n : Nat) (m : DieMem) : State := { s with dieMem := tput s.dieMem n m }

/-- Whether any die's HBM share is absent (R265). -/
def State.anyAbsent (s : State) : Bool := (upFrom 0 16).any fun n => (s.dmem n).absent
/-- Whether an HBM address is populated (R13, R16, R239). -/
def State.hbmHere (s : State) (a : Nat) : Bool := decide (a < hbmEnd) && !(s.dmem (bitsAt a 12 4)).absent

/-- Populated 4 KiB blocks among the sixteen of a 64 KiB rotation. -/
def State.presentDies (s : State) : List Nat := (upFrom 0 16).filter fun n => !(s.dmem n).absent

/-- Address of the `j`-th populated 4 KiB block at or after block address `b` (R265). -/
def State.hbmBlock (s : State) (b j : Nat) : Nat :=
  if !s.anyAbsent then b + 4096 * j
  else
    let ds := s.presentDies
    let row := b / 65536
    let first := (ds.filter fun n => n < bitsAt b 12 4).length
    let i := first + j
    if ds.isEmpty then b else (row + i / ds.length) * 65536 + (ds.getD (i % ds.length) 0) * 4096

/-- LDG_DDR_BASE. -/
def State.ddrRegion (s : State) : Nat := s.liveReg 0 0x12000 + s.liveReg 0 0x12004 * 2 ^ 32
/-- LDG_DDR_SIZE (U of R280). -/
def State.ddrUnits (s : State) : Nat := s.liveReg 0 0x12008
/-- Annex units A of R280. -/
def State.annexUnits (s : State) : Nat := ceilDiv s.ddrUnits 1024
/-- Body slots. -/
def State.bodySlots (s : State) : Nat := s.ddrUnits - s.annexUnits
/-- Body address of slot `i`. -/
def State.bodyAddr (s : State) (i : Nat) : Nat := s.ddrRegion + i * 65536
/-- Header address of slot `i`. -/
def State.annexAddr (s : State) (i : Nat) : Nat := s.ddrRegion + s.bodySlots * 65536 + i * 64

/-- Whether an address is the first body slot of a crate in the ledger's DDR5 region (R280). -/
def State.bodyPlace (s : State) (a : Nat) (big : Bool) : Bool :=
  let i := (a - s.ddrRegion) / 65536
  decide (s.ddrRegion ≤ a) && (a - s.ddrRegion) % 65536 = 0 && i % crateUnits big = 0 && decide (i + crateUnits big ≤ s.bodySlots)

/-- Whether a leaf breaks Table LDG.3 for a crate of this size (R257, R260). -/
def State.leafBad (s : State) (e : Nat) (big : Bool) : Bool :=
  let a := eAddr e
  let m := eModule e
  let al := crateBytes big
  let other := m ≠ s.mod.id
  match eTier e with
  | 0 => a ≠ 0 || m ≠ 0
  | 1 => big || other || a < stockWin || a ≥ stockTop || !namesStall ((a - stockWin) / 0x40000)
      || !((a - stockWin) % 0x40000 = 0 || (a - stockWin) % 0x40000 = 65536)
  | 2 => other || a < depotBase || a ≥ depotTop || a % al ≠ 0
  | 3 => other || a ≥ hbmTop || a % (if s.anyAbsent then 4096 else al) ≠ 0
  | 4 => other || !s.bodyPlace a big
  | 5 => other || a < ddrBase || a ≥ cfgBase || a % al ≠ 0
  | 6 => !other || !s.inHall m || a % al ≠ 0
  | _ => true

/-- Whether a pointer breaks Table LDG.2, or names no table of this module's HBM with the alignment of Table LDG.1 (R260). -/
def ptrBad (e align : Nat) : Bool :=
  bitsAt e 2 7 ≠ 0 || e >>> 46 ≠ 0 || bitsAt e 9 37 * 512 % align ≠ 0 || bitsAt e 9 37 * 512 ≥ hbmTop

/-- The table that a pointer names. -/
def ptrAddr (e : Nat) : Nat := bitsAt e 9 37 * 512

/-- The outcome of a table walk (R255, R260). -/
inductive Walk where
  | unmapped
  | bad (table level : Nat)
  | leaf (entryAddr entry : Nat) (big : Bool)
  deriving DecidableEq, Repr

/-- The word at an HBM address of a table. -/
def State.tabWord (s : State) (a : Nat) : Nat := tget s.ledger.tabs 0 a

/-- A walk's last two levels (R255). -/
def State.walkLow (s : State) (t0 va : Nat) : Walk :=
  let a0 := t0 + 8 * bitsAt va 21 8
  let e0 := s.tabWord a0
  if !eV e0 then .unmapped
  else if eLeaf e0 then (if s.leafBad e0 true then .bad t0 0 else .leaf a0 e0 true)
  else if ptrBad e0 512 then .bad t0 0
  else
    let tT := ptrAddr e0
    let aT := tT + 8 * bitsAt va 16 5
    let eT := s.tabWord aT
    if !eV eT then .unmapped
    else if !eLeaf eT || s.leafBad eT false then .bad tT 5 else .leaf aT eT false

/-- A walk from the context's root table (R255, Table LDG.1). -/
def State.walk (s : State) (ctx va : Nat) : Walk :=
  match (s.ctx ctx).root with
  | none => .unmapped
  | some root =>
    let e3 := s.tabWord (root + 8 * bitsAt va 47 9)
    if !eV e3 then .unmapped else if eLeaf e3 || ptrBad e3 4096 then .bad root 3
    else
      let t2 := ptrAddr e3
      let e2 := s.tabWord (t2 + 8 * bitsAt va 38 9)
      if !eV e2 then .unmapped else if eLeaf e2 || ptrBad e2 4096 then .bad t2 2
      else
        let t1 := ptrAddr e2
        let e1 := s.tabWord (t1 + 8 * bitsAt va 29 9)
        if !eV e1 then .unmapped else if eLeaf e1 || ptrBad e1 4096 then .bad t1 1
        else s.walkLow (ptrAddr e1) va

/-- The entries that a walk reads, from the root down, each with its level (5 for level T); it ends at a leaf, or at an entry that is not
valid or breaks the tables (R255, R260). -/
def State.walkReads (s : State) (ctx va : Nat) : List (Nat × Nat) :=
  match (s.ctx ctx).root with
  | none => []
  | some root =>
    let on := fun (a align : Nat) => let e := s.tabWord a
      if eV e && !eLeaf e && !ptrBad e align then some (ptrAddr e) else none
    let a3 := root + 8 * bitsAt va 47 9
    (a3, 3) :: match on a3 4096 with
      | none => []
      | some t2 =>
        let a2 := t2 + 8 * bitsAt va 38 9
        (a2, 2) :: match on a2 4096 with
          | none => []
          | some t1 =>
            let a1 := t1 + 8 * bitsAt va 29 9
            (a1, 1) :: match on a1 4096 with
              | none => []
              | some t0 =>
                let a0 := t0 + 8 * bitsAt va 21 8
                (a0, 0) :: match on a0 512 with
                  | none => []
                  | some tT => [(tT + 8 * bitsAt va 16 5, 5)]

/-- The table that holds the entry at an address read at a level (Table LDG.1). -/
def tableOf (a level : Nat) : Nat := if level = 5 then a / 512 * 512 else a / 4096 * 4096

/-- Address of the version shadow of a leaf at `entryAddr` (R258). -/
def shadowAddr (entryAddr : Nat) (big : Bool) : Nat := entryAddr + (if big then 2048 else 256)

/-- The state with a table word written. -/
def State.putTab (s : State) (a v : Nat) : State :=
  { s with ledger := { s.ledger with tabs := tput s.ledger.tabs a v } }

/-! ## Translation -/

/-- The outcome of a translation (R262). -/
inductive Tr where
  /-- global address; the leaf's place and its value with A and D set -/
  | ok (addr entryAddr entry : Nat)
  /-- waits for a placement or import of the crate -/
  | place (c : Crate) (sealed : Bool)
  /-- waits for the end of a move -/
  | move
  | refuse (code : Nat)
  deriving DecidableEq, Repr

/-- Global address of a byte of a crate (R262, R265). -/
def State.globalOf (s : State) (st : Store) (off : Nat) : Nat :=
  let l := if st.tier = 3 then s.hbmBlock st.addr (off / 4096) + off % 4096 else st.addr + off
  st.module * 2 ^ 46 + l

/-- translate(va, write) of R262; `double` says that a table read is uncorrectable (R260). -/
def State.translate (s : State) (ctx va : Nat) (write double : Bool) : Tr :=
  if double then .refuse 0x0705
  else match s.walk ctx va with
  | .unmapped => .refuse 0x0701
  | .bad _ _ => .refuse 0x0705
  | .leaf ea e big =>
    if write && !eW e then .refuse 0x0702
    else if eTier e = 0 then .place (crateAt ctx va big) false
    else if eTier e = 4 then .place (crateAt ctx va big) true
    else if eTier e = 6 && (s.lostStores.contains (eStore e) || s.unreachable (eModule e)) then .refuse 0x0709
    else if write && eMove e then .move
    else
      let e1 := setBit e 7 true
      let e2 := if write then setBit e1 8 true else e1
      .ok (s.globalOf (eStore e) (va % crateBytes big)) ea e2

/-- Engine of a die as a requester of the ledger (R263, log entry 98). -/
def engineId (die : Nat) : Nat := 0x20000 + die

/-- WHERE of an incident that a requester causes: a stall's ID; an engine of a die has no stall (11_host_rings.md R386). -/
def whereOf (who : Nat) : Nat := if who < 0x20000 then who else 0

/-- A refused translation: LDG_FAULT_VA and CTX, and the incident of its cause with the requester (R263, R286). -/
def State.refusal (s : State) (ctx va who die code : Nat) (detail : List Nat) : State :=
  { s with ledger := { s.ledger with faultVa := va, faultCtx := ctx } }.raise code die (some ctx) (whereOf who) 0xFFFFFFFF detail

/-- What the incident of a refused translation carries (Table LDG.11): the module and VA of a lost lender, the table and level of an entry
that is bad or cannot be read, else the VA and the requester. -/
def State.refusalDetail (s : State) (ctx va who code : Nat) : List Nat :=
  if code = 0x0709 then
    (match s.walk ctx va with
      | .leaf _ e _ => [eModule e, va]
      | _ => [va, who])
  else if code = 0x0705 then
    (match s.walk ctx va, (s.walkReads ctx va).getLast? with
      | .bad table level, _ => [table, level]
      | _, some (a, level) => [tableOf a level, level]
      | _, none => [va, who])
  else [va, who]

/-- The state after a translation: A and D set, a demand noted, or the refusal reported (R262, R263, R286). -/
def State.translated (s : State) (ctx va requester die : Nat) : Tr → State
  | .ok _ ea e => if s.tabWord ea = e then s else s.putTab ea e
  | .place c _ =>
    if s.ledger.demands.any fun d => d.1 = c then s
    else { s with ledger := { s.ledger with demands := s.ledger.demands ++ [(c, die)] } }
  | .move => s
  | .refuse code => s.refusal ctx va requester die code (s.refusalDetail ctx va requester code)

/-- Whether a waiting translation is this engine's at this address. -/
def Waiter.is (w : Waiter) (who ctx va : Nat) : Bool := w.who = who && w.ctx = ctx && w.va = va

/-- The state without the translation of an engine that waited. -/
def State.dropWaiter (s : State) (who ctx va : Nat) : State :=
  { s with ledger := { s.ledger with waiters := s.ledger.waiters.filter fun w => !w.is who ctx va } }

/-- A translation asked for by an engine of the module, a loader, a gather stall or a reducer: one that waited and has been refused since
is refused (R274, R283), and one that has to wait is noted (R262). -/
def State.engineTr (s : State) (ctx va who die : Nat) (write : Bool) : State × Tr :=
  match (s.ledger.waiters.find? fun w => w.is who ctx va).bind (·.code) with
  | some code => (s.dropWaiter who ctx va, .refuse code)
  | none =>
    let tr := s.translate ctx va write false
    let t := (s.dropWaiter who ctx va).translated ctx va who die tr
    match tr with
    | .place _ _ => ({ t with ledger := { t.ledger with waiters := t.ledger.waiters ++ [⟨who, ctx, va, none⟩] } }, tr)
    | _ => (t, tr)

/-- The cached crate of an address, if the stall's cache holds one (R261). -/
def xhit (c : List (Nat × Nat)) (ctx va : Nat) : Bool :=
  c.any fun p => p.1 = ctx * 2 + 1 && p.2 = va / 0x200000 || p.1 = ctx * 2 && p.2 = va / 0x10000

/-- A crate enters a cache of `n` entries in place of the one that entered first (R261). -/
def xfill (n : Nat) (c : List (Nat × Nat)) (ctx va : Nat) (big : Bool) : List (Nat × Nat) :=
  let key := if big then (ctx * 2 + 1, va / 0x200000) else (ctx * 2, va / 0x10000)
  if c.contains key then c else (if c.length ≥ n then c.drop 1 else c) ++ [key]

/-- A crate leaves a cache (R266). -/
def xdrop (c : List (Nat × Nat)) (k : Crate) : List (Nat × Nat) :=
  c.filter fun p => p ≠ (if k.big then (k.ctx * 2 + 1, k.va / 0x200000) else (k.ctx * 2, k.va / 0x10000))

/-- Whether a walk ends at a leaf of a 2 MiB crate. -/
def State.bigAt (s : State) (ctx va : Nat) : Bool :=
  match s.walk ctx va with
  | .leaf _ _ b => b
  | _ => false

/-- Addresses of the pointer entries that a walk passes (R261). -/
def State.pointersOf (s : State) (ctx va : Nat) : List Nat := ((s.walkReads ctx va).map (·.1)).filter fun a => eV (s.tabWord a) && !eLeaf (s.tabWord a)

/-- Pointer entries join a die's upper-level cache of 256 in place of those that entered first (R261). -/
def ufill : List Nat → List Nat → List Nat
  | c, [] => c
  | c, a :: r => ufill (if c.contains a then c else (if c.length ≥ 256 then c.drop 1 else c) ++ [a]) r

/-- Whether a translation of a stall reads tables: neither its cache nor its die's holds the crate (R261). -/
def State.readsTable (s : State) (k ctx va : Nat) : Bool :=
  !xhit (s.port k).xcache ctx va && !xhit (tget s.ledger.dieCache [] (dieOf k)) ctx va

/-- The upper-level entries that a walk of a die passes enter its cache (R261). -/
def State.fillUpper (s : State) (d ctx va : Nat) : State :=
  { s with ledger := { s.ledger with upper := tput s.ledger.upper d (ufill (tget s.ledger.upper [] d) (s.pointersOf ctx va)) } }

/-- The stall's and the die's caches filled for an accessible crate (R261). -/
def State.fillCaches (s : State) (k ctx va : Nat) : State :=
  let big := s.bigAt ctx va
  let p := s.port k
  let d := dieOf k
  let s1 := (if s.readsTable k ctx va then s.fillUpper d ctx va else s).setPort k { p with xcache := xfill 32 p.xcache ctx va big }
  { s1 with ledger := { s1.ledger with
      dieCache := tput s1.ledger.dieCache d (xfill 4096 (tget s1.ledger.dieCache [] d) ctx va big) } }

/-- Every cache drops a changed crate (R266). -/
def State.dropCrate (s : State) (c : Crate) : State :=
  { s with
    ports := tmap s.ports fun _ p => { p with xcache := xdrop p.xcache c }
    ledger := { s.ledger with dieCache := tmap s.ledger.dieCache fun _ l => xdrop l c } }

end Sys2Proof.Machine
end

