-- ==== Sys2Proof/Machine/Scalar.lean ====
section
/-! DEFINITION. Control, branch and scalar instructions, and the fetch of instruction lines (02_stall.md R63, R69 to R71). -/
namespace Sys2Proof.Machine

/-! ## Control -/

/-- NOP: E and TARGET are reserved (Table STL.4). -/
def nopIssue (f : FmtC) (s : State) (_k : Nat) (t : Stall) : Issue :=
  issueIf [(f.rsv ≠ 0#36 || f.e ≠ 0#1 || f.target ≠ 0#15, 0x0202)] true (.go s t .seq)

/-- NOP (R69). -/
def execNop (sid : StallId) (f : FmtC) (s : State) : Out :=
  .next (s.issueAt sid (f.word 0x00#6 0x00#6) (nopIssue f))

/-- BELL.WAIT issues once every earlier instruction has retired; with E = 1, TARGET is required to be 0 (R70). -/
def bellWaitIssue (f : FmtC) (s : State) (_k : Nat) (t : Stall) : Issue :=
  issueIf [(f.rsv ≠ 0#36 || (f.e = 1#1 && f.target ≠ 0#15), 0x0202)] t.ops.isEmpty
    (.go s t (.park f.target.toNat (f.e = 1#1)))

/-- BELL.WAIT, and the report of plan end where E = 1 (R70, R168). -/
def execBellWait (sid : StallId) (f : FmtC) (s : State) : Out :=
  let t := s.issueAt sid (f.word 0x00#6 0x01#6) (bellWaitIssue f)
  .next (if s.mayIssue sid.num then t.checkPlanEnd sid.num else t)

/-- FENCE issues only when every earlier instruction of the stall has retired (Table STL.4). -/
def fenceIssue (f : FmtC) (s : State) (_k : Nat) (t : Stall) : Issue :=
  issueIf [(f.rsv ≠ 0#36 || f.e ≠ 0#1 || f.target ≠ 0#15, 0x0202)] t.ops.isEmpty (.go s t .seq)

/-- FENCE (R69). -/
def execFence (sid : StallId) (f : FmtC) (s : State) : Out :=
  .next (s.issueAt sid (f.word 0x00#6 0x02#6) (fenceIssue f))

/-- A word with an unlisted OP or FN, or FMT 8 to 15, raises precise 0x0201 (R68, R86). A word that some command spells is not one. -/
def execIllegalOpcode (sid : StallId) (word : Word64) (s : State) : Out :=
  match decodeWord sid word with
  | some _ => .next s
  | none => .next (s.issueAt sid word fun _ _ _ => .fault 0x0201 [])

/-! ## Branches -/

/-- A conditional branch: both registers are read; the reserved bits are required to be 0 (Table STL.4). -/
def branchIssue (f : FmtB) (taken : Word64 → Word64 → Bool) (s : State) (_k : Nat) (t : Stall) : Issue :=
  let a := f.sa.toNat
  let b := f.sb.toNat
  issueLocal t [a, b] [(f.rsv ≠ 0#27, 0x0202)] true
    (.go s t (if taken (t.sreg a) (t.sreg b) then .jump (f.target.toNat * 8) false else .seq))

/-- BR.EQ (Table STL.4). -/
def execBrEq (sid : StallId) (f : FmtB) (s : State) : Out :=
  .next (s.issueAt sid (f.word 0x01#6 0x00#6) (branchIssue f fun a b => a = b))
/-- BR.NE. -/
def execBrNe (sid : StallId) (f : FmtB) (s : State) : Out :=
  .next (s.issueAt sid (f.word 0x01#6 0x01#6) (branchIssue f fun a b => a ≠ b))
/-- BR.LT, signed. -/
def execBrLt (sid : StallId) (f : FmtB) (s : State) : Out :=
  .next (s.issueAt sid (f.word 0x01#6 0x02#6) (branchIssue f fun a b => a.slt b))
/-- BR.GE, signed. -/
def execBrGe (sid : StallId) (f : FmtB) (s : State) : Out :=
  .next (s.issueAt sid (f.word 0x01#6 0x03#6) (branchIssue f fun a b => b.sle a))
/-- BR.LTU, unsigned. -/
def execBrLtu (sid : StallId) (f : FmtB) (s : State) : Out :=
  .next (s.issueAt sid (f.word 0x01#6 0x04#6) (branchIssue f fun a b => a.ult b))
/-- BR.GEU, unsigned. -/
def execBrGeu (sid : StallId) (f : FmtB) (s : State) : Out :=
  .next (s.issueAt sid (f.word 0x01#6 0x05#6) (branchIssue f fun a b => b.ule a))

/-- J: always taken, refetches its target line; SA and SB are reserved (Table STL.4, R66, R76). -/
def jIssue (f : FmtB) (s : State) (_k : Nat) (t : Stall) : Issue :=
  issueIf [(f.rsv ≠ 0#27 || f.sa ≠ 0#5 || f.sb ≠ 0#5, 0x0202)] true (.go s t (.jump (f.target.toNat * 8) true))

/-- J (R69). -/
def execJ (sid : StallId) (f : FmtB) (s : State) : Out :=
  .next (s.issueAt sid (f.word 0x01#6 0x06#6) (jIssue f))

/-- JR: the new PC is s[SA][17:0], whose bits [2:0] are required to be 0; TARGET is reserved, and SB, which the table does not
name, is left out of that requirement (Table STL.4, log entry 22). -/
def jrIssue (f : FmtB) (s : State) (_k : Nat) (t : Stall) : Issue :=
  let pc := (t.sreg f.sa.toNat).toNat % 2 ^ 18
  issueLocal t [f.sa.toNat] [(f.rsv ≠ 0#27 || f.target ≠ 0#15, 0x0202), (pc % 8 ≠ 0, 0x0205)] true
    (.go s t (.jump pc false))

/-- JR (R69). -/
def execJr (sid : StallId) (f : FmtB) (s : State) : Out :=
  .next (s.issueAt sid (f.word 0x01#6 0x07#6) (jrIssue f))

/-- LOOP: s[SA] less 1, taken if the result is not 0; SB is reserved (Table STL.4). A write of s0 is discarded, so the result for
s0 is the difference itself. -/
def loopIssue (f : FmtB) (s : State) (_k : Nat) (t : Stall) : Issue :=
  let a := f.sa.toNat
  let v := t.sreg a - 1#64
  issueLocal t [a] [(f.rsv ≠ 0#27 || f.sb ≠ 0#5, 0x0202)] true
    (.go s (t.setS a v) (if v ≠ 0#64 then .jump (f.target.toNat * 8) false else .seq))

/-- LOOP (R69). -/
def execLoop (sid : StallId) (f : FmtB) (s : State) : Out :=
  .next (s.issueAt sid (f.word 0x01#6 0x08#6) (loopIssue f))

/-! ## Scalar functions -/

/-- A scalar function of two operands; the result is usable by the next instruction (R71). -/
def aluIssue (f : AluForm) (op : Word64 → Word64 → Word64) (s : State) (_k : Nat) (t : Stall) : Issue :=
  issueLocal t (aluSd f :: aluSrcs f) [(!aluRsvZero f, 0x0202)] true
    (.go s (t.setS (aluSd f) (op (aluA t f) (aluB t f))) .seq)

/-- Shift count: bits [5:0] of the second operand (R71). -/
def shamt (b : Word64) : Nat := b.toNat % 64

/-- ADD (Table STL.5). -/
def execAdd (sid : StallId) (f : AluForm) (s : State) : Out :=
  .next (s.issueAt sid (f.word 0x00#6) (aluIssue f fun a b => a + b))
/-- SUB. -/
def execSub (sid : StallId) (f : AluForm) (s : State) : Out :=
  .next (s.issueAt sid (f.word 0x01#6) (aluIssue f fun a b => a - b))
/-- AND. -/
def execAnd (sid : StallId) (f : AluForm) (s : State) : Out :=
  .next (s.issueAt sid (f.word 0x02#6) (aluIssue f fun a b => a &&& b))
/-- OR. -/
def execOr (sid : StallId) (f : AluForm) (s : State) : Out :=
  .next (s.issueAt sid (f.word 0x03#6) (aluIssue f fun a b => a ||| b))
/-- XOR. -/
def execXor (sid : StallId) (f : AluForm) (s : State) : Out :=
  .next (s.issueAt sid (f.word 0x04#6) (aluIssue f fun a b => a ^^^ b))
/-- SLL. -/
def execSll (sid : StallId) (f : AluForm) (s : State) : Out :=
  .next (s.issueAt sid (f.word 0x05#6) (aluIssue f fun a b => a <<< shamt b))
/-- SRL. -/
def execSrl (sid : StallId) (f : AluForm) (s : State) : Out :=
  .next (s.issueAt sid (f.word 0x06#6) (aluIssue f fun a b => a >>> shamt b))
/-- SRA. -/
def execSra (sid : StallId) (f : AluForm) (s : State) : Out :=
  .next (s.issueAt sid (f.word 0x07#6) (aluIssue f fun a b => a.sshiftRight (shamt b)))
/-- MUL: the low 64 bits of the product. -/
def execMul (sid : StallId) (f : AluForm) (s : State) : Out :=
  .next (s.issueAt sid (f.word 0x08#6) (aluIssue f fun a b => a * b))
/-- MIN, signed. -/
def execMin (sid : StallId) (f : AluForm) (s : State) : Out :=
  .next (s.issueAt sid (f.word 0x09#6) (aluIssue f fun a b => if b.slt a then b else a))
/-- MAX, signed. -/
def execMax (sid : StallId) (f : AluForm) (s : State) : Out :=
  .next (s.issueAt sid (f.word 0x0A#6) (aluIssue f fun a b => if a.slt b then b else a))
/-- MINU, unsigned. -/
def execMinu (sid : StallId) (f : AluForm) (s : State) : Out :=
  .next (s.issueAt sid (f.word 0x0B#6) (aluIssue f fun a b => if b.ult a then b else a))
/-- MAXU, unsigned. -/
def execMaxu (sid : StallId) (f : AluForm) (s : State) : Out :=
  .next (s.issueAt sid (f.word 0x0C#6) (aluIssue f fun a b => if a.ult b then b else a))
/-- SLT. -/
def execSlt (sid : StallId) (f : AluForm) (s : State) : Out :=
  .next (s.issueAt sid (f.word 0x0D#6) (aluIssue f fun a b => if a.slt b then 1#64 else 0#64))
/-- SLTU. -/
def execSltu (sid : StallId) (f : AluForm) (s : State) : Out :=
  .next (s.issueAt sid (f.word 0x0E#6) (aluIssue f fun a b => if a.ult b then 1#64 else 0#64))

/-- ORHI: OP 0x03 only, a OR (IMM << 32) (Table STL.5). -/
def orhiIssue (f : FmtI) (s : State) (_k : Nat) (t : Stall) : Issue :=
  let a := f.sa.toNat
  let d := f.sd.toNat
  issueLocal t [d, a] [(f.rsv ≠ 0#10, 0x0202)] true
    (.go s (t.setS d (t.sreg a ||| ((f.imm.zeroExtend 64) <<< 32))) .seq)

/-- ORHI (R71). -/
def execOrhi (sid : StallId) (f : FmtI) (s : State) : Out :=
  .next (s.issueAt sid (f.word 0x03#6 0x10#6) (orhiIssue f))

/-- The special value that IMM selects; `none` for a value that raises 0x0210 (Table STL.5 RDS). -/
def specialValue (s : State) (k : Nat) (t : Stall) (imm : Nat) : Option Word64 :=
  match imm with
  | 0 => some (BitVec.ofNat 64 k)
  | 1 => some (BitVec.ofNat 64 (t.occ.getD 0))
  | 2 => some (BitVec.ofNat 64 (s.bell.count % 2 ^ 32))
  | 3 => some (BitVec.ofNat 64 (s.now - t.segStart))
  | 4 => some (BitVec.ofNat 64 s.bell.lead)
  | _ => none

/-- RDS: SA is reserved (Table STL.5). -/
def rdsIssue (f : FmtI) (s : State) (k : Nat) (t : Stall) : Issue :=
  let v := specialValue s k t f.imm.toNat
  issueLocal t [f.sd.toNat] [(f.rsv ≠ 0#10 || f.sa ≠ 0#5, 0x0202), (v.isNone, 0x0210)] true
    (.go s (t.setS f.sd.toNat (v.getD 0#64)) .seq)

/-- RDS (R71). -/
def execRds (sid : StallId) (f : FmtI) (s : State) : Out :=
  .next (s.issueAt sid (f.word 0x03#6 0x20#6) (rdsIssue f))

/-! ## Stock errors and the fetch buffer -/

/-- A double-bit stock error stops issue in the cy after detection with 0x0206; work issued earlier completes (R100). -/
def State.stockDouble (s : State) (k pc : Nat) : State :=
  let t := s.stall k
  match t.status with
  | .stopped _ _ => s.raiseStallAt 0x0206 k pc []
  | _ => (s.raiseStallAt 0x0206 k pc []).setStall k { t with status := .stopped 0x0206 (s.now + 1) }

/-- A single-bit stock error is corrected and counted; the first of a bell raises 0x0207 (R100). -/
def State.stockSingle (s : State) (k pc : Nat) : State :=
  let t := s.stall k
  let s1 := s.setStall k { t with eccBell := true, eccCount := t.eccCount + 1 }
  if t.eccBell then s1 else s1.raiseStallAt 0x0207 k pc []

/-- The state after the SECDED check of a stock read by the instruction at `pc`, before its data is used (R100, R105). -/
def State.stockEcc (s : State) (k pc : Nat) : Ecc → State
  | .none => s
  | .single => s.stockSingle k pc
  | .double => s.stockDouble k pc

/-- A line joins the buffer in place of the one held longest (R63). -/
def Stall.fill (t : Stall) (l : Nat) (d : Line) : Stall :=
  let kept := t.fetch.filter fun f => f.line ≠ l
  { t with fetch := (if kept.length ≥ 8 then kept.drop 1 else kept) ++ [⟨l, d⟩] }

/-- The oldest requested line arrives 3 cy after its request (R63); an uncorrectable one delivers nothing and stops issue (R100). -/
def execFetchLineArrival (sid : StallId) (ecc : Ecc) (s0 : State) : Out :=
  let k := sid.num
  match (s0.stall k).fetchReq with
  | [] => .next s0
  | (l, due) :: rest =>
    let s := (s0.at due).stockEcc k (s0.stall k).pc ecc
    let t := { s.stall k with fetchReq := rest }
    .next (s.setStall k (if ecc = .double then t else t.fill l (s.line (stockAddr k (64 * l)))))

end Sys2Proof.Machine
end

