-- ==== Sys2Proof/Machine/LoadStore.lean ====
section
/-! DEFINITION. Stock loads and stores and REL (02_stall.md R72 to R76, R100). -/
namespace Sys2Proof.Machine

/-- The effective stock offset of VLD and VST (R74). -/
def vecOffset (t : Stall) (f : FmtL) : Nat := (t.sreg f.sa.toNat).toNat % 2 ^ 18 + f.off.toNat

/-- The causes of VLD and VST: reserved bits, register extent, stock address (R67, R74). -/
def vecCauses (t : Stall) (f : FmtL) : List (Bool × Nat) :=
  let off := vecOffset t f
  let n := f.n.toNat + 1
  [(f.rsv ≠ 0#16, 0x0202), (f.vd.toNat + n > 128, 0x0203), (off % 64 ≠ 0 || off + 64 * n > stockBytes, 0x0204)]

/-- VLD: one 64 B line a register, the first FULL at issue + 3 (Table STL.6). -/
def vldIssue (f : FmtL) (s : State) (_k : Nat) (t : Stall) : Issue :=
  let n := f.n.toNat + 1
  issueLocal t [f.sa.toNat] (vecCauses t f) (t.vFree (upFrom f.vd.toNat n))
    (.go s (t.pushOp (s.now + 3) (.vld f.vd.toNat (vecOffset t f) n 0)) .seq)

/-- VLD (R74). -/
def execVld (sid : StallId) (f : FmtL) (s : State) : Out :=
  .next (s.issueAt sid (f.word 0x04#6 0x00#6) (vldIssue f))

/-- VST: one line per cy from issue + 1 (Table STL.6). -/
def vstIssue (f : FmtL) (s : State) (_k : Nat) (t : Stall) : Issue :=
  let n := f.n.toNat + 1
  issueLocal t [f.sa.toNat] (vecCauses t f) (t.vReady (upFrom f.vd.toNat n))
    (.go s (t.pushOp (s.now + 1) (.vst f.vd.toNat (vecOffset t f) n 0)) .seq)

/-- VST (R74). -/
def execVst (sid : StallId) (f : FmtL) (s : State) : Out :=
  .next (s.issueAt sid (f.word 0x04#6 0x01#6) (vstIssue f))

/-- The effective offset of LD.S and ST.S: s[SA] + IMM as a 64-bit sum (Table STL.6, R75). -/
def scalarOffset (t : Stall) (f : FmtI) : Nat := (t.sreg f.sa.toNat + f.imm.signExtend 64).toNat

/-- The causes of LD.S and ST.S (R67, R75). -/
def scalarCauses (t : Stall) (f : FmtI) : List (Bool × Nat) :=
  let off := scalarOffset t f
  [(f.rsv ≠ 0#10, 0x0202), (off % 8 ≠ 0 || off ≥ stockBytes, 0x0204)]

/-- LD.S: the result is usable at issue + 3 (Table STL.6). -/
def ldSIssue (f : FmtI) (s : State) (_k : Nat) (t : Stall) : Issue :=
  issueLocal t [f.sa.toNat, f.sd.toNat] (scalarCauses t f) true
    (.go s (t.pushOp (s.now + 3) (.lds f.sd.toNat (scalarOffset t f))) .seq)

/-- LD.S (R75). -/
def execLdS (sid : StallId) (f : FmtI) (s : State) : Out :=
  .next (s.issueAt sid (f.word 0x04#6 0x02#6) (ldSIssue f))

/-- ST.S: 8 B of s[SD], written by issue + 2 (Table STL.6). -/
def stSIssue (f : FmtI) (s : State) (_k : Nat) (t : Stall) : Issue :=
  issueLocal t [f.sa.toNat, f.sd.toNat] (scalarCauses t f) true
    (.go s (t.pushOp (s.now + 2) (.sts (scalarOffset t f) (t.sreg f.sd.toNat))) .seq)

/-- ST.S (R75). -/
def execStS (sid : StallId) (f : FmtI) (s : State) : Out :=
  .next (s.issueAt sid (f.word 0x04#6 0x03#6) (stSIssue f))

/-- The stall with a list of registers set EMPTY. -/
def Stall.emptyVs (t : Stall) : List Nat → Stall
  | [] => t
  | i :: r => (t.emptyV i).emptyVs r

/-- REL: SA and OFF are reserved; it takes effect once earlier reads and writes of its registers have completed (Table STL.6,
log entry 23). -/
def relIssue (f : FmtL) (s : State) (_k : Nat) (t : Stall) : Issue :=
  let n := f.n.toNat + 1
  let regs := upFrom f.vd.toNat n
  issueIf [(f.rsv ≠ 0#16 || f.sa ≠ 0#5 || f.off ≠ 0#18, 0x0202), (f.vd.toNat + n > 128, 0x0203)] (t.vFree regs)
    (.go s (t.emptyVs regs) .seq)

/-- REL (R72). -/
def execRel (sid : StallId) (f : FmtL) (s : State) : Out :=
  .next (s.issueAt sid (f.word 0x06#6 0x00#6) (relIssue f))

/-! ## Completion -/

/-- Stock lines an instruction in flight still has to write. -/
def OpKind.lineWrites : OpKind → List Nat
  | .vst _ off n k => upFrom (off / 64 + k) (n - k)
  | .sts off _ => [off / 64]
  | _ => []

/-- Stock lines an instruction in flight still has to read. -/
def OpKind.lineReads : OpKind → List Nat
  | .vld _ off n k => upFrom (off / 64 + k) (n - k)
  | .lds _ off => [off / 64]
  | .trnLd _ off rows len stride =>
    (upFrom 0 rows).flatMap fun r =>
      upFrom ((off + r * stride) / 64) ((off + r * stride + len - 1) / 64 - (off + r * stride) / 64 + 1)
  | .pbld _ off => upFrom (off / 64) 49
  | _ => []

/-- Whether an access of line `l` may go ahead of nothing older that touches the line: stores keep program order with the
executor's other accesses of the line (log entry 24). -/
def lineClear (older : List Op) (l : Nat) (isWrite : Bool) : Bool :=
  older.all fun o => !o.kind.lineWrites.contains l && !(isWrite && o.kind.lineReads.contains l)

/-- The instructions in flight older than the one with this number, and that one. -/
def splitOp (ops : List Op) (seq : Nat) : Option (List Op × Op) :=
  match ops.find? fun o => o.seq = seq with
  | none => none
  | some o => some (ops.filter fun x => x.seq < seq, o)

/-- The stall without an instruction in flight. -/
def Stall.retire (t : Stall) (seq : Nat) : Stall := { t with ops := t.ops.filter fun o => o.seq ≠ seq }

/-- The stall with an instruction in flight gone one line further. -/
def Stall.stepOp (t : Stall) (seq due : Nat) (k : OpKind) : Stall :=
  { t with ops := t.ops.map fun o => if o.seq = seq then { o with due := due, kind := k } else o }

/-- One line of the load or store with this number (Table STL.6, R72, R100): a load writes its register and sets it FULL, a store
writes stock; an uncorrectable read delivers nothing and ends its instruction. DESIGN CHOICE: of a VLD whose later line fails, the
registers that its earlier lines filled stay written and FULL (log entry 154). -/
def execLoadStoreComplete (sid : StallId) (seq : Nat) (ecc : Ecc) (s0 : State) : Out :=
  let k := sid.num
  match splitOp (s0.stall k).ops seq with
  | none => .next s0
  | some (older, o) =>
    match o.kind with
    | .vld vd off n j =>
      let l := off / 64 + j
      if !lineClear older l false then .next s0
      else
        let s := (s0.at o.due).stockEcc k o.pc ecc
        let t := s.stall k
        if ecc = .double then .next (s.setStall k (t.retire seq))
        else
          let t1 := t.setV (vd + j) (s.line (stockAddr k (64 * l)))
          .next (s.setStall k (if j + 1 ≥ n then t1.retire seq else t1.stepOp seq (o.due + 1) (.vld vd off n (j + 1))))
    | .vst vd off n j =>
      let l := off / 64 + j
      if !lineClear older l true then .next s0
      else
        let s := s0.at o.due
        let t := s.stall k
        let s1 := s.putLine (stockAddr k (64 * l)) (t.vreg (vd + j))
        .next (s1.setStall k (if j + 1 ≥ n then t.retire seq else t.stepOp seq (o.due + 1) (.vst vd off n (j + 1))))
    | .lds sd off =>
      if !lineClear older (off / 64) false then .next s0
      else
        let s := (s0.at o.due).stockEcc k o.pc ecc
        let t := (s.stall k).retire seq
        .next (s.setStall k (if ecc = .double then t
          else t.setS sd (BitVec.ofNat 64 (leNat (s.bytes (stockAddr k off) 8)))))
    | .sts off v =>
      if !lineClear older (off / 64) true then .next s0
      else
        let s := s0.at o.due
        .next ((s.write (stockAddr k off) (leBytes 8 v.toNat)).setStall k ((s.stall k).retire seq))
    | _ => .next s0

end Sys2Proof.Machine
end

