-- ==== Sys2Proof/Machine/Alloc.lean ====
section
/-! DEFINITION. Free lists, tables and the functions ALLOC, FREE and HINT (08_ledger_dray.md R254, R255, R269 to R271). -/
namespace Sys2Proof.Machine

/-! ## Free lists (R269) -/

/-- 64 KiB units of populated HBM (00_scope.md Table SCO.3, R265). -/
def State.hbmUnits (s : State) : Nat := hbmEnd / 65536 * s.presentDies.length / 16
/-- Address of the first block of HBM unit `i` (R265). -/
def State.hbmUnitAddr (s : State) (i : Nat) : Nat :=
  if !s.anyAbsent then i * 65536
  else
    let ds := s.presentDies
    16 * i / ds.length * 65536 + (ds.getD (16 * i % ds.length) 0) * 4096

/-- Units in use. -/
def usedUnits (l : List Span) : Nat := sumNat (l.map (·.len))

/-- The first used span that meets `n` units from `i`. -/
def meets (l : List Span) (i n : Nat) : Option Span := l.find? fun x => x.start < i + n && i < x.start + x.len

/-- The first aligned place at or after `i` with `n` units free below `top`; each step jumps past one used span. -/
def fitFrom (l : List Span) (top n : Nat) : Nat → Nat → Option Nat
  | 0, _ => none
  | fuel + 1, i =>
    if i + n > top then none
    else match meets l i n with
      | none => some i
      | some x => fitFrom l top n fuel (ceilDiv (x.start + x.len) n * n)

/-- `n` free units between `lo` and `top`, the search starting at a place the spec leaves open (log entry 42). -/
def fit (l : List Span) (lo top n pick : Nat) : Option Nat :=
  let places := (top - lo) / n
  if places = 0 then none
  else match fitFrom l top n (l.length + 1) (lo + pick % places * n) with
    | some i => some i
    | none => fitFrom l top n (l.length + 1) lo

/-- A tier's used spans. -/
def State.used (s : State) (tier : Nat) : List Span :=
  if tier = 2 then s.ledger.depotUsed else if tier = 3 then s.ledger.hbmUsed else s.ledger.ddrUsed

/-- The state with a tier's used spans replaced. -/
def State.setUsed (s : State) (tier : Nat) (l : List Span) : State :=
  { s with ledger :=
      if tier = 2 then { s.ledger with depotUsed := l }
      else if tier = 3 then { s.ledger with hbmUsed := l } else { s.ledger with ddrUsed := l } }

/-- First and last unit of a tier; for depot those of one die. -/
def State.unitRange (s : State) (tier die : Nat) : Nat × Nat :=
  if tier = 2 then (die * 4096, die * 4096 + 4096) else if tier = 3 then (0, s.hbmUnits) else (0, s.bodySlots)

/-- Free units of a tier (LDG_FREE_COUNT). -/
def State.freeUnits (s : State) (tier die : Nat) : Nat :=
  let r := s.unitRange tier die
  r.2 - r.1 - usedUnits ((s.used tier).filter fun x => r.1 ≤ x.start && x.start < r.2)

/-- 64 KiB units of stock regions lent by orders to a context and drained regions that have not returned yet (R268, R269). -/
def State.lentStock (s : State) : List Nat :=
  (s.ledger.crates.filterMap fun c => match s.walk c.ctx c.va with
    | .leaf _ e _ => if eTier e = 1 then some (eAddr e) else none
    | _ => none) ++ (s.ledger.drains.filter fun d => d.store.tier = 1).map fun d => d.store.addr

/-- LDG_FREE_COUNT (Table LDG.5, Table LDG.10). DEDUCED: for stock the regions of assigned stalls that no order has lent, for remote the
room that lenders have granted and no crate uses yet (log entry 161). -/
def State.freeCount (s : State) (tier die : Nat) : Nat :=
  if tier = 1 then 2 * (s.stalls.filter fun p => p.2.occ.isSome && !s.fenced p.1).length - s.lentStock.length
  else if tier = 2 ∨ tier = 3 ∨ tier = 4 then s.freeUnits tier die
  else if tier = 6 then sumNat ((s.fab.exchanges.filter fun x => x.order.isNone && (x.phase = 1 || x.phase = 2)).map fun x => crateUnits x.crate.big)
  else 0

/-- Local address of a unit of a tier. -/
def State.unitAddr (s : State) (tier i : Nat) : Nat :=
  if tier = 2 then depotBase + i * 65536 else if tier = 3 then s.hbmUnitAddr i else s.bodyAddr i

/-- Storage for `n` units taken from a tier, with the unit it starts at. -/
def State.takeUnits (s : State) (tier die n : Nat) : Option (State × Nat) :=
  let r := s.unitRange tier die
  match fit (s.used tier) r.1 r.2 n (Config.freeUnit s.freeCtr) with
  | none => none
  | some i => some ((s.useFree 1).setUsed tier (s.used tier ++ [⟨i, n⟩]), i)

/-- Unit of a tier that an address starts. -/
def State.unitOf (s : State) (tier a : Nat) : Nat :=
  if tier = 2 then (a - depotBase) / 65536
  else if tier = 3 then
    (if !s.anyAbsent then a / 65536
     else
      let ds := s.presentDies
      (a / 65536 * ds.length + (ds.filter fun n => n < bitsAt a 12 4).length) / 16)
  else (a - s.ddrRegion) / 65536

/-- Storage returned to its free list. -/
def State.giveUnits (s : State) (st : Store) : State :=
  if st.tier = 2 ∨ st.tier = 3 ∨ st.tier = 4 then
    s.setUsed st.tier ((s.used st.tier).filter fun x => x.start ≠ s.unitOf st.tier st.addr)
  else s

/-- Requests translated and not yet answered (R268). -/
def State.inFlightReqs (s : State) : List Nat :=
  (s.reqs.filter fun r => match r.stage with
    | .xlate _ _ => false
    | _ => true).map (·.seq)

/-- Storage given up drains before it returns (R268). -/
def State.drainStore (s : State) (st : Store) (big : Bool) : State :=
  if st.tier = 1 ∨ st.tier = 2 ∨ st.tier = 3 ∨ st.tier = 4 ∨ st.tier = 6 then
    { s with ledger := { s.ledger with drains := s.ledger.drains ++ [⟨st, crateUnits big, s.inFlightReqs⟩] } }
  else s

/-! ## Tables (R254, R255) -/

/-- Address of byte `off` of a table unit. -/
def State.tabAddr (s : State) (unit off : Nat) : Nat := s.hbmBlock (s.hbmUnitAddr unit) (off / 4096) + off % 4096

/-- The 4 KiB blocks of a table unit (R265). -/
def State.tabBlocks (s : State) (unit : Nat) : List Nat := (upFrom 0 16).map fun j => s.hbmBlock (s.hbmUnitAddr unit) j

/-- The words of a table unit cleared: no entry of it is valid and no crate of it has ever been sealed (R255, R258). -/
def State.clearUnit (s : State) (unit : Nat) : State :=
  let bs := s.tabBlocks unit
  { s with ledger := { s.ledger with tabs := s.ledger.tabs.filter fun p => !bs.contains (p.1 / 4096 * 4096) } }

/-- A new table of `size` bytes, aligned to its size, for a context (R255, R259). -/
def State.newTable (s : State) (ctx size : Nat) : Option (State × Nat) :=
  let mine := s.ledger.tabUnits.find? fun t => t.1 = ctx && decide (ceilDiv t.2.2 size * size + size ≤ 65536)
  match mine with
  | some (c, u, off) =>
    let o := ceilDiv off size * size
    some ({ s with ledger := { s.ledger with
        tabUnits := s.ledger.tabUnits.map fun t => if t = (c, u, off) then (c, u, o + size) else t } }, s.tabAddr u o)
  | none =>
    match s.takeUnits 3 0 1 with
    | none => none
    | some (t0, u) =>
      let t := t0.clearUnit u
      some ({ t with ledger := { t.ledger with tabUnits := t.ledger.tabUnits ++ [(ctx, u, size)] } }, t.tabAddr u 0)

/-- The table that a pointer entry at `ea` names, made where the entry is not valid. -/
def State.needTable (s : State) (ctx ea size : Nat) : Option (State × Nat) :=
  let e := s.tabWord ea
  if eV e && !eLeaf e then some (s, ptrAddr e)
  else match s.newTable ctx size with
    | none => none
    | some (t, a) => some (t.putTab ea (mkPtr a), a)

/-- Address of the leaf entry of a crate, with the tables above it made where they are missing. -/
def State.leafSlot (s : State) (c : Crate) : Option (State × Nat) :=
  match (s.ctx c.ctx).root with
  | none => none
  | some root => match s.needTable c.ctx (root + 8 * bitsAt c.va 47 9) 4096 with
  | none => none
  | some (s2, t2) => match s2.needTable c.ctx (t2 + 8 * bitsAt c.va 38 9) 4096 with
    | none => none
    | some (s1, t1) => match s1.needTable c.ctx (t1 + 8 * bitsAt c.va 29 9) 4096 with
      | none => none
      | some (s0, t0) =>
        let a0 := t0 + 8 * bitsAt c.va 21 8
        if c.big then some (s0, a0)
        else match s0.needTable c.ctx a0 512 with
          | none => none
          | some (sT, tT) => some (sT, tT + 8 * bitsAt c.va 16 5)

/-- A leaf written for a crate that had none (R266); `none` where no HBM is left for a table. -/
def State.mapCrate (s : State) (c : Crate) (leaf : Nat) : Option State :=
  match s.leafSlot c with
  | none => none
  | some (t, a) =>
    let u := t.putTab a leaf
    some { u with ledger := { u.ledger with crates := if u.ledger.crates.contains c then u.ledger.crates else u.ledger.crates ++ [c] } }

/-- Crates mapped one after another with one leaf. -/
def State.mapCrates (s : State) (leaf : Nat) : List Crate → Option State
  | [] => some s
  | c :: r => match s.mapCrate c leaf with
    | none => none
    | some t => t.mapCrates leaf r

/-- The leaf of exactly this crate, with its place. -/
def State.leafOf (s : State) (c : Crate) : Option (Nat × Nat) :=
  match s.walk c.ctx c.va with
  | .leaf a e big => if big = c.big then some (a, e) else none
  | _ => none

/-- Whether any part of a crate's range is mapped. -/
def State.mapped (s : State) (c : Crate) : Bool :=
  (upFrom 0 (crateUnits c.big)).any fun i => match s.walk c.ctx (c.va + 65536 * i) with
    | .unmapped => false
    | _ => true

/-- Whether any part of a crate's range is mapped, or held for a share that waits for its page commit (R271). -/
def State.overlaps (s : State) (c : Crate) : Bool :=
  s.mapped c || s.ledger.pendShare.any fun q =>
    q.toCtx = c.ctx && decide (q.toVa < c.va + crateBytes c.big) && decide (c.va < q.toVa + crateBytes q.crate.big)

/-- The crates of a range. -/
def rangeCrates (ctx va n : Nat) (big : Bool) : List Crate := (upFrom 0 n).map fun i => ⟨ctx, va + i * crateBytes big, big⟩

/-- Whether a range is misaligned, empty, or ends beyond 2^56 (status 2 of Table LDG.7). -/
def rangeBad (va cnt : Nat) (big : Bool) : Bool :=
  va % crateBytes big ≠ 0 || cnt = 0 || cnt ≥ 65536 || decide (va + cnt * crateBytes big > 2 ^ 56)

/-! ## ALLOC, FREE, HINT (Tables LDG.6, LDG.7) -/

/-- The first status of a list that applies, 0 where none does. -/
def firstStatus : List (Bool × Nat) → Nat
  | [] => 0
  | (b, n) :: r => if b then n else firstStatus r

/-- Operands of the three functions, from an instruction or an order. -/
structure LdgArgs where
  ctx : Nat
  va : Nat
  count : Nat
  big : Bool
  tier : Nat
  pol : Nat
  w : Bool
  die : Nat
  now : Bool
  setpol : Bool
  order : Bool
  deriving DecidableEq, Repr

/-- The crates of the operands. -/
def LdgArgs.crates (a : LdgArgs) : List Crate := rangeCrates a.ctx a.va a.count a.big

/-- DIE checks of status 3. -/
def State.dieBad (s : State) (a : LdgArgs) : Bool := (a.die ≠ 0 && a.tier ≠ 2) || (a.tier = 2 && s.deadDies.contains a.die)

/-- ALLOC: the state and the status of Table LDG.7. -/
def State.allocFn (s : State) (a : LdgArgs) : State × Nat :=
  let st := firstStatus [
    (a.order && (s.ctx a.ctx).state = .free, 6),
    (rangeBad a.va a.count a.big, 2),
    (a.tier = 1 || a.tier = 4 || a.tier = 5 || a.tier = 7 || s.dieBad a || (a.pol = 0 && a.tier = 6), 3),
    (a.crates.any s.overlaps, 1)]
  if st ≠ 0 then (s, st)
  else
    let leaf := mkLeaf a.pol a.w false false false false ⟨0, 0, 0⟩
    match s.mapCrates leaf a.crates with
    | none => (s, 4)
    | some t =>
      let pl := a.crates.map fun c => (c, (if a.tier = 0 then 3 else a.tier), a.die)
      let dm := if a.now then a.crates.map fun c => (c, a.die) else []
      ({ t with ledger := { t.ledger with places := t.ledger.places ++ pl, demands := t.ledger.demands ++ dm } }, 0)

/-- Whether a leaf has SHR set, or its storage is stock or public where only orders may free it (status 5). -/
def State.freeBad (s : State) (order hint : Bool) (c : Crate) : Bool :=
  match s.leafOf c with
  | some (_, e) => eShr e || (!order && !hint && (eTier e = 1 || eTier e = 5))
  | none => false

/-- FREE. -/
def State.freeFn (s : State) (a : LdgArgs) : State × Nat :=
  let st := firstStatus [
    (a.order && (s.ctx a.ctx).state = .free, 6),
    (rangeBad a.va a.count a.big, 2),
    (a.crates.any fun c => (s.leafOf c).isNone, 1),
    (a.crates.any (s.freeBad a.order false), 5)]
  if st ≠ 0 then (s, st)
  else
    let new := a.crates.filter fun c => !s.ledger.pendFree.any fun p => p.1 = c
    ({ s with ledger := { s.ledger with pendFree := s.ledger.pendFree ++ new.map fun c => (c, s.now) } }, 0)

/-- Whether a leaf's crate may be moved to a tier, or to a die's depot, by a HINT: accessible, not pinned, not shared, not moving and not
already there (R277). -/
def movable (e tier die : Nat) : Bool :=
  let acc := eTier e = 1 || eTier e = 2 || eTier e = 3 || eTier e = 5 || eTier e = 6
  let there := eTier e = tier && (tier ≠ 2 || (eAddr e - depotBase) / 2 ^ 28 = die)
  acc && ePol e ≠ 0 && !eShr e && !eMove e && !there

/-- Whether a HINT starts a move of a crate (R277). -/
def State.hintMoves (s : State) (tier die : Nat) (c : Crate) : Bool :=
  match s.leafOf c with
  | none => false
  | some (_, e) => movable e tier die && !(s.ledger.moves.any fun m => m.crate = c)

/-- HINT (R277). -/
def State.hintFn (s : State) (a : LdgArgs) : State × Nat :=
  let st := firstStatus [
    (rangeBad a.va a.count a.big, 2),
    (a.tier = 0 || a.tier = 1 || a.tier = 5 || a.tier = 7 || s.dieBad a || (a.setpol && a.pol = 0 && a.tier = 6), 3),
    (a.crates.any fun c => (s.leafOf c).isNone, 1),
    (a.crates.any (s.freeBad false true), 5)]
  if st ≠ 0 then (s, st)
  else
    let go := a.crates.filter (s.hintMoves a.tier a.die)
    let src := fun (c : Crate) => ((s.leafOf c).map fun p => eStore p.2).getD ⟨0, 0, 0⟩
    let mk := fun (c : Crate) => Move.mk c .asked (src c) ⟨a.tier, a.die, s.mod.id⟩ 0 false none [] 0 false s.now
    let skipped := a.crates.length - go.length
    let pols := if a.setpol then a.crates.map fun c => ({ crate := c, pol := some a.pol, shr := .none, asked := s.now } : PolChange) else []
    ({ s with ledger := { s.ledger with
        moves := s.ledger.moves ++ go.map mk, pendPol := s.ledger.pendPol ++ pols,
        hintsSkipped := min 4294967295 (s.ledger.hintsSkipped + skipped) } }, 0)

/-- Operands of an instruction. -/
def ldgOps (t : Stall) (sa sb : Nat) (big : Bool) (tier pol : Nat) (w : Bool) (die : Nat) (now setpol : Bool) : LdgArgs :=
  ⟨t.occ.getD 0, (t.sreg sa).toNat, (t.sreg sb).toNat, big, tier, pol, w, die, now, setpol, false⟩

/-- ALLOC: the status reaches s[SD] before the stall issues further (R270). -/
def allocIssue (f : FmtAlloc) (s : State) (_k : Nat) (t : Stall) : Issue :=
  let r := s.allocFn (ldgOps t f.sa.toNat f.sb.toNat (f.sz = 1#1) f.tier.toNat f.pol.toNat (f.w = 1#1) f.die.toNat (f.now = 1#1) false)
  issueLocal t [f.sd.toNat, f.sa.toNat, f.sb.toNat] [(f.rsv ≠ 0#25, 0x0202)] true
    (.go r.1 (t.setS f.sd.toNat (BitVec.ofNat 64 r.2)) .seq)

/-- ALLOC. -/
def execAlloc (sid : StallId) (f : FmtAlloc) (s : State) : Out := .next (s.issueAt sid (f.word 0x24#6 0x00#6) (allocIssue f))

/-- FREE. -/
def freeIssue (f : FmtFree) (s : State) (_k : Nat) (t : Stall) : Issue :=
  let r := s.freeFn (ldgOps t f.sa.toNat f.sb.toNat (f.sz = 1#1) 0 0 false 0 false false)
  issueLocal t [f.sd.toNat, f.sa.toNat, f.sb.toNat] [(f.rsv ≠ 0#36, 0x0202)] true
    (.go r.1 (t.setS f.sd.toNat (BitVec.ofNat 64 r.2)) .seq)

/-- FREE. -/
def execFree (sid : StallId) (f : FmtFree) (s : State) : Out := .next (s.issueAt sid (f.word 0x24#6 0x01#6) (freeIssue f))

/-- HINT. -/
def hintIssue (f : FmtHint) (s : State) (_k : Nat) (t : Stall) : Issue :=
  let r := s.hintFn (ldgOps t f.sa.toNat f.sb.toNat (f.sz = 1#1) f.tier.toNat f.pol.toNat false f.die.toNat false (f.setpol = 1#1))
  issueLocal t [f.sd.toNat, f.sa.toNat, f.sb.toNat] [(f.rsv ≠ 0#26, 0x0202)] true
    (.go r.1 (t.setS f.sd.toNat (BitVec.ofNat 64 r.2)) .seq)

/-- HINT. -/
def execHint (sid : StallId) (f : FmtHint) (s : State) : Out := .next (s.issueAt sid (f.word 0x24#6 0x02#6) (hintIssue f))

end Sys2Proof.Machine
end

