-- ==== Sys2Proof/Machine/Contexts.lean ====
section
/-! DEFINITION. Faults of contexts, reckoning units and the orphaning of what an ended context owned (06_tallies.md R208 to R217,
12_clerk_firmware.md R399): shared operations. -/
namespace Sys2Proof.Machine

/-! ## Faults (12_clerk_firmware.md R399) -/

/-- A stop or fault is reported for a context: its first cause is kept until step 1 of the next emitted bell (R399). -/
def State.reportFault (s : State) (c code k : Nat) : State :=
  let x := s.ctx c
  if x.state = .free ∨ x.state = .faulted ∨ x.cause.isSome then s
  else (s.ask (.fault c)).setCtx c { x with cause := some (code, k) }

/-! ## Global reckoning IDs (Table TLY.5) -/

/-- Whether an ID breaks the reserved-bit or HERE rules (R210). -/
def rckIdBad (n : Nat) : Bool := decide (n >>> 35 ≠ 0) || (bitAt n 26 && decide (bitsAt n 8 18 ≠ 0))
/-- Module that an ID names. -/
def State.rckModule (s : State) (n : Nat) : Nat := if bitAt n 26 then s.mod.id else bitsAt n 8 18
/-- Unit that an ID names. -/
def rckUnit (n : Nat) : Nat := bitsAt n 0 8
/-- Context that an ID expects. -/
def rckCtx (n : Nat) : Nat := bitsAt n 27 6

/-! ## Units (R208 to R213) -/

/-- Unit `u`. -/
def State.unit (s : State) (u : Nat) : Unit := tget s.units Unit.free u
/-- The state with a unit replaced. -/
def State.setUnit (s : State) (u : Nat) (x : Unit) : State := { s with units := tput s.units u x }
/-- Whether a unit is present (R208). -/
def State.unitHere (s : State) (u : Nat) : Bool := decide (u < 256) && !s.deadDies.contains (u % 16)

/-- RCPL messages of a unit to the modules that it recorded for a generation (10_weago.md R346). -/
def State.sendRcpl (s : State) (u gen : Nat) (orphan : Bool) : List Nat → State
  | [] => s
  | m :: r =>
    ((s.sendReq (mkMsg 8 0 0 0 m s.mod.id 0 0 (u + gen * 256 + b2n orphan * 1024) none [])).1).sendRcpl u gen orphan r

/-- A broadcast of a unit starts on its way (R212, R216). -/
def State.cast (s : State) (u gen : Nat) (orphan : Bool) (module : Nat) : State :=
  { s.tick with casts := s.casts ++ [⟨s.idSeq, u, gen, orphan, module⟩] }

/-- Answers to child units of this module start on their way (R213). -/
def State.answerKids (s : State) (gen : Nat) : List Nat → State
  | [] => s
  | k :: r =>
    if k / 256 = s.mod.id then
      ({ s.tick with answers := s.answers ++ [⟨s.idSeq, k % 256, gen⟩] } : State).answerKids gen r
    else s.answerKids gen r

/-- An arrival of a child unit sets out to its parent (R213, 10_weago.md R346). -/
def State.sendChild (s : State) (u : Nat) : State :=
  let x := s.unit u
  let m := s.rckModule x.parent
  if m = s.mod.id then
    { s.tick with arrivals := s.arrivals ++ [⟨s.idSeq, rckUnit x.parent, x.gen, rckCtx x.parent, 0, x.owner, some (s.mod.id * 256 + u), m⟩] }
  else
    let msg := mkMsg 7 0 0 0 m s.mod.id (rckCtx x.parent) 0 (rckUnit x.parent + x.gen * 256 + 1024 + u * 2048) none []
    if s.inHall m then (s.sendFrom (u % 16) (some x.owner) u msg).1 else s.refuseSignal 0x0504 (u % 16) (some x.owner) u [2]

/-- release(U) of R211, without the completion that may follow. -/
def State.releaseOne (s : State) (u : Nat) : State :=
  let x := s.unit u
  let mods := (x.mods.filter fun m => m % 2 = 0).map (· / 2)
  let s1 := ((s.cast u x.gen false s.mod.id).sendRcpl u x.gen false mods).answerKids x.gen x.kids
  s1.setUnit u { x with
    gen := (x.gen + 1) % 4, arrived := x.parked, parked := 0, pending := false
    kids := x.kidsNext, kidsNext := [], mods := (x.mods.filter fun m => m % 2 = 1).map fun m => m - 1 }

/-- complete(U) and release(U) of R211; parked arrivals can complete one further generation. A unit that no RCK.CFG has given
participants completes nothing (log entry 40). -/
def State.completeUnit (s : State) (u : Nat) : Nat → State
  | 0 => s
  | fuel + 1 =>
    let x := s.unit u
    if x.n = 0 ∨ x.arrived < x.n ∨ x.pending then s
    else
      let s1 := (s.ask (.unit u)).setUnit u { x with pending := true }
      if x.pen then s1.sendChild u
      else if x.bellm then s1
      else (s1.releaseOne u).completeUnit u fuel

/-- release(U) of R211 on its event. -/
def State.releaseUnit (s : State) (u : Nat) : State := (s.releaseOne u).completeUnit u 2

/-- An arrival dropped with an incident that faults the arriving context (R211). -/
def State.rckFault (s : State) (u code : Nat) (a : Arrival) : State :=
  let s1 := s.raise code (u % 16) (some a.ctx) u 0xFFFFFFFF []
  if a.fromModule = s.mod.id then s1.reportFault a.ctx code a.stall else s1

/-- arrive(U, tag, ctx_field) of R211, with the limits of R213 and 10_weago.md R346. -/
def State.arriveUnit (s : State) (a : Arrival) : State :=
  let u := a.unit
  let x := s.unit u
  if !s.unitHere u || !x.assigned || a.ctxField ≠ x.owner || x.orph then
    s.refuseSignal 0x0504 (u % 16) (some a.ctxField) u [1]
  else
    let d := (a.tag + 4 - x.gen) % 4
    let par := if d = 0 then 0 else 1
    let kids := if d = 0 then x.kids else x.kidsNext
    let remote := a.fromModule ≠ s.mod.id
    let seen := x.mods.contains (2 * a.fromModule + par)
    let tooMany := (a.child.isSome && decide (kids.length ≥ 64))
      || (remote && !seen && decide ((x.mods.filter fun m => m % 2 = par).length ≥ 64))
    if d = 0 ∨ (d = 1 ∧ x.parked < x.n) then
      if tooMany then s.rckFault u 0x0509 a
      else
        let kids' := match a.child with
          | some k => kids ++ [k]
          | none => kids
        let y := { x with
          arrived := if d = 0 then x.arrived + 1 else x.arrived
          parked := if d = 0 then x.parked else x.parked + 1
          kids := if d = 0 then kids' else x.kids
          kidsNext := if d = 0 then x.kidsNext else kids'
          mods := if remote && !seen then x.mods ++ [2 * a.fromModule + par] else x.mods }
        (s.setUnit u y).completeUnit u 2
    else if d = 1 ∨ d = 2 then s.rckFault u 0x0509 a
    else s.rckFault u 0x050A a

/-! ## Orphaning (R216) -/

/-- A tally orphaned. -/
def Tally.orphan (t : Tally) : Tally := { t with orph := true }

/-- Whether tally word `t` of a holder belongs to context `c` by its OWNER field. -/
def Tally.ownedBy (t : Tally) (c holder : Nat) : Bool := t.owner.getD holder = c

/-- The tallies of a porter that context `c` owns, all orphaned, and how many there were. -/
def StallPort.orphanTallies (p : StallPort) (c holder : Nat) : StallPort :=
  { p with tallies := tmap p.tallies fun _ t => if t.ownedBy c holder then t.orphan else t }

/-- Tally numbers of a porter that context `c` owns. -/
def StallPort.tallyNums (p : StallPort) (c holder : Nat) : List Nat :=
  (p.tallies.filter fun q => q.2.ownedBy c holder && !q.2.orph).map (·.1)

/-- Incidents 0x0507 for tallies of one stall (Table TLY.10). -/
def State.raiseOrphans (s : State) (c k : Nat) (holder : Option Nat) : List Nat → State
  | [] => s
  | _ :: r => (s.raise 0x0507 (dieOf k) holder k 0xFFFFFFFF [c]).raiseOrphans c k holder r

/-- Tallies in stalls of other contexts orphaned (R216). -/
def State.orphanStalls (s : State) (c : Nat) : List (Nat × StallPort) → State
  | [] => s
  | (k, p) :: r =>
    match (s.stall k).occ with
    | some h =>
      if h = c then s.orphanStalls c r
      else ((s.setPort k (p.orphanTallies c h)).raiseOrphans c k (some h) (p.tallyNums c h)).orphanStalls c r
    | none => s.orphanStalls c r

/-- Tallies in saved images of other contexts orphaned (R216). -/
def State.orphanImages (s : State) (c : Nat) : List (Nat × Ctx) → State
  | [] => s
  | (h, x) :: r =>
    if h = c ∨ x.images.isEmpty then s.orphanImages c r
    else
      let imgs := x.images.map fun i => { i with port := i.port.orphanTallies c h }
      let t := x.images.foldl (fun (u : State) i => u.raiseOrphans c i.stall (some h) (i.port.tallyNums c h)) s
      (t.setCtx h { x with images := imgs }).orphanImages c r

/-- A unit orphaned and returned to the free list; the orphaning is broadcast, and modules with arrivals get RCPL (R216, R217, R346). -/
def State.orphanUnit (s : State) (u : Nat) : State :=
  let x := s.unit u
  let s1 := (s.cast u x.gen true s.mod.id).sendRcpl u x.gen true ((x.mods.map (· / 2)).eraseDups)
  (s1.setUnit u { x with orph := true, assigned := false, pending := false }).raise 0x0507 (u % 16) (some x.owner) u 0xFFFFFFFF [x.owner]

/-- Units of a list orphaned one after another. -/
def State.orphanUnits (s : State) : List Nat → State
  | [] => s
  | u :: r => (s.orphanUnit u).orphanUnits r

/-- What a context owned beyond its own stalls is orphaned (R216). -/
def State.orphanCtx (s : State) (c : Nat) : State :=
  let s1 := s.orphanStalls c s.ports
  let s2 := s1.orphanImages c s1.ctxs
  s2.orphanUnits ((upFrom 0 256).filter fun u => (s2.unit u).assigned && (s2.unit u).owner = c)

/-! ## Broadcasts (R212) -/

/-- A binding after a broadcast of unit `u` of module `m`. -/
def Binding.hear (b : Binding) (own : Nat) (x : Broadcast) : Binding :=
  let m := if bitAt b.id 26 then own else bitsAt b.id 8 18
  if b.valid && m = x.module && rckUnit b.id = x.unit then
    (if x.orphan then { b with orph := true } else { b with cpl := (x.gen + 1) % 4 })
  else b

/-- Every binding of the module hears a broadcast, those of saved images included (R212, R215). -/
def State.hear (s : State) (x : Broadcast) : State :=
  let f := fun (p : StallPort) => { p with rb := tmap p.rb fun _ b => b.hear s.mod.id x }
  { s with
    ports := tmap s.ports fun _ p => f p
    ctxs := tmap s.ctxs fun _ c => { c with images := c.images.map fun i => { i with port := f i.port } } }

end Sys2Proof.Machine
end

