-- ==== Sys2Proof/Machine/Caps.lean ====
section
/-! DEFINITION. The capability table and changes of MOD_STATE (11_host_rings.md R366, 14_power_ageing_resets.md R465): shared
operations. -/
namespace Sys2Proof.Machine

/-- Whether voltage domain `k` of die `n` is fenced, alone or with its die (R447, R458). -/
def State.domFenced (s : State) (n k : Nat) : Bool := s.deadDies.contains n || s.fencedDoms.contains (20 * n + k)

/-- The number with bit `i` set for each listed `i`. -/
def bitSet (l : List Nat) : Nat := sumNat (l.map fun i => 2 ^ i)

/-- DIES of Table HST.4. -/
def State.diesBits (s : State) : Nat := bitSet ((upFrom 0 16).filter fun n => !s.deadDies.contains n)

/-- STALLS of Table HST.4: those of domains that are not fenced, on dies that are not held (R413). -/
def State.stallsFree (s : State) : Nat :=
  256 * ((upFrom 0 320).filter fun i => !s.domFenced (i / 20) (i % 20) && !s.heldDies.contains (i / 20)).length

/-- Whether placement (16i, 16j) of die `n` is free of fenced stalls (R148, R413): its 32 lines lie in domains 4j to 4j + 7. -/
def State.placeOk (s : State) (n j : Nat) : Bool :=
  !s.heldDies.contains n && (upFrom (4 * j) 8).all fun k => !s.domFenced n k

/-- Domains fenced, those of fenced dies included (Table PWR.10 MOD_FENCED). -/
def State.domsFenced (s : State) : Nat := ((upFrom 0 320).filter fun i => s.domFenced (i / 20) (i % 20)).length

/-- Reckoning units present (06_tallies.md R208). -/
def State.unitsHere (s : State) : Nat := ((upFrom 0 256).filter s.unitHere).length

/-- The capability table (Table HST.4). DEPOT_KEPT is 0: the default firmware keeps none. -/
def State.capTable (s : State) : List Byte :=
  let doms := bitSet ((upFrom 0 320).filter fun i => !s.domFenced (i / 20) (i % 20))
  let stackBits := bitSet ((upFrom 0 16).flatMap fun n =>
    let m := s.dmem n
    (if m.stack0 && !m.absent then [2 * n] else []) ++ (if m.stack1 && !m.absent then [2 * n + 1] else []))
  let places := bitSet ((upFrom 0 16).flatMap fun n => (upFrom 0 3).flatMap fun i => (upFrom 0 4).filterMap fun j =>
    if s.placeOk n j then some (12 * n + 4 * i + j) else none)
  leBytes 4 1 ++ leBytes 2 s.diesBits ++ leBytes 1 s.bell.lead ++ leBytes 1 0 ++ leBytes 40 doms ++ leBytes 4 stackBits
    ++ leBytes 2 s.diesBits ++ leBytes 2 s.unitsHere ++ leBytes 4 s.stallsFree ++ leBytes 4 0 ++ leBytes 24 places ++ leBytes 168 0

/-- The table changed: MOD_CAP_GEN counts, and vector 65 follows (R366, R388). -/
def State.capsChanged (s : State) : State :=
  ({ s with conf := { s.conf with capGen := (s.conf.capGen + 1) % 4294967296 } } : State).interrupt 65

/-- MOD_STATE changes: 0x0D0B and vector 65 (14_power_ageing_resets.md R465). -/
def State.setMode (s : State) (n : Nat) : State :=
  if s.mod.state = n then s
  else (({ s with mod := { s.mod with state := n } } : State).raiseMod 0x0D0B [s.mod.state, n]).interrupt 65

end Sys2Proof.Machine
end

