-- ==== Sys2Proof/Machine/Hold.lean ====
section
/-! DEFINITION. The hold: its sources, its latch and its release (01_bell.md R31, R35, R53 to R59), and the emergency level
(14_power_ageing_resets.md R444, R445, R448, R450 to R452). -/
namespace Sys2Proof.Machine

/-! ## Symbols of the star (R28, R33) -/

/-- Whether the main rails are on and the lead die's generator runs (Table PWR.5). -/
def State.awake (s : State) : Bool := decide (2 ≤ s.mod.state)

/-- Whether one symbol latches before another: the earlier latch cy first, a HOLD before any other of the same cy (R33). -/
def Symbol.before (a b : Symbol) : Bool :=
  decide (a.latch < b.latch) || (decide (a.latch = b.latch) && a.kind = .hold && b.kind ≠ .hold)

/-- The symbol in flight that latches first. -/
def State.nextSymbol (s : State) : Option Symbol :=
  s.bell.symbols.foldl (fun acc x => match acc with
    | none => some x
    | some y => if x.before y then some x else some y) none

/-- The state with the first symbol in flight taken off the star, in its latch cy. -/
def State.latchSymbol (s : State) (x : Symbol) : State :=
  let t := s.at x.latch
  { t with bell := { t.bell with symbols := t.bell.symbols.erase x } }

/-- The state with a symbol on the star. -/
def State.send (s : State) (x : Symbol) : State := { s with bell := { s.bell with symbols := s.bell.symbols ++ [x] } }

/-- A die decides a HOLD in cy `cy` with these cause bits; every receiver latches it 90 cy later (R28, R53). -/
def State.decideHold (s : State) (die cause cy : Nat) : State :=
  if !s.awake || s.deadDies.contains die then s
  else
    let t := s.send ⟨.hold, die, 0, cy, cy + 90, cause, [], Due.none⟩
    { t with bell := { t.bell with holds := t.bell.holds ++ [cy] } }

/-- Cause bits of Table BELL.8. -/
def causeCurrent : Nat := 1
/-- THERMAL. -/
def causeThermal : Nat := 2
/-- HOLD_REQ. -/
def causeReq : Nat := 4
/-- POWER. -/
def causePower : Nat := 8
/-- ASSAYER. -/
def causeAssayer : Nat := 16
/-- STAR. -/
def causeStar : Nat := 32
/-- WATCHDOG. -/
def causeWatchdog : Nat := 64

/-- Bits of both numbers together. -/
def orBits (a b : Nat) : Nat := bitSet ((upFrom 0 32).filter fun i => bitAt a i || bitAt b i)

/-- Whether an instruction of the EXTEST family is current (16_package_test.md R506). -/
def State.extesting (s : State) : Bool := s.pkg.ir = 4 || s.pkg.ir = 5 || s.pkg.ir = 6

/-- Cause bits whose source is still active (R58, 14_power_ageing_resets.md R445, R448, 16_package_test.md R500, R506). -/
def State.activeCauses (s : State) : Nat :=
  (if s.now < s.pow.tripUntil then causeCurrent else 0) + (if s.pow.hotDies.isEmpty then 0 else causeThermal)
    + (if s.pkg.holdReq || s.extesting then causeReq else 0) + (if s.pow.inputOut then causePower else 0)

/-! ## Emergencies (14_power_ageing_resets.md R450, R452) -/

/-- MOD_GUARD. -/
def State.guardReg (s : State) : Nat := s.liveReg 0x0F10 0xB0
/-- SMAX × P (R449). -/
def State.stretchMax (s : State) : Nat := bitsAt s.guardReg 8 6 * s.period
/-- Whether the power core is in service (Table CLK.10). -/
def State.powerRuns (s : State) : Bool := (s.core s.bell.lead 2).state = 1

/-- LEVEL (R450). -/
def State.level (s : State) : Nat :=
  if bitAt s.bell.cause 0 || bitAt s.bell.cause 1 || bitAt s.bell.cause 3 then 2 else if s.pow.s > 0 then 1 else 0

/-- MOD_EMERGENCY (Table PWR.10). -/
def State.emergencyReg (s : State) : Nat :=
  s.pow.level + 4 * b2n (decide (s.pow.spow > 0)) + 8 * b2n (decide (s.pow.sth > 0)) + 16 * b2n s.pow.inputOut

/-- LEVEL follows its sources: 0x0D01 when it leaves 0, 0x0D02 when it returns to 0 (R450). -/
def State.settleEmergency (s : State) : State :=
  let l := s.level
  if s.pow.level = l then s
  else
    let t : State := { s with pow := { s.pow with level := l } }
    if s.pow.level = 0 then
      ({ t with pow := { t.pow with emergBell := t.bell.count } } : State).raiseMod 0x0D01 [t.emergencyReg, t.pow.s]
    else if l = 0 then t.raiseMod 0x0D02 [t.bell.count - t.pow.emergBell]
    else t

/-- S_th stands at its maximum while THERMAL is set (R452); the value reaches the generator before the next decision and governs the
interval that begins there, unless the decision's own cy has come (01_bell.md R38). -/
def State.thermalMax (s : State) : State :=
  if s.powerRuns then
    let m := max s.pow.s s.stretchMax
    { s with
      pow := { s.pow with sth := s.stretchMax, s := m }
      bell := { s.bell with stretchNext := if s.now < s.bell.nextD then m else s.bell.stretchNext } }
  else s

/-! ## Star symbols as words (Table BELL.2) -/

/-- Ones among the bits of a symbol. -/
def onesOf (x : Nat) : Nat := ((upFrom 0 8).filter (bitAt x)).length

/-- TYPE, BP and SRC in place, with the parity bit that makes the number of ones odd (Table BELL.2). -/
def starWord (type bp src : Nat) : Nat :=
  let x := 64 * (type % 4) + 32 * (bp % 2) + 2 * (src % 16)
  x + (1 - onesOf x % 2)

/-- TYPE of a symbol; a decision that slipped sends none (R45). -/
def SymKind.type : SymKind → Nat
  | .bell => 1
  | .hold => 2
  | .release => 3
  | .slip => 0

/-- The word of a symbol: BP is 0 but in a BELL (R30). -/
def Symbol.word (x : Symbol) : Nat := match x.kind with
  | .slip => 1
  | .bell => starWord 1 x.bp x.src
  | k => starWord k.type 0 x.src

/-- What die `d`'s star source port sends in cy `cy`: the symbol decided there in that cy, else the idle symbol 0x01 (R30). -/
def State.starSends (s : State) (d cy : Nat) : Nat :=
  match s.bell.symbols.find? fun x => x.src = d && x.decided = cy && x.kind ≠ .slip with
  | some x => x.word
  | none => 1

/-! ## Hold sources (Table BELL.5) -/

/-- Whether a receive port finds a symbol faulty (R31). -/
def State.badSymbol (s : State) (lane sym : Nat) : Bool :=
  let ty := bitsAt sym 6 2
  onesOf sym % 2 = 0 || ((ty = 1 || ty = 3) && bitsAt sym 1 4 ≠ s.bell.lead) || s.deadDies.contains lane

/-- A receive port takes a faulty symbol: 0x0104, and a HOLD decided 5 cy later (R31). -/
def execStarSymbol (die lane : Fin 16) (sym : BitVec 8) (s : State) : Out :=
  if !s.awake || s.deadDies.contains die.val || !s.badSymbol lane.val sym.toNat then .next s
  else .next ((s.decideHold die.val causeStar (s.now + 5)).raiseDie 0x0104 die.val [lane.val, sym.toNat])

/-- Neither BELL nor HOLD has latched at a die 1,024 cy after the expected latch: it sources a hold (R35). -/
def execBellWatchdog (die : Fin 16) (s0 : State) : Out :=
  if !s0.awake || s0.deadDies.contains die.val || s0.bell.held then .next s0
  else
    let expected := match s0.bell.symbols.find? fun x => x.kind = .bell with
      | some x => x.latch
      | none => s0.bell.nextD + 90
    if s0.bell.symbols.any fun x => x.kind = .hold && decide (x.latch ≤ expected + 1024) then .next s0
    else
    let s := s0.at (expected + 1024)
    .next ((s.decideHold die.val causeWatchdog (s.now + 5)).raiseDie 0x0106 die.val [expected])

/-- A current-limit comparator trips: HOLD 8 cy later; its source stays active for 1 µs (R53, 14_power_ageing_resets.md R448). -/
def execComparatorTrip (die : Fin 16) (s : State) : Out :=
  if !s.awake || s.deadDies.contains die.val then .next s
  else .next (({ s with pow := { s.pow with tripUntil := max s.pow.tripUntil (s.now + 2250) } } : State).decideHold die.val causeCurrent
    (s.now + 8))

/-- A die sensor reaches TRIP_C: HOLD 8 cy later, and S_th to its maximum (R53, 14_power_ageing_resets.md R448, R452). -/
def execThermalTrip (die : Fin 16) (s : State) : Out :=
  if !s.awake || s.deadDies.contains die.val then .next s
  else
    let hot := if s.pow.hotDies.contains die.val then s.pow.hotDies else s.pow.hotDies ++ [die.val]
    .next ((({ s with pow := { s.pow with hotDies := hot } } : State).thermalMax.settleEmergency).decideHold die.val causeThermal (s.now + 8))

/-- The HOLD_REQ land takes a level; a high one makes the lead die decide a HOLD 7 cy later (R53, 16_package_test.md R500). -/
def execHoldReq (high : Bool) (s : State) : Out :=
  let t : State := { s with pkg := { s.pkg with holdReq := high } }
  .next (if high && !s.pkg.holdReq then t.decideHold s.bell.lead causeReq (s.now + 7) else t)

/-- The input voltage stands in or out of its range for 2 µs (14_power_ageing_resets.md R444, R445): out of it, 0x0D04 and a hold
request. Voltages are in units of 10 mV. -/
def execInputRange (vin : Nat) (s : State) : Out :=
  if !s.awake || !s.powerRuns then .next s
  else
    let out := decide (vin < 4600) || decide (vin > 5800)
    let t : State := { s with pow := { s.pow with inputOut := out, vin := vin } }
    .next (if out && !s.pow.inputOut then (t.raiseMod 0x0D04 [vin]).decideHold s.bell.lead causePower (s.now + 4) else t)

/-- A stretch has stood at its maximum for 16 decisions while its condition holds: 0x0D03 (cause 1 power, 2 heat) and a hold request;
the run starts again (14_power_ageing_resets.md R451). -/
def execEmergencyHold (s : State) : Out :=
  if !s.awake || !s.powerRuns || !(s.pow.runPow = 17 || s.pow.runTh = 17) then .next s
  else
    let cause := if s.pow.runPow = 17 then 1 else 2
    let t : State := { s with pow := { s.pow with runPow := 0, runTh := 0 } }
    .next ((t.raiseMod 0x0D03 [cause, s.pow.s]).decideHold s.bell.lead causePower (s.now + 4))

/-! ## The latch and the release (R55 to R59) -/

/-- A pending activation that no bell has begun is cancelled by a HOLD (13_trust.md R440). -/
def State.cancelActivation (s : State) (cause : Nat) : State :=
  match s.trust.act, s.trust.reloading with
  | some o, none =>
    ((({ s with trust := { s.trust with act := none, deferred := false, deferLogged := false } } : State).raiseMod 0x0C08 [cause]).complete o
      stCancelled 0x0C08 0 0)
  | _, _ => s

/-- A HOLD latches in every stall: 0x0109, its cause bits; issue stops, an OPEN module is HELD, a RELEASE of the same cy is discarded
(R33, R55, R56). -/
def State.holdLatch (s0 : State) (x : Symbol) : State :=
  let s := s0.latchSymbol x
  let b := { s.bell with
    cause := orBits s.bell.cause x.cause, held := true
    symbols := s.bell.symbols.filter fun y => !(y.kind = .release && y.latch = x.latch) }
  let t := ({ s with bell := b } : State).raiseDie 0x0109 x.src [x.cause]
  let u := if bitAt x.cause 1 then t.thermalMax else t
  let v := u.cancelActivation x.cause
  (if v.mod.state = 3 then v.setMode 2 else v).settleEmergency

/-- The HOLD that latches first latches. -/
def execHoldLatch (s : State) : Out :=
  match s.nextSymbol with
  | some x => if x.kind = .hold then .next (s.holdLatch x) else .next s
  | none => .next s

/-- READY of a square's stall rises again after RELEASE (04_tile_ops.md R158). -/
def Stall.raiseReady (t : Stall) (now : Nat) : Stall :=
  { t with ready := t.ready.map fun (p : Nat × Nat) => (p.1, max p.2 (now + 1)), nextIssue := max t.nextIssue now }

/-- RELEASE latches: stalls held mid-segment resume issue, and no bell action runs (R59). -/
def State.releaseLatch (s0 : State) (x : Symbol) : State :=
  let s := s0.latchSymbol x
  if !s.bell.held then s
  else
    let t : State := { s with
      bell := { s.bell with held := false }
      stalls := tmap s.stalls fun _ y => y.raiseReady s.now }
    if t.mod.state = 2 then t.setMode 3 else t

/-- The RELEASE that latches first latches. -/
def execReleaseLatch (s : State) : Out :=
  match s.nextSymbol with
  | some x => if x.kind = .release then .next (s.releaseLatch x) else .next s
  | none => .next s

/-- MOD_POWER_CTRL.TARGET live. -/
def State.targetMode (s : State) : Nat := bitsAt (s.liveReg 3 0xA0) 0 3

/-- Whether a GO is taken: it can come (11_host_rings.md R362), a hold is in effect, every cause bit is clear, and a HELD module may open (R58, 14_power_ageing_resets.md
R464). -/
def State.goTaken (s : State) : Bool :=
  s.hostPath && s.bell.held && s.bell.cause = 0 && (s.mod.state ≠ 2 || (s.conf.hs = 1 && s.mod.configValid && s.targetMode = 3))

/-- A write of BELL_RELEASE (R58). -/
def State.writeGo (s : State) (v : Nat) : State :=
  if bitAt v 0 && s.goTaken then { s with bell := { s.bell with go := some s.now, holds := s.bell.holds.filter (s.now ≤ ·) } } else s

/-- BELL_RELEASE.GO. -/
def execBellReleaseGo (v : BitVec 32) (s : State) : Out := .next (s.writeGo v.toNat)

/-- Cause bits after a W1C write: ASSAYER and WATCHDOG stay, a bit whose source is active sets again at once (R58). -/
def State.causeAfter (s : State) (v : Nat) : Nat :=
  let act := s.activeCauses
  bitSet ((upFrom 0 7).filter fun i => bitAt s.bell.cause i && (!bitAt v i || i = 4 || i = 6 || bitAt act i))

/-- A write of BELL_HOLD_CAUSE (R58). -/
def State.writeCause (s : State) (v : Nat) : State :=
  ({ s with bell := { s.bell with cause := s.causeAfter v } } : State).settleEmergency

/-- BELL_HOLD_CAUSE. -/
def execBellHoldCause (v : BitVec 32) (s : State) : Out := .next (if s.hostPath then s.writeCause v.toNat else s)

/-- Whether the latch of the eighth scheduled decision after the `n`th has come (12_clerk_firmware.md R412). -/
def State.eighthLatch (s : State) (n : Nat) : Bool :=
  decide (n + 8 < s.decisions) || (n + 8 = s.decisions && decide (s.bell.lastD + 90 ≤ s.now))

end Sys2Proof.Machine
end

