-- ==== Sys2Proof/Machine/Snoop.lean ====
section
/-! DEFINITION. What a porter tells the check units of its die (15_check_unit_queues.md R479 to R482): shared operations. -/
namespace Sys2Proof.Machine

/-- Check unit `u` of a die. -/
def State.cu (s : State) (die u : Nat) : CheckUnit := tget s.cus CheckUnit.fresh (4 * die + u)
/-- The state with a check unit replaced. -/
def State.setCu (s : State) (die u : Nat) (c : CheckUnit) : State := { s with cus := tput s.cus (4 * die + u) c }

/-- Local index named by CHK_SNOOP. -/
def CheckUnit.stall (c : CheckUnit) : Nat := bitsAt c.snoop 0 13
/-- SLOT. -/
def CheckUnit.slot (c : CheckUnit) : Nat := bitsAt c.snoop 13 3
/-- ID. -/
def CheckUnit.id (c : CheckUnit) : Nat := bitsAt c.snoop 16 16

/-- Whether a unit of the stall's die snoops stream `g` of a slot. -/
def CheckUnit.watches (c : CheckUnit) (k i g : Nat) : Bool :=
  c.attached && c.goSeq = some g && c.stall = k % 8192 && c.slot = i

/-- Check units of a stall's die changed. -/
def State.modCus (s : State) (k : Nat) (f : CheckUnit → CheckUnit) : State :=
  { s with cus := tmap s.cus fun n c => if n / 4 = dieOf k then f c else c }

/-- A PRT.GO takes a slot: units armed for that slot and stream ID snoop its stream from line 0 (R479). -/
def State.snoopStart (s : State) (k i id g : Nat) : State :=
  s.modCus k fun c =>
    if c.attached && c.goSeq.isNone && c.stall = k % 8192 && c.slot = i && c.id = id then
      { c with goSeq := some g, nextLine := 0, window := [], marks := [] } else c

/-- An output line is written or sent: units that snoop its stream take it into their windows, with whether its every source element
is public (R480, R481). -/
def State.snoopLine (s : State) (k i g idx : Nat) (l : Line) (public_ : Bool) : State :=
  s.modCus k fun c =>
    if c.watches k i g && decide (c.nextLine ≤ idx) then { c with window := tput c.window idx (l, public_) } else c

/-- A unit detached, with a status bit set (R482). -/
def CheckUnit.detach (c : CheckUnit) (bit : Nat) : CheckUnit :=
  { c with attached := false, goSeq := none, window := [], marks := [], status := bitsAt c.status 0 8 ||| 2 ^ bit }

/-- PRT.KILL or a fault ends the attachment: STOPPED (R482). -/
def State.snoopStop (s : State) (k i g : Nat) : State := s.modCus k fun c => if c.watches k i g then c.detach 3 else c

/-- The slot is FREE after its last line: DONE once the unit has fed every line it holds (R482). -/
def State.snoopDone (s : State) (k i g : Nat) : State :=
  s.modCus k fun c => if c.watches k i g && c.window.isEmpty then c.detach 2 else c

/-- The stall's context was reset or killed: STOPPED for every stream of the stall (R482). -/
def State.snoopDrop (s : State) (k : Nat) : State :=
  s.modCus k fun c => if c.attached && c.goSeq.isSome && c.stall = k % 8192 then c.detach 3 else c

/-- The stall's context was saved: SAVED, with STATE and FED at the start of the line at which the stream resumes (R482). -/
def State.snoopSave (s : State) (k i g line : Nat) : State :=
  s.modCus k fun c =>
    if c.watches k i g then
      let m := tget c.marks (c.state, c.fed) line
      { c.detach 4 with state := m.1, fed := m.2 }
    else c

/-- A slot with an attached unit asks for no line 16 or more beyond the one the unit feeds next (R480). -/
def State.snoopRoom (s : State) (k i g line : Nat) : Bool :=
  s.cus.all fun p => !(p.1 / 4 = dieOf k && p.2.watches k i g) || decide (line < p.2.nextLine + 16)

end Sys2Proof.Machine
end

