-- ==== Sys2Proof/Machine/Streams.lean ====
section
/-! DEFINITION. Stream descriptors and their checks, the walk over elements, delivery of lines and chunk signals
(05_porter.md R169 to R179): the shared operations of the porter. -/
namespace Sys2Proof.Machine

/-! ## The descriptor (Table PRT.2) -/

/-- The fields of a descriptor. -/
def descOf (l : Line) : Desc :=
  let n := l.toNat
  let b := fun (byte lo w : Nat) => bitsAt n (8 * byte + lo) w
  { raw := l, src := b 0 0 56, dst := b 8 0 64
    counts := (upFrom 0 5).map fun i => b (16 + 2 * i) 0 16
    strides := (upFrom 0 5).map fun i => sgn 32 (b (28 + 4 * i) 0 32)
    sfmt := b 48 0 4, dfmt := b 48 4 4, rm := b 48 8 2, sen := b 48 10 1 = 1, sc := b 48 11 5
    pack := b 48 16 1 = 1, tagen := b 48 17 1 = 1, tag := b 48 18 6
    dkind := b 52 0 2, dspace := b 52 2 1, dir := b 52 3 2
    x0 := b 52 5 6, y0 := b 52 11 7, x1 := b 52 18 6, y1 := b 52 24 7
    filled := b 56 0 6, fillen := b 56 6 1 = 1, freed := b 56 7 6, freeden := b 56 13 1 = 1
    nbuf := b 56 14 4, chunk := b 56 18 12, id := b 60 0 16 }

/-- Chunk bytes CB. -/
def Desc.cb (d : Desc) : Nat := 64 * (d.chunk + 1)
/-- Ring buffers Nb. -/
def Desc.nb (d : Desc) : Nat := d.nbuf + 1
/-- Dimension count `i`. -/
def Desc.count (d : Desc) (i : Nat) : Nat := d.counts.getD i 1
/-- Byte stride `i`. -/
def Desc.stride (d : Desc) (i : Nat) : Int := d.strides.getD i 0
/-- Source element bits. -/
def Desc.sbits (d : Desc) : Nat := ((Fmt.ofCode d.sfmt).getD .b32).bits
/-- Destination element bits. -/
def Desc.dbits (d : Desc) : Nat := ((Fmt.ofCode d.dfmt).getD .b32).bits
/-- Elements of the stream (R170). -/
def Desc.total (d : Desc) : Nat := d.counts.foldl (· * ·) 1
/-- Output lines of the stream. -/
def Desc.lines (d : Desc) : Nat := d.total * d.dbits / 512
/-- A raw copy: same format and no scale (R172). -/
def Desc.rawCopy (d : Desc) : Bool := d.sfmt = d.dfmt && !d.sen
/-- Receiver count R (R175). -/
def Desc.receivers (d : Desc) : Nat := if d.dkind = 2 then (d.x1 - d.x0 + 1) * (d.y1 - d.y0 + 1) else 1
/-- Runs of dimension 0. -/
def Desc.runs (d : Desc) : Nat := d.count 1 * d.count 2 * d.count 3 * d.count 4

/-- The neighbour in a direction: 0 north, 1 east, 2 south, 3 west; none off the die (Table PRT.2, R222). -/
def neighbour (k dir : Nat) : Option Nat :=
  match dir with
  | 0 => if yOf k = 0 then none else some (k - 64)
  | 1 => if xOf k = 63 then none else some (k + 1)
  | 2 => if yOf k = 79 then none else some (k + 64)
  | _ => if xOf k = 0 then none else some (k - 1)

/-- The receiving stalls (R175). -/
def Desc.dests (d : Desc) (k : Nat) : List Nat :=
  match d.dkind with
  | 0 => [k]
  | 1 => (neighbour k d.dir).toList
  | 2 => (upFrom d.y0 (d.y1 + 1 - d.y0)).flatMap fun y => (upFrom d.x0 (d.x1 + 1 - d.x0)).map fun x => stallNum (dieOf k) x y
  | _ => []

/-- The checks of Table PRT.3 for a PRT.GO issued at stall `k`. -/
def descCauses (s : State) (k : Nat) (d : Desc) : List (Bool × Nat) :=
  let n := d.raw.toNat
  let hi := if d.dkind = 3 then 56 else if d.dspace = 0 then 18 else 7
  let rsv := bitsAt n 56 8 ≠ 0 || (bitsAt n 64 64) >>> hi ≠ 0 || bitsAt n (8 * 26) 16 ≠ 0 || bitsAt n (8 * 48 + 24) 8 ≠ 0
    || bitsAt n (8 * 52 + 31) 1 ≠ 0 || bitsAt n (8 * 56 + 30) 2 ≠ 0 || bitsAt n (8 * 60 + 16) 16 ≠ 0
  let rect := d.x0 ≠ 0 || d.y0 ≠ 0 || d.x1 ≠ 0 || d.y1 ≠ 0
  let value := d.counts.any (· = 0) || d.sfmt > 8 || d.dfmt > 8 || d.rm = 3 || (d.dir ≠ 0 && d.dkind ≠ 1)
    || (rect && d.dkind ≠ 2) || (d.dspace = 1 && d.dkind = 3)
    || ((d.freeden || d.freed ≠ 0 || d.nbuf ≠ 0) && d.dkind = 3) || (d.sc ≠ 0 && !d.sen) || (d.tag ≠ 0 && !d.tagen)
    || (d.filled ≠ 0 && !d.fillen) || (d.freed ≠ 0 && !d.freeden)
  let four := d.sbits = 4
  let conv := (!d.rawCopy && (d.sfmt = 4 || d.dfmt = 4)) || (!d.pack && four) || (d.pack && d.stride 0 ≠ 0)
    || (four && d.count 0 % 2 ≠ 0)
  let es := d.sbits / 8
  let align := (!four && (d.src % es ≠ 0 || (upFrom 0 5).any fun i => d.count i > 1 && d.stride i % (es : Int) ≠ 0))
    || (d.dkind = 3 && d.dst % 64 ≠ 0) || (d.dkind ≠ 3 && d.dspace = 0 && d.dst % 64 ≠ 0)
  let size := (d.total * d.dbits) % (8 * d.cb) ≠ 0
  let extent := d.dkind ≠ 3 && (if d.dspace = 0 then d.dst % 2 ^ 18 + d.nb * d.cb > stockBytes else d.dst % 128 + d.nb * d.cb / 64 > 128)
  let badRect := d.dkind = 2 && (d.x1 < d.x0 || d.y1 < d.y0 || d.y1 > 79
    || xOf k < d.x0 || xOf k > d.x1 || yOf k < d.y0 || yOf k > d.y1)
  let off := d.dkind = 1 && (neighbour k d.dir).isNone
  let stalls := badRect || off || (d.dests k).any fun r => s.fenced r || (s.stall r).occ ≠ (s.stall k).occ
  [(rsv, 0x0401), (value, 0x0402), (conv, 0x0403), (align, 0x0404), (size, 0x0405), (extent, 0x0406), (stalls, 0x0407)]

/-! ## The walk (R170, R171) -/

/-- Base address of a run: the stride sum modulo 2^56. -/
def Desc.base (d : Desc) (run : Nat) : Nat :=
  let i1 := run % d.count 1
  let i2 := run / d.count 1 % d.count 2
  let i3 := run / (d.count 1 * d.count 2) % d.count 3
  let i4 := run / (d.count 1 * d.count 2 * d.count 3)
  toBits 56 ((d.src : Int) + i1 * d.stride 1 + i2 * d.stride 2 + i3 * d.stride 3 + i4 * d.stride 4)

/-- One request of the walk: the line's virtual address, the first byte used in it, the first element and how many. -/
structure Piece where
  va : Nat
  byteOff : Nat
  first : Nat
  n : Nat
  deriving DecidableEq, Repr

/-- Requests of one run: its lines where packed, its elements where gathered. -/
def Desc.runPieces (d : Desc) (run : Nat) : Nat :=
  if d.pack then
    let b := d.base run
    (b + d.count 0 * d.sbits / 8 - 1) / 64 - b / 64 + 1
  else d.count 0

/-- The request at a place of the walk. -/
def Desc.piece (d : Desc) (run line : Nat) : Piece :=
  let b := d.base run
  if d.pack then
    let nbytes := d.count 0 * d.sbits / 8
    let l := b / 64 + line
    let lo := max b (64 * l)
    let hi := min (b + nbytes) (64 * l + 64)
    ⟨64 * l % 2 ^ 56, lo % 64, run * d.count 0 + (lo - b) * 8 / d.sbits, (hi - lo) * 8 / d.sbits⟩
  else
    let a := toBits 56 ((b : Int) + line * d.stride 0)
    ⟨a / 64 * 64, a % 64, run * d.count 0 + line, 1⟩

/-- Whether every request of the stream has been issued. -/
def Slot.allIssued (q : Slot) : Bool :=
  match q.desc with
  | some d => decide (q.run ≥ d.runs)
  | none => true

/-- Converter credit that a request takes (R181). -/
def Desc.cost (d : Desc) (p : Piece) : Nat := if d.rawCopy then 0 else max 1 (ceilDiv (p.n * d.dbits) 512)

/-! ## Slots -/

/-- Slot `i` of a porter. -/
def StallPort.slot (p : StallPort) (i : Nat) : Slot := tget p.slots Slot.idle i
/-- The porter with a slot replaced. -/
def StallPort.setSlot (p : StallPort) (i : Nat) (q : Slot) : StallPort := { p with slots := tput p.slots i q }
/-- The state with a slot changed. -/
def State.modSlot (s : State) (k i : Nat) (f : Slot → Slot) : State :=
  let p := s.port k
  s.setPort k (p.setSlot i (f (p.slot i)))

/-- The slot is FREE once its last line is written (R163, R167); plan end may follow (R168). -/
def State.settleSlot (s : State) (k i : Nat) : State :=
  let q := (s.port k).slot i
  let ended := q.outstanding = 0 && q.inFlight = 0 && (q.state = .draining || (q.state = .running && q.allIssued))
  if ended then ((s.snoopDone k i q.goSeq).modSlot k i fun x => { x with state := .free, asm := [], chunkDone := [] }).checkPlanEnd k else s

/-- A stream stops with an error: its slot is DRAINING and FAULTED, and the stall stops issue as a fault (R186). -/
def State.streamError (s : State) (k i code : Nat) (detail : List Nat) : State :=
  let q := (s.port k).slot i
  let s1 := (s.snoopStop k i q.goSeq).modSlot k i fun x => { x with state := if x.state = .free then .free else .draining, faulted := true }
  let t := s1.stall k
  let s2 := s1.raise code (dieOf k) t.occ k q.pc (q.streamId :: detail)
  let s3 := match t.status with
    | .stopped _ _ => s2
    | _ => s2.setStall k { t with status := .stopped code s.now }
  s3.settleSlot k i

/-- A local signal waits for the cy in which it is applied (06_tallies.md R192). -/
def State.pushChange (s : State) (k : Nat) (c : Change) : State :=
  let p := s.port k
  s.setPort k { p with pend := p.pend ++ [(s.now, c)] }

/-! ## Chunks -/

/-- Whole chunks counted off in order from `next`: how many became whole (R179). -/
def countChunks (lpc : Nat) (counts : Tbl Nat) : Nat → Nat → Nat
  | 0, next => next
  | fuel + 1, next => if tget counts 0 next ≥ lpc then countChunks lpc counts fuel (next + 1) else next

/-- A line of the issuing stall's own count: CHUNKS goes up over whole chunks in order (R166). -/
def State.countSent (s : State) (k i : Nat) (d : Desc) (idx : Nat) : State :=
  let lpc := d.chunk + 1
  s.modSlot k i fun q =>
    let done := tput q.chunkDone (idx / lpc) (tget q.chunkDone 0 (idx / lpc) + 1)
    { q with chunkDone := done, chunks := countChunks lpc done (d.lines / lpc) q.chunks }

/-- A receiving stall has written a line: whole chunks raise its FILLED tally in order (R179). -/
def State.lineWritten (s : State) (k root i goSeq idx : Nat) (d : Desc) : State :=
  let lpc := d.chunk + 1
  let p := s.port k
  let mine := fun (r : Rx) => r.root = root && r.slot = i && r.goSeq = goSeq
  let r0 := (p.rx.find? mine).getD ⟨root, i, goSeq, 0, []⟩
  let counts := tput r0.counts (idx / lpc) (tget r0.counts 0 (idx / lpc) + 1)
  let next := countChunks lpc counts (d.lines / lpc) r0.nextChunk
  let n := next - r0.nextChunk
  let rest := p.rx.filter fun r => !(r.root = root && r.slot = i)
  let rx := rest ++ [{ r0 with nextChunk := next, counts := counts }]
  let pend := if d.fillen then p.pend ++ List.replicate n (s.now, .add d.filled 1) else p.pend
  let s1 := s.setPort k { p with rx := rx, pend := pend }
  let live := fun (q : Slot) => q.goSeq = goSeq
  let s2 := if live ((s1.port root).slot i) then
      s1.modSlot root i fun q => { q with inFlight := q.inFlight - 1 } else s1
  let s3 := if k = root ∧ live ((s2.port root).slot i) then s2.countSent root i d idx else s2
  s3.settleSlot root i

/-! ## Delivery -/

/-- Registers that an issued and unretired instruction reads or writes, those of lines already moved included (R178). -/
def OpKind.vTouched : OpKind → List Nat
  | .vld vd _ n _ => upFrom vd n
  | .vst vd _ n _ => upFrom vd n
  | o => o.vReads ++ o.vWrites

/-- Whether an issued and unretired instruction reads or writes a register (R178). -/
def Stall.regBusy (t : Stall) (r : Nat) : Bool := t.ops.any fun o => o.kind.vTouched.contains r

/-- The place of output line `idx` in its ring (R175): its stock offset or register. -/
def Desc.place (d : Desc) (idx : Nat) : Nat :=
  let lpc := d.chunk + 1
  let buf := idx / lpc % d.nb
  if d.dspace = 0 then d.dst % 2 ^ 18 + buf * d.cb + 64 * (idx % lpc) else d.dst % 128 + buf * lpc + idx % lpc

/-- A line reaches a receiving stall: stock is written, a register waits in the delivery buffer while instructions use it (R178). -/
def State.deliver (s : State) (k root i goSeq idx : Nat) (d : Desc) (l : Line) : State :=
  if d.dspace = 0 then (s.putLine (stockAddr k (d.place idx)) l).lineWritten k root i goSeq idx d
  else
    let t := s.stall k
    let p := s.port k
    let r := d.place idx
    if p.deliv.isEmpty && !t.regBusy r then (s.setStall k (t.setV r l)).lineWritten k root i goSeq idx d
    else s.setPort k { p with deliv := p.deliv ++ [⟨root, i, goSeq, idx, r, l⟩] }

/-- A flit enters a stall's mesh output (R223). -/
def State.pushFlit (s : State) (k dir input : Nat) (load : Payload) : State :=
  { s with flits := s.flits ++ [⟨k, dir, input, load⟩] }

/-- The directions in which a multicast line leaves a stall, given the direction in which it came in (R176): 4 at the root. -/
def castDirs (d : Desc) (k came : Nat) : List Nat :=
  let e := decide (xOf k < d.x1)
  let w := decide (xOf k > d.x0)
  let n := decide (yOf k > d.y0)
  let so := decide (yOf k < d.y1)
  let on := fun (b : Bool) (x : Nat) => if b then [x] else []
  match came with
  | 0 => on n 0
  | 1 => on e 1 ++ on n 0 ++ on so 2
  | 2 => on so 2
  | 3 => on w 3 ++ on n 0 ++ on so 2
  | _ => on n 0 ++ on e 1 ++ on so 2 ++ on w 3

/-- Flits pushed for each direction of a list. -/
def State.pushFlits (s : State) (k input : Nat) (load : Payload) : List Nat → State
  | [] => s
  | dir :: r => (s.pushFlit k dir input load).pushFlits k input load r

/-- Virtual address of a source element (R170). -/
def Desc.elemVa (d : Desc) (e : Nat) : Nat :=
  let b := d.base (e / d.count 0)
  let j := e % d.count 0
  if d.pack then (b + j * d.sbits / 8) % 2 ^ 56 else toBits 56 ((b : Int) + j * d.stride 0)

/-- Whether every source element of an output line lies in a public crate (15_check_unit_queues.md R481). -/
def State.linePublic (s : State) (ctx idx : Nat) (d : Desc) : Bool :=
  let epl := 512 / d.dbits
  (upFrom (idx * epl) epl).all fun e => match s.walk ctx (d.elemVa e) with
    | .leaf _ w _ => eTier w = 5
    | _ => false

/-- An output line leaves the porter of its root (R175 to R177); check units that snoop its stream take it as well
(15_check_unit_queues.md R480). -/
def State.sendLine (s0 : State) (k i idx : Nat) (d : Desc) (l : Line) : State :=
  let q := (s0.port k).slot i
  let s := if s0.cus.isEmpty then s0 else s0.snoopLine k i q.goSeq idx l (s0.linePublic ((s0.stall k).occ.getD 0) idx d)
  let s1 := s.modSlot k i fun x => { x with inFlight := x.inFlight + d.receivers }
  let load := Payload.line k i q.goSeq idx d l
  match d.dkind with
  | 0 => s1.deliver k k i q.goSeq idx d l
  | 1 => (s1.countSent k i d idx).pushFlit k d.dir 0 load
  | 2 => (s1.deliver k k i q.goSeq idx d l).pushFlits k 0 load (castDirs d k 4)
  | _ =>
    let va := (d.dst + 64 * idx) % 2 ^ 56
    let r : Req := ⟨s1.idSeq, k, i, q.goSeq, idx, 1, 0, 0, some l, 0, .xlate ((s1.stall k).occ.getD 0) va, false, [], [], none⟩
    { s1.tick with reqs := s1.reqs ++ [r] }

end Sys2Proof.Machine
end

