-- ==== Sys2Proof/Machine/VectorUnit.lean ====
section
/-! DEFINITION. The vector unit and the scales (02_stall.md R90 to R93, R97, R98; 03_formats.md R115 to R131). -/
namespace Sys2Proof.Machine

/-! ## Fields that a function does not use (R93) -/

/-- Bits of format V reserved in every function (Table STL.2). -/
def vRsv (f : FmtV) : Bool := f.rsv2 ≠ 0#2 || f.rsv20 ≠ 0#20

/-- Whether a field that the function does not use is non-zero; the flags say which of QA, QB, QC, BS, SEN with SC and RM, LANE it uses. -/
def vUnused (f : FmtV) (qa qb qc bs cvt lane : Bool) : Bool :=
  vRsv f || (!qa && f.qa ≠ 0#5) || (!qb && f.qb ≠ 0#5) || (!qc && f.qc ≠ 0#5) || (!bs && f.bs ≠ 0#1)
    || (!cvt && (f.sen ≠ 0#1 || f.rm ≠ 0#2)) || (!lane && f.lane ≠ 0#6)

/-! ## Lane functions -/

/-- Operand B: a quad, or the low 32 bits of s[QB] in every lane (R90). -/
def operandB (t : Stall) (f : FmtV) : List Word32 :=
  if f.bs = 1#1 then List.replicate 64 ((t.sreg f.qb.toNat).setWidth 32) else t.lanes f.qb.toNat

/-- Registers that operand B reads. -/
def operandBRegs (f : FmtV) : List Nat := if f.bs = 1#1 then [] else quadRegs f.qb.toNat

/-- Scalar registers that operand B reads. -/
def operandBS (f : FmtV) : List Nat := if f.bs = 1#1 then [f.qb.toNat] else []

/-- A vector function's result enters the unit: the quad is written at issue + latency (R90). -/
def vecGo (s : State) (t : Stall) (qd : Nat) (lanes : List Word32) (lat : Nat) : Issue :=
  .go s (t.pushOp (s.now + lat)
    (.vec (zipW (fun i l => (i, l)) (quadRegs qd) (linesOfLanes lanes)) none (some qd) lanes)) .seq

/-- A function of a and b. -/
def vec2Issue (f : FmtV) (lat : Nat) (op : Word32 → Word32 → Word32) (s : State) (_k : Nat) (t : Stall) : Issue :=
  issueLocal t (operandBS f) [(vUnused f true true false true false false, 0x0202)]
    (t.vReady (quadRegs f.qa.toNat ++ operandBRegs f) && t.vFree (quadRegs f.qd.toNat))
    (vecGo s t f.qd.toNat (zipW op (t.lanes f.qa.toNat) (operandB t f)) lat)

/-- Three lists joined lane by lane. -/
def zipW3 (op : Word32 → Word32 → Word32 → Word32) (a b c : List Word32) : List Word32 :=
  zipW (fun g z => g z) (zipW (fun x y z => op x y z) a b) c

/-- A function of a, b and c. -/
def vec3Issue (f : FmtV) (lat : Nat) (op : Word32 → Word32 → Word32 → Word32) (s : State) (_k : Nat) (t : Stall) : Issue :=
  issueLocal t (operandBS f) [(vUnused f true true true true false false, 0x0202)]
    (t.vReady (quadRegs f.qa.toNat ++ operandBRegs f ++ quadRegs f.qc.toNat) && t.vFree (quadRegs f.qd.toNat))
    (vecGo s t f.qd.toNat (zipW3 op (t.lanes f.qa.toNat) (operandB t f) (t.lanes f.qc.toNat)) lat)

/-- A function of a alone. -/
def vec1Issue (f : FmtV) (lat : Nat) (op : List Word32 → List Word32) (s : State) (_k : Nat) (t : Stall) : Issue :=
  issueIf [(vUnused f true false false false false false, 0x0202)]
    (t.vReady (quadRegs f.qa.toNat) && t.vFree (quadRegs f.qd.toNat))
    (vecGo s t f.qd.toNat (op (t.lanes f.qa.toNat)) lat)

/-- A NaN made canonical (R116, log entry 26). -/
def canon (a : Word32) : Word32 := if isNaN32 a then canonNaN else a

/-- VADD (Table STL.10). -/
def execVadd (sid : StallId) (f : FmtV) (s : State) : Out :=
  .next (s.issueAt sid (f.word 0x10#6 0x00#6) (vec2Issue f 4 fAdd))
/-- VSUB. -/
def execVsub (sid : StallId) (f : FmtV) (s : State) : Out :=
  .next (s.issueAt sid (f.word 0x10#6 0x01#6) (vec2Issue f 4 fSub))
/-- VMUL. -/
def execVmul (sid : StallId) (f : FmtV) (s : State) : Out :=
  .next (s.issueAt sid (f.word 0x10#6 0x02#6) (vec2Issue f 4 fMul))
/-- VFMA: a × b + c, one rounding. -/
def execVfma (sid : StallId) (f : FmtV) (s : State) : Out :=
  .next (s.issueAt sid (f.word 0x10#6 0x03#6) (vec3Issue f 4 fFma))
/-- VFNMA: −(a × b) + c, one rounding. -/
def execVfnma (sid : StallId) (f : FmtV) (s : State) : Out :=
  .next (s.issueAt sid (f.word 0x10#6 0x04#6) (vec3Issue f 4 fun a b c => fFma (fNeg a) b c))
/-- VMAX. -/
def execVmax (sid : StallId) (f : FmtV) (s : State) : Out :=
  .next (s.issueAt sid (f.word 0x10#6 0x05#6) (vec2Issue f 2 fMax))
/-- VMIN. -/
def execVmin (sid : StallId) (f : FmtV) (s : State) : Out :=
  .next (s.issueAt sid (f.word 0x10#6 0x06#6) (vec2Issue f 2 fMin))
/-- VABS: only bit 31 changes (R117). -/
def execVabs (sid : StallId) (f : FmtV) (s : State) : Out :=
  .next (s.issueAt sid (f.word 0x10#6 0x07#6) (vec1Issue f 2 (·.map fAbs)))
/-- VNEG: only bit 31 changes (R117). -/
def execVneg (sid : StallId) (f : FmtV) (s : State) : Out :=
  .next (s.issueAt sid (f.word 0x10#6 0x08#6) (vec1Issue f 2 (·.map fNeg)))
/-- VSEL: c = ±0 is zero, every other c, NaN included, is not (R117). -/
def execVsel (sid : StallId) (f : FmtV) (s : State) : Out :=
  .next (s.issueAt sid (f.word 0x10#6 0x09#6) (vec3Issue f 2 fun a b c => canon (if isZero32 c then b else a)))
/-- VCMPLT. -/
def execVcmplt (sid : StallId) (f : FmtV) (s : State) : Out :=
  .next (s.issueAt sid (f.word 0x10#6 0x0A#6) (vec2Issue f 2 fLt))
/-- VCMPEQ. -/
def execVcmpeq (sid : StallId) (f : FmtV) (s : State) : Out :=
  .next (s.issueAt sid (f.word 0x10#6 0x0B#6) (vec2Issue f 2 fEq))
/-- VRSUM: lane 0 takes the sum in the fixed tree, the other lanes 0 (R91). -/
def execVrsum (sid : StallId) (f : FmtV) (s : State) : Out :=
  .next (s.issueAt sid (f.word 0x10#6 0x0C#6) (vec1Issue f 8 fun l => treeSum l :: List.replicate 63 0#32))

/-- VEXT: s[QD] takes lane LANE of q[QA], zero-extended, at issue + 2; the register that holds the lane is the one it reads and waits
for (Table STL.10, R72; log entry 82). -/
def vextIssue (f : FmtV) (s : State) (_k : Nat) (t : Stall) : Issue :=
  let v := (t.lanes f.qa.toNat).getD f.lane.toNat 0#32
  issueLocal t [f.qd.toNat] [(vUnused f true false false false false true, 0x0202)]
    (t.vReady [4 * f.qa.toNat + f.lane.toNat / 16])
    (.go s (t.pushOp (s.now + 2) (.vec [] (some (f.qd.toNat, v.setWidth 64)) none [])) .seq)

/-- VEXT (R90). -/
def execVext (sid : StallId) (f : FmtV) (s : State) : Out :=
  .next (s.issueAt sid (f.word 0x10#6 0x0E#6) (vextIssue f))

/-- VINS: only the register that holds the lane is read and rewritten, and it is waited for (Table STL.10). -/
def vinsIssue (f : FmtV) (s : State) (_k : Nat) (t : Stall) : Issue :=
  let r := 4 * f.qd.toNat + f.lane.toNat / 16
  let v := (t.sreg f.qb.toNat).setWidth 32
  let lanes := unpackN 32 16 (t.vreg r).toNat
  let new := lanes.set (f.lane.toNat % 16) v.toNat
  issueLocal t [f.qb.toNat] [(vUnused f false true false false false true, 0x0202)] (t.vReady [r] && t.vFree [r])
    (.go s (t.pushOp (s.now + 2) (.vec [(r, BitVec.ofNat 512 (packN 32 new))] none (some f.qd.toNat) [v])) .seq)

/-- VINS (R90). -/
def execVins (sid : StallId) (f : FmtV) (s : State) : Out :=
  .next (s.issueAt sid (f.word 0x10#6 0x0F#6) (vinsIssue f))

/-! ## Conversions -/

/-- The causes of a conversion: unused fields, an SC without SEN, an SC of 32 to 63, an unknown QC or RM (R92, R93). -/
def cvtCauses (f : FmtV) : List (Bool × Nat) :=
  [(vUnused f true false true false true true || (f.sen = 0#1 && f.lane ≠ 0#6), 0x0202),
   (f.sen = 1#1 && f.lane.toNat ≥ 32, 0x0210),
   ((Fmt.ofCode f.qc.toNat).isNone, 0x0210),
   ((Rnd.ofRM f.rm.toNat).isNone, 0x0210)]

/-- Registers of 64 packed elements of a format, Q4 with its scale bytes (R92). -/
def packRegs (f : Fmt) : Nat := ceilDiv (64 * f.bits + (if f = .q4 then 16 else 0)) 512

/-- The packed image of 64 lanes scaled by 2^k (R92, R114, R115, R124, R125, R130). -/
def cvtImage (f : Fmt) (r : Rnd) (k : Int) (lanes : List Word32) : List Line :=
  let vals := lanes.map unpack32
  if f = .q4 then
    let b0 := toQ4Block r k (vals.take 32)
    let b1 := toQ4Block r k (vals.drop 32)
    splitLines 1 (packN 4 (b0.1 ++ b1.1) + (packN 8 [b0.2, b1.2]) <<< 256)
  else splitLines (packRegs f) (packN f.bits (vals.map (toFmt f r k)))

/-- The exponent a conversion applies (R130). -/
def cvtExp (t : Stall) (f : FmtV) (g : Fmt) : Int := if f.sen = 1#1 then t.appliedExp f.lane.toNat g else 0

/-- VCVT.TO: 64 elements packed from v(4·QD), the rest of the last register zero; a scale on the destination sees the source lanes (R131). -/
def vcvtToIssue (f : FmtV) (s : State) (_k : Nat) (t : Stall) : Issue :=
  let g := (Fmt.ofCode f.qc.toNat).getD .b32
  let r := (Rnd.ofRM f.rm.toNat).getD .rne
  let regs := upFrom (4 * f.qd.toNat) (packRegs g)
  let src := t.lanes f.qa.toNat
  issueIf (cvtCauses f) (t.vReady (quadRegs f.qa.toNat) && t.vFree regs)
    (.go s (t.pushOp (s.now + 4)
      (.vec (zipW (fun i l => (i, l)) regs (cvtImage g r (cvtExp t f g) src)) none (some f.qd.toNat) src)) .seq)

/-- VCVT.TO (Table STL.10). -/
def execVcvtTo (sid : StallId) (f : FmtV) (s : State) : Out :=
  .next (s.issueAt sid (f.word 0x10#6 0x10#6) (vcvtToIssue f))

/-- The 64 lanes of a packed image, scaled by 2^(-k) (R126, R130). -/
def cvtLanes (f : Fmt) (r : Rnd) (k : Int) (x : Nat) : List Word32 :=
  (upFrom 0 64).map fun i =>
    match elemVal f (bitsAt x (f.bits * i) f.bits) with
    | .fin d =>
      let e := if f = .q4 then blockOfByte (bitsAt x (256 + 8 * (i / 32)) 8) else 0
      BitVec.ofNat 32 (toFmt .b32 r (-k) (.fin (d.scale e)))
    | v => BitVec.ofNat 32 (toFmt .b32 r 0 v)

/-- VCVT.FROM: elements packed from v(4·QA) to binary32 in q[QD] (R92). -/
def vcvtFromIssue (f : FmtV) (s : State) (_k : Nat) (t : Stall) : Issue :=
  let g := (Fmt.ofCode f.qc.toNat).getD .b32
  let r := (Rnd.ofRM f.rm.toNat).getD .rne
  let n := packRegs g
  issueIf (cvtCauses f) (t.vReady (upFrom (4 * f.qa.toNat) n) && t.vFree (quadRegs f.qd.toNat))
    (vecGo s t f.qd.toNat (cvtLanes g r (cvtExp t f g) (t.regsNat (4 * f.qa.toNat) n)) 4)

/-- VCVT.FROM (Table STL.10). -/
def execVcvtFrom (sid : StallId) (f : FmtV) (s : State) : Out :=
  .next (s.issueAt sid (f.word 0x10#6 0x11#6) (vcvtFromIssue f))

/-! ## Writeback -/

/-- The instruction in flight that satisfies `p` and is due first, the older of two due together. -/
def firstDue (p : OpKind → Bool) (ops : List Op) : Option Op :=
  (ops.filter fun o => p o.kind).foldl (fun acc o => match acc with
    | none => some o
    | some b => if o.due < b.due then some o else some b) none

/-- A result reaches its quad: scales attached there see it (Table STL.12 kind 1, R97). -/
def Stall.seeQuad (t : Stall) (q : Option Nat) (vals : List Word32) : Stall :=
  match q with
  | some n => t.see (fun c => c.watchesQuad n) (vals.map unpack32)
  | none => t

/-- The next vector-unit result is written (R90, R97). -/
def execVectorWriteback (sid : StallId) (s0 : State) : Out :=
  let k := sid.num
  match firstDue (fun o => match o with
    | .vec .. => true
    | _ => false) (s0.stall k).ops with
  | none => .next s0
  | some o =>
    let s := s0.at o.due
    match o.kind with
    | .vec regs sreg quad seen =>
      let t := ((s.stall k).seeQuad quad seen).setVs regs
      let t1 := match sreg with
        | some (d, v) => t.setS d v
        | none => t
      .next (s.setStall k (t1.retire o.seq))
    | _ => .next s0

/-! ## Scales -/

/-- The causes of SCL.ATT: fields of another kind, an unknown kind, QB above QC under kind 1 (R97, Table STL.12). -/
def sclAttCauses (f : FmtV) : List (Bool × Nat) :=
  let k := f.qa.toNat
  [(vRsv f || f.bs ≠ 0#1 || f.sen ≠ 0#1 || f.rm ≠ 0#2
      || (k ≠ 3 && f.lane ≠ 0#6) || (k ≠ 1 && f.qc ≠ 0#5) || (k ≠ 1 && k ≠ 2 && f.qb ≠ 0#5)
      || (k = 2 && f.qb.toNat ≥ 16), 0x0202),
   (k > 3 || (k = 1 && f.qb.toNat > f.qc.toNat), 0x0210)]

/-- SCL.ATT: the scale watches the point that QA selects; its AMAX and PREV stay (Table STL.12). -/
def sclAttIssue (f : FmtV) (s : State) (_k : Nat) (t : Stall) : Issue :=
  let c := t.scale f.qd.toNat
  let lo := if f.qa.toNat = 3 then f.lane.toNat else f.qb.toNat
  issueIf (sclAttCauses f) (t.scaleQuiet c)
    (.go s { t with scales := tput t.scales f.qd.toNat { c with att := f.qa.toNat, lo := lo, hi := f.qc.toNat } } .seq)

/-- SCL.ATT (R97, R98). -/
def execSclAtt (sid : StallId) (f : FmtV) (s : State) : Out :=
  .next (s.issueAt sid (f.word 0x14#6 0x00#6) (sclAttIssue f))

/-- SCL.RD: s[QA] takes PREV and AMAX as bits [63:32] and [31:0] (Table STL.12). -/
def sclRdIssue (f : FmtV) (s : State) (_k : Nat) (t : Stall) : Issue :=
  let c := t.scale f.qd.toNat
  issueLocal t [f.qa.toNat] [(vUnused f true false false false false false, 0x0202)] (t.scaleQuiet c)
    (.go s (t.setS f.qa.toNat (c.prev ++ c.amax)) .seq)

/-- SCL.RD (R97, R98). -/
def execSclRd (sid : StallId) (f : FmtV) (s : State) : Out :=
  .next (s.issueAt sid (f.word 0x14#6 0x01#6) (sclRdIssue f))

/-- SCL.ROLL and SCL.CLR: the scale named by QD is changed (Table STL.12). -/
def sclSetIssue (f : FmtV) (g : Scale → Scale) (s : State) (_k : Nat) (t : Stall) : Issue :=
  let c := t.scale f.qd.toNat
  issueIf [(vUnused f false false false false false false, 0x0202)] (t.scaleQuiet c)
    (.go s { t with scales := tput t.scales f.qd.toNat (g c) } .seq)

/-- SCL.ROLL: PREV takes AMAX, AMAX takes 0. -/
def execSclRoll (sid : StallId) (f : FmtV) (s : State) : Out :=
  .next (s.issueAt sid (f.word 0x14#6 0x02#6) (sclSetIssue f fun c => { c with prev := c.amax, amax := 0#32 }))

/-- SCL.CLR: PREV and AMAX take 0. -/
def execSclClr (sid : StallId) (f : FmtV) (s : State) : Out :=
  .next (s.issueAt sid (f.word 0x14#6 0x03#6) (sclSetIssue f fun c => { c with prev := 0#32, amax := 0#32 }))

/-- The larger of two magnitudes. -/
def magMax (a b : Word32) : Word32 := if a.toNat ≥ b.toNat then a else b

/-- SCL.PROP: s[QA] takes X(max(PREV, AMAX), QC), sign-extended (R127, R128). -/
def sclPropIssue (f : FmtV) (s : State) (_k : Nat) (t : Stall) : Issue :=
  let c := t.scale f.qd.toNat
  let g := Fmt.ofCode f.qc.toNat
  issueLocal t [f.qa.toNat] [(vUnused f true false true false false false, 0x0202), (g.isNone, 0x0210)] (t.scaleQuiet c)
    (.go s (t.setS f.qa.toNat (BitVec.ofInt 64 (scaleExp (magMax c.prev c.amax) (g.getD .b32)))) .seq)

/-- SCL.PROP (R128). -/
def execSclProp (sid : StallId) (f : FmtV) (s : State) : Out :=
  .next (s.issueAt sid (f.word 0x14#6 0x04#6) (sclPropIssue f))

end Sys2Proof.Machine
end

