-- ==== Sys2Proof/Machine/Porter.lean ====
section
/-! DEFINITION. Porter instructions, requests, arrivals, deliveries and mesh flits (05_porter.md R163 to R187, 07_depot_memory.md
R222, R223). -/
namespace Sys2Proof.Machine

/-! ## Instructions (Table PRT.1) -/

/-- The lowest FREE slot of a porter (R164). -/
def StallPort.freeSlot (p : StallPort) : Option Nat := firstNat (fun i => (p.slot i).state = .free) (upFrom 0 8)

/-- PRT.GO: copies and checks the descriptor, takes the lowest FREE slot, captures F0 and E (R164); a failed check records the stream ID
(R190). -/
def prtGoIssue (f : FmtPrtGo) (s : State) (k : Nat) (t : Stall) : Issue :=
  let va := f.va.toNat
  let d := descOf (t.vreg va)
  let p := s.port k
  if !t.vReady [va] || !t.sReady [f.sd.toNat] || p.freeSlot.isNone then
    (if f.rsv ≠ 0#40 then .fault 0x0202 [] else .wait)
  else
    let i := p.freeSlot.getD 0
    let g := (Fmt.ofCode d.dfmt).getD .b32
    let q : Slot :=
      { Slot.idle with
        state := .running, desc := some d, pc := t.pc, goSeq := p.goSeq, streamId := d.id
        f0 := if d.freeden then (tget p.tallies Tally.zero d.freed).value else 0
        e := if d.sen then t.appliedExp d.sc g else 0
        due := s.now + 3, before := t.opSeq }
    match lowestCode ((f.rsv ≠ 0#40, 0x0202) :: descCauses s k d) with
    | some c => .fault c (if c = 0x0202 then [] else [d.id])
    | none =>
      .go ((s.snoopStart k i d.id p.goSeq).setPort k { p.setSlot i q with goSeq := p.goSeq + 1 }) (t.setS f.sd.toNat (BitVec.ofNat 64 i)) .seq

/-- PRT.GO (R164). -/
def execPrtGo (sid : StallId) (f : FmtPrtGo) (s : State) : Out :=
  .next (s.issueAt sid (f.word 0x20#6 0x00#6) (prtGoIssue f))

/-- PRT.KILL: a RUNNING slot becomes DRAINING; a FREE or DRAINING one stays (R167). -/
def prtKillIssue (f : FmtPrtKill) (s : State) (k : Nat) (t : Stall) : Issue :=
  let i := f.slot.toNat
  let s1 := if ((s.port k).slot i).state = .running then
      ((s.snoopStop k i ((s.port k).slot i).goSeq).modSlot k i fun q => { q with state := .draining }).settleSlot k i else s
  issueIf [(f.rsv ≠ 0#49, 0x0202)] true (.go s1 t .seq)

/-- PRT.KILL (R167). -/
def execPrtKill (sid : StallId) (f : FmtPrtKill) (s : State) : Out :=
  .next (s.issueAt sid (f.word 0x20#6 0x01#6) (prtKillIssue f))

/-- Chunks that the request at a place of the walk belongs to: the last it brings an element of (R179, log entry 31). -/
def Desc.pieceChunk (d : Desc) (p : Piece) : Nat := (p.first + p.n - 1) * d.dbits / (8 * d.cb)

/-- The freed condition of R179; a saturated tally no longer guards anything (06_tallies.md R205). -/
def freedOk (p : StallPort) (q : Slot) (d : Desc) (c : Nat) : Bool :=
  !d.freeden || decide (c < d.nb) || (p.tally d.freed).sat
    || decide (((p.tally d.freed).value + 2 ^ 32 - q.f0) % 2 ^ 32 ≥ d.receivers * (c + 1 - d.nb))

/-- Whether the next request of a slot waits on the freed tally (R166 FLOW_WAIT). -/
def Slot.flowWait (p : StallPort) (q : Slot) : Bool :=
  match q.desc with
  | some d => q.state = .running && !q.allIssued && !freedOk p q d (d.pieceChunk (d.piece q.run q.line))
  | none => false

/-- Whether a line of the slot's stream waits under R178 at a stall that receives it (R166 REG_WAIT). -/
def State.regWait (s : State) (k i : Nat) : Bool :=
  let q := (s.port k).slot i
  match q.desc with
  | some d => (d.dests k).any fun n => (s.port n).deliv.any fun x => x.root = k && x.slot = i && x.goSeq = q.goSeq
  | none => false

/-- The status word of a slot (R166). -/
def State.statusWord (s : State) (k i : Nat) : Nat :=
  let p := s.port k
  let q := p.slot i
  let st := match q.state with
    | .free => 0
    | .running => 1
    | .draining => 2
  st + 4 * b2n (Slot.flowWait p q) + 8 * b2n (s.regWait k i) + 16 * b2n q.faulted + 256 * q.streamId + 2 ^ 32 * q.chunks

/-- PRT.STAT (R166). -/
def prtStatIssue (f : FmtPrtStat) (s : State) (k : Nat) (t : Stall) : Issue :=
  issueLocal t [f.sd.toNat] [(f.rsv4 ≠ 0#4 || f.rsv ≠ 0#40, 0x0202)] true
    (.go s (t.setS f.sd.toNat (BitVec.ofNat 64 (s.statusWord k f.slot.toNat))) .seq)

/-- PRT.STAT. -/
def execPrtStat (sid : StallId) (f : FmtPrtStat) (s : State) : Out :=
  .next (s.issueAt sid (f.word 0x20#6 0x02#6) (prtStatIssue f))

/-- PRT.DRAIN issues only when every slot of the stall is FREE (Table PRT.1). -/
def prtDrainIssue (f : FmtPrtDrain) (s : State) (k : Nat) (t : Stall) : Issue :=
  issueIf [(f.rsv ≠ 0#52, 0x0202)] (s.port k).allFree (.go s t .seq)

/-- PRT.DRAIN. -/
def execPrtDrain (sid : StallId) (f : FmtPrtDrain) (s : State) : Out :=
  .next (s.issueAt sid (f.word 0x20#6 0x03#6) (prtDrainIssue f))

/-! ## Requests (R180) -/

/-- Whether an address lies in the stall's own stock. -/
def State.ownStock (s : State) (k a : Nat) : Bool :=
  a / 2 ^ 46 = s.mod.id && stockAddr k 0 ≤ a % 2 ^ 46 && a % 2 ^ 46 < stockAddr k 0 + stockBytes

/-- Die, slice and queue that serve a local address, seen from die `n` (07_depot_memory.md Table DEP.2); `none` where the address
lies on no die of the module. -/
def targetQueue (a : Nat) : Option (Nat × Nat × Nat) :=
  if a < hbmTop then
    let h := a / 2 ^ 16 * 4096 + a % 4096
    some (bitsAt a 12 4, bitsAt h 6 5, 16)
  else if depotBase ≤ a ∧ a < depotTop then
    let o := (a - depotBase) % 2 ^ 28
    some ((a - depotBase) / 2 ^ 28, bitsAt o 6 5, bitsAt o 11 4)
  else if stockWin ≤ a ∧ a < stockTop then some (dieOf ((a - stockWin) / 0x40000), bitsAt a 6 5, 18)
  else none

/-- Whether a request has been issued toward a queue of the module's dies: it is no read of its own stall's stock and no write that
still waits for its translation. -/
def Req.issued (r : Req) : Bool := match r.stage with
  | .xlate _ _ => false
  | .own => false
  | _ => true

/-- Requests that a stall's porter has outstanding to the queue that serves an address (R230). -/
def State.bankLoad (s : State) (k a : Nat) : Nat :=
  match targetQueue (a % 2 ^ 46) with
  | none => 0
  | some q => if q.2.2 = 18 then 0 else (s.reqs.filter fun r => r.sid = k && r.issued && r.addr / 2 ^ 46 = a / 2 ^ 46
      && targetQueue (r.addr % 2 ^ 46) = some q).length

/-- The porter of a stall may start requests: no HOLD, the module OPEN, the stall's issue not stopped, its context not being saved
(R185, R187, R188). -/
def State.porterRuns (s : State) (k : Nat) : Bool :=
  let t := s.stall k
  s.mod.state = 3 && !s.bell.held && !s.fenced k && !s.heldDies.contains (dieOf k)
    && (match t.status with
      | .stopped _ _ => false
      | _ => true)
    && (match t.occ with
      | some c => (s.ctx c).state ≠ .saving
      | none => false)

/-- The next request of slot `i` where it is eligible: its piece, address and cost (R180, R181). -/
def State.eligible (s : State) (k i : Nat) : Option (Desc × Piece × Nat) :=
  let p := s.port k
  let q := p.slot i
  match q.desc with
  | none => none
  | some d =>
    if q.state ≠ .running ∨ q.allIssued then none
    else
      let pc := d.piece q.run q.line
      let ctx := ((s.stall k).occ).getD 0
      match s.translate ctx pc.va false false with
      | .ok a ea e =>
        if xhit p.xcache ctx pc.va && s.tabWord ea = e && freedOk p q d (d.pieceChunk pc)
            && (s.reqs.filter fun r => r.sid = k).length < 64 && s.bankLoad k a < 8 && d.cost pc ≤ p.credit
            && s.snoopRoom k i q.goSeq ((pc.first + pc.n - 1) * d.dbits / 512)
        then some (d, pc, a) else none
      | _ => none

/-- The slot after its next request has been issued: the walk goes one place on (R170). -/
def Slot.stepWalk (q : Slot) (d : Desc) : Slot :=
  if q.line + 1 < d.runPieces q.run then { q with line := q.line + 1, outstanding := q.outstanding + 1 }
  else { q with run := q.run + 1, line := 0, outstanding := q.outstanding + 1 }

/-- A porter slot whose freed tally is orphaned stops (06_tallies.md R217). -/
def State.orphanFlow (s : State) (k i : Nat) : Bool :=
  let p := s.port k
  let q := p.slot i
  match q.desc with
  | some d => q.state = .running && d.freeden && (tget p.tallies Tally.zero d.freed).orph
  | none => false

/-- The slot that issues the next request, and the cy in which it does: the first cy in which a slot is eligible, and then the slots in
turn after the one chosen last (R180). -/
def State.nextRequest (s : State) (k : Nat) : Option (Nat × Nat × Desc × Piece × Nat) :=
  let p := s.port k
  let due := fun i => max (max s.now p.reqNext) (p.slot i).due
  let able := ((upFrom (p.last + 1) 8).map (· % 8)).filterMap fun i => (s.eligible k i).map fun x => (i, x)
  match able with
  | [] => none
  | h :: r =>
    let cy := r.foldl (fun c x => min c (due x.1)) (due h.1)
    (able.find? fun x => due x.1 ≤ cy).map fun x => (cy, x.1, x.2)

/-- One request, round-robin among the slots (R180). A slot whose freed tally is orphaned stops instead (R217). -/
def execPorterRequest (sid : StallId) (s0 : State) : Out :=
  let k := sid.num
  if !s0.porterRuns k then .next s0
  else match firstNat (s0.orphanFlow k) (upFrom 0 8) with
  | some i => .next (s0.streamError k i 0x0508 [])
  | none =>
    match s0.nextRequest k with
    | none => .next s0
    | some (cy, i, d, pc, a) =>
      let s := s0.at cy
      let p := s.port k
      let q := p.slot i
      let stage := if s.ownStock k a then Stage.own else .spine
      let cost := d.cost pc
      let r : Req := ⟨s.idSeq, k, i, q.goSeq, pc.first, pc.n, pc.byteOff, a, none, cost, stage, false, [], [], none⟩
      let p1 := { p.setSlot i (q.stepWalk d) with last := i, reqNext := cy + 1, credit := p.credit - cost }
      .next (({ s.tick with reqs := s.reqs ++ [r] } : State).setPort k p1)

/-! ## Arrivals (R172, R173, R182) -/

/-- The source code of element `j` of an arrived line. -/
def pieceCode (d : Desc) (r : Req) (l : Line) (j : Nat) : Nat := bitsAt l.toNat (8 * r.byteOff + d.sbits * j) d.sbits

/-- A source element in the destination format (R172). -/
def convElem (d : Desc) (e : Int) (code : Nat) : Nat :=
  if d.rawCopy then code
  else
    let g := (Fmt.ofCode d.dfmt).getD .b32
    let h := (Fmt.ofCode d.sfmt).getD .b32
    toFmt g ((Rnd.ofRM d.rm).getD .rne) e (elemVal h code)

/-- Whole output lines among those that elements `first` to `first + n - 1` touch are taken out of the assembly. -/
def wholeLines (asm : Tbl Nat) (dbits first n : Nat) : List (Nat × Line) :=
  let epl := 512 / dbits
  let lo := first / epl
  (upFrom lo ((first + n - 1) / epl - lo + 1)).filterMap fun x =>
    let es := upFrom (x * epl) epl
    if es.all fun e => (tfind asm e).isSome then
      some (x, BitVec.ofNat 512 (packN dbits (es.map fun e => tget asm 0 e))) else none

/-- Elements of a line that left removed from the assembly. -/
def dropElems (asm : Tbl Nat) (dbits : Nat) (lines : List (Nat × Line)) : Tbl Nat :=
  asm.filter fun p => !(lines.any fun x => p.1 * dbits / 512 = x.1)

/-- Lines sent one after another. -/
def State.sendLines (s : State) (k i : Nat) (d : Desc) : List (Nat × Line) → State
  | [] => s
  | (idx, l) :: r => (s.sendLine k i idx d l).sendLines k i d r

/-- A request leaves the list, and its slot and converter credit are given back (R181); the answer of a stream that has ended gives
nothing back, its porter having started afresh. -/
def State.dropReq (s : State) (r : Req) : State :=
  let s1 := { s with reqs := s.reqs.filter fun x => x.seq ≠ r.seq }
  let p := s1.port r.sid
  let q := p.slot r.slot
  if q.goSeq = r.goSeq ∧ r.wdata.isNone then
    s1.setPort r.sid (({ p with credit := min 64 (p.credit + r.cost) } : StallPort).setSlot r.slot { q with outstanding := q.outstanding - 1 })
  else s1

/-- A line has reached the porter: scales see it, its elements are converted and placed, whole lines go out (R170 to R173). -/
def State.arrive (s : State) (r : Req) (l : Line) : State :=
  let k := r.sid
  let i := r.slot
  let s1 := s.dropReq r
  let q := (s1.port k).slot i
  match q.desc with
  | none => s1
  | some d =>
    if q.goSeq ≠ r.goSeq ∨ q.state = .free then s1
    else
      let codes := (upFrom 0 r.count).map (pieceCode d r l)
      let t := s1.stall k
      let h := (Fmt.ofCode d.sfmt).getD .b32
      let s2 := if d.tagen then s1.setStall k (t.see (fun c => c.watchesTag d.tag) (codes.map (elemVal h))) else s1
      let elems := (zipW (fun j c => (r.idx + j, convElem d q.e c)) (upFrom 0 r.count) codes).filter fun p => decide (q.skipTo ≤ p.1)
      let asm := elems.foldl (fun m p => tput m p.1 p.2) q.asm
      let lines := wholeLines asm d.dbits r.idx r.count
      let s3 := s2.modSlot k i fun x => { x with asm := dropElems asm d.dbits lines }
      (s3.sendLines k i d lines).settleSlot k i

/-- The request of a stall with this number. -/
def State.findReq (s : State) (k id : Nat) : Option Req := s.reqs.find? fun r => r.seq = id && r.sid = k

/-- What an error response says: 1 an uncorrectable source line, 2 mesh line or 3 destination write, 4 a fenced stock, 5 a reserved or
unpopulated range, 6 an unreachable die or failed link, 7 a DDR5 timeout, 8 a remote ERR or timeout; in the order of R186 (log entry 88). -/
def errCause (code : Nat) (write : Bool) : Nat :=
  if code = 0x0206 ∨ code = 0x0602 ∨ code = 0x0604 then (if write then 3 else 1)
  else if code = 0x0605 then 4
  else if code = 0x0706 then 5
  else if code = 0x0607 ∨ code = 0x0609 then 6
  else if code = 0x0608 then 7
  else 8

/-- The details of 0x0409 after the stream ID: where, and cause with the answering block's code (R186, log entry 88). -/
def errDetail (addr code cause : Nat) : List Nat := [addr, 65536 * cause + code]

/-- An error response to a request of a stream (R186): dropped where the stream is gone. -/
def State.reqError (s : State) (r : Req) (code : Nat) : State :=
  let s1 := s.dropReq r
  let q := (s1.port r.sid).slot r.slot
  if q.goSeq ≠ r.goSeq ∨ q.state = .free then s1
  else
    let s2 := if r.wdata.isSome then s1.modSlot r.sid r.slot fun x => { x with inFlight := x.inFlight - 1 } else s1
    s2.streamError r.sid r.slot 0x0409 (errDetail r.addr code (errCause code r.wdata.isSome))

/-- Whether the issuing stall accepts an answer: its delivery buffer is not full, and has room for the register lines that the answer
may complete (R178). -/
def State.arriveRoom (s : State) (r : Req) : Bool :=
  let p := s.port r.sid
  let n := match (p.slot r.slot).desc with
    | some d => if d.dspace = 0 || d.dkind = 1 then 1 else ceilDiv (r.count * d.dbits) 512
    | none => 1
  decide (p.deliv.length + n ≤ 16)

/-- The answer of a read request (R182, R186): own stock is read once earlier stores of the line are made (R165); the host's answer
comes with the command; it waits while the delivery buffer has no room for it (R178). -/
def execPorterLineArrival (sid : StallId) (id : Nat) (ecc : Ecc) (reply : Reply) (s0 : State) : Out :=
  let k := sid.num
  match s0.findReq k id with
  | none => .next s0
  | some r =>
    if r.wdata.isSome || !s0.arriveRoom r then .next s0
    else match r.stage with
    | .own =>
      let line := (r.addr % 2 ^ 46 - stockAddr k 0) / 64
      let before := ((s0.port k).slot r.slot).before
      let t := s0.stall k
      if t.ops.any fun o => decide (o.seq < before) && o.kind.lineWrites.contains line then .next s0
      else if ecc = .double then
        let s1 := (s0.dropReq r).stockDouble k ((s0.port k).slot r.slot).pc
        .next (((s1.snoopStop k r.slot r.goSeq).modSlot k r.slot fun x => { x with state := .draining, faulted := true }).settleSlot k r.slot)
      else
        let s1 := s0.stockEcc k ((s0.port k).slot r.slot).pc ecc
        .next (s1.arrive r (s1.line (r.addr % 2 ^ 46 / 64 * 64)))
    | .data l => .next (s0.arrive r l)
    | .err code => .next (s0.reqError r code)
    | .host _ =>
      match reply with
      | .data l => .next (s0.arrive r l)
      | .err => .next ((s0.raise 0x0706 (dieOf k) (s0.stall k).occ k 0xFFFFFFFF [r.addr % 2 ^ 46, k]).reqError r 0x0706)
      | _ => .next s0
    | _ => .next s0

/-- A write of a stream is acknowledged: whole chunks raise the issuing stall's FILLED tally in order (R177, R179). -/
def State.writeAcked (s : State) (r : Req) : State :=
  let k := r.sid
  let i := r.slot
  let s1 := s.dropReq r
  let q := (s1.port k).slot i
  match q.desc with
  | none => s1
  | some d =>
    if q.goSeq ≠ r.goSeq ∨ q.state = .free then s1
    else
      let s2 := (s1.modSlot k i fun x => { x with inFlight := x.inFlight - 1 }).countSent k i d r.idx
      let n := ((s2.port k).slot i).chunks - q.chunks
      let p := s2.port k
      let s3 := if d.fillen then s2.setPort k { p with pend := p.pend ++ List.replicate n (s2.now, .add d.filled 1) } else s2
      s3.settleSlot k i

/-- The answer of a write request (R177, R186). -/
def execPorterWriteAck (sid : StallId) (id : Nat) (reply : Reply) (s0 : State) : Out :=
  let k := sid.num
  match s0.findReq k id with
  | none => .next s0
  | some r =>
    if r.wdata.isNone then .next s0
    else match r.stage with
    | .ack => .next (s0.writeAcked r)
    | .err code => .next (s0.reqError r code)
    | .host _ =>
      match reply with
      | .ack => .next (s0.writeAcked r)
      | .err => .next ((s0.raise 0x0706 (dieOf k) (s0.stall k).occ k 0xFFFFFFFF [r.addr % 2 ^ 46, k]).reqError r 0x0706)
      | _ => .next s0
    | _ => .next s0

/-- The first waiting register line is written once no issued instruction reads or writes its register (R178). -/
def execRegisterDelivery (sid : StallId) (s : State) : Out :=
  let k := sid.num
  let p := s.port k
  match p.deliv with
  | [] => .next s
  | d :: rest =>
    let t := s.stall k
    if t.regBusy d.reg then .next s
    else
      let s1 := (s.setPort k { p with deliv := rest }).setStall k (t.setV d.reg d.data)
      match ((s1.port d.root).slot d.slot).desc with
      | some desc => .next (s1.lineWritten k d.root d.slot d.goSeq d.line desc)
      | none => .next s1

/-! ## The mesh (07_depot_memory.md R222, R223) -/

/-- The first flit that waits for an output, by input in turn after the input served last (R223). -/
def State.nextFlit (s : State) (k dir : Nat) : Option Flit :=
  let last := tget (s.port k).meshLast 4 dir
  ((upFrom (last + 1) 5).map (· % 5)).findSome? fun i => s.flits.find? fun f => f.at_ = k && f.dir = dir && f.input = i

/-- The list without its first element equal to `x`. -/
def eraseFlit (x : Flit) : List Flit → List Flit
  | [] => []
  | y :: r => if x = y then r else y :: eraseFlit x r

/-- Receivers that a line still has to reach when it enters stall `n` going in a direction, that stall among them (R176). -/
def castLeft (d : Desc) (n dir : Nat) : Nat :=
  if d.dkind = 2 then
    match dir with
    | 0 => yOf n + 1 - d.y0
    | 1 => (d.x1 + 1 - xOf n) * (d.y1 + 1 - d.y0)
    | 2 => d.y1 + 1 - yOf n
    | _ => (xOf n + 1 - d.x0) * (d.y1 + 1 - d.y0)
  else 1

/-- One flit crosses one hop (R176, R178, R223): the neighbour takes the line, writes it and passes it on; a stall whose delivery
buffer is full takes none; an uncorrectable line, or a fenced receiver, is recorded by the receiver and is an error of the stream (R186). -/
def execMeshFlit (sid : StallId) (dir : Fin 4) (ecc : Ecc) (s : State) : Out :=
  let k := sid.num
  match s.nextFlit k dir.val, neighbour k dir.val with
  | some f, some n =>
    let p := s.port k
    let taken := ({ s with flits := eraseFlit f s.flits } : State).setPort k
      { p with meshLast := tput p.meshLast dir.val f.input }
    match f.load with
    | .sig id => .next { taken with sigs := taken.sigs.map fun g => if g.id = id then { g with arrived := true } else g }
    | .line root i goSeq idx d data =>
      if (s.port n).deliv.length ≥ 16 then .next s
      else
        let q := (s.port root).slot i
        if q.goSeq ≠ goSeq ∨ q.state = .free then .next taken
        else
          let lost := taken.modSlot root i fun x => { x with inFlight := x.inFlight - castLeft d n dir.val }
          if s.fenced n then
            .next ((lost.raise 0x0605 (dieOf n) (s.stall root).occ n 0xFFFFFFFF [root]).streamError root i 0x0409
              (errDetail (stockAddr n 0) 0x0605 4))
          else if ecc = .double then
            .next ((lost.raiseStallAt 0x0206 n 0xFFFFFFFF []).streamError root i 0x0409 (errDetail (stockAddr n 0) 0x0206 2))
          else
            let s1 := taken.stockEcc n (if root = n then q.pc else 0xFFFFFFFF) ecc
            let dirs := if d.dkind = 2 then castDirs d n dir.val else []
            .next ((s1.pushFlits n (1 + dir.val) f.load dirs).deliver n root i goSeq idx d data)
  | _, _ => .next s

end Sys2Proof.Machine
end

