-- ==== Sys2Proof/Machine/Queues.lean ====
section
/-! DEFINITION. Clock-crossing queues (15_check_unit_queues.md R485 to R489): the shared operations. -/
namespace Sys2Proof.Machine

/-- Queue `q` of a die (Table CHK.3). -/
def State.cq (s : State) (die q : Nat) : CQueue := tget s.queues CQueue.fresh (32 * die + q)
/-- The state with a queue replaced. -/
def State.setCq (s : State) (die q : Nat) (c : CQueue) : State := { s with queues := tput s.queues (32 * die + q) c }

/-- Occupancy rises or falls to `occ`: a rise to LEVEL sets LEVEL_HIT, a fall below it arms the level again (R488). -/
def State.levelAt (s : State) (die q occ : Nat) : State :=
  let c := s.cq die q
  if c.level = 0 then s
  else if occ ≥ c.level then
    if c.armed then s.setCq die q { c with levelHit := true, armed := false } else s
  else if c.armed then s else s.setCq die q { c with armed := true }

end Sys2Proof.Machine
end

