-- ==== Sys2Proof/Machine/Memory.lean ====
section
/-! DEFINITION. Depot, HBM, relays, edges and the DDR5 path (07_depot_memory.md R224 to R251). -/
namespace Sys2Proof.Machine

/-! ## Requests in their queues -/

/-- A request moves to the next stage of its way and to the end of the list, so that requests of one queue stand in the order in
which they entered it. -/
def State.moveReq (s : State) (r : Req) (st : Stage) : State :=
  { s with reqs := (s.reqs.filter fun x => x.seq ≠ r.seq) ++ [{ r with stage := st }] }

/-- A request answered. -/
def State.answer (s : State) (r : Req) (st : Stage) : State :=
  { s with reqs := s.reqs.map fun x => if x.seq = r.seq then { r with stage := st } else x }

/-- Row of 32 stalls within its die (R7). -/
def rowOf (k : Nat) : Nat := yOf k * 2 + xOf k / 32

/-- Whether a request holds an entry of its row port's buffer. -/
def Req.inPort (r : Req) : Bool := match r.stage with
  | .port => true
  | _ => false

/-- Whether a request holds a response slot of its row port (R225). -/
def Req.inSlot (r : Req) : Bool := match r.stage with
  | .xlate _ _ => false
  | .own => false
  | .spine => false
  | _ => true

/-- Whether a request waits for its row spine. -/
def Req.atSpine (r : Req) : Bool := match r.stage with
  | .spine => true
  | _ => false

/-- The row spine accepts one request, round-robin among its 32 stalls, where the row port has a free entry and slot (R224, R225). -/
def execSpineAccept (die : Fin 16) (row : Nat) (s : State) : Out :=
  let id := die.val * 160 + row
  let mine := fun (r : Req) => dieOf r.sid = die.val && rowOf r.sid = row
  let used := (s.reqs.filter fun r => mine r && r.inPort).length
  let slots := (s.reqs.filter fun r => mine r && r.inSlot).length
  if used ≥ 32 ∨ slots ≥ 32 then .next s
  else
    let last := tget s.spine 31 id
    let order := (upFrom (last + 1) 32).map (· % 32)
    match order.findSome? fun i => (s.reqs.find? fun r => mine r && r.atSpine && xOf r.sid % 32 = i).map fun r => (i, r) with
    | none => .next s
    | some (i, r) => .next (({ s with spine := tput s.spine id i } : State).moveReq r .port)

/-! ## Routes between dies (R245, R246) -/

/-- Column of a die (R3). -/
def colOf (d : Nat) : Nat := d % 8
/-- Ladder row of a die. -/
def ladderRow (d : Nat) : Nat := d / 8

/-- Dies passed along one ladder row from column `a` to column `b`, `a` left out. -/
def along (row a b : Nat) : List Nat :=
  if a ≤ b then (upFrom (a + 1) (b - a)).map fun c => row * 8 + c
  else ((upFrom b (a - b)).reverse).map fun c => row * 8 + c

/-- The fixed route between two dies, source left out (R245). -/
def fixedRoute (a b : Nat) : List Nat :=
  along (ladderRow a) (colOf a) (colOf b) ++ (if ladderRow a = ladderRow b then [] else [b])

/-- The detour between two dies (R246). -/
def detourRoute (a b : Nat) : List Nat :=
  let other := (1 - ladderRow a) * 8
  if ladderRow a = ladderRow b then
    (other + colOf a) :: along (1 - ladderRow a) (colOf a) (colOf b) ++ [b]
  else if colOf a ≠ colOf b then (other + colOf a) :: along (ladderRow b) (colOf a) (colOf b)
  else
    let c := if colOf a = 7 then 6 else colOf a + 1
    [ladderRow a * 8 + c, other + c, b]

/-- Number of the link between two neighbouring dies; the host edge of die `d` is 256 + d. -/
def linkNum (a b : Nat) : Nat := min a b * 16 + max a b

/-- The links of a route. -/
def routeLinks (a : Nat) : List Nat → List Nat
  | [] => []
  | b :: r => linkNum a b :: routeLinks b r

/-- Whether a route from `a` crosses no fenced die and no failed link. -/
def State.routeOk (s : State) (a : Nat) (l : List Nat) : Bool :=
  l.all (fun d => !s.deadDies.contains d) && (routeLinks a l).all fun k => !s.failedLinks.contains k

/-- The route in use between two dies: whether it is the detour, and the dies passed; none where the die is unreachable. -/
def State.routeTo (s : State) (a b : Nat) : Option (Bool × List Nat) :=
  if s.routeOk a (fixedRoute a b) then some (false, fixedRoute a b)
  else if s.routeOk a (detourRoute a b) then some (true, detourRoute a b) else none

/-- The route toward the host die: whether it is the detour, and the dies passed; the last has the host edge (R245, R246). -/
def State.routeHost (s : State) (a : Nat) : Option (Bool × List Nat) :=
  let exit_ := ladderRow a * 8
  let fixed := along (ladderRow a) (colOf a) 0
  let other := (1 - ladderRow a) * 8
  let det := (other + colOf a) :: along (1 - ladderRow a) (colOf a) 0
  let up := fun d => !s.failedLinks.contains (256 + d)
  if s.routeOk a fixed && up exit_ then some (false, fixed)
  else if s.routeOk a det && up other then some (true, det) else none

/-- Where a request goes from its source die: to a die of the module, to the host, or to a Weago port. -/
inductive Target where
  | die (d : Nat)
  | host
  | module (m p : Nat)
  | nowhere
  deriving DecidableEq, Repr

/-- Where an address lies (R228). -/
def State.target (s : State) (a : Nat) : Target :=
  let m := a / 2 ^ 46
  let l := a % 2 ^ 46
  if m ≠ s.mod.id then
    match s.sending m false with
    | .send p => match routePort (s.route m) p with
      | some q => .module m q
      | none => .nowhere
    | .hold => match routePort (s.route m) (tget s.fab.psel 0 m) with
      | some q => .module m q
      | none => .nowhere
    | .unreachable => .module m 16
  else match targetQueue l with
    | some (d, _, _) => .die d
    | none => if ddrBase ≤ l ∧ l < cfgBase then .host else .nowhere

/-- The dies that a request at its row port is to pass, its own left out; none where no route is left. -/
def State.way (s : State) (r : Req) : Option (Bool × List Nat) :=
  let a := dieOf r.sid
  match s.target r.addr with
  | .die d => if d = a then some (false, []) else s.routeTo a d
  | .host => s.routeHost a
  | .module _ p => if p ≥ 16 then none else if p = a then some (false, []) else s.routeTo a p
  | .nowhere => some (false, [])

/-- Edge attachment `e` toward the next die, or 1 for the host edge, 3 for a Weago port (Table DEP.5). -/
def attachTo (cur : Nat) : Option Nat → Bool → Nat
  | some n, _ => if ladderRow n ≠ ladderRow cur then 2 else if colOf n > colOf cur then 0 else 1
  | none, toHost => if toHost then 1 else 3

/-- Slice of the edge module that a line uses (R244). -/
def edgeSlice (a e : Nat) : Nat := 4 * bitsAt a 6 3 + e

/-- Whether a request's address is reserved or unpopulated at its target (R16, R264). -/
def State.physBad (s : State) (a : Nat) : Bool :=
  let l := a % 2 ^ 46
  a / 2 ^ 46 = s.mod.id && (match targetQueue l with
    | some (d, _, 16) => !s.hbmHere l || s.deadDies.contains d
    | some (_, _, 18) => !namesStall ((l - stockWin) / 0x40000) || decide ((l - stockWin) % 0x40000 ≥ stockBytes)
    | some _ => false
    | none => !(decide (ddrBase ≤ l) && decide (l < cfgBase)))

/-- The dies still to pass: a request on its way keeps the route it took at its own die (R245, R246). -/
def State.wayLeft (s : State) (r : Req) : List Nat :=
  match r.stage with
  | .port => ((s.way r).getD (false, [])).2
  | _ => r.route

/-- Slice and queue that take a request at die `cur` (Table DEP.2). -/
def State.queueAt (s : State) (r : Req) (cur : Nat) : Nat × Nat :=
  let l := r.addr % 2 ^ 46
  let edge := fun (host : Bool) => (edgeSlice l (attachTo cur (s.wayLeft r).head? host), 17)
  match s.target r.addr with
  | .die d => if d = cur then (match targetQueue l with
      | some (_, sl, q) => (sl, q)
      | none => (0, 17))
    else edge false
  | .host => edge true
  | _ => edge false

/-! ## Admission (R229) -/

/-- The input at which a request waits on a die, if it waits there: row port 0 to 159, edge port 160 + slice. -/
def Req.inputAt (r : Req) (die : Nat) : Option Nat :=
  match r.stage with
  | .port => if dieOf r.sid = die then some (rowOf r.sid) else none
  | .edge d sl => if d = die then some (160 + sl) else none
  | _ => none

/-- Requests in a queue of a slice, oldest first. -/
def State.inQueue (s : State) (die slice q : Nat) : List Req :=
  s.reqs.filter fun r => match r.stage with
    | .queue d sl x => d = die && sl = slice && x = q
    | _ => false

/-- Requests in the HBM tracker of a slice, in the order in which the HBM queue fed them (R227, R241). -/
def State.inTracker (s : State) (die slice : Nat) : List Req :=
  s.reqs.filter fun r => match r.stage with
    | .tracker d sl => d = die && sl = slice
    | _ => false

/-- Whether a queue of 32 entries takes a further request; the HBM queue takes none while its tracker of 128 is full (R227, R241). -/
def State.queueFree (s : State) (die slice q : Nat) : Bool :=
  decide ((s.inQueue die slice q).length < 32) && (q ≠ 16 || decide ((s.inTracker die slice).length < 128))

/-- A slice's pointers. -/
def State.slicePtr (s : State) (id : Nat) : Slice := tget s.slices ⟨18, []⟩ id

/-- HBM requests in flight on a die (R241). -/
def State.hbmInflight (s : State) (die : Nat) : Nat :=
  (s.reqs.filter fun r => match r.stage with
    | .tracker d _ => d = die
    | _ => false).length

/-- Peak registers after a request has entered a queue (Table DEP.7). -/
def State.notePeak (s : State) (die slice q : Nat) : State :=
  let m := s.dmem die
  let depth := (s.inQueue die slice q).length
  s.setDmem die (if depth > m.peakDepth then { m with peakDepth := depth, peakSlice := slice, peakQueue := q } else m)

/-- The HBM queue of a slice feeds its tracker in queue order while that has room (R227, R241). -/
def State.feedHbm (s : State) (die slice : Nat) : List Req → State
  | [] => s
  | r :: rest =>
    if (s.inTracker die slice).length ≥ 128 then s
    else
      let t := s.moveReq r (.tracker die slice)
      let m := t.dmem die
      (t.setDmem die { m with hbmPeak := max m.hbmPeak (t.hbmInflight die) }).feedHbm die slice rest

/-- A cy of a slice's HBM queue. -/
def State.feed (s : State) (die slice : Nat) : State := s.feedHbm die slice (s.inQueue die slice 16)

/-- A request as an edge queue of its own die takes it: from here on it keeps its route (R244 to R246). -/
def State.routed (s : State) (r : Req) (q : Nat) : Req :=
  match r.stage with
  | .port =>
    if q = 17 then
      let w := (s.way r).getD (false, [])
      { r with detour := w.1, route := w.2 }
    else r
  | _ => r

/-- One admission into queue `q` of a slice, if an input holds a request for it: the pseudocode of R229 for one queue. -/
def State.admitOne (s : State) (die slice q : Nat) : Option State :=
  let id := die * 32 + slice
  let ptr := s.slicePtr id
  if !s.queueFree die slice q then none
  else
    let last := tget ptr.lastIn 192 q
    let fits := fun (r : Req) => s.queueAt r die = (slice, q)
    ((upFrom (last + 1) 193).map (· % 193)).findSome? fun i =>
      (s.reqs.find? fun r => r.inputAt die = some i && fits r).map fun r =>
        (({ s with slices := tput s.slices id ⟨q, tput ptr.lastIn q i⟩ } : State).moveReq (s.routed r q)
          (.queue die slice q)).notePeak die slice q

/-- Admissions queue by queue until four requests have been taken (R229). -/
def State.admitAll (s : State) (die slice : Nat) : Nat → List Nat → State
  | _, [] => s
  | taken, q :: r =>
    if taken ≥ 4 then s
    else match s.admitOne die slice q with
      | some t => t.admitAll die slice (taken + 1) r
      | none => s.admitAll die slice taken r

/-- Requests at a die's inputs to an address that R16 reserves get an error response (R264); none enters a queue. -/
def State.physCheck (s : State) (die : Nat) : List Req → State
  | [] => s
  | r :: rest =>
    if (r.inputAt die).isSome && s.physBad r.addr then
      (((s.raise 0x0706 die (s.stall r.sid).occ 0 0xFFFFFFFF [r.addr % 2 ^ 46, r.sid]).answer r (.err 0x0706))).physCheck die rest
    else s.physCheck die rest

/-- The die that a request is bound for, 16 for the host die. -/
def State.boundFor (s : State) (r : Req) : Nat :=
  match s.target r.addr with
  | .die d => d
  | .module _ p => p
  | _ => 16

/-- Requests at a die's row ports that no route is left for get an error response (R246, 10_weago.md R337). -/
def State.routeCheck (s : State) (die : Nat) : List Req → State
  | [] => s
  | r :: rest =>
    if r.inPort && (r.inputAt die).isSome && (s.way r).isNone then
      let t := match s.target r.addr with
        | .module m p => if p ≥ 16 then s.raiseMod 0x0907 [m, 0, s.mod.id]
            else s.raise 0x0607 die none 0 0xFFFFFFFF [dieOf r.sid, p]
        | _ => s.raise 0x0607 die none 0 0xFFFFFFFF [dieOf r.sid, s.boundFor r]
      let code := match s.target r.addr with
        | .module _ p => if p ≥ 16 then 0x0907 else 0x0607
        | _ => 0x0607
      (t.answer r (.err code)).routeCheck die rest
    else s.routeCheck die rest

/-- A slice admits up to four requests (R229); the queue order starts after the queue served last. -/
def execDepotAdmit (die : Fin 16) (slice : Fin 32) (s0 : State) : Out :=
  let s1 := (s0.physCheck die.val s0.reqs).feed die.val slice.val
  let s := s1.routeCheck die.val s1.reqs
  let last := (s.slicePtr (die.val * 32 + slice.val)).lastQ
  .next (s.admitAll die.val slice.val 0 ((upFrom (last + 1) 19).map (· % 19)))

/-! ## Service -/

/-- A line read or written at its place (R227, R232, R233). -/
def State.serve (s : State) (r : Req) : State :=
  let a := r.addr % 2 ^ 46 / 64 * 64
  match r.wdata with
  | some l => (s.putLine a l).answer r .ack
  | none => s.answer r (.data (s.line a))

/-- An uncorrectable error at a local address: counted, noted and recorded for its requester (R234, R242). -/
def State.ueAt (s : State) (die : Nat) (hbm : Bool) (a who : Nat) (ctx : Option Nat) : State :=
  let m := s.dmem die
  let m1 := { m with
    depotUe := if hbm then m.depotUe else satInc m.depotUe
    hbmUe := if hbm then satInc m.hbmUe else m.hbmUe
    ueAddr := a, ueSrc := b2n hbm }
  (s.setDmem die m1).raise (if hbm then 0x0604 else 0x0602) die ctx 0 0xFFFFFFFF [a, who]

/-- A porter's request that meets an uncorrectable error: an error response (R234, R242). -/
def State.uncorrectable (s : State) (die : Nat) (hbm : Bool) (r : Req) : State :=
  (s.ueAt die hbm (r.addr % 2 ^ 46) r.sid (s.stall r.sid).occ).answer r (.err (if hbm then 0x0604 else 0x0602))

/-- A corrected depot error: counted, the first of a die and bell recorded (R234). -/
def State.depotCe (s : State) (die slice bank : Nat) : State :=
  let m := s.dmem die
  let s1 := s.setDmem die { m with depotCe := satInc m.depotCe, depotCeBell := true }
  if m.depotCeBell then s1 else s1.raiseDie 0x0601 die [slice, bank]

/-- A corrected HBM error: counted, the first of a die and bell recorded with its stack and channel (R242). -/
def State.hbmCe (s : State) (die a : Nat) : State :=
  let m := s.dmem die
  let h := a / 2 ^ 16 * 4096 + a % 4096
  let s1 := s.setDmem die { m with hbmCe := satInc m.hbmCe, hbmCeBell := true }
  if m.hbmCeBell then s1 else s1.raiseDie 0x0603 die [bitsAt h 6 1, 2 * bitsAt h 7 4 + bitsAt h 11 1]

/-- A depot bank serves the first request of its queue (R227, R234). -/
def execDepotBankAccess (die : Fin 16) (slice : Fin 32) (bank : Fin 16) (ecc : Ecc) (s : State) : Out :=
  match (s.inQueue die.val slice.val bank.val).head? with
  | none => .next s
  | some r =>
    if ecc = .double then .next (s.uncorrectable die.val false r)
    else if ecc = .single then .next ((s.depotCe die.val slice.val bank.val).serve r)
    else .next (s.serve r)

/-- An HBM controller serves a request of a slice's tracker; it may take any but keeps the order of requests to one line (R229, R238,
R242). -/
def execHbmAccess (die : Fin 16) (slice : Fin 32) (req : Nat) (ecc : Ecc) (s0 : State) : Out :=
  let s := s0.feed die.val slice.val
  let q := s.inTracker die.val slice.val
  match q.find? fun r => r.seq = req with
  | none => .next s
  | some r =>
    match q.find? fun x => x.addr / 64 = r.addr / 64 with
    | none => .next s
    | some first =>
      if first.seq ≠ r.seq then .next s
      else if ecc = .double then .next (s.uncorrectable die.val true r)
      else if ecc = .single then .next ((s.hbmCe die.val (r.addr % 2 ^ 46)).serve r)
      else .next (s.serve r)

/-- A stock-window access is relayed to the target stall's stock (R235). -/
def execStockWindowRelay (die : Fin 16) (slice : Fin 32) (ecc : Ecc) (s : State) : Out :=
  match (s.inQueue die.val slice.val 18).head? with
  | none => .next s
  | some r =>
    let k := (r.addr % 2 ^ 46 - stockWin) / 0x40000
    if s.fenced k then
      .next ((s.raise 0x0605 die.val (s.stall r.sid).occ k 0xFFFFFFFF [r.sid]).answer r (.err 0x0605))
    else
      let pc := if r.sid = k then ((s.port k).slot r.slot).pc else 0xFFFFFFFF
      if ecc = .double then .next ((s.stockDouble k pc).answer r (.err 0x0206))
      else .next ((s.stockEcc k pc ecc).serve r)

/-! ## Edges -/

/-- A request joins the last waiting RD or WR of its stall to the same module in ascending lines, up to 16 (10_weago.md R340). -/
def joinable (w : WPort) (m : Msg) (r : Req) (last : Remote) : Bool :=
  (match (tget w.tx [] m.cls).getLast? with
    | some x => x.tag = last.tag && x.ty = m.ty && x.dest = m.dest
    | none => false)
  && decide (last.lines < 16) && last.addr + 64 * last.lines = r.addr % 2 ^ 46 / 64 * 64 && last.wr = r.wdata.isSome

/-- A request for another module enters the transmit queue of port `p` under a tag of its own, which it answers with (R340, R342). -/
def State.openRemote (s : State) (m p psel ctx a : Nat) (data : List Line) (reqs : List Nat) : State × Nat :=
  let wr := !data.isEmpty
  let tag := s.fab.tagSeq % 16383 + 1
  let msg := mkMsg (if wr then 2 else 1) 0 1 psel m s.mod.id ctx tag a none data
  let s1 := s.queueMsg p msg
  ({ s1 with fab := { s1.fab with
    tagSeq := s1.fab.tagSeq + 1, remotes := s1.fab.remotes ++ [⟨tag, m, a, 1, wr, psel, reqs, none⟩]
    psel := tput s1.fab.psel m psel } }, tag)

/-- A request leaves for another module over port `p` (R340): it joins the message that waits, or starts one. -/
def State.leave (s : State) (r : Req) (m p psel : Nat) : State :=
  let a := r.addr % 2 ^ 46 / 64 * 64
  let wr := r.wdata.isSome
  let w := s.wport p
  let ctx := ((s.stall r.sid).occ).getD 0
  let probe := mkMsg (if wr then 2 else 1) 0 1 psel m s.mod.id ctx 0 a none r.wdata.toList
  let sameStall := fun (x : Remote) => (s.reqs.filter fun y => x.reqs.contains y.seq).all fun y => y.sid = r.sid
  match s.fab.remotes.find? fun x => joinable w probe r x && !x.reqs.isEmpty && sameStall x && x.dest = m && x.psel = psel with
  | some x =>
    let q := tget w.tx [] 0
    let old := q.getLast?.getD probe
    let grown := { old with hdr := BitVec.ofNat 128 (old.hdr.toNat + 64), data := old.data ++ r.wdata.toList }
    let s1 := s.setWport p { w with tx := tput w.tx 0 (q.dropLast ++ [grown]) }
    ({ s1 with fab := { s1.fab with remotes := s1.fab.remotes.map fun y =>
        if y.tag = x.tag then { y with lines := y.lines + 1, reqs := y.reqs ++ [r.seq] } else y } } : State).answer r (.remote x.tag)
  | none =>
    let o := s.openRemote m p psel ctx a r.wdata.toList [r.seq]
    o.1.answer r (.remote o.2)

/-- The request with the cy in which it leaves its own die noted (R251). -/
def State.left (s : State) (r : Req) : Req := { r with left := some (r.left.getD s.now) }

/-- Cells of the requests that wait at a die's edge, direct or detoured (R243, R244, Table CHK.3). -/
def State.edgeCells (s : State) (die e : Nat) (det : Bool) : Nat :=
  sumNat ((s.reqs.filter fun r => r.detour = det && (match r.stage with
    | .edge d sl => d = die && sl % 4 = e
    | _ => false)).map fun r => if r.wdata.isSome then 5 else 1)

/-- Queue of Table CHK.3 that receives over attachment `e` (R244). -/
def edgeQueue (e : Nat) (det : Bool) : Nat := (if e = 1 then 0 else if e = 0 then 3 else 6) + b2n det

/-- Whether a request has its answer. -/
def Req.answered (r : Req) : Bool := match r.stage with
  | .data _ => true
  | .ack => true
  | .err _ => true
  | _ => false

/-- Cells of a request on an edge: its header and, for a write, one line (11_host_rings.md R360). -/
def Req.cells (r : Req) : Nat := if r.wdata.isSome then 5 else 1

/-- Whether an edge port of a die takes a request that comes over attachment `e`: an entry and a response slot of the port's 32 are free
(R225, R226), and the virtual channel has the credits, one for each cell of the queue that receives it (R243, log entry 160). -/
def State.edgeRoom (s : State) (r : Req) (n slice e : Nat) (det : Bool) : Bool :=
  decide ((s.reqs.filter fun x => x.inputAt n = some (160 + slice)).length < 32)
    && decide ((s.reqs.filter fun x => !x.answered && x.path.contains (32 * n + slice)).length < 32)
    && decide (s.edgeCells n e det + r.cells ≤ 512)

/-- The first request of a slice's edge queue goes one die on, to the host, or to its Weago port (R245, R246, 10_weago.md R340). A
failed link or a fenced die ahead answers it with an error; a request whose Weago port has changed since it took its route takes a new
one from here. -/
def execEdgeForward (die : Fin 16) (slice : Fin 32) (s : State) : Out :=
  let cur := die.val
  let down := fun (l : Nat) => s.failedLinks.contains l || s.failing.contains l
  let gone := fun (r : Req) => s.left r
  match (s.inQueue cur slice.val 17).head? with
  | none => .next s
  | some r =>
    match r.route with
    | n :: rest =>
      if down (linkNum cur n) then .next (s.answer r (.err 0x0609))
      else if s.deadDies.contains n then
        .next ((s.raise 0x0607 cur none 0 0xFFFFFFFF [dieOf r.sid, s.boundFor r]).answer r (.err 0x0607))
      else
        let e := if ladderRow n ≠ ladderRow cur then 2 else if colOf n > colOf cur then 1 else 0
        let sl := edgeSlice (r.addr % 2 ^ 46) e
        if !s.edgeRoom r n sl e r.detour then .next s
        else
          let t := s.moveReq { gone r with route := rest, path := (32 * n + sl) :: r.path } (.edge n sl)
          .next (t.levelAt n (edgeQueue e r.detour) (t.edgeCells n e r.detour))
    | [] =>
      match s.target r.addr with
      | .host => if down (256 + cur) then .next (s.answer r (.err 0x0609)) else .next (s.answer (gone r) (.host s.now))
      | .module m p =>
        if p ≥ 16 then .next ((s.raiseMod 0x0907 [m, 0, s.mod.id]).answer r (.err 0x0907))
        else if p ≠ cur then
          match s.routeTo cur p with
          | none => .next ((s.raise 0x0607 cur none 0 0xFFFFFFFF [dieOf r.sid, p]).answer r (.err 0x0607))
          | some (det, l) => .next (s.moveReq { r with detour := det, route := l } (.edge cur slice.val))
        else match s.sending m false with
          | .send psel => .next (s.leave r m p psel)
          | .hold => .next s
          | .unreachable => .next ((s.raiseMod 0x0907 [m, 0, s.mod.id]).answer r (.err 0x0907))
      | _ => .next ((s.raise 0x0706 cur none 0 0xFFFFFFFF [r.addr % 2 ^ 46, r.sid]).answer r (.err 0x0706))

/-- Whether a link lies on the part of a request's way that it has passed or is about to pass. -/
def State.crosses (s : State) (r : Req) (link : Nat) : Bool :=
  let a := dieOf r.sid
  let l := (r.path.reverse.map (· / 32)) ++ r.route
  let onWay := (routeLinks a l).contains link || (match s.target r.addr with
    | .host => link = 256 + (a :: l).getLast?.getD a
    | _ => false)
  match r.stage with
  | .edge _ _ => onWay
  | .queue _ _ _ => onWay
  | .tracker _ _ => onWay
  | .host _ => onWay
  | .remote _ => onWay
  | _ => false

/-- Requests in flight over a link get error responses (R246, 15_check_unit_queues.md Table CHK.4). -/
def State.failRequests (s : State) (link code : Nat) : List Req → State
  | [] => s
  | r :: rest => (if s.crosses r link then s.answer r (.err code) else s).failRequests link code rest

/-- A UCIe link whose retraining fails: requests in flight on it get errors, and it is marked failed at the next bell (R246). A host
edge takes the link number 256 + die (11_host_rings.md R362). -/
def execUcieLinkFailed (link : Nat) (s : State) : Out :=
  if s.mod.state < 2 then .next s
  else
    let d := if link ≥ 256 then link - 256 else link / 16
    let edge := if link ≥ 256 then 1 else if ladderRow (link % 16) ≠ ladderRow d then 2 else 0
    let s1 := s.failRequests link 0x0609 s.reqs
    let s2 := if s1.failing.contains link then s1 else ({ s1 with failing := s1.failing ++ [link] } : State).ask (.link link)
    .next (s2.raiseDie 0x0609 d [edge])

/-- A DDR5 request of a die had no response in time: counted and recorded for its requester (R251). -/
def State.ddrLate (s : State) (d a who : Nat) (ctx : Option Nat) : State :=
  let m := s.dmem d
  (s.setDmem d { m with ddrTimeouts := satInc m.ddrTimeouts }).raise 0x0608 d ctx 0 0xFFFFFFFF [a, who]

/-- A DDR5 request unanswered 2^20 cy after it left its die, wherever it is, gets an error response (R251). -/
def execDdrTimeout (req : Nat) (s0 : State) : Out :=
  match s0.reqs.find? fun r => r.seq = req with
  | none => .next s0
  | some r =>
    match s0.target r.addr, r.left with
    | .host, some c =>
      if r.answered then .next s0
      else
      let s := s0.at (c + 2 ^ 20)
      let d := dieOf r.sid
      .next ((s.ddrLate d (r.addr % 2 ^ 46) r.sid (s.stall r.sid).occ).answer r (.err 0x0608))
    | _, _ => .next s0

/-- A message between die controllers is taken; its contents belong to the firmware (11_host_rings.md Table HST.1). -/
def execCtl (_src _dst : Fin 16) (s : State) : Out := .next s

/-- A write of CLR: the memory peak registers of a die are cleared (Table DEP.7); a fenced die ignores it (11_host_rings.md R363). -/
def State.clearPeaks (s : State) (die : Nat) : State :=
  if s.deadDies.contains die then s
  else s.setDmem die { s.dmem die with hbmPeak := 0, peakDepth := 0, peakSlice := 0, peakQueue := 0 }

/-- DIE_MEM_PEAK_CLR. -/
def execDieMemPeakClr (die : Fin 16) (s : State) : Out :=
  .next (s.clearPeaks die.val)

end Sys2Proof.Machine
end

