-- ==== Sys2Proof/Machine/Lines.lean ====
section
/-! DEFINITION. Lines that are read and written by no porter: dray engines, plan loaders, walkers, gather stalls, reducers and the
receivers of remote requests meet the same errors (07_depot_memory.md R228, R234, R242, R246, R248, R251, 08_ledger_dray.md R264). -/
namespace Sys2Proof.Machine

/-- Error code of a line that die `d` reaches for, as far as the module's own state decides it: storage that is not there (R264), a fenced
stall's stock (R235), no route left (R246); 0 where none applies. -/
def State.lineCode (s : State) (d a : Nat) : Nat :=
  if s.physBad a then 0x0706
  else match s.target a with
    | .die x =>
      if (match targetQueue (a % 2 ^ 46) with
        | some (_, _, 18) => s.fenced ((a % 2 ^ 46 - stockWin) / 0x40000)
        | _ => false) then 0x0605
      else if x ≠ d && (s.routeTo d x).isNone then 0x0607 else 0
    | .host => if (s.routeHost d).isNone then 0x0607 else 0
    | _ => 0

/-- Error code of what a line meets, 0 for a corrected error or one that its address cannot have. -/
def metCode (a : Nat) : MetErr → Nat
  | .single => 0
  | .double => match targetQueue (a % 2 ^ 46) with
    | some (_, _, 16) => 0x0604
    | some (_, _, 18) => 0x0206
    | some _ => 0x0602
    | none => 0
  | .absent => if ddrBase ≤ a % 2 ^ 46 ∧ a % 2 ^ 46 < cfgBase then 0x0706 else 0
  | .late => if ddrBase ≤ a % 2 ^ 46 ∧ a % 2 ^ 46 < cfgBase then 0x0608 else 0

/-- A corrected error of a line is counted where it lies (R234, R242, 02_stall.md R100). -/
def State.correctedAt (s : State) (a : Nat) : State :=
  match targetQueue (a % 2 ^ 46) with
  | some (d, _, 16) => s.hbmCe d (a % 2 ^ 46)
  | some (_, _, 18) => s.stockSingle ((a % 2 ^ 46 - stockWin) / 0x40000) 0xFFFFFFFF
  | some (d, slice, bank) => s.depotCe d slice bank
  | none => s

/-- The error response of a line, recorded by the block that gives it. -/
def State.lineError (s : State) (d who : Nat) (ctx : Option Nat) (a code : Nat) : State :=
  let l := a % 2 ^ 46
  let k := (l - stockWin) / 0x40000
  match code with
  | 0x0602 => s.ueAt ((l - depotBase) / 2 ^ 28) false l who ctx
  | 0x0604 => s.ueAt (bitsAt l 12 4) true l who ctx
  | 0x0206 => s.stockDouble k 0xFFFFFFFF
  | 0x0605 => s.raise 0x0605 (dieOf k) ctx k 0xFFFFFFFF [who]
  | 0x0607 => s.raise 0x0607 d none 0 0xFFFFFFFF [d, match s.target a with
      | .die x => x
      | _ => 16]
  | 0x0608 => s.ddrLate d l who ctx
  | _ => s.raise 0x0706 d ctx (whereOf who) 0xFFFFFFFF [l, who]

/-- What one line meets: the state, and the code of its error response or 0. -/
def State.meetLine (s : State) (d who : Nat) (ctx : Option Nat) (a : Nat) (met : Option MetErr) : State × Nat :=
  let own := s.lineCode d a
  if own ≠ 0 then (s.lineError d who ctx a own, own)
  else match met with
    | none => (s, 0)
    | some e =>
      let c := metCode a e
      if c ≠ 0 then (s.lineError d who ctx a c, c) else if e = .single then (s.correctedAt a, 0) else (s, 0)

/-- What some lines meet, one after another, up to the first error response: the state, and its code or 0. -/
def State.meetAll (s : State) (d who : Nat) (ctx : Option Nat) : List Met → State × Nat
  | [] => (s, 0)
  | m :: r =>
    let t := s.meetLine d who ctx m.addr (some m.err)
    if t.2 ≠ 0 then t else t.1.meetAll d who ctx r

/-- Local addresses of the 4 KiB blocks of a crate's storage in this module (R265). -/
def State.crateBlocks (s : State) (st : Store) (big : Bool) : List Nat :=
  (upFrom 0 (crateBytes big / 4096)).map fun j => if st.tier = 3 then s.hbmBlock st.addr j else st.addr + 4096 * j

/-- What the reading of a whole crate meets (08_ledger_dray.md R276): an error that one of its blocks has of itself, else what the lines of
`met` in it meet. -/
def State.meetCrate (s : State) (d who : Nat) (ctx : Option Nat) (st : Store) (big : Bool) (met : List Met) : State × Nat :=
  let blocks := s.crateBlocks st big
  match blocks.find? fun b => s.lineCode d (st.module * 2 ^ 46 + b) ≠ 0 with
  | some b =>
    let a := st.module * 2 ^ 46 + b
    (s.lineError d who ctx a (s.lineCode d a), s.lineCode d a)
  | none => s.meetAll d who ctx ((met.filter fun m => blocks.contains (m.addr / 4096 * 4096)).map fun m =>
      ⟨st.module * 2 ^ 46 + m.addr, m.err⟩)

/-- The error that a list gives an address. -/
def metAt (l : List Met) (a : Nat) : Option MetErr := (l.find? fun m => m.addr = a).map (·.err)

/-- A read of host memory by the ring engine that no response came to in time (R251). -/
def State.hostLate (s : State) (h : HostMem) (a : Nat) : State :=
  if h = .late then s.ddrLate s.conf.ringDie a (engineId s.conf.ringDie) none else s

/-- What a host access of an engine meets that host memory does not answer with bytes (R248, R251). -/
def State.hostMiss (s : State) (d who : Nat) (ctx : Option Nat) (a : Nat) (h : HostMem) : State :=
  s.lineError d who ctx a (if h = .late then 0x0608 else 0x0706)

end Sys2Proof.Machine
end

