-- ==== Sys2Proof/Machine/Dray.lean ====
section
/-! DEFINITION. The dray: placement, moves, sealing, import, page commits, and the translation of porter requests
(08_ledger_dray.md R262 to R285). -/
namespace Sys2Proof.Machine

/-! ## Bytes of crates -/

/-- The bytes of a crate's storage in this module. -/
def State.crateRead (s : State) (st : Store) (big : Bool) : List Byte :=
  if st.tier = 3 then (upFrom 0 (crateBytes big / 4096)).flatMap fun j => s.bytes (s.hbmBlock st.addr j) 4096
  else s.bytes st.addr (crateBytes big)

/-- 4 KiB blocks of HBM written one after another. -/
def State.writeBlocks (s : State) (b : Nat) (l : List Byte) : List Nat → State
  | [] => s
  | j :: r => (s.write (s.hbmBlock b j) ((l.drop (4096 * j)).take 4096)).writeBlocks b l r

/-- A crate's storage written whole. -/
def State.crateWrite (s : State) (st : Store) (big : Bool) (l : List Byte) : State :=
  if st.tier = 3 then s.writeBlocks st.addr l (upFrom 0 (crateBytes big / 4096)) else s.write st.addr (l.take (crateBytes big))

/-- Zeros for a crate. -/
def zeros (n : Nat) : List Byte := List.replicate n 0#8

/-! ## Sealing (R280 to R283) -/

/-- Bytes 0 to 47 of a sealed header (Table LDG.9). -/
def sealHeader (version home : Nat) (c : Crate) (ctx : Nat) : List Byte :=
  leBytes 8 version ++ leBytes 7 c.va ++ leBytes 1 (b2n c.big + ctx * 2) ++ leBytes 3 home ++ zeros 29

/-- The GCM IV of a sealed crate (R281). -/
def sealIv (hdr : List Byte) : List Byte := (hdr.drop 16).take 3 ++ hdr.take 8 ++ [0#8]

/-- A sealed image: header of 64 B, then the body. -/
def State.sealImage (s : State) (version home : Nat) (c : Crate) (body : List Byte) : List Byte :=
  let h := sealHeader version home c c.ctx
  let x := gcmSeal s.trust.crateKey (sealIv h) h body
  h ++ fitBytes 16 x.2 ++ fitBytes body.length x.1

/-- The next seal counter value, and the state after it is taken; none where the counter would pass 2^64 - 1 (R281). -/
def State.nextSeal (s : State) : Option (State × Nat) :=
  if s.ledger.sealCount ≥ 2 ^ 64 - 1 then none
  else some ({ s with ledger := { s.ledger with sealCount := s.ledger.sealCount + 1 } }, s.ledger.sealCount)

/-- Result of opening an image (R283): its body, or the refusal's code with the failing check (1 header, 2 version, 3 tag) or the
versions compared. -/
inductive Opened where
  | body (version : Nat) (l : List Byte)
  | refuse (code : Nat) (detail : List Nat)
  deriving DecidableEq, Repr

/-- import(H, body, crate) of R283 up to the tag; `home` is 0x3FFFF for an owner image, `shadow` the floor or shadow to compare with,
`checkVersion` false at a lender (10_weago.md R348). -/
def State.openImage (s : State) (c : Crate) (ctx home shadow : Nat) (checkVersion : Bool) (hdr body : List Byte) : Opened :=
  let v := leNat (hdr.take 8)
  let h48 := hdr.take 48
  if h48 ≠ sealHeader v home c ctx then .refuse 0x0704 [1]
  else if checkVersion && home = 0x3FFFF && decide (v ≤ shadow) then .refuse 0x0703 [v, shadow]
  else if checkVersion && home ≠ 0x3FFFF && decide (v < shadow) then .refuse 0x0703 [v, shadow]
  else if checkVersion && home ≠ 0x3FFFF && decide (v > shadow) then .refuse 0x0704 [2]
  else match gcmOpen s.trust.crateKey (sealIv h48) h48 body ((hdr.drop 48).take 16) with
    | none => .refuse 0x0704 [3]
    | some l => .body v (fitBytes body.length l)

/-- Version shadow of a crate (R258). -/
def State.shadow (s : State) (c : Crate) : Nat :=
  match s.leafOf c with
  | some (a, _) => s.tabWord (shadowAddr a c.big)
  | none => 0

/-! ## Waiting translations (R262, R274) -/

/-- What the incident of a translation refused after its wait carries: the VA that it asked for and what the cause tells (R263, Table
LDG.11). -/
inductive Why where
  /-- an import refused: the code, and what its check gives -/
  | image (code : Nat) (detail : List Nat)
  /-- host memory gave an error response for the image at this address -/
  | host (code a : Nat)
  /-- no room in a tier -/
  | room (tier die : Nat)
  deriving DecidableEq, Repr

/-- Cause with which the waiting translations are refused: an image that host memory does not give is a physical range without storage
(R264, 07_depot_memory.md R248). -/
def Why.code : Why → Nat
  | .image c _ => c
  | .host _ _ => 0x0706
  | .room _ _ => 0x0707

/-- Detail of the incident of one refused translation (Table LDG.11). -/
def Why.detail (va who : Nat) : Why → List Nat
  | .image _ d => va :: d
  | .host _ a => [a, who]
  | .room tier die => [tier, die, va]

/-- One waiting translation refused: recorded with its own VA and requester (R263, R286). -/
def State.refuseOne (s : State) (ctx va who die : Nat) (w : Why) : State := s.refusal ctx va who die w.code (w.detail va who)

/-- Whether a slot's next read waits for a crate. -/
def State.slotWaits (s : State) (c : Crate) (k i : Nat) : Bool :=
  let q := (s.port k).slot i
  match q.desc with
  | none => false
  | some d =>
    q.state = .running && !q.allIssued && (match s.translate ((s.stall k).occ.getD 0) (d.piece q.run q.line).va false false with
      | .place x _ => x = c
      | _ => false)

/-- Slots of one stall that wait for a crate stop with the refusal (R186, R274). -/
def State.refuseSlots (s : State) (c : Crate) (w : Why) (k : Nat) : List Nat → State
  | [] => s
  | i :: r =>
    let q := (s.port k).slot i
    let va := match q.desc with
      | some d => (d.piece q.run q.line).va
      | none => 0
    (if s.slotWaits c k i then (s.refuseOne c.ctx va k (dieOf k) w).streamError k i 0x0408 [va, w.code] else s).refuseSlots c w k r

/-- Slots of every stall that wait for a crate. -/
def State.refusePorts (s : State) (c : Crate) (w : Why) : List Nat → State
  | [] => s
  | k :: r => (s.refuseSlots c w k (upFrom 0 8)).refusePorts c w r

/-- A write that waits for translation leaves with an error; its stream stops (R186). -/
def State.refuseWrite (s : State) (r : Req) (va code : Nat) : State :=
  let s1 := { s with reqs := s.reqs.filter fun x => x.seq ≠ r.seq }
  let q := (s1.port r.sid).slot r.slot
  if q.goSeq ≠ r.goSeq ∨ q.state = .free then s1
  else (s1.modSlot r.sid r.slot fun x => { x with inFlight := x.inFlight - 1 }).streamError r.sid r.slot 0x0408 [va, code]

/-- Writes that wait for a crate. -/
def State.refuseWrites (s : State) (c : Crate) (w : Why) : List Req → State
  | [] => s
  | r :: rest =>
    match r.stage with
    | .xlate ctx va =>
      if crateAt ctx va c.big = c then
        ((s.refuseOne ctx va r.sid (dieOf r.sid) w).refuseWrite r va w.code).refuseWrites c w rest
      else s.refuseWrites c w rest
    | _ => s.refuseWrites c w rest

/-- Whether an engine's translation waits for a crate. -/
def Waiter.waitsFor (x : Waiter) (c : Crate) : Bool := x.code.isNone && crateAt x.ctx x.va c.big = c

/-- Translations of engines that wait for a crate are refused; each finds the refusal when it asks again (R263). -/
def State.refuseEngines (s : State) (c : Crate) (w : Why) : List Waiter → State
  | [] => s
  | x :: r =>
    (if x.waitsFor c then
      let t := s.refuseOne x.ctx x.va x.who (if x.who < 0x20000 then dieOf x.who else x.who - 0x20000) w
      { t with ledger := { t.ledger with waiters := t.ledger.waiters.map fun y => if y = x then { y with code := some w.code } else y } }
    else s).refuseEngines c w r

/-- Whether any translation waits for a crate. -/
def State.anyWaits (s : State) (c : Crate) : Bool :=
  (s.ports.any fun p => (upFrom 0 8).any fun i => s.slotWaits c p.1 i)
    || (s.reqs.any fun r => match r.stage with
      | .xlate ctx va => crateAt ctx va c.big = c
      | _ => false)
    || s.ledger.waiters.any fun x => x.waitsFor c

/-- Translations that wait for a crate are refused, each with its own incident; where none waits, the crate's VA is recorded with no
requester (R263, R274, R283). -/
def State.refuseWaiters (s : State) (c : Crate) (die : Nat) (w : Why) : State :=
  let s1 := { s with ledger := { s.ledger with demands := s.ledger.demands.filter fun d => d.1 ≠ c } }
  if s1.anyWaits c then
    let s2 := s1.refusePorts c w (s1.ports.map (·.1))
    let s3 := s2.refuseWrites c w s2.reqs
    s3.refuseEngines c w s3.ledger.waiters
  else s1.raise w.code die (some c.ctx) 0 0xFFFFFFFF (w.detail c.va (engineId die))

/-! ## Translation of a slot's next request (R262) -/

/-- A refused translation of a stream (R186): the ledger's incident, then 0x0408. -/
def State.refuseStream (s : State) (k i va code : Nat) (tr : Tr) : State :=
  let s1 := s.translated ((s.stall k).occ.getD 0) va k (dieOf k) tr
  s1.streamError k i 0x0408 [va, code]

/-- What the last table read of a stall's walk meets: a corrected error is counted at the table's die, an uncorrectable one counted and
recorded there, and the flag says that the table cannot be read (R260, 07_depot_memory.md R242). A translation that a cache answers reads no table (R261). -/
def State.walkEcc (s : State) (k ctx va : Nat) (ecc : Ecc) : State × Bool :=
  match (if s.readsTable k ctx va then (s.walkReads ctx va).getLast? else none), ecc with
  | some (a, _), .single => (s.hbmCe (bitsAt a 12 4) a, false)
  | some (a, _), .double => (s.ueAt (bitsAt a 12 4) true a (0x20000 + dieOf k) (some ctx), true)
  | _, _ => (s, false)

/-- The ledger resolves the address of a write of the slot that waits for translation, or of the slot's next read. A translation that
waits leaves the slot as it is (R262), and a write whose queue has eight requests of the porter waits on (07_depot_memory.md R230). -/
def execTranslate (sid : StallId) (slot : Fin 8) (ecc : Ecc) (s : State) : Out :=
  let k := sid.num
  let i := slot.val
  let q := (s.port k).slot i
  let waiting := s.reqs.find? fun r => r.sid = k && r.slot = i && (match r.stage with
    | .xlate _ _ => true
    | _ => false)
  match waiting with
  | some r =>
    match r.stage with
    | .xlate ctx va =>
      let w := s.walkEcc k ctx va ecc
      let tr := w.1.translate ctx va true w.2
      match tr with
      | .ok a _ _ =>
        let s1 := (w.1.translated ctx va k (dieOf k) tr).fillCaches k ctx va
        if s1.bankLoad k a ≥ 8 then .next s1 else
        .next { s1 with reqs := (s1.reqs.filter fun x => x.seq ≠ r.seq) ++ [{ r with addr := a, stage := .spine }] }
      | .refuse code => .next ((w.1.translated ctx va k (dieOf k) tr).refuseWrite r va code)
      | _ => .next (w.1.translated ctx va k (dieOf k) tr)
    | _ => .next s
  | none =>
    match q.desc with
    | none => .next s
    | some d =>
      if q.state ≠ .running ∨ q.allIssued then .next s
      else
        let ctx := (s.stall k).occ.getD 0
        let va := (d.piece q.run q.line).va
        let w := s.walkEcc k ctx va ecc
        let tr := w.1.translate ctx va false w.2
        match tr with
        | .ok _ _ _ => .next ((w.1.translated ctx va k (dieOf k) tr).fillCaches k ctx va)
        | .refuse code => .next (w.1.refuseStream k i va code tr)
        | _ => .next (w.1.translated ctx va k (dieOf k) tr)

/-! ## Making room (R275) -/

/-- LDG_POLICY. -/
def State.ldgPolicy (s : State) : Nat := s.liveReg 0x4000140A 0x1200C

/-- Capacity and free units of the HBM or depot tier. -/
def State.tierRoom (s : State) (tier : Nat) : Nat × Nat :=
  if tier = 3 then (s.hbmUnits, s.freeUnits 3 0)
  else (65536 - 4096 * s.deadDies.length, sumNat ((upFrom 0 16).map fun d => if s.deadDies.contains d then 0 else s.freeUnits 2 d))

/-- Units that evictions and moves under way will free in a tier (R275). -/
def State.freeingUnits (s : State) (tier : Nat) : Nat :=
  sumNat ((s.ledger.moves.filter fun m => m.src.tier = tier && !m.isExport && (m.evict || m.phase = .moving || m.phase = .copied)).map
    fun m => crateUnits m.crate.big)

/-- Class of an eviction candidate: 0 cold and not accessed, 1 cold, 2 warm and not accessed, 3 warm; none for the rest. -/
def evictClass (e : Nat) : Option Nat :=
  if eMove e || eShr e then none
  else if ePol e = 3 then some (if eA e then 1 else 0)
  else if ePol e = 2 then some (if eA e then 3 else 2)
  else none

/-- The next candidate of a class: the lowest LADDR at or after the sweep pointer, else the lowest (R275). -/
def State.candidateOf (s : State) (tier die cls : Nat) : Option (Crate × Nat) :=
  let all := s.ledger.crates.filterMap fun c => match s.leafOf c with
    | some (_, e) =>
      if eTier e = tier && (tier = 3 || die ≥ 16 || (eAddr e - depotBase) / 2 ^ 28 = die) && evictClass e = some cls
          && !(s.ledger.moves.any fun m => m.crate = c) then some (c, eAddr e) else none
    | none => none
  let sweep := if tier = 3 then s.ledger.sweepHbm else s.ledger.sweepDepot
  let least := fun (l : List (Crate × Nat)) => l.foldl (fun b x => match b with
    | none => some x
    | some y => if x.2 < y.2 then some x else some y) (none : Option (Crate × Nat))
  match least (all.filter fun x => x.2 ≥ sweep) with
  | some x => some x
  | none => least all

/-- The candidate that make_room takes. -/
def State.candidate (s : State) (tier die : Nat) : Option (Crate × Nat) :=
  [0, 1, 2, 3].findSome? fun c => s.candidateOf tier die c

/-- Modules of the hall that can be asked for room: reachable, and none that has denied room since the last page commit (R275, log entry
163). -/
def State.lenders (s : State) : List Nat :=
  (upFrom s.hallBase s.hallSize).filter fun m => m ≠ s.mod.id && !s.unreachable m && !s.ledger.denied.contains m

/-- Whether lent room exists, as far as this module knows (R275, log entry 163). -/
def State.lentRoom (s : State) : Bool := !s.lenders.isEmpty

/-- Whether the sealed tier has a free body slot for a crate. -/
def State.slotFree (s : State) (big : Bool) : Bool := (fit s.ledger.ddrUsed 0 s.bodySlots (crateUnits big) 0).isSome

/-- The tier to which an HBM crate can move down, if there is one (R275). -/
def State.belowHbm (s : State) (big : Bool) : Option Nat :=
  if bitAt s.ldgPolicy 16 && s.lentRoom then some 6
  else if s.slotFree big then some 4
  else if s.lentRoom then some 6 else none

/-- Whether HBM has room for a crate, or will have it. -/
def State.hbmComes (s : State) (big : Bool) : Bool :=
  (fit s.ledger.hbmUsed 0 s.hbmUnits (crateUnits big) 0).isSome || s.freeingUnits 3 ≠ 0 || s.ledger.drains.any (fun d => d.store.tier = 3)
    || (match s.candidate 3 16 with
      | some (c, _) => (s.belowHbm c.big).isSome
      | none => false)

/-- The tier below, for one crate (R275). -/
def State.lowerTier (s : State) (tier : Nat) (big : Bool) : Option Nat :=
  if tier = 2 then (if s.hbmComes big then some 3 else none) else s.belowHbm big

/-- One crate of a tier is chosen to move down (R275); none where make_room fails. -/
def State.evictOne (s : State) (tier die : Nat) : Option State :=
  match s.candidate tier die with
  | none => none
  | some (c, a) =>
    match s.lowerTier tier c.big with
    | none => none
    | some t =>
      let src := ((s.leafOf c).map fun p => eStore p.2).getD ⟨0, 0, 0⟩
      let l := s.ledger
      some { s with ledger := { l with
        moves := l.moves ++ [⟨c, .asked, src, ⟨t, 0, s.mod.id⟩, 0, false, none, [], 0, true, s.now⟩],
        sweepHbm := if tier = 3 then a else l.sweepHbm,
        sweepDepot := if tier = 3 then l.sweepDepot else a } }

/-- Below LOW_PCT, and then until HIGH_PCT, the dray moves one more candidate of a tier down (R275). -/
def execDrayEvict (tier : Nat) (s : State) : Out :=
  if tier ≠ 2 ∧ tier ≠ 3 then .next s
  else if s.bell.held then .next s
  else
    let r := s.tierRoom tier
    let free := r.2 + s.freeingUnits tier
    let on := s.ledger.evicting.contains tier
    let low := decide (r.2 * 100 < bitsAt s.ldgPolicy 0 8 * r.1)
    if !(on || low) then .next s
    else if free * 100 ≥ bitsAt s.ldgPolicy 8 8 * r.1 then
      .next { s with ledger := { s.ledger with evicting := s.ledger.evicting.filter (· ≠ tier) } }
    else match s.evictOne tier 16 with
      | none => .next s
      | some t => .next { t with ledger := { t.ledger with evicting := if on then t.ledger.evicting else tier :: t.ledger.evicting } }

/-! ## Placement and import (R274, R283) -/

/-- Placement tier and die of a crate. -/
def State.placeOf (s : State) (c : Crate) : Nat × Nat :=
  ((s.ledger.places.find? fun p => p.1 = c).map (·.2)).getD (3, 0)

/-- The leaf of a crate rewritten with storage (R266). -/
def State.putStore (s : State) (c : Crate) (st : Store) : State :=
  match s.leafOf c with
  | none => s
  | some (a, e) => s.putTab a (mkLeaf (ePol e) (eW e) (eShr e) (eMove e) (eA e) (eD e) st)

/-- The demand for a crate has been met. -/
def State.metDemand (s : State) (c : Crate) : State :=
  { s with ledger := { s.ledger with demands := s.ledger.demands.filter fun d => d.1 ≠ c, places := s.ledger.places.filter fun p => p.1 ≠ c } }

/-- Placement refused: the waiting translations with 0x0707, or the incident alone where none waits (R274). -/
def State.exhausted (s : State) (c : Crate) (tier die : Nat) : State := s.refuseWaiters c die (.room tier die)

/-- Room is made on demand, or the demand is refused where none can be (R274, R275). -/
def State.demandRoom (s : State) (c : Crate) (tier die : Nat) : State :=
  if s.freeingUnits tier ≥ crateUnits c.big then s
  else match s.evictOne tier (if tier = 2 then die else 16) with
    | some t => t
    | none => if s.freeingUnits tier > 0 ∨ s.ledger.drains.any (fun d => d.store.tier = tier) then s else s.exhausted c tier die

/-- The exchange of a crate that its home module lends out (R348). -/
def State.exchange (s : State) (c : Crate) : Option Exchange := s.fab.exchanges.find? fun x => x.crate = c && x.order.isNone
/-- The state with such an exchange replaced. -/
def State.setExchange (s : State) (x : Exchange) : State :=
  { s with fab := { s.fab with exchanges := s.fab.exchanges.map fun y => if y.crate = x.crate && y.order = x.order then x else y } }
/-- The state without the exchange of a crate. -/
def State.dropExchange (s : State) (c : Crate) : State :=
  { s with fab := { s.fab with exchanges := s.fab.exchanges.filter fun y => !(y.crate = c && y.order.isNone) } }

/-- A CRATE message without lines. -/
def crateMsg (op dest src ctx : Nat) (c : Crate) (arg : Nat) : Msg :=
  mkMsg 9 0 0 0 dest src ctx 0 0 (some (op + b2n c.big * 16 + c.va * 256 + arg * 2 ^ 64)) []

/-- ROOM_FREE: granted storage goes back to its lender (R348). -/
def State.freeRoom (s : State) (peer : Nat) (c : Crate) (a : Nat) : State :=
  (s.sendReq (crateMsg 11 peer s.mod.id c.ctx c a)).1

/-- The exchange of a crate ends before its crate lies at the lender: room granted goes back (R285, R348). -/
def State.endExchange (s : State) (c : Crate) : State :=
  match s.exchange c with
  | none => s
  | some x =>
    let t := s.dropExchange c
    if x.phase = 1 ∨ x.phase = 2 ∨ x.phase = 3 then t.freeRoom x.peer c x.addr else t

/-- ROOM_REQ for a crate to one of the lenders, none where no module is left to ask (R348; the choice: log entry 42). -/
def State.askRoom (s : State) (c : Crate) : Option State :=
  let l := s.lenders
  if l.isEmpty then none
  else
    let m := l.getD (Config.freeUnit s.freeCtr % l.length) 0
    let t := { (s.useFree 1) with fab := { s.fab with exchanges := s.fab.exchanges ++ [(⟨m, c, 0, 0, none, 0⟩ : Exchange)] } }
    some (t.sendReq (crateMsg 1 m t.mod.id c.ctx c 0)).1

/-- A TIER 0 crate whose placement tier is remote: room is asked for, and where a module has failed or none is left the placement is
refused (R274). -/
def State.placeRemote (s : State) (c : Crate) : State :=
  let ask := fun (t : State) => match t.askRoom c with
    | some u => u
    | none => t.exhausted c 6 0
  match s.exchange c with
  | none => ask s
  | some x => if x.phase = 6 then ask (s.dropExchange c) else s

/-- The dray places a TIER 0 crate that a translation or NOW = 1 waits for: storage filled with zeros, then the leaf (R274). A crate
whose placement tier is remote is placed by room that a lender grants; it is sent zeros as a sealed image (R348). -/
def execDrayPlace (ctx va : Nat) (s : State) : Out :=
  if s.bell.held then .next s
  else match s.ledger.demands.find? fun d => d.1.ctx = ctx && d.1.va = va with
  | none => .next s
  | some (c, _) =>
    match s.leafOf c with
    | none => .next (s.metDemand c)
    | some (_, e) =>
      if eTier e ≠ 0 then .next (if eTier e = 4 then s else s.metDemand c)
      else
        let p := s.placeOf c
        if p.1 = 6 then .next (s.placeRemote c)
        else match s.takeUnits p.1 p.2 (crateUnits c.big) with
          | none => .next (s.demandRoom c p.1 p.2)
          | some (t, u) =>
            let st : Store := ⟨p.1, t.unitAddr p.1 u, t.mod.id⟩
            .next (((t.crateWrite st c.big (zeros (crateBytes c.big))).putStore c st).metDemand c)

/-- An import refused: counted (LDG_IMPORT_REFUSED), and each of its waiters refused, or the incident alone recorded (R283). -/
def State.importRefused (s : State) (c : Crate) (die code : Nat) (detail : List Nat) : State :=
  ({ s with ledger := { s.ledger with importRefused := satInc s.ledger.importRefused } } : State).refuseWaiters c die (.image code detail)

/-- The dray imports a sealed crate of the DDR5 region that a translation waits for: header and body come from host memory
(R274, R283). -/
def execDrayImport (ctx va : Nat) (hdr body : HostMem) (s : State) : Out :=
  if s.bell.held then .next s
  else match s.ledger.demands.find? fun d => d.1.ctx = ctx && d.1.va = va with
  | none => .next s
  | some (c, die) =>
    match s.leafOf c with
    | none => .next (s.metDemand c)
    | some (_, e) =>
      if eTier e ≠ 4 then .next s
      else match hdr.data, body.data with
        | some h, some b =>
          if h.length ≠ 64 ∨ b.length ≠ crateBytes c.big then .next s
          else match s.takeUnits 3 0 (crateUnits c.big) with
            | none => .next (s.demandRoom c 3 die)
            | some (t, u) =>
              match t.openImage c c.ctx t.mod.id (s.shadow c) true h b with
              | .refuse code detail => .next (s.importRefused c die code detail)
              | .body _ l =>
                let st : Store := ⟨3, t.unitAddr 3 u, t.mod.id⟩
                .next ((((t.crateWrite st c.big l).putStore c st).giveUnits (eStore e)).metDemand c)
        | _, _ =>
          let late := if hdr.data.isNone then hdr = .late else body = .late
          let t := if late then s.ddrLate die (eAddr e) (engineId die) (some c.ctx) else s
          .next (t.refuseWaiters c die (.host 0x0706 (eAddr e)))

/-! ## Moves (R276, R281, R284) -/

/-- Whether two entries are the same move: one move of a crate at a time, exports told apart by their host buffer. -/
def Move.same (x m : Move) : Bool := x.crate = m.crate && x.isExport = m.isExport && (!m.isExport || x.dst = m.dst)

/-- The state with a move replaced. -/
def State.setMove (s : State) (m : Move) : State :=
  { s with ledger := { s.ledger with moves := s.ledger.moves.map fun x => if x.same m then m else x } }

/-- The state with a move in a new phase, which begins now. -/
def State.turnMove (s : State) (m : Move) (ph : MovePhase) : State := s.setMove { m with phase := ph, since := s.now }

/-- A move ends without effect at the next commit (R276). -/
def State.failMove (s : State) (m : Move) : State := s.turnMove m .failed

/-- Image lines sent in CRATE messages of up to 16 lines (10_weago.md R347). -/
def imageMsgs (op dest src ctx : Nat) (c : Crate) (img : List Byte) : List Msg :=
  let lines := img.length / 64
  (upFrom 0 (ceilDiv lines 16)).map fun i =>
    let n := min 16 (lines - 16 * i)
    let data := (upFrom (16 * i) n).map fun j => lineOfBytes ((img.drop (64 * j)).take 64)
    mkMsg 9 0 n 0 dest src ctx 0 (1024 * i) (some (op + b2n c.big * 16 + c.va * 256)) data

/-- A sealed copy leaves: to a body slot of the DDR5 region, to a host buffer, or to a lender (R276, R280, R284, R285). -/
def State.sealCopy (s : State) (m : Move) (body : List Byte) : State :=
  match s.nextSeal with
  | none => s.failMove m
  | some (t, v) =>
    let img := t.sealImage v t.mod.id m.crate body
    let hdr := img.take 64
    let ct := img.drop 64
    if m.isExport then
      ({ t with out := .bytes m.dst.addr hdr :: .bytes (m.dst.addr + 64) ct :: t.out } : State).turnMove { m with version := v } .copied
    else if m.dst.tier = 4 then
      let i := t.unitOf 4 m.dst.addr
      ({ t with out := .bytes (t.annexAddr i) hdr :: .bytes m.dst.addr ct :: t.out } : State).turnMove { m with version := v } .copied
    else match t.exchange m.crate with
      | none => t.failMove m
      | some x =>
        let msgs := imageMsgs 4 x.peer t.mod.id m.crate.ctx m.crate img ++ [crateMsg 5 x.peer t.mod.id m.crate.ctx m.crate 0]
        ((t.setExchange { x with phase := 2 }).setMove { m with version := v }).sendReqs msgs

/-- Error of a copy's write to host memory, where the target lies there (R248, R251): the address and what it meets. -/
def Move.hostWrite (m : Move) (met : List Met) : List Met :=
  if m.dst.tier = 4 then met.filter fun x => x.addr = m.dst.addr && (x.err = .absent || x.err = .late) else []

/-- The crate is fetched home from its lender, with the version granted for the image (R285). -/
def State.fetchHome (s : State) (m : Move) : State :=
  match s.nextSeal, s.exchange m.crate with
  | some (t, v), none =>
    let u : State := { t with fab := { t.fab with exchanges := t.fab.exchanges ++ [⟨m.src.module, m.crate, 4, m.src.addr, none, 0⟩] } }
    ((u.setMove { m with version := v }).sendReq (crateMsg 8 m.src.module t.mod.id m.crate.ctx m.crate v)).1
  | none, _ => s.failMove m
  | _, some _ => s

/-- The dray copies a moving crate once the writes translated before the commit that set MOVE have drained (R276). `src` is what
host memory answers where the source is a public crate; `met` are the errors that lines meet, of the source or of a target in host
memory. An error response, like a source that host memory does not back (R264), fails the move. -/
def execMoveCopy (ctx va : Nat) (src : HostMem) (met : List Met) (s : State) : Out :=
  if s.bell.held then .next s
  else match s.ledger.moves.find? fun m => m.crate.ctx = ctx && m.crate.va = va && m.phase = .moving with
  | none => .next s
  | some m =>
    if s.reqs.any fun r => m.fence.contains r.seq then .next s
    else if m.src.tier = 6 then .next (s.fetchHome m)
    else
      let who := engineId m.engine
      let own := some m.crate.ctx
      let r := s.meetCrate m.engine who own m.src m.crate.big met
      let w := if r.2 = 0 then r.1.meetAll m.engine who own ((m.hostWrite met).map fun x => ⟨s.mod.id * 2 ^ 46 + x.addr, x.err⟩) else r
      if w.2 ≠ 0 then .next (w.1.failMove m)
      else
        let t := w.1
        let copy := fun (l : List Byte) =>
          if m.isExport ∨ m.dst.tier = 4 then t.sealCopy m l
          else if m.dst.tier = 6 then
            (match t.exchange m.crate with
            | some x => if x.phase = 1 then t.sealCopy m l else t
            | none => t)
          else (t.crateWrite m.dst m.crate.big l).turnMove m .copied
        if m.src.tier ≠ 5 then .next (copy (t.crateRead m.src m.crate.big))
        else match src with
          | .bytes l => .next (if l.length = crateBytes m.crate.big then copy l else t)
          | h => .next ((t.hostMiss m.engine who own (t.mod.id * 2 ^ 46 + m.src.addr) h).failMove m)

/-! ## The page commit (R266, R267, R268, R272) -/

/-- Insertion by context and VA (R267). -/
def insCrate (c : Crate) : List Crate → List Crate
  | [] => [c]
  | d :: r => if c.ctx < d.ctx || (c.ctx = d.ctx && decide (c.va ≤ d.va)) then c :: d :: r else d :: insCrate c r

/-- Crates in ascending VA for each context in ascending number (R267). -/
def sortCrates (l : List Crate) : List Crate := l.foldl (fun acc c => insCrate c acc) []

/-- Insertion by the crate of an entry, after those of the same crate (R267). -/
def insBy {α : Type} (key : α → Crate) (a : α) : List α → List α
  | [] => [a]
  | x :: r =>
    if (key a).ctx < (key x).ctx || ((key a).ctx = (key x).ctx && decide ((key a).va < (key x).va)) then a :: x :: r
    else x :: insBy key a r

/-- Changes in ascending VA of their crate for each context in ascending number (R267). -/
def sortBy {α : Type} (key : α → Crate) (l : List α) : List α := l.foldl (fun acc a => insBy key a acc) []

/-- MOVE of a crate set or cleared in every mapping of its storage; every cache drops them (R266, R276, R284). -/
def State.markMove (s : State) (b : Bool) : List Crate → State
  | [] => s
  | c :: r =>
    (match s.leafOf c with
    | some (a, e) => if eMove e = b then s else (s.putTab a (setBit e 6 b)).dropCrate c
    | none => s).markMove b r

/-- The mappings of a crate's storage: the crate, and those that share it (R271). -/
def State.mappings (s : State) (c : Crate) (st : Store) : List Crate :=
  c :: ((s.ledger.shares.filter fun x => x.1 = st && x.2 ≠ c).map (·.2))

/-- The storage that a move has taken for its target goes back after its drain, and the exchange that a lender takes part in ends (R267,
R276, R285). -/
def State.undoMove (s : State) (m : Move) : State :=
  match m.phase with
  | .asked => if m.dst.tier = 6 && !m.isExport then s.endExchange m.crate else s
  | _ => (if m.isExport then s else s.drainStore m.dst m.crate.big).dropExchange m.crate

/-- The move of a freed crate is cancelled: its target drains (R267); an export of it fails. -/
def State.cancelMove (s : State) (c : Crate) : State :=
  let t := match s.ledger.moves.find? fun m => m.crate = c && !m.isExport with
    | none => s
    | some m => ({ s with ledger := { s.ledger with moves := s.ledger.moves.filter fun x => x.crate ≠ c ∨ x.isExport } } : State).undoMove m
  { t with ledger := { t.ledger with moves := t.ledger.moves.map fun x =>
    if x.crate = c && x.isExport && x.phase ≠ .asked && x.phase ≠ .copied then { x with phase := .failed, since := 0 } else x } }

/-- SHR cleared where only one mapping of a storage remains (R272). -/
def State.unshare (s : State) (st : Store) : State :=
  match s.ledger.shares.filter fun x => x.1 = st with
  | [(_, c)] =>
    let s1 := { s with ledger := { s.ledger with shares := s.ledger.shares.filter fun x => x.1 ≠ st } }
    match s1.leafOf c with
    | some (a, e) => (s1.putTab a (setBit e 5 false)).dropCrate c
    | none => s1
  | _ => s

/-- One FREE of a page commit: a placement that a lender takes part in ends too (R285). -/
def State.commitFree (s : State) (c : Crate) : State :=
  match s.leafOf c with
  | none => s
  | some (a, e) =>
    let st := eStore e
    let s0 := s.cancelMove c
    let s1 := ((if st.tier = 0 then s0.endExchange c else s0).putTab a 0).putTab (shadowAddr a c.big) 0
    let s2 := { s1.dropCrate c with ledger := { (s1.dropCrate c).ledger with
      crates := s1.ledger.crates.filter (· ≠ c), demands := s1.ledger.demands.filter (fun d => d.1 ≠ c),
      places := s1.ledger.places.filter (fun p => p.1 ≠ c), pendPol := s1.ledger.pendPol.filter (fun p => p.crate ≠ c),
      shares := s1.ledger.shares.filter (fun x => x.2 ≠ c) } }
    if eShr e && s.ledger.shares.any (fun x => x.1 = st && x.2 ≠ c) then s2.unshare st
    else s2.drainStore st c.big

/-- Frees one after another. -/
def State.commitFrees (s : State) : List Crate → State
  | [] => s
  | c :: r => (s.commitFree c).commitFrees r

/-- Changes of POL and SHR (R267). -/
def State.commitPols (s : State) : List PolChange → State
  | [] => s
  | p :: r =>
    (match s.leafOf p.crate with
    | none => s
    | some (a, e) =>
      let e1 := match p.pol with
        | some v => mkLeaf v (eW e) (eShr e) (eMove e) (eA e) (eD e) (eStore e)
        | none => e
      let e2 := match p.shr with
        | some b => setBit e1 5 b
        | none => e1
      (s.putTab a e2).dropCrate p.crate).commitPols r

/-- A share: the receiving context's mapping is made, SHR set in both (R271). DESIGN CHOICE: where no HBM is left for the tables of the
mapping, the share waits for the next page commit (log entry 161). -/
def State.commitShare (s : State) (q : ShareReq) : State :=
  match s.leafOf q.crate with
  | none => s
  | some (a, e) =>
    if eTier e = 0 ∨ eTier e = 4 ∨ eMove e then
      { s with ledger := { s.ledger with
        pendShare := s.ledger.pendShare ++ [q]
        demands := if eMove e ∨ s.ledger.demands.any (fun d => d.1 = q.crate) then s.ledger.demands
          else s.ledger.demands ++ [(q.crate, 0)] } }
    else
    let c2 : Crate := ⟨q.toCtx, q.toVa, q.crate.big⟩
    let e1 := setBit e 5 true
    match s.mapCrate c2 (mkLeaf (ePol e) q.w true false false false (eStore e)) with
    | none => { s with ledger := { s.ledger with pendShare := s.ledger.pendShare ++ [q] } }
    | some t =>
      let u := (t.putTab a e1).dropCrate q.crate
      let st := eStore e
      let old := if u.ledger.shares.contains (st, q.crate) then [] else [(st, q.crate)]
      { u with ledger := { u.ledger with shares := u.ledger.shares ++ old ++ [(st, c2)] } }

/-- Shares one after another. -/
def State.commitShares (s : State) : List ShareReq → State
  | [] => s
  | q :: r => (s.commitShare q).commitShares r

/-- Dies whose dray engines are in service: neither fenced nor held (R273). -/
def State.drayDies (s : State) : List Nat := (upFrom 0 16).filter fun d => !s.deadDies.contains d && !s.heldDies.contains d

/-- Die whose engine serves a move of a crate (R273). -/
def State.engineOf (s : State) (c : Crate) : Nat :=
  let l := s.drayDies
  if l.isEmpty then 0 else l.getD (bitsAt c.va 16 16 % l.length) 0

/-- An order of exports or imports ends DONE with the last of its crates. -/
def State.moveDone (s : State) : Option Nat → State
  | none => s
  | some o => if s.ledger.moves.any fun x => x.order = some o then s else s.complete o stDone 0 0 0

/-- An order of exports ends FAILED with 0x0708. -/
def State.moveFailed (s : State) : Option Nat → State
  | none => s
  | some o => s.complete o stFailed 0x0708 0 0

/-- A move completion, or the end of a failed move (R276); one whose engine's die is held is asked for again (R273). An export leaves
the leaf as it is but for MOVE (R284), and an import over a public or remote crate makes the leaf name its new storage (R266). -/
def State.commitMoveEnd (s : State) (m : Move) : State :=
  let s0 := { s with ledger := { s.ledger with moves := s.ledger.moves.filter fun x => !x.same m } }
  match s.leafOf m.crate with
  | none => if m.phase = .copied then s0.moveDone m.order else (s0.dropExchange m.crate).moveFailed m.order
  | some (a, e) =>
    let sh := shadowAddr a m.crate.big
    let clear := fun (t : State) => t.markMove false (t.mappings m.crate (eStore e))
    match m.phase with
    | .copied =>
      if m.isExport then (((clear s0).putTab sh m.version).dropExchange m.crate).moveDone m.order
      else
        let s1 := ((s0.putTab a (mkLeaf (ePol e) (eW e) (eShr e) false (eA e) (eD e) m.dst)).dropCrate m.crate).drainStore
          m.src m.crate.big
        let s2 := if m.version = 0 then s1 else s1.putTab sh m.version
        { s2.dropExchange m.crate with ledger := { (s2.dropExchange m.crate).ledger with movesDone := satInc s2.ledger.movesDone } }
    | .imported =>
      (((s0.putTab a (mkLeaf (ePol e) (eW e) (eShr e) false (eA e) (eD e) m.dst)).dropCrate m.crate).drainStore m.src
        m.crate.big).moveDone m.order
    | .failed =>
      (((clear s0).undoMove m).raise 0x0708 0xFF (some m.crate.ctx) 0 0xFFFFFFFF [m.crate.va, m.src.tier, m.dst.tier]).moveFailed m.order
    | .handover =>
      let s1 := ((clear s0).undoMove m).raise 0x0708 0xFF (some m.crate.ctx) 0 0xFFFFFFFF [m.crate.va, m.src.tier, m.dst.tier]
      let die := if m.dst.tier = 2 then (m.dst.addr - depotBase) / 2 ^ 28 else 0
      let dst := if m.isExport then m.dst else ⟨m.dst.tier, die, s1.mod.id⟩
      { s1 with ledger := { s1.ledger with
        moves := s1.ledger.moves ++ [{ m with phase := .asked, dst := dst, fence := [], since := s1.now }] } }
    | _ => s

/-- Move ends one after another. -/
def State.commitMoveEnds (s : State) : List Move → State
  | [] => s
  | m :: r => (s.commitMoveEnd m).commitMoveEnds r

/-- A HINT's move that its crate no longer allows is skipped, and counted (R277); an eviction is dropped. -/
def State.skipMove (s : State) (m : Move) : State :=
  let l := s.ledger
  ({ s with ledger := { l with
      moves := l.moves.filter fun x => !x.same m
      hintsSkipped := if m.evict then l.hintsSkipped else min 4294967295 (l.hintsSkipped + 1) } } : State).undoMove m

/-- An eviction whose target tier has no room yet: it turns to the tier that has some, waits for HBM room that comes or is made, or is
given up (R275, log entry 163). -/
def State.turnEvict (s : State) (m : Move) : State :=
  match s.lowerTier m.src.tier m.crate.big with
  | none => s.skipMove m
  | some t =>
    if t ≠ m.dst.tier then s.setMove { m with dst := ⟨t, 0, s.mod.id⟩ }
    else if t = 3 && s.freeingUnits 3 = 0 && !s.ledger.drains.any (fun d => d.store.tier = 3) then (s.evictOne 3 16).getD s
    else s

/-- Writes translated and not yet answered, for which a copy waits (R276). -/
def State.inFlightWrites (s : State) : List Nat :=
  (s.reqs.filter fun r => r.wdata.isSome && (match r.stage with
    | .xlate _ _ => false
    | _ => true)).map (·.seq)

/-- An export starts: MOVE is set in every mapping of the crate and writes to it wait (R276, R284). One of a crate not placed, or sealed,
first has the crate placed or imported. -/
def State.startExport (s : State) (m : Move) (e : Nat) : State :=
  if eTier e = 0 ∨ eTier e = 4 then
    if s.ledger.demands.any fun d => d.1 = m.crate then s
    else { s with ledger := { s.ledger with demands := s.ledger.demands ++ [(m.crate, 0)] } }
  else if eMove e then s
  else (s.markMove true (s.mappings m.crate (eStore e))).turnMove
    { m with src := eStore e, fence := s.inFlightWrites, engine := s.engineOf m.crate } .moving

/-- A move start: its target has room, MOVE is set, and the writes in flight are noted (R276, R277). A crate that has meanwhile become
pinned, shared or not accessible, or that lies in its target, is not moved (R273, R277). -/
def State.commitMoveStart (s : State) (m : Move) : State :=
  match s.leafOf m.crate with
  | none => (({ s with ledger := { s.ledger with moves := s.ledger.moves.filter fun x => !x.same m } } : State).undoMove m).moveFailed m.order
  | some (a, e) =>
    if m.isExport then s.startExport m e
    else if eMove e then s
    else if !movable e m.dst.tier m.dst.addr then s.skipMove m
    else
      let go := fun (t : State) (dst : Store) =>
        ((t.putTab a (setBit e 6 true)).dropCrate m.crate).turnMove
          { m with src := eStore e, dst := dst, fence := s.inFlightWrites, engine := s.engineOf m.crate } .moving
      let wait := if m.evict then s.turnEvict m else s
      if m.dst.tier = 6 then
        match s.exchange m.crate with
        | some x =>
          if x.phase = 1 then go s ⟨6, x.addr, x.peer⟩
          else if x.phase = 6 then (let t := s.dropExchange m.crate; if m.evict then t.turnEvict m else t)
          else s
        | none => (s.askRoom m.crate).getD wait
      else match s.takeUnits m.dst.tier m.dst.addr (crateUnits m.crate.big) with
        | none => wait
        | some (t, u) => go t ⟨m.dst.tier, t.unitAddr m.dst.tier u, t.mod.id⟩

/-- Move starts one after another. -/
def State.commitMoveStarts (s : State) : List Move → State
  | [] => s
  | m :: r => (s.commitMoveStart m).commitMoveStarts r

/-- The sweep of A bits (R267, LDG_POLICY.SWEEP). -/
def State.sweepA (s : State) : List Crate → State
  | [] => s
  | c :: r =>
    (match s.leafOf c with
    | some (a, e) => if eA e then (s.putTab a (setBit e 7 false)).dropCrate c else s
    | none => s).sweepA r

/-- Upper-level entries that lie in some table blocks leave every die's cache (R261). -/
def State.dropUpper (s : State) (blocks : List Nat) : State :=
  { s with ledger := { s.ledger with upper := tmap s.ledger.upper fun _ l => l.filter fun a => !blocks.contains (a / 4096 * 4096) } }

/-- Table units given back: their words are cleared and no cache holds one (R254, R272). -/
def State.giveTables (s : State) : List (Nat × Nat × Nat) → State
  | [] => s
  | (_, u, _) :: r => (((s.dropUpper (s.tabBlocks u)).clearUnit u).giveUnits ⟨3, s.hbmUnitAddr u, s.mod.id⟩).giveTables r

/-- Tables of contexts that have ended go back to the HBM free list (R254, R272). -/
def State.releaseTables (s : State) (c : Nat) : State :=
  let t := s.giveTables (s.ledger.tabUnits.filter fun x => x.1 = c)
  { t with ledger := { t.ledger with tabUnits := t.ledger.tabUnits.filter fun x => x.1 ≠ c } }

/-- Step 4 of a bell decided in cy `d`: frees, policy changes and shares, move ends, move starts, the sweep (R267). What was asked for, or
became copied or failed, in `d` or later belongs to the next bell (00_scope.md R18). -/
def State.pageCommit (s : State) (d : Nat) : State :=
  let l := s.ledger
  let due := fun (n : Nat) => decide (n < d)
  let frees := sortCrates ((l.pendFree.filter fun p => due p.2).map (·.1))
  let pols := sortBy PolChange.crate (l.pendPol.filter fun p => due p.asked)
  let shares := sortBy (fun (q : ShareReq) => Crate.mk q.toCtx q.toVa q.crate.big) (l.pendShare.filter fun q => due q.asked)
  let s0 := { s with ledger := { l with
    pendFree := l.pendFree.filter fun p => !due p.2
    pendPol := l.pendPol.filter fun p => !due p.asked
    pendShare := l.pendShare.filter fun q => !due q.asked
    denied := [] } }
  let s1 := s0.commitFrees frees
  let s2 := (s1.commitPols pols).commitShares shares
  let ends := s2.ledger.moves.filter fun m => due m.since && (m.phase = .copied || m.phase = .failed || m.phase = .handover || m.phase = .imported)
  let s3 := s2.commitMoveEnds (sortBy Move.crate ends)
  let starts := s2.ledger.moves.filter fun m => due m.since && m.phase = .asked
  let s4 := s3.commitMoveStarts (sortBy Move.crate starts)
  let n := s4.ledger.sweepBells + 1
  if n ≥ bitsAt s4.ldgPolicy 24 8 then
    (({ s4 with ledger := { s4.ledger with sweepBells := 0 } } : State).sweepA (sortCrates s4.ledger.crates))
  else { s4 with ledger := { s4.ledger with sweepBells := n } }

/-- The exports of a context are given up where they stand; its crates take writes again (R284, R400). -/
def State.dropExports (s : State) : List Move → State
  | [] => s
  | m :: r =>
    (if m.isExport then
      let t := ({ s with ledger := { s.ledger with moves := s.ledger.moves.filter fun x => !x.same m } } : State).undoMove m
      (match m.phase, t.leafOf m.crate with
      | .asked, _ => t
      | _, some (_, e) => t.markMove false (t.mappings m.crate (eStore e))
      | _, none => t)
    else s).dropExports r

/-- Storage given up returns to its free list once every request translated to it before the commit has been answered (R268); for lent
storage ROOM_FREE goes to the lender (10_weago.md R348). -/
def execStorageDrain (index : Nat) (s : State) : Out :=
  match s.ledger.drains[index]? with
  | none => .next s
  | some d =>
    if s.reqs.any fun r => d.fence.contains r.seq then .next s
    else
      let s1 := { s with ledger := { s.ledger with drains := s.ledger.drains.eraseIdx index } }
      if d.store.tier = 6 then
        let t : State := { s1 with lostStores := s1.lostStores.filter (· ≠ d.store) }
        .next (t.freeRoom d.store.module ⟨0, 0, decide (d.units = 32)⟩ d.store.addr)
      else .next (s1.giveUnits d.store)

end Sys2Proof.Machine
end

