-- ==== Sys2Proof/Machine/Sets.lean ====
section
/-! DEFINITION. Gathers and reduction sets: their descriptors and what a fault of a set does (09_training.md R299 to R312): shared
operations. -/
namespace Sys2Proof.Machine

/-! ## Reduction set descriptor (Table TRN.6) -/

/-- GRAD. -/
def RSet.grad (x : RSet) : Nat := fieldAt x.desc 0 7
/-- LENGTH. -/
def RSet.length (x : RSet) : Nat := fieldAt x.desc 16 8
/-- N. -/
def RSet.n (x : RSet) : Nat := fieldAt x.desc 24 2
/-- SELF. -/
def RSet.self (x : RSet) : Nat := fieldAt x.desc 26 2
/-- G. -/
def RSet.g (x : RSet) : Nat := fieldAt x.desc 28 2
/-- SCALEN. -/
def RSet.scalen (x : RSet) : Bool := bitAt (fieldAt x.desc 31 1) 0
/-- DONEEN. -/
def RSet.doneen (x : RSet) : Bool := bitAt (fieldAt x.desc 31 1) 1
/-- SCALE. -/
def RSet.scale (x : RSet) : Word32 := BitVec.ofNat 32 (fieldAt x.desc 32 4)
/-- DONE. -/
def RSet.done (x : RSet) : Nat := fieldAt x.desc 48 8
/-- LK of R307. -/
def RSet.lk (x : RSet) : Nat := x.length / 1024
/-- BK of R307. -/
def RSet.bk (x : RSet) : Nat := (if fieldAt x.desc 30 1 = 0 then 4 else fieldAt x.desc 30 1) * 1024
/-- Buckets of one step. -/
def RSet.nbuckets (x : RSet) : Nat := max 1 (ceilDiv x.lk x.bk)
/-- Fill count at which bucket `j`, counted over all steps, starts (R307). -/
def RSet.threshold (x : RSet) (j : Nat) : Nat :=
  j / x.nbuckets * x.lk + min ((j % x.nbuckets + 1) * x.bk) x.lk
/-- Lines of bucket `i` of a step (R307). -/
def RSet.bucketLines (x : RSet) (i : Nat) : Nat := (min ((i + 1) * x.bk) x.lk - i * x.bk) * 16

/-- The set with this SETID. -/
def State.findSet (s : State) (id : Nat) : Option RSet := s.sets.find? fun x => x.setid = id
/-- The state with a set replaced. -/
def State.setSet (s : State) (x : RSet) : State :=
  { s with sets := s.sets.map fun y => if y.setid = x.setid then x else y }

/-- A fault of a set at this member: its incident, an abort round both rings with the member where the fault arose and its cause, its
reducers stopped, its context faulted (R312). -/
def State.faultSet (s : State) (x : RSet) (code : Nat) (detail : List Nat) : State :=
  if x.faulted then s
  else
    let s1 := s.setSet { x with faulted := true }
    let s2 := s1.raise code 0xFF (some x.ctx) x.setid 0xFFFFFFFF detail
    let from_ := if code = 0x0806 then (x.setid, detail.getD 0 x.self, detail.getD 1 code) else (x.setid, x.self, code)
    ({ s2 with aborts := from_ :: s2.aborts } : State).reportFault x.ctx code (x.reducers.getD 0 0)

/-- Ring neighbours of a member, by index (R308): successor and predecessor in its group, and among the groups. -/
def RSet.neighbours (x : RSet) : List Nat :=
  if x.g = 0 then [(x.self + 1) % x.n, (x.self + x.n - 1) % x.n]
  else
    let base := x.self / x.g * x.g
    let q := x.self % x.g
    let h := x.n / x.g
    let grp := x.self / x.g
    [base + (q + 1) % x.g, base + (q + x.g - 1) % x.g, (grp + 1) % h * x.g + q, (grp + h - 1) % h * x.g + q]

/-- A set with a ring neighbour that the ordered class does not reach along its primary path is faulted (R312, 10_weago.md R337). -/
def State.loseMember (s : State) (x : RSet) : State :=
  match x.neighbours.find? fun i => i ≠ x.self && !s.pathUsable (x.members.getD i (0, 0)).1 0 false with
  | some i => s.faultSet x 0x0807 [i, (x.members.getD i (0, 0)).1]
  | none => s

/-- The sets whose neighbours are lost. -/
def State.loseMembers (s : State) : State := s.sets.foldl State.loseMember s

/-- Sets of a context faulted: a reset or kill, a session close, a warm clear (R312, 13_trust.md R432). The cause is 0x0806. -/
def State.faultSets (s : State) : List RSet → State
  | [] => s
  | x :: r => (s.faultSet x 0x0806 [x.self, 0x0806]).faultSets r

/-- The fill tally of a set has received amounts: a fill that reaches the start of a bucket of the next step while the same bucket
of this step is incomplete faults the set (R307). -/
def State.noteFill (s : State) (k amt : Nat) : State :=
  match s.sets.find? fun x => x.reducers.head? = some k && !x.faulted with
  | none => s
  | some x =>
    let y := { x with fill := x.fill + amt }
    let s1 := s.setSet y
    if y.fill ≥ y.threshold (y.nextDone + y.nbuckets) then
      s1.faultSet y 0x0803 [y.nextDone % y.nbuckets, y.nextDone / y.nbuckets, y.fill]
    else s1

/-! ## Gather descriptor (Table TRN.4) -/

/-- DST. -/
def Gather.dst (g : Gather) : Nat := fieldAt g.desc 0 7
/-- SLOT0. -/
def Gather.slot0 (g : Gather) : Nat := fieldAt g.desc 8 7
/-- SSTRIDE. -/
def Gather.sstride (g : Gather) : Nat := fieldAt g.desc 16 4
/-- NSLOT. -/
def Gather.nslot (g : Gather) : Nat := fieldAt g.desc 20 2
/-- SCALEN. -/
def Gather.scalen (g : Gather) : Bool := bitAt (fieldAt g.desc 22 1) 0
/-- DONEEN. -/
def Gather.doneen (g : Gather) : Bool := bitAt (fieldAt g.desc 22 1) 1
/-- LENGTH. -/
def Gather.length (g : Gather) : Nat := fieldAt g.desc 24 8
/-- SCALE. -/
def Gather.scale (g : Gather) : Word32 := BitVec.ofNat 32 (fieldAt g.desc 32 4)
/-- WAITVAL. -/
def Gather.waitval (g : Gather) : Nat := fieldAt g.desc 36 4
/-- WAIT. -/
def Gather.wait (g : Gather) : Nat := fieldAt g.desc 40 8
/-- DONE. -/
def Gather.done (g : Gather) : Nat := fieldAt g.desc 48 8
/-- The stalls of the gather rectangle in ascending ID. -/
def Gather.stalls (g : Gather) : List Nat :=
  let d := fieldAt g.desc 56 1 % 16
  let x0 := fieldAt g.desc 57 1
  let y0 := fieldAt g.desc 58 1
  let x1 := fieldAt g.desc 59 1
  let y1 := fieldAt g.desc 60 1
  (upFrom y0 (y1 + 1 - y0)).flatMap fun y => (upFrom x0 (x1 + 1 - x0)).map fun x => stallNum d x y

/-! ## Stalls that run a plan -/

/-- Whether a stall runs a firmware plan of a gather or of a reduction set (R301, R306). -/
def State.runsFirmware (s : State) (k : Nat) : Bool :=
  (s.gathers.any fun g => g.running && g.stalls.contains k) || (s.sets.any fun x => !x.faulted && x.reducers.contains k)

/-- Whether a stall runs a plan: one that a dispatch started and no BELL.WAIT with E = 1 has ended before the last bell (R70), or a
firmware plan. -/
def State.runsPlan (s : State) (k : Nat) : Bool :=
  (match (s.stall k).status with
  | .idle => false
  | .parked _ true cy => decide (s.bell.lastLatch ≤ cy)
  | _ => true) || s.runsFirmware k

/-- A DONE tally of a set or a gather is raised by 1: a signal by its global ID (R301, R311). -/
def State.raiseDone (s : State) (id : Nat) : State :=
  { s.tick with sigs := s.sigs ++ [⟨s.idSeq, bitsAt id 6 17, bitsAt id 0 6, bitsAt id 6 17, bitsAt id 42 6, 1, true⟩] }

end Sys2Proof.Machine
end

