-- ==== Sys2Proof/Machine/Crates.lean ====
section
/-! DEFINITION. Messages that reach this module: remote accesses, crate messages, NOROUTE, forwarding (10_weago.md R336 to R350). -/
namespace Sys2Proof

/-- Addresses of a message's lines. -/
def Msg.lineAddrs (m : Msg) : List Nat := (Machine.upFrom 0 m.lines).map fun i => m.addr + 64 * i

end Sys2Proof

namespace Sys2Proof.Machine

/-! ## Remote access (R340 to R342) -/

/-- A request of the module has ended: each line's request takes its answer, an error of a write that no porter waits for is kept for the
gather or set that made it, and held messages may go (R337, R340, 09_training.md R301, R311). -/
def State.endRemote (s : State) (r : Remote) (ans : Nat → Stage) : State :=
  let failed := match ans 0 with
    | .err c => if r.reqs.isEmpty then tput s.fab.failedWrites r.tag c else s.fab.failedWrites
    | _ => s.fab.failedWrites
  let s1 := { s with fab := { s.fab with remotes := s.fab.remotes.filter fun x => x.tag ≠ r.tag, failedWrites := failed } }
  let reqs := s1.reqs.map fun q => match q.stage with
    | .remote t => if t = r.tag then { q with stage := ans ((r.reqs.findIdx? fun n => n = q.seq).getD 0) } else q
    | _ => q
  ({ s1 with reqs := reqs } : State).flushHeld

/-- The request that a response answers. -/
def State.remoteOf (s : State) (m : Msg) : Option Remote := s.fab.remotes.find? fun r => r.tag = m.tag && r.dest = m.src

/-- An answer to a message (R331): PSEL 0, to its SRC, with its TAG. -/
def State.reply (s : State) (m : Msg) (ty lines addr : Nat) (data : List Line) : State :=
  s.sendMsg (mkMsg ty 1 lines 0 m.src s.mod.id m.ctx m.tag addr none data)

/-- Whether the line at a local address is lent to `src` and opened: it lies in a block of granted storage (R341, R348, R349,
08_ledger_dray.md R265). -/
def State.lent (s : State) (src a : Nat) : Bool :=
  s.fab.grants.any fun g => g.home = src && g.opened && (s.crateBlocks ⟨3, g.addr, s.mod.id⟩ g.big).contains (a / 4096 * 4096)

/-- What the lines of a remote request meet at this module, over a port of die `d` (R234, R242): the state, and whether one met an error
response. -/
def State.meetRemote (s : State) (d : Nat) (m : Msg) (met : List Met) : State × Bool :=
  let code := fun (a : Nat) => s.lineCode d (s.mod.id * 2 ^ 46 + a)
  match m.lineAddrs.find? fun a => code a ≠ 0 with
  | some a => (s.lineError d (engineId d) none (s.mod.id * 2 ^ 46 + a) (code a), true)
  | none =>
    let t := s.meetAll d (engineId d) none ((met.filter fun x => m.lineAddrs.contains x.addr).map fun x => ⟨s.mod.id * 2 ^ 46 + x.addr, x.err⟩)
    (t.1, t.2 ≠ 0)

/-- A remote read is served or answered ERR (R339, R341); `met` are the errors its lines meet. -/
def execWgoRd (port : Fin 16) (met : List Met) (s : State) : Out :=
  .next (s.onMsg port.val 0 (fun m => m.ty = 1) fun m t =>
    if !t.inHall m.src then t.reply m 5 0 3 []
    else if !(m.lineAddrs.all (t.lent m.src)) then t.reply m 5 0 1 []
    else
      let r := t.meetRemote port.val m met
      if r.2 then r.1.reply m 5 0 2 [] else r.1.reply m 3 m.lines m.addr (m.lineAddrs.map r.1.line))

/-- Lines of a message written. -/
def State.putLines (s : State) (a : Nat) : List Line → State
  | [] => s
  | l :: r => (s.putLine a l).putLines (a + 64) r

/-- A remote write is served and acknowledged, or answered ERR (R339, R341). -/
def execWgoWr (port : Fin 16) (met : List Met) (s : State) : Out :=
  .next (s.onMsg port.val 0 (fun m => m.ty = 2) fun m t =>
    if !t.inHall m.src then t.reply m 5 0 3 []
    else if !(m.lineAddrs.all (t.lent m.src)) then t.reply m 5 0 1 []
    else
      let r := t.meetRemote port.val m met
      if r.2 then r.1.reply m 5 0 2 [] else (r.1.putLines m.addr m.data).reply m 4 0 m.addr [])

/-- Read data is split into the answers of its lines (R340); a response to no request is dropped (R342). -/
def execWgoRdr (port : Fin 16) (s : State) : Out :=
  .next (s.onMsg port.val 1 (fun m => m.ty = 3) fun m t =>
    match t.remoteOf m with
    | some r => t.endRemote r fun i => .data (m.data.getD i 0#512)
    | none => t)

/-- A write acknowledgement acknowledges each line (R341). -/
def execWgoWra (port : Fin 16) (s : State) : Out :=
  .next (s.onMsg port.val 1 (fun m => m.ty = 4) fun m t =>
    match t.remoteOf m with
    | some r => t.endRemote r fun _ => .ack
    | none => t)

/-- Every crate of this module that lies at a lender: the storage that its leaf names. -/
def State.storesAt (s : State) (m : Nat) : List Store :=
  s.ledger.crates.filterMap fun c => match s.leafOf c with
    | some (_, e) => if eTier e = 6 && eModule e = m then some (eStore e) else none
    | none => none

/-- A lender no longer lends: the crates that lie there now are lost (R349). -/
def State.lenderLost (s : State) (m : Nat) : State :=
  { s with lostStores := s.lostStores ++ (s.storesAt m).filter fun x => !s.lostStores.contains x }

/-- Room for a crate is denied (R274, R275, R277): the denier is asked no more before the next page commit; a placement asks another
lender or is refused, an eviction turns to another tier or lender, and a HINT's move stays asked for. -/
def State.roomDenied (s : State) (c : Crate) (peer : Nat) : State :=
  let t0 := s.dropExchange c
  let t := { t0 with ledger := { t0.ledger with denied := if t0.ledger.denied.contains peer then t0.ledger.denied else peer :: t0.ledger.denied } }
  match t.leafOf c with
  | none => t
  | some (_, e) =>
    if eTier e = 0 then t.placeRemote c
    else match t.ledger.moves.find? fun m => m.crate = c && m.evict && m.phase = .asked with
    | some m => match t.lowerTier m.src.tier c.big with
      | some 6 => (t.askRoom c).getD t
      | _ => t.turnEvict m
    | none => t

/-- An ERR that answers a crate message: a fetch fails its move, with the lender's crates lost for cause 1, and a request for room counts
as denied (R348, R349). -/
def State.crateErr (s : State) (x : Sent) (cause : Nat) : State :=
  let c := x.msg.crate
  let t := if cause = 1 then s.lenderLost x.msg.dest else s
  if x.msg.crateOp = 1 then
    (match t.exchange c with
    | some y => if y.peer = x.msg.dest ∧ y.phase = 0 then t.roomDenied c y.peer else t
    | none => t)
  else if x.msg.crateOp = 8 then
    (match t.ledger.moves.find? fun y => y.crate = c && y.phase = .moving && y.src.tier = 6 with
    | some y => t.failMove y
    | none => t)
  else t.failCrate x.msg

/-- An ERR answers every line with an error; cause 1 tells that the lender no longer lends (R340, R349). One that answers a crate message
ends its exchange. -/
def execWgoErr (port : Fin 16) (s : State) : Out :=
  .next (s.onMsg port.val 1 (fun m => m.ty = 5) fun m t =>
    match t.remoteOf m with
    | some r => (if m.addr % 256 = 1 then t.lenderLost m.src else t).endRemote r fun _ => .err (m.addr % 256)
    | none => match t.sentOf m.tag with
      | some x => if x.msg.dest = m.src ∧ x.msg.ty = 9 then (t.forgetSent m.tag).crateErr x (m.addr % 256) else t
      | none => t)

/-- A remote request unanswered 2^20 cy after it left its port gets error responses (R342). -/
def execRemoteTimeout (tag : Nat) (s0 : State) : Out :=
  match s0.fab.remotes.find? fun r => r.tag = tag with
  | none => .next s0
  | some r => match r.sent with
    | none => .next s0
    | some c =>
      let s := s0.at (c + 2 ^ 20)
      let s1 := { s with fab := { s.fab with timeouts := satInc s.fab.timeouts } }
      .next ((s1.raiseMod 0x0909 [r.dest, r.addr]).endRemote r fun _ => .err 0x0909)

/-! ## Forwarding and NOROUTE (R336, R337) -/

/-- A message of this module has met no route to `dest` (R337): the path that the message named by `tag` took is unusable until the next
emitted bell. A request gets error responses, a signal or arrival is refused for its sender (06_tallies.md R197, R221), a crate message
fails its exchange. An ordered line has taken the primary path. -/
def State.noroute (s : State) (dest tag : Nat) : State :=
  let rem := s.fab.remotes.find? fun r => r.tag = tag && r.dest = dest
  let sent := (s.sentOf tag).filter fun x => x.msg.dest = dest
  let psel := match rem, sent with
    | some r, _ => r.psel
    | none, some x => x.msg.psel
    | none, none => 0
  let t := { s with fab := { s.fab with
    badPaths := if s.fab.badPaths.contains (dest, psel) then s.fab.badPaths else (dest, psel) :: s.fab.badPaths } }
  (match rem, sent with
    | some r, _ => t.endRemote r fun _ => .err 0x0907
    | none, some x => (t.forgetSent tag).undelivered x
    | none, none => t).loseMembers

/-- A NOROUTE has come: counted, and it acts as `State.noroute` says (R337). -/
def execNoroute (port : Fin 16) (s : State) : Out :=
  .next (s.onMsg port.val 1 (fun m => m.ty = 10) fun m t => t.countNoroute.noroute (m.addr % 2 ^ 18) m.tag)

/-- A message is handled as on a route through an absent port (R336, 13_trust.md R435): NOROUTE goes to its sender, or the sender's rule
acts where it is this module. -/
def State.bounce (s : State) (m : Msg) : State :=
  let t := if m.cls = 0 ∨ m.cls = 2 then
      (if m.src = s.mod.id then s.noroute m.dest m.tag
       else (s.countNoroute).sendMsg (mkMsg 10 1 0 0 m.src s.mod.id m.ctx m.tag m.dest none []))
    else s
  t.raiseMod 0x0907 [m.dest, m.psel, s.mod.id]

/-- A message for another module is queued for its route's port; with no route, or after 15 modules, it is dropped (R336). -/
def execForward (port : Fin 16) (cls : Fin 4) (s : State) : Out :=
  match s.headMsg port.val cls.val with
  | none => .next s
  | some m =>
    if m.dest = s.mod.id ∨ m.cls = 3 then .next s
    else
      let t := s.takeMsg port.val cls.val
      if m.hops = 15 then .next (t.raiseMod 0x0908 [m.dest, m.src])
      else
        let h := m.hop
        match t.egress h with
        | some p => .next (t.queueMsg p h)
        | none => .next (t.bounce m)

/-! ## Crate messages (R347 to R350) -/

/-- A CRATE message of one OP at the head of a port's REQ queue. -/
def State.onCrate (s : State) (p op : Nat) (f : Msg → State → State) : State :=
  s.onMsg p 0 (fun m => m.ty = 9 && m.crateOp = op) f

/-- A CRATE message of an OP that serves the hall alone; one from outside it is answered ERR with cause 3 (R339, Table WGO.8). -/
def State.onHallCrate (s : State) (p op : Nat) (f : Msg → State → State) : State :=
  s.onCrate p op fun m t => if t.inHall m.src then f m t else t.reply m 5 0 3 []

/-- A crate message sent back to the sender of `m`. -/
def State.crateReply (s : State) (m : Msg) (op arg : Nat) : State :=
  (s.sendReq (crateMsg op m.src s.mod.id m.ctx m.crate arg)).1

/-- Units lent so far. -/
def State.lentUnits (s : State) : Nat := sumNat (s.fab.grants.map fun g => crateUnits g.big)

/-- ROOM_REQ: room is granted within WGO_LEND and free HBM, or denied (R348). -/
def execRoomReq (port : Fin 16) (s : State) : Out :=
  .next (s.onHallCrate port.val 1 fun m t =>
    let c := m.crate
    if t.lentUnits + crateUnits c.big > t.liveReg 0 0x13024 then t.crateReply m 3 0
    else match t.takeUnits 3 0 (crateUnits c.big) with
      | none => t.crateReply m 3 0
      | some (u, i) =>
        let a := u.unitAddr 3 i
        ({ u with fab := { u.fab with grants := u.fab.grants ++ [⟨m.src, c.ctx, c.va, c.big, a, false⟩] } } : State).crateReply m 2 a)

/-- Granted storage that a first placement fills: zeros are sent as a sealed image whose version the crate's shadow takes once it is open
(R274, R258); where the counter seals no more, 0x0708 is recorded, the room goes back and the placement is refused (R281). -/
def State.placeGranted (s : State) (x : Exchange) : State :=
  let c := x.crate
  match s.nextSeal with
  | none => ((s.raise 0x0708 0xFF (some c.ctx) 0 0xFFFFFFFF [c.va, 0, 6]).endExchange c).exhausted c 6 0
  | some (u, v) =>
    let img := u.sealImage v u.mod.id c (zeros (crateBytes c.big))
    (u.setExchange { x with phase := 2, version := v }).sendReqs
      (imageMsgs 4 x.peer u.mod.id c.ctx c img ++ [crateMsg 5 x.peer u.mod.id c.ctx c 0])

/-- ROOM_GRANT: the home module has room; a crate that waits for its first placement is sent as sealed zeros (R274, R348). Room that nothing
waits for any more goes back. -/
def execRoomGrant (port : Fin 16) (s : State) : Out :=
  .next (s.onHallCrate port.val 2 fun m t =>
    match t.exchange m.crate with
    | none => t.freeRoom m.src m.crate m.arg
    | some x =>
      if x.peer ≠ m.src ∨ x.phase ≠ 0 then t.freeRoom m.src m.crate m.arg
      else
        let y := { x with phase := 1, addr := m.arg }
        let t1 := { t.setExchange y with lostStores := t.lostStores.filter (· ≠ (⟨6, m.arg, m.src⟩ : Store)) }
        match t1.leafOf m.crate with
        | some (_, e) => if eTier e = 0 then t1.placeGranted y else t1
        | none => t1.endExchange m.crate)

/-- ROOM_DENY: the lender has no room (R274, R275, R277). -/
def execRoomDeny (port : Fin 16) (s : State) : Out :=
  .next (s.onHallCrate port.val 3 fun m t =>
    match t.exchange m.crate with
    | none => t
    | some x => if x.peer ≠ m.src then t else t.roomDenied m.crate m.src)

/-- Lines of an image that arrive, kept by their place in the image (R347). -/
def State.takeImage (s : State) (m : Msg) : State :=
  let c := m.crate
  let mine := fun (b : Inbox) => b.src = m.src && b.ctx = c.ctx && b.va = c.va
  let b0 := (s.fab.inbox.find? mine).getD ⟨m.src, c.ctx, c.va, c.big, []⟩
  let lines := (zipW (fun i l => (m.addr / 64 + i, l)) (upFrom 0 m.data.length) m.data).foldl (fun t p => tput t p.1 p.2) b0.lines
  { s with fab := { s.fab with inbox := (s.fab.inbox.filter fun b => !mine b) ++ [{ b0 with lines := lines }] } }

/-- The image received for a crate: header and body, where every line has arrived; and the state without it. -/
def State.gotImage (s : State) (m : Msg) : State × Option (List Byte × List Byte) :=
  let c := m.crate
  let mine := fun (b : Inbox) => b.src = m.src && b.ctx = c.ctx && b.va = c.va
  let s1 := { s with fab := { s.fab with inbox := s.fab.inbox.filter fun b => !mine b } }
  match s.fab.inbox.find? mine with
  | none => (s1, none)
  | some b =>
    let n := crateBytes c.big / 64 + 1
    if (upFrom 0 n).all fun i => (tfind b.lines i).isSome then
      let all := (upFrom 0 n).flatMap fun i => bytesOfLine (tget b.lines 0#512 i)
      (s1, some (all.take 64, all.drop 64))
    else (s1, none)

/-- PUT: image lines arrive (R348, R350). -/
def execPut (port : Fin 16) (s : State) : Out := .next (s.onCrate port.val 4 fun m t => t.takeImage m)

/-- A copy of a crate whose storage an import has written anew is made again; one that a lender holds already fails (R284, log entry
45). -/
def State.recopy (s : State) (c : Crate) : State :=
  match s.ledger.moves.find? fun m => m.crate = c && (m.phase = .copied || m.phase = .moving && m.dst.tier = 6 && !m.isExport) with
  | none => s
  | some m => if m.dst.tier = 6 && !m.isExport then s.failMove m else s.turnMove m .moving

/-- Storage of an owner image of a crate: where the crate lies in stock, depot or HBM, else new HBM. A crate that is not accessible takes the
new storage at once; a public or remote one with the page commit (R266, R284, log entry 45). -/
def State.importInto (s : State) (c : Crate) (pol : Nat) (w : Bool) (order : Option Nat) (l : List Byte) : Option State :=
  let fresh := fun (t : State) (u : Nat) => (⟨3, t.unitAddr 3 u, t.mod.id⟩ : Store)
  match s.leafOf c with
  | some (_, e) =>
    if eTier e = 2 ∨ eTier e = 3 ∨ eTier e = 1 then some ((s.crateWrite (eStore e) c.big l).recopy c)
    else match s.takeUnits 3 0 (crateUnits c.big) with
      | none => none
      | some (t, u) =>
        let v := t.crateWrite (fresh t u) c.big l
        if eTier e = 5 ∨ eTier e = 6 then
          let x := v.cancelMove c
          some { x with ledger := { x.ledger with moves := x.ledger.moves ++
            [⟨c, .imported, eStore e, fresh t u, 0, false, order, [], 0, false, x.now⟩] } }
        else some (((v.putStore c (fresh t u)).giveUnits (eStore e)).endExchange c)
  | none =>
    match s.takeUnits 3 0 (crateUnits c.big) with
    | none => none
    | some (t, u) =>
      match t.mapCrate c (mkLeaf pol w false false false false ⟨0, 0, 0⟩) with
      | none => none
      | some t1 => some ((t1.crateWrite (fresh t u) c.big l).putStore c (fresh t u))

/-- An owner image imported into a crate (R283, R284): the state, and 0 or the refusal's code. -/
def State.importOwner (s : State) (c : Crate) (pol : Nat) (w : Bool) (order : Option Nat) (hdr body : List Byte) : State × Nat :=
  match s.openImage c c.ctx 0x3FFFF s.ledger.ownerFloor true hdr body with
  | .refuse code detail => (s.importRefused c 0xFF code detail, code)
  | .body v l =>
    match s.importInto c pol w order l with
    | none => (s.exhausted c 3 0, 0x0707)
    | some t => (({ t with ledger := { t.ledger with ownerFloor := v } } : State).metDemand c, 0)

/-- PUT_DONE: a lender opens the image in place without a version check; the destination of a campus copy imports it as an owner image
(R348, R350). -/
def execPutDone (port : Fin 16) (s : State) : Out :=
  .next (s.onCrate port.val 5 fun m t =>
    let c := m.crate
    let g := t.gotImage m
    let t1 := g.1
    match g.2 with
    | none => t1.crateReply m 7 0x0704
    | some (hdr, body) =>
      match t1.fab.grants.find? fun x => x.home = m.src && x.ctx = c.ctx && x.va = c.va && !x.opened with
      | some x =>
        (match t1.openImage c c.ctx m.src 0 false hdr body with
        | .refuse code detail =>
          ((({ t1 with ledger := { t1.ledger with importRefused := satInc t1.ledger.importRefused } } : State).raise code 0xFF none 0
            0xFFFFFFFF (c.va :: detail)).crateReply m 7 code)
        | .body _ l =>
          let t2 := t1.crateWrite ⟨3, x.addr, t1.mod.id⟩ c.big l
          ({ t2 with fab := { t2.fab with grants := t2.fab.grants.map fun y => if y = x then { y with opened := true } else y } } :
            State).crateReply m 6 0)
      | none =>
        if (t1.ctx c.ctx).state = .free || (t1.leafOf c).isNone && t1.overlaps c then t1.crateReply m 7 0x0704
        else
          let r := t1.importOwner c 2 true none hdr body
          r.1.crateReply m (if r.2 = 0 then 6 else 7) r.2)

/-- The exchange, of a move, a placement or a campus copy, in which a module has been sent an image of a crate. -/
def State.imageSent (s : State) (c : Crate) (peer : Nat) : Option Exchange :=
  s.fab.exchanges.find? fun x => x.crate = c && x.peer = peer && x.phase = 2

/-- The state without a campus copy's exchange of a crate. -/
def State.dropCopy (s : State) (x : Exchange) : State :=
  { s with fab := { s.fab with exchanges := s.fab.exchanges.filter fun y => y ≠ x } }

/-- A crate placed first at a lender: its leaf, and its shadow with the version of the image (R258, R266, R285). -/
def State.placedAt (s : State) (x : Exchange) : State :=
  let t := ((s.dropExchange x.crate).putStore x.crate ⟨6, x.addr, x.peer⟩).metDemand x.crate
  match t.leafOf x.crate with
  | some (a, _) => t.putTab (shadowAddr a x.crate.big) x.version
  | none => t

/-- OPENED: the image opened at the other end; a move is copied, a placement has its leaf, a campus copy is done (R285, R348, R350). -/
def execOpened (port : Fin 16) (s : State) : Out :=
  .next (s.onCrate port.val 6 fun m t =>
    match t.imageSent m.crate m.src with
    | none => t
    | some x =>
      match x.order with
      | some o =>
        let t1 := t.dropCopy x
        if t1.fab.exchanges.any fun y => y.order = some o then t1 else t1.complete o stDone 0 0 0
      | none =>
        match t.ledger.moves.find? fun y => y.crate = m.crate && !y.isExport && y.phase = .moving with
        | some y => (t.setExchange { x with phase := 3 }).turnMove y .copied
        | none => t.placedAt x)

/-- REFUSED: the image did not open at the other end (R348, R350). -/
def execRefused (port : Fin 16) (s : State) : Out :=
  .next (s.onCrate port.val 7 fun m t =>
    match t.imageSent m.crate m.src with
    | none => t
    | some x =>
      match x.order with
      | some o => (t.dropCopy x).complete o stFailed (m.arg % 65536) 0 0
      | none =>
        match t.ledger.moves.find? fun y => y.crate = m.crate && !y.isExport && y.phase = .moving with
        | some y => (t.dropExchange m.crate).failMove y
        | none => (t.endExchange m.crate).exhausted m.crate 6 0)

/-- FETCH: the lender seals the crate with the version granted and returns it (R285, R348). Storage that it does not lend is answered ERR
with cause 1, a line that meets an error response with cause 2 (R341). -/
def execFetch (port : Fin 16) (met : List Met) (s : State) : Out :=
  .next (s.onHallCrate port.val 8 fun m t =>
    let c := m.crate
    match t.fab.grants.find? fun x => x.home = m.src && x.ctx = c.ctx && x.va = c.va && x.opened with
    | none => t.reply m 5 0 1 []
    | some x =>
      let st : Store := ⟨3, x.addr, t.mod.id⟩
      let r := t.meetCrate port.val (engineId port.val) none st c.big met
      if r.2 ≠ 0 then r.1.reply m 5 0 2 []
      else
        let img := r.1.sealImage m.arg m.src c (r.1.crateRead st c.big)
        r.1.sendReqs (imageMsgs 9 m.src t.mod.id m.ctx c img ++ [crateMsg 10 m.src t.mod.id m.ctx c 0]))

/-- RETURN: image lines arrive at home (R348). -/
def execReturn (port : Fin 16) (s : State) : Out := .next (s.onHallCrate port.val 9 fun m t => t.takeImage m)

/-- RETURN_DONE: home imports the crate under R283 with the version that it granted; the move keeps its source, which the page commit
gives back to the lender (R276, R285, log entry 46). One that does not come from the crate's lender is dropped. -/
def execReturnDone (port : Fin 16) (s : State) : Out :=
  .next (s.onHallCrate port.val 10 fun m t =>
    let c := m.crate
    let g := t.gotImage m
    let t1 := g.1
    match t1.ledger.moves.find? fun y => y.crate = c && y.phase = .moving && y.src.tier = 6 && y.src.module = m.src with
    | none => t1
    | some y =>
      let bad := fun (code : Nat) (detail : List Nat) =>
        ((({ t1 with ledger := { t1.ledger with importRefused := satInc t1.ledger.importRefused } } : State).raise code 0xFF
          (some c.ctx) 0 0xFFFFFFFF (c.va :: detail)).failMove y)
      match g.2 with
      | none => bad 0x0704 [1]
      | some (hdr, body) =>
        match t1.openImage c c.ctx t1.mod.id y.version true hdr body with
        | .refuse code detail => bad code detail
        | .body _ l =>
          if y.isExport ∨ y.dst.tier = 4 then t1.sealCopy y l
          else (t1.crateWrite y.dst c.big l).turnMove y .copied)

/-- ROOM_FREE: the storage granted drains and goes back to the free list (R268, R348). -/
def execRoomFree (port : Fin 16) (s : State) : Out :=
  .next (s.onHallCrate port.val 11 fun m t =>
    match t.fab.grants.find? fun x => x.home = m.src && x.addr = m.arg with
    | none => t
    | some x =>
      ({ t with fab := { t.fab with grants := t.fab.grants.filter fun y => y ≠ x } } : State).drainStore ⟨3, x.addr, t.mod.id⟩ x.big)

end Sys2Proof.Machine
end

