-- ==== Sys2Proof/Machine/Wire.lean ====
section
/-! DEFINITION. The flit block on the line: CRC, header, cells, seal, scrambler, codewords and lanes (10_weago.md R317 to R321, R331,
15_check_unit_queues.md R473). -/
namespace Sys2Proof

/-! ## Header and cells -/

/-- The 80-bit header word (Table WGO.3). -/
def Block.head (b : Block) : Nat :=
  b.kind % 4 + b2n b.nak * 2 ^ 2 + b.seq % 2 ^ 24 * 2 ^ 4 + b.ack % 2 ^ 24 * 2 ^ 28 + b.credits.getD 0 0 % 128 * 2 ^ 52
    + b.credits.getD 1 0 % 128 * 2 ^ 59 + b.credits.getD 2 0 % 128 * 2 ^ 66 + b.credits.getD 3 0 % 128 * 2 ^ 73

/-- The block of a header word and its messages (Table WGO.3). -/
def Block.ofHead (n : Nat) (msgs : List Msg) : Block :=
  ⟨bitsAt n 0 2, bitAt n 2, bitsAt n 4 24, bitsAt n 28 24, [bitsAt n 52 7, bitsAt n 59 7, bitsAt n 66 7, bitsAt n 73 7], msgs⟩

/-- The cells of a message: header cell, extension cell, data lines (R331). -/
def Msg.bytes (m : Msg) : List Byte :=
  Machine.leBytes 16 m.hdr.toNat ++ (if m.hasExt then Machine.leBytes 16 m.ext.toNat else []) ++ m.data.flatMap Machine.bytesOfLine

/-- The 120 flits: the messages' cells one after another, empty cells behind them (R317, R324). -/
def Block.flits (b : Block) : List Byte := Machine.fitBytes 7680 (b.msgs.flatMap Msg.bytes)

/-- The message that begins with some cells. -/
def Msg.ofBytes (l : List Byte) : Msg :=
  let h : Msg := ⟨BitVec.ofNat 128 (Machine.leNat (l.take 16)), 0#128, []⟩
  let skip := if h.hasExt then 32 else 16
  ⟨h.hdr, if h.hasExt then BitVec.ofNat 128 (Machine.leNat ((l.drop 16).take 16)) else 0#128,
    (Machine.upFrom 0 h.dataLines).map fun i => Machine.lineOfBytes ((l.drop (skip + 64 * i)).take 64)⟩

/-- The messages of some cells; a cell of TYPE 0 is empty (R324, R331). -/
def msgsOf : Nat → List Byte → List Msg
  | 0, _ => []
  | n + 1, l =>
    if l.length < 16 then []
    else if bitsAt (Machine.leNat (l.take 16)) 0 4 = 0 then msgsOf n (l.drop 16)
    else Msg.ofBytes l :: msgsOf n (l.drop (16 * (Msg.ofBytes l).cells))

end Sys2Proof

namespace Sys2Proof.Machine

/-! ## The CRC engine (R473) -/

/-- The low `w` bits of a number in reverse order. -/
def reflect (w x : Nat) : Nat := sumNat ((upFrom 0 w).map fun i => if bitAt x i then 2 ^ (w - 1 - i) else 0)

/-- One bit step of the engine. -/
def crcShift (w poly st : Nat) : Nat :=
  let y := st * 2 % 2 ^ w
  if bitAt st (w - 1) then y ^^^ (poly % 2 ^ w) else y

/-- Several bit steps. -/
def crcShifts (w poly : Nat) : Nat → Nat → Nat
  | 0, st => st
  | n + 1, st => crcShifts w poly n (crcShift w poly st)

/-- feed(b) for a width of at least 8. -/
def crcFeed (w poly : Nat) (refin : Bool) (st b : Nat) : Nat :=
  crcShifts w poly 8 ((st % 2 ^ w) ^^^ ((if refin then reflect 8 b else b) <<< (w - 8)))

/-- Several bytes fed. -/
def crcFeeds (w poly : Nat) (refin : Bool) (st : Nat) (l : List Byte) : Nat := l.foldl (fun x b => crcFeed w poly refin x b.toNat) st

/-- The result. -/
def crcResult (w xorout : Nat) (refout : Bool) (st : Nat) : Nat :=
  (if refout then reflect w (st % 2 ^ w) else st % 2 ^ w) ^^^ (xorout % 2 ^ w)

/-- CRC-32C of bytes (Table CHK.1, 10_weago.md R320). -/
def crc32c (l : List Byte) : Nat := crcResult 32 0xFFFFFFFF true (crcFeeds 32 0x1EDC6F41 true 0xFFFFFFFF l)

/-! ## The seal (R321) -/

/-- The IV of a block: EPOCH and DIR, BCOUNT. -/
def blockIv (epoch dir bcount : Nat) : List Byte := leBytes 4 (epoch % 2 ^ 31 + dir % 2 * 2 ^ 31) ++ leBytes 8 bcount

/-- The link key of a port's epoch: all zeros in epoch 0, K_e in the others (13_trust.md R433, Table TRU.8). -/
def WPort.key (w : WPort) : List Byte := if w.epoch = 0 then List.replicate 32 0#8 else Config.shake 32 (w.lk ++ leBytes 4 w.epoch)

/-- A block as it is sealed (Table WGO.2): header in clear, flits encrypted, CRC over both, tag. -/
def sealBlock (key iv : List Byte) (b : Block) : List Byte :=
  let h := leBytes 10 b.head
  let x := gcmSeal key iv h b.flits
  h ++ x.1 ++ leBytes 4 (crc32c (h ++ x.1)) ++ x.2

/-- What a receiver finds a block slot to be (R322): bad, of a tag that fails, or a block. -/
inductive Received where
  | bad
  | forged
  | block (b : Block)

/-- A block slot's 7,710 bytes checked: FEC, CRC, KIND, then the tag (R322). -/
def openBlock (key iv : List Byte) (fec : Bool) (l : List Byte) : Received :=
  let h := leNat (l.take 10)
  if !fec || l.length ≠ 7710 || decide (leNat ((l.drop 7690).take 4) ≠ crc32c (l.take 7690)) || decide (bitsAt h 0 2 > 1) then .bad
  else match gcmOpen key iv (l.take 10) ((l.drop 10).take 7680) (l.drop 7694) with
    | none => .forged
    | some flits => .block (Block.ofHead h (if bitsAt h 0 2 = 0 then msgsOf 480 flits else []))

/-! ## The line (R319) -/

/-- The bits of bytes, bit 0 of byte 0 first. -/
def bitsOfBytes (l : List Byte) : List Bool := l.flatMap fun b => (upFrom 0 8).map fun i => bitAt b.toNat i

/-- The self-synchronising scrambler 1 + x^39 + x^58 (Table WGO.1): the bits sent, and the last 58 of them, the newest in bit 0. -/
def scramble : Nat → List Bool → List Bool × Nat
  | st, [] => ([], st)
  | st, b :: r =>
    let o := (b != bitAt st 38) != bitAt st 57
    let t := scramble ((st * 2 + b2n o) % 2 ^ 58) r
    (o :: t.1, t.2)

/-- `n` symbols of 10 bits. -/
def symbols : Nat → List Bool → List Nat
  | 0, _ => []
  | n + 1, l => packN 1 ((l.take 10).map b2n) :: symbols n (l.drop 10)

/-- The codeword of message `c` of a scrambled block: its 514 symbols and 30 of parity (R319). -/
def codeword (bits : List Bool) (c : Nat) : List Nat :=
  let m := symbols 514 (bits.drop (5140 * c))
  m ++ (upFrom 0 30).map fun i => (Config.rsParity m i).toNat

/-- The 6,528 symbols of a block in the order in which they go out: symbol s of codeword c in position 12 s + c (R319). -/
def lineSymbols (bits : List Bool) : List Nat :=
  let cw := (upFrom 0 12).map (codeword bits)
  (upFrom 0 6528).map fun k => (cw.getD (k % 12) []).getD (k / 12) 0

/-- The active lanes of a port, lowest first. -/
def lanesIn (mask : Nat) : List Nat := (upFrom 0 8).filter fun i => bitAt mask i

/-- What each active lane carries in a slot: position k goes out on lane k mod W of the active lanes (R319). -/
def laneSymbols (mask : Nat) (sym : List Nat) : Tbl (List Nat) :=
  let lanes := lanesIn mask
  let w := lanes.length
  zipW (fun i lane => (lane, (upFrom 0 (sym.length / w)).map fun n => sym.getD (n * w + i) 0)) (upFrom 0 w) lanes

end Sys2Proof.Machine
end

