-- ==== Sys2Proof/Machine/Flash.lean ====
section
/-! DEFINITION. The on-carrier flash: identity records, slot selectors (13_trust.md R420 to R422, Tables TRU.1, TRU.2). -/
namespace Sys2Proof.Machine

/-! ## Identity records (Table TRU.1) -/

/-- The identity record of a die. -/
def identityRecord (die : Nat) : List Byte :=
  ascii "TBID" ++ leBytes 1 die ++ leBytes 1 1 ++ leBytes 2 0 ++ leBytes 8 Config.serial ++ fitBytes 1024 (Config.helper die)
    ++ fitBytes 1793 (Config.pubKey die) ++ leBytes 15 0 ++ fitBytes 1280 (Config.vendorSig die) ++ leBytes 4064 0

/-- PUBKEY of a die's identity record. -/
def pubKeyOf (die : Nat) : List Byte := fitBytes 1793 (Config.pubKey die)

/-- MOD_SERIAL: SERIAL of the identity records, 64 bits (Table TRU.12). -/
def serial : Nat := Config.serial % 2 ^ 64

/-! ## Slot selectors (R422) -/

/-- A slot selector: SEQ, SLOT, CRC-32C. -/
def selectorBytes (seq slot : Nat) : List Byte :=
  let l := leBytes 4 seq ++ leBytes 1 slot ++ leBytes 7 0
  l ++ leBytes 4 (crc32c l)

/-- SEQ and SLOT of a copy, none where it is not valid. -/
def selectorOf (l : List Byte) : Option (Nat × Nat) :=
  if l.length = 16 ∧ fieldAt l 12 4 = crc32c (l.take 12) ∧ fieldAt l 4 1 ≤ 1 ∧ fieldAt l 5 7 = 0 then some (fieldAt l 0 4, fieldAt l 4 1)
  else none

/-- The slot that the selector names: that of the valid copy with the higher SEQ, A where neither copy is valid. -/
def flashSelected (f : Flash) : Nat :=
  match selectorOf f.sel0, selectorOf f.sel1 with
  | some a, some b => if b.1 > a.1 then b.2 else a.2
  | some a, none => a.2
  | none, some b => b.2
  | none, none => 0

/-- The image in a slot. -/
def flashImage (f : Flash) (slot : Nat) : FwImage := if slot = 1 then f.slotB else f.slotA

/-- The selector names a slot: the copy with the lower SEQ is rewritten with SEQ one higher (R422, R441). -/
def selectSlot (f : Flash) (slot : Nat) : Flash :=
  let a := selectorOf f.sel0
  let b := selectorOf f.sel1
  let seq := fun (c : Option (Nat × Nat)) => (c.map (·.1)).getD 0
  let new := selectorBytes ((max (seq a) (seq b) + 1) % 2 ^ 32) slot
  if a.isNone || (b.isSome && decide (seq a ≤ seq b)) then { f with sel0 := new } else { f with sel1 := new }

/-! ## The ageing log's digest (14_power_ageing_resets.md R462) -/

/-- LOG_DIGEST: the baseline, then the records in ascending RSEQ. -/
def logDigest (l : AgeingLog) : List Byte := Config.shake 32 (l.base ++ l.recs.reverse.flatten)

end Sys2Proof.Machine
end

