-- ==== Sys2Proof/Machine/Link.lean ====
section
/-! DEFINITION. The Weago link layer: flit blocks, re-send, credit, training, keying, width changes (10_weago.md R315 to R330,
13_trust.md R433 to R435). -/
namespace Sys2Proof.Machine

/-! ## Helpers -/

/-- RESEND_MAX. -/
def State.resendMax (s : State) : Nat := bitsAt (s.liveReg 0x410 0x13020) 0 5
/-- AUTH_MAX. -/
def State.authMax (s : State) : Nat := bitsAt (s.liveReg 0x410 0x13020) 8 8

/-- Whether a port may train (R326, R327). -/
def State.portEnabled (s : State) (p : Nat) : Bool :=
  s.mod.configValid && bitAt (s.liveReg 0 0x13018) p && !s.deadDies.contains p && !(s.wport p).barred

/-- Widest group of good lanes, the lower one on a tie (R315, R327): its lanes bit by bit, 0 where no pair is good. -/
def groupOf (lanes : Nat) : Nat :=
  if lanes = 255 then 255
  else if lanes % 16 = 15 then 15
  else if lanes / 16 = 15 then 240
  else match (upFrom 0 4).find? fun i => bitsAt lanes (2 * i) 2 = 3 with
    | some i => 3 * 4 ^ i
    | none => 0

/-- Its width, 0 where no pair is good. -/
def widthOf (lanes : Nat) : Nat := (lanesIn (groupOf lanes)).length

/-- Whether a port's slots carry blocks: from training step 3 on. -/
def WPort.live (w : WPort) : Bool := w.state = 2 || w.state = 3 || (w.state = 1 && decide (w.step ≥ 3))

/-- A LINK message (Table WGO.7) with its extension cell. -/
def State.linkMsg (s : State) (p ext : Nat) : Msg := mkMsg 12 3 0 0 (s.wport p).peerId s.mod.id 0 0 0 (some ext) []

/-- Messages of the SYS class queued at a port. -/
def State.queueMsgs (s : State) (p : Nat) : List Msg → State
  | [] => s
  | m :: r => (s.queueMsg p m).queueMsgs p r

/-- Twelve-byte pieces of an item. -/
def pieces : Nat → List Byte → List (List Byte)
  | 0, _ => []
  | n + 1, l => l.take 12 :: pieces n (l.drop 12)

/-- KEY messages that carry an item (13_trust.md R433). -/
def State.sendItem (s : State) (p item : Nat) (l : List Byte) : State :=
  let n := ceilDiv l.length 12
  let ps := pieces n l
  s.queueMsgs p (zipW (fun i x => s.linkMsg p (3 + item * 16 + i * 256 + n * 2 ^ 20 + leNat x * 2 ^ 32)) (upFrom 0 n) ps)

/-- Whether this end has the lower module ID, or the lower port number where the IDs are equal (R321). -/
def State.lower (s : State) (p : Nat) : Bool :=
  let w := s.wport p
  decide (s.mod.id < w.peerId) || (s.mod.id = w.peerId && decide (p < w.peerPort))

/-- The owner check of one direction of a port: DIR 0 is sent by the lower end (13_trust.md Table TRU.8, R435). -/
def State.ocBytes (s : State) (p dir : Nat) : List Byte :=
  let w := s.wport p
  let a := min s.mod.id w.peerId
  let b := max s.mod.id w.peerId
  Config.shake 12 (s.trust.crateKey ++ ascii "TB80 owner" ++ leBytes 3 a ++ leBytes 3 b ++ leBytes 4 w.epoch ++ leBytes 1 dir)

/-- This end's OC goes out while a session is open (13_trust.md R435). -/
def State.sendOc (s : State) (p : Nat) : State :=
  if s.mod.session then s.sendItem p 5 (s.ocBytes p (if s.lower p then 0 else 1)) else s

/-! ## Training and DOWN (R326 to R330) -/

/-- A port that begins training; `fresh` where it comes from OFF, DOWN or a port reset (R324). A full retraining keeps SEQ, expect and
the replay buffer (R329). -/
def WPort.train (w : WPort) (now : Nat) (fresh : Bool) : WPort :=
  { w with
    state := 1, step := 1, since := now, fresh := fresh, epoch := 0, btx := 0, brx := 0, keyed := false, owned := false
    prior := !fresh && (w.owned || w.prior), certSeen := false, ekSeen := false, items := [], lk := [], switch := none, authSlots := []
    fixes := [], worn := 0, kept := if fresh then none else some (w.kept.getD ⟨w.base, w.top, w.rewinds, w.replay, w.expect⟩) }

/-- A full retraining begins: SEQ, expect, replay and queues survive (R329). Causes: 1 re-send limit, 2 authentication limit, 3 no
pair left, 4 request (log entry 50). -/
def State.retrain (s : State) (p cause : Nat) : State :=
  let w := s.wport p
  (s.setWport p { w.train s.now false with retrains := satInc w.retrains }).raise 0x0902 p none 0 0xFFFFFFFF [p, cause]

/-- Messages that a port holds: replay, transmit queues, receive queues (R330). -/
def WPort.holds (w : WPort) : Nat :=
  sumNat (w.replay.map fun b => b.msgs.length) + sumNat ((w.kept.map (·.replay)).getD [] |>.map fun b => b.msgs.length) + sumNat (w.tx.map fun q => q.2.length) + sumNat (w.rx.map fun q => q.2.length)

/-- The port with its link state discarded, its counters and what it knows of its peer kept (R330). -/
def WPort.discard (w : WPort) (state now : Nat) : WPort :=
  { WPort.off with
    state := state, since := now, peerPort := w.peerPort, peerHall := w.peerHall, peerId := w.peerId, flight := w.flight,
    long := w.long, resends := w.resends, badBlocks := w.badBlocks, authErr := w.authErr, retrains := w.retrains,
    barred := w.barred, sent := w.sent, slots := w.slots, rslots := w.rslots, scram := w.scram }

/-- A port DOWN, its link state discarded (R326, R330). -/
def State.dropPort (s : State) (p : Nat) : State := s.setWport p ((s.wport p).discard 4 s.now)

/-- A port enters DOWN with 0x0903 (R326, R327, R330); `cause`: 1 training time-out, 2 port reset, 3 training failed (log entry 50). -/
def State.portDown (s : State) (p cause : Nat) : State :=
  ((s.dropPort p).raise 0x0903 p none 0 0xFFFFFFFF [p, cause, (s.wport p).holds]).loseMembers

/-- A failed check of the link keys takes the port DOWN (13_trust.md R433). -/
def State.keyFail (s : State) (p item : Nat) : State := ((s.dropPort p).raise 0x0C0B p none 0 0xFFFFFFFF [p, item]).loseMembers

/-- A port goes OFF: no valid configuration, not enabled, or its die fenced (R326). -/
def State.portOff (s : State) (p : Nat) : State := (s.setWport p ((s.wport p).discard 0 s.now)).loseMembers

/-- A port reset (R330): no effect on an OFF port; an enabled port trains again at once. -/
def State.portReset (s : State) (p : Nat) : State :=
  let w := s.wport p
  if w.state = 0 then s
  else
    let d := w.discard 0 s.now
    let next := if s.portEnabled p then d.train s.now true else if w.barred then { d with state := 4 } else d
    ((s.setWport p next).raise 0x0903 p none 0 0xFFFFFFFF [p, 2, w.holds]).loseMembers

/-- HELLO extension cell (R326 step 3; its layout: log entry 51). -/
def State.helloCell (s : State) (p : Nat) : Nat :=
  1 + s.mod.id % 2 ^ 18 * 2 ^ 4 + s.hallBase % 2 ^ 18 * 2 ^ 22 + s.hallSize % 2 ^ 14 * 2 ^ 40 + p % 16 * 2 ^ 54
    + (s.wport p).lanesOk % 256 * 2 ^ 58

/-- The port at the start of training step 3, its credit as the start of R324 says where it is fresh. The blocks of epoch 0 are numbered
from 0; a full retraining keeps the numbers of the epoch before beside them (R329, log entry 52). -/
def WPort.step3 (w : WPort) (flight : Nat) : WPort :=
  let a := { w with
    step := 3, flight := flight, long := decide (flight > 300), replay := [], base := 0, top := 0, next := 0, expect := 0
    rewind := none, rewinds := [], nak := false }
  if w.fresh then
    { a with credit := [(0, 8192), (1, 8192), (2, 8192), (3, 256)], ret := [], rx := [], fresh := false }
  else a

/-- The port with the numbers and the replay buffer that a full retraining has kept: delivery resumes with the oldest unacknowledged block
(R329). -/
def WPort.resume (w : WPort) : WPort :=
  match w.kept with
  | some k => { w with
      base := k.base, top := k.top, next := k.base, rewinds := k.rewinds, replay := k.replay, expect := k.expect, rewind := none
      nak := false, kept := none }
  | none => { w with next := w.base, rewind := none }

/-- The port UP in epoch 1 (R326 step 5, R329). -/
def State.portUp (s : State) (p : Nat) : State :=
  let w := (s.wport p).resume
  (s.setWport p { w with state := 2, step := 0, epoch := 1, btx := 0, brx := 0, lastMove := s.now, owned := false }).sendOc p

/-- The next training step of a port ends, or an enabled port begins to train (R326): the lanes that step 1 finds good, the flight
that step 2 measures. -/
def execPortTraining (port : Fin 16) (lanes : BitVec 8) (flight : Nat) (s : State) : Out :=
  let p := port.val
  let w := s.wport p
  if w.state = 0 then
    .next (if s.portEnabled p then s.setWport p (w.train s.now true) else s)
  else if w.state ≠ 1 then .next s
  else if w.step = 1 then
    if widthOf lanes.toNat = 0 then .next (s.portDown p 3)
    else .next (s.setWport p { w with lanesOk := lanes.toNat, step := 2 })
  else if w.step = 2 then
    let t := s.setWport p (w.step3 flight)
    let c := t.helloCell p
    .next ((t.setWport p { t.wport p with hello := c }).queueMsg p (t.linkMsg p c))
  else if w.step = 4 ∧ w.keyed ∧ (tget w.tx [] 3).all (fun m => m.ty ≠ 12) then .next (s.portUp p)
  else .next s

/-- A port not UP 2^29 cy after its training began enters DOWN (R326). -/
def execTrainingTimeout (port : Fin 16) (s0 : State) : Out :=
  let w := s0.wport port.val
  if w.state = 1 then .next ((s0.at (w.since + 2 ^ 29)).portDown port.val 1) else .next s0

/-- A DOWN port trains again 2^28 cy later (R326), but not one that R327 bars. -/
def execDownRetry (port : Fin 16) (s0 : State) : Out :=
  let w := s0.wport port.val
  if w.state = 4 ∧ s0.portEnabled port.val then
    let s := s0.at (w.since + 2 ^ 28)
    .next (s.setWport port.val (w.train s.now true))
  else .next s0

/-- RETRAIN of an UP or NARROWING port (R328). -/
def State.askRetrain (s : State) (p : Nat) : State :=
  let w := s.wport p
  if w.state = 2 ∨ w.state = 3 then s.retrain p 4 else s

/-- A write of RETRAIN. -/
def execRetrain (port : Fin 16) (s : State) : Out := .next (s.askRetrain port.val)

/-- A write of RESET (R330). -/
def execPortReset (port : Fin 16) (s : State) : Out := .next (s.portReset port.val)

/-! ## LINK messages (Table WGO.5 steps 3 and 4) -/

/-- A LINK message of one subtype at the head of a port's SYS queue. -/
def State.onLink (s : State) (p sub : Nat) (f : Msg → State → State) : State :=
  s.onMsg p 3 (fun m => m.ty = 12 && m.ext.toNat % 16 = sub) f

/-- A KEY message of one item at the head of a port's SYS queue. -/
def State.onKey (s : State) (p item : Nat) (f : Msg → State → State) : State :=
  s.onMsg p 3 (fun m => m.ty = 12 && m.ext.toNat % 16 = 3 && bitsAt m.ext.toNat 4 4 = item) f

/-- T1: both HELLO cells and EK_link (13_trust.md Table TRU.8). -/
def State.linkT1 (s : State) (p : Nat) (ek : List Byte) : List Byte :=
  let w := s.wport p
  let mine := leBytes 16 w.hello
  let peer := leBytes 16 w.peerHello
  Config.shake 64 ((if s.lower p then mine ++ peer else peer ++ mine) ++ ek)

/-- The CERT item: the lead die's identity record, bytes 0 to 15 and 1,040 to 4,127 (13_trust.md R433). -/
def State.certItem (s : State) : List Byte :=
  let r := identityRecord s.bell.lead
  r.take 16 ++ (r.drop 1040).take 3088

/-- A random value was needed and the health test of its source failed (13_trust.md R417); operations: 1 attestation, 2 link keys. -/
def State.entropyFail (s : State) (op : Nat) : State := s.raise 0x0C04 s.bell.lead none 0 0xFFFFFFFF [s.bell.lead, op]

/-- Step 4 begins: CERT goes out, and from the lower end EK_link with its signature over T1 (13_trust.md R433). -/
def State.startKeys (s : State) (p : Nat) (entropy : Bool) : State :=
  let s1 := s.sendItem p 1 s.certItem
  if !s.lower p then s1
  else if !entropy then (s1.entropyFail 2).portDown p 3
  else
    let k := Config.kemGen s1.freeCtr
    let t1 := s1.linkT1 p k.1
    let sig := Config.falconSign s1.bell.lead (s1.freeCtr + 1) t1
    let w := s1.wport p
    ((s1.setWport p { w with kem := k, ek := k.1 }).useFree 2).sendItem p 2 (k.1 ++ sig)

/-- HELLO (R327): the lanes are chosen, and the key agreement begins; the module's own ID bars the port. -/
def execHello (port : Fin 16) (entropy : Bool) (s : State) : Out :=
  let p := port.val
  .next (s.onLink p 1 fun m t =>
    let w := t.wport p
    if w.state ≠ 1 ∨ w.step ≠ 3 then t
    else
      let x := m.ext.toNat
      let id := bitsAt x 4 18
      let good := Nat.land w.lanesOk (bitsAt x 58 8)
      if id = t.mod.id then
        let d := t.dropPort p
        ((d.setWport p { d.wport p with barred := true, peerId := id }).raise 0x0906 p none 0 0xFFFFFFFF [p, id]).loseMembers
      else if widthOf good = 0 then t.portDown p 3
      else
        (t.setWport p { w with
          peerId := id, peerPort := bitsAt x 54 4, peerHall := t.inHall id, peerHello := x, lanesOk := good, active := groupOf good, width := widthOf good
          step := 4 }).startKeys p entropy)

/-- A fragment joins its item; the item is whole with its last fragment (13_trust.md R433). -/
def WPort.takeItem (w : WPort) (m : Msg) : WPort × Option (List Byte) :=
  let x := m.ext.toNat
  let item := bitsAt x 4 4
  let l := (if bitsAt x 8 12 = 0 then [] else tget w.items [] item) ++ leBytes 12 (bitsAt x 32 96)
  ({ w with items := tput w.items item l }, if bitsAt x 8 12 + 1 = bitsAt x 20 12 then some l else none)

/-- CERT: the peer's identity record, whose VSIG must verify under the vendor identity key (13_trust.md R433). -/
def execCert (port : Fin 16) (s : State) : Out :=
  let p := port.val
  .next (s.onKey p 1 fun m t =>
    let w := t.wport p
    if w.state ≠ 1 ∨ w.step ≠ 4 then t
    else match w.takeItem m with
    | (w1, none) => t.setWport p w1
    | (w1, some l) =>
      if Config.falconOk Config.vendorKey (l.take 1824) ((l.drop 1824).take 1280) then
        t.setWport p { w1 with certSeen := true, peerPub := (l.drop 16).take 1793 }
      else t.keyFail p 1)

/-- LK from the secret and T2 (13_trust.md Table TRU.8). -/
def linkKey (secret t2 : List Byte) : List Byte := Config.shake 64 (secret ++ t2 ++ ascii "TB80 link")

/-- EK_link at the upper end: the signature over T1 is checked, and CT_link with a signature over T2 goes back (13_trust.md R433). -/
def execEkLink (port : Fin 16) (entropy : Bool) (s : State) : Out :=
  let p := port.val
  .next (s.onKey p 2 fun m t =>
    let w := t.wport p
    if w.state ≠ 1 ∨ w.step ≠ 4 ∨ t.lower p then t
    else match w.takeItem m with
    | (w1, none) => t.setWport p w1
    | (w1, some l) =>
      let ek := l.take 1568
      let t1 := t.linkT1 p ek
      if !w.certSeen || !Config.falconOk w.peerPub t1 ((l.drop 1568).take 1280) then t.keyFail p 2
      else if !entropy then (t.entropyFail 2).portDown p 3
      else
        let c := Config.kemEncap t.freeCtr ek
        let t2 := Config.shake 64 (t1 ++ c.1)
        let sig := Config.falconSign t.bell.lead (t.freeCtr + 1) t2
        ((t.setWport p { w1 with ekSeen := true, ek := ek, keyed := true, lk := linkKey c.2 t2 }).useFree 2).sendItem p 3 (c.1 ++ sig))

/-- CT_link at the lower end: the signature over T2 is checked, and LK is derived (13_trust.md R433). -/
def execCtLink (port : Fin 16) (s : State) : Out :=
  let p := port.val
  .next (s.onKey p 3 fun m t =>
    let w := t.wport p
    if w.state ≠ 1 ∨ w.step ≠ 4 ∨ !t.lower p then t
    else match w.takeItem m with
    | (w1, none) => t.setWport p w1
    | (w1, some l) =>
      let ct := l.take 1568
      let t2 := Config.shake 64 (t.linkT1 p w.ek ++ ct)
      if !w.certSeen || !Config.falconOk w.peerPub t2 ((l.drop 1568).take 1280) then t.keyFail p 3
      else t.setWport p { w1 with keyed := true, lk := linkKey (Config.kemDecap w.kem.2 ct) t2 })

/-- Messages bounced one after another. -/
def State.bounceAll (s : State) : List Msg → State
  | [] => s
  | m :: r => (s.bounce m).bounceAll r

/-- A port is not owned: the messages that wait at it and that it may not carry find no route (13_trust.md R435). -/
def State.disown (s : State) (p : Nat) : State :=
  let w := s.wport p
  let stays := fun (m : Msg) => s.ownerless m
  (s.setWport p { w with owned := false, prior := false, tx := tmap w.tx fun _ q => q.filter stays }).bounceAll
    ((w.tx.flatMap (·.2)).filter fun m => !stays m)

/-- Every port of a list disowned. -/
def State.disownAll (s : State) : List Nat → State
  | [] => s
  | p :: r => (s.disown p).disownAll r

/-- OC: the port is owned for the epoch where the owner check is the one its peer's direction requires; where it fails, what waits at the
port is handled as on a route through an absent port (13_trust.md R435). -/
def execOc (port : Fin 16) (s : State) : Out :=
  let p := port.val
  .next (s.onKey p 5 fun m t =>
    let w := t.wport p
    if !t.mod.session ∨ w.state = 1 then t
    else if leBytes 12 (bitsAt m.ext.toNat 32 96) = t.ocBytes p (if t.lower p then 1 else 0) then
      t.setWport p { w with owned := true, prior := false }
    else ((t.disown p).raise 0x0C0C p none 0 0xFFFFFFFF [p, w.epoch]).loseMembers)

/-! ## Lane loss and width changes (R328) -/

/-- The lanes that a port goes on with: those that stay after the switch it awaits, else its good ones. -/
def WPort.going (w : WPort) : Nat := match w.switch with
  | some x => x.2
  | none => w.lanesOk

/-- Lanes of a port are lost, those whose symbols were corrected too often among them: a switch slot is named to the peer, or the port
retrains where no pair is left (R328). -/
def execLaneLost (port : Fin 16) (lanes : BitVec 8) (ahead : Nat) (s : State) : Out :=
  let p := port.val
  let w := s.wport p
  let lost := Nat.lor lanes.toNat w.worn
  if (w.state ≠ 2 ∧ w.state ≠ 3) ∨ lost = 0 then .next s
  else
    let good := Nat.land w.going (255 - lost)
    if widthOf good = 0 then .next (s.retrain p 3)
    else
      let slot := w.btx + max 32 ahead
      let t := (s.setWport p { w with state := 3, switch := some (slot, good), worn := 0, fixes := [] }).queueMsg p
        (s.linkMsg p (2 + lost * 16 + slot % 2 ^ 48 * 2 ^ 16))
      .next (t.raise 0x0901 p none 0 0xFFFFFFFF [p, lost, widthOf good])

/-- LANES: the peer has lost lanes and names the switch slot (R328; layout: log entry 51). -/
def execLanes (port : Fin 16) (s : State) : Out :=
  let p := port.val
  .next (s.onLink p 2 fun m t =>
    let w := t.wport p
    if w.state ≠ 2 ∧ w.state ≠ 3 then t
    else
      let good := Nat.land w.going (255 - bitsAt m.ext.toNat 4 8)
      if widthOf good = 0 then t.retrain p 3
      else t.setWport p { w with state := 3, switch := some (bitsAt m.ext.toNat 16 48, good) })

/-- The switch slot: new width, new epoch, whose owner check is still to come (R321, R328, 13_trust.md R435). -/
def execWidthSwitch (port : Fin 16) (s : State) : Out :=
  let p := port.val
  let w := s.wport p
  match w.switch with
  | some (slot, good) =>
    if w.state ≠ 3 ∨ w.btx < slot then .next s
    else
      .next ((s.setWport p { w with
        state := 2, active := groupOf good, width := widthOf good, lanesOk := good, switch := none, epoch := w.epoch + 1, btx := 0
        brx := 0, owned := false, prior := w.owned || w.prior, retrains := satInc w.retrains }).sendOc p)
  | none => .next s

/-- The port after a slot in which symbols of some lanes were corrected (R328): what the last 2^16 slots corrected, and the lanes with more
than 1,024 of it. -/
def WPort.noteFixes (w : WPort) (fixed : List (Nat × Nat)) : WPort :=
  let f := fixed.foldl (fun (t : Tbl (List (Nat × Nat))) x =>
    tput t (x.1 % 8) ((tget t [] (x.1 % 8)).filter (fun y => decide (w.rslots < y.1 + 65536)) ++ [(w.rslots, x.2)])) w.fixes
  let many := (upFrom 0 8).filter fun i => decide (sumNat ((tget f [] i).map (·.2)) > 1024)
  { w with fixes := f, worn := many.foldl (fun m i => Nat.lor m (2 ^ i)) w.worn }

/-! ## Re-send (R322, R323) -/

/-- Distance of sequence numbers. -/
def seqDist (a b : Nat) : Nat := (b + 2 ^ 24 - a % 2 ^ 24) % 2 ^ 24

/-- A rewind at `base` is counted; at RESEND_MAX the port retrains fully (R323). -/
def State.countRewind (s : State) (p : Nat) : State :=
  let w := s.wport p
  let n := tget w.rewinds 0 w.base + 1
  let t := s.setWport p { w with rewinds := tput w.rewinds w.base n, resends := satInc w.resends }
  if n ≥ s.resendMax then (t.raise 0x0905 p none 0 0xFFFFFFFF [p, w.base]).retrain p 1 else t

/-- tx_apply: blocks acknowledged leave the replay buffer, credits come back, NAK rewinds (R323). -/
def State.txApply (s : State) (p : Nat) (b : Block) : State :=
  let w := s.wport p
  let d := seqDist w.base b.ack
  let ok := decide (d ≤ seqDist w.base w.top)
  let w1 := if ok then { w with
      replay := w.replay.drop d, base := b.ack, lastMove := if d = 0 then w.lastMove else s.now
      next := if seqDist w.base w.next < d then b.ack else w.next
      rewind := match w.rewind with
        | some r => if seqDist w.base r < d then none else some r
        | none => none
      rewinds := w.rewinds.filter fun x => decide (seqDist w.base x.1 ≥ d) }
    else w
  let credit := (zipW (fun c n => (c, n)) [0, 1, 2, 3] b.credits).foldl (fun t x => tmod t 0 x.1 (· + 4 * x.2)) w1.credit
  let t := s.setWport p { w1 with credit := credit }
  if b.nak ∧ ok ∧ w1.rewind ≠ some b.ack then
    (t.setWport p { t.wport p with rewind := some b.ack, next := b.ack }).countRewind p
  else t

/-- Cells of a receive queue. -/
def WPort.rxCells (w : WPort) (cls : Nat) : Nat := sumNat ((tget w.rx [] cls).map Msg.cells)

/-- A message cell that is not kept: its buffer space comes back as credit (R324). -/
def State.freeCells (s : State) (p : Nat) (m : Msg) : State :=
  let w := s.wport p
  s.setWport p { w with ret := tmod w.ret 0 m.cls (· + m.cells) }

/-- One message of an accepted block enters its class queue; malformed ones, those that epoch 0 does not take and those that an unowned
port does not carry are dropped (R331, 13_trust.md R433, R435). -/
def State.deliverMsg (s : State) (p : Nat) (m : Msg) : State :=
  let w := s.wport p
  if !m.ok then (s.freeCells p m).raise 0x090A p none 0 0xFFFFFFFF [p, m.hdr.toNat % 2 ^ 64, m.hdr.toNat / 2 ^ 64]
  else if w.epoch = 0 ∧ m.ty ≠ 12 then s.freeCells p m
  else if !(w.owned || w.prior) && !s.ownerless m then (s.freeCells p m).bounce m
  else
    let t := s.levelAt p (9 + m.cls) (w.rxCells m.cls)
    let u := t.setWport p { w with
      rx := tput w.rx m.cls (tget w.rx [] m.cls ++ [m]), stampsIn := if m.ty = 11 then w.stampsIn ++ [w.rxStamp] else w.stampsIn }
    u.levelAt p (9 + m.cls) (w.rxCells m.cls + m.cells)

/-- The messages of an accepted block, in order. -/
def State.deliverMsgs (s : State) (p : Nat) : List Msg → State
  | [] => s
  | m :: r => (s.deliverMsg p m).deliverMsgs p r

/-- The receiver's part after tx_apply (R322). -/
def State.rxBlock (s : State) (p : Nat) (b : Block) : State :=
  let w := s.wport p
  if b.kind = 0 ∧ b.seq = w.expect then
    (s.setWport p { w with expect := (w.expect + 1) % 2 ^ 24, nak := false }).deliverMsgs p b.msgs
  else if b.seq ≠ w.expect then s.setWport p { w with nak := true }
  else s

/-- DIR of a direction of a port; in epoch 0, in which neither end knows the other, it is 0 in both (R321, log entry 168). -/
def State.dirOf (s : State) (p : Nat) (sending : Bool) : Nat :=
  if (s.wport p).epoch = 0 then 0 else b2n (s.lower p != sending)

/-- Local time at the start of a cy, in units of 0.125 ns (R352). -/
def localAt (c : Nat) : Int := 32 * (c : Int) / 9

/-- A received block slot is counted, with its stamp and what its FEC corrected (R321, R328, R352). -/
def WPort.received (w : WPort) (now : Nat) (sub : Fin 4) (fixed : List (Nat × Nat)) : WPort :=
  { (w.noteFixes fixed) with brx := w.brx + 1, rslots := w.rslots + 1, rxStamp := localAt now + sub.val }

/-- What a received block slot does by what it is found to be (R322, R328). -/
def State.receiveBlock (s : State) (p : Nat) : Received → State
  | .bad =>
    let w := s.wport p
    s.setWport p { w with nak := true, badBlocks := satInc w.badBlocks }
  | .forged =>
    let w := s.wport p
    let slots := w.rslots :: w.authSlots.filter fun x => decide (w.rslots < x + 2 ^ 20)
    let t := (s.setWport p { w with nak := true, authErr := satInc w.authErr, authSlots := slots }).raise 0x0904 p none 0 0xFFFFFFFF
      [p, w.epoch, w.brx - 1]
    if slots.length ≥ s.authMax then t.retrain p 2 else t
  | .block b => (s.txApply p b).rxBlock p b

/-- A block slot is received and checked (R322). -/
def execBlockReceive (port : Fin 16) (sub : Fin 4) (fec : Bool) (fixed : List (Nat × Nat)) (bytes : List Byte) (s : State) : Out :=
  let p := port.val
  let w := s.wport p
  if !w.live then .next s
  else .next ((s.setWport p (w.received s.now sub fixed)).receiveBlock p
    (openBlock w.key (blockIv w.epoch (s.dirOf p false) w.brx) fec bytes))

/-! ## Sending (R323 to R325) -/

/-- The oldest message of a class that may start: in epoch 0 a LINK message, at a port that is not owned one that 13_trust.md R435 lets
through; the others wait. -/
def State.mayFill (s : State) (w : WPort) (cls : Nat) : Option Msg :=
  if w.epoch = 0 then (tget w.tx [] cls).find? fun m => m.ty = 12
  else match (tget w.tx [] cls).head? with
    | some m => if w.owned || s.ownerless m then some m else none
    | none => none

/-- One pass of fill: the first class whose oldest message fits and has credit (R325). -/
def State.fillOne (s : State) (w : WPort) (cell : Nat) : List Nat → Option (Nat × Msg)
  | [] => none
  | c :: r =>
    match s.mayFill w c with
    | some m => if cell + m.cells ≤ 480 ∧ tget w.credit 0 c ≥ m.cells then some (c, m) else s.fillOne w cell r
    | none => s.fillOne w cell r

/-- fill(block): messages placed until none fits (R325). -/
def State.fill (s : State) : Nat → Nat → WPort → WPort × List Msg
  | 0, _, w => (w, [])
  | fuel + 1, cell, w =>
    match s.fillOne w cell ([3, 1] ++ (if w.lastC = 2 then [0, 2] else [2, 0])) with
    | none => (w, [])
    | some (c, m) =>
      let w1 := { w with
        tx := tput w.tx c ((tget w.tx [] c).erase m), credit := tput w.credit c (tget w.credit 0 c - m.cells)
        lastC := if c = 0 ∨ c = 2 then c else w.lastC }
      let r := s.fill fuel (cell + m.cells) w1
      (r.1, m :: r.2)

/-- Credits that a header returns, in units of 4 cells, and what is left over (R318, R324). -/
def WPort.returns (w : WPort) : WPort × List Nat :=
  let c := [0, 1, 2, 3].map fun i => min 127 (tget w.ret 0 i / 4)
  ({ w with ret := (zipW (fun i n => (i, n)) [0, 1, 2, 3] c).foldl (fun t x => tmod t 0 x.1 (· - 4 * x.2)) w.ret }, c)

/-- Requests of this module whose messages leave its port now (R342). -/
def State.markSent (s : State) (msgs : List Msg) : State :=
  let mine := fun (r : Remote) => msgs.any fun m => m.src = s.mod.id && (m.ty = 1 || m.ty = 2) && m.cls = 0 && m.tag = r.tag
  { s with fab := { s.fab with remotes := s.fab.remotes.map fun r => if r.sent.isNone && mine r then { r with sent := some s.now } else r } }

/-- The offset of a module extrapolated to a local time with the rate of change of its offsets (R353). -/
def Sync.offsetAt (y : Sync) (t : Int) : Int := y.offset + y.rate * (t - y.since) / y.span

/-- A TSYNC answer with its t3, the hall time of its block's sending stamp (R353). -/
def State.stampAnswer (s : State) (stamp : Int) (m : Msg) : Msg :=
  if m.ty = 11 ∧ bitAt m.addr 8 then
    { m with ext := BitVec.ofNat 128 (m.ext.toNat % 2 ^ 64 + toBits 64 (stamp + s.fab.sync.offsetAt stamp) * 2 ^ 64) }
  else m

/-- t1 of the exchange in flight, where its request leaves now (R353). -/
def State.stampRequest (s : State) (p : Nat) (stamp : Int) (msgs : List Msg) : State :=
  let y := s.fab.sync
  match y.open_ with
  | some (n, q, none) =>
    if q = p ∧ msgs.any (fun m => m.ty = 11 && !bitAt m.addr 8 && m.addr % 256 = n) then
      { s with fab := { s.fab with sync := { y with open_ := some (n, q, some stamp) } } }
    else s
  | _ => s

/-- The block of the present slot and the port after it (R323): a replayed block, a new data block or an idle block; its header carries ACK,
NAK and credits. -/
def State.nextBlock (s : State) (stamp : Int) (w0 : WPort) : WPort × Block :=
  let (w, credits) := w0.returns
  let head := fun (kind seq : Nat) (msgs : List Msg) => (⟨kind, w.nak, seq, w.expect, credits, msgs⟩ : Block)
  if w.next ≠ w.top then
    match w.replay[seqDist w.base w.next]? with
    | some old => ({ w with next := (w.next + 1) % 2 ^ 24 }, head 0 old.seq old.msgs)
    | none => (w, head 1 w.top [])
  else
    let (w1, msgs) := if w.replay.length < 64 then s.fill 480 0 w else (w, [])
    if msgs.isEmpty then (w, head 1 w.top [])
    else
      let b := head 0 w.top (msgs.map (s.stampAnswer stamp))
      let top := (w.top + 1) % 2 ^ 24
      ({ w1 with replay := w.replay ++ [b], top := top, next := top, lastMove := if w.replay.isEmpty then s.now else w.lastMove }, b)

/-- The port after a block has gone out on its lanes: counted, sealed, scrambled, coded and spread over them (R317 to R321). -/
def WPort.transmit (w : WPort) (b : Block) (key iv : List Byte) (stamp : Int) : WPort :=
  let x := scramble w.scram (bitsOfBytes (sealBlock key iv b))
  { w with
    btx := w.btx + 1, slots := w.slots + 1, sent := b :: w.sent, txStamp := stamp, scram := x.2
    wire := laneSymbols w.active (lineSymbols x.1) }

/-- One block slot is sent (R323). -/
def execBlockSend (port : Fin 16) (sub : Fin 4) (s : State) : Out :=
  let p := port.val
  let w0 := s.wport p
  if !w0.live then .next s
  else
    let stamp := localAt s.now + sub.val
    let r := s.nextBlock stamp w0
    let t := s.setWport p (r.1.transmit r.2 w0.key (blockIv w0.epoch (s.dirOf p true) w0.btx) stamp)
    .next ((t.markSent r.2.msgs).stampRequest p stamp r.2.msgs)

/-- Replay without progress for 4,096 cy goes back to base (R323). -/
def execResendTimer (port : Fin 16) (s0 : State) : Out :=
  let p := port.val
  let w := s0.wport p
  if w.replay.isEmpty ∨ !w.live then .next s0
  else
    let s := s0.at (w.lastMove + 4096)
    .next ((s.setWport p { w with next := w.base, lastMove := s.now }).countRewind p)

/-! ## Time sync (R351 to R355) -/

/-- WGO_SYNC. -/
def State.syncReg (s : State) : Nat := s.liveReg 0 0x1301C
/-- Whether this module is the root of the sync tree. -/
def State.syncRoot (s : State) : Bool := bitAt s.syncReg 0

/-- The parent port in use, and whether it is the alternate (R355). -/
def State.syncParent (s : State) : Option (Nat × Bool) :=
  let p := bitsAt s.syncReg 1 4
  let a := bitsAt s.syncReg 6 4
  if bitAt s.syncReg 5 ∧ (s.wport p).state = 2 then some (p, false)
  else if bitAt s.syncReg 10 ∧ (s.wport a).state = 2 then some (a, true)
  else none

/-- Whether the parent port's 256 block slots since the last exchange have passed (R353). -/
def State.exchangeDue (s : State) (p : Nat) : Bool :=
  match s.fab.sync.started with
  | some (q, n) => q ≠ p || decide ((s.wport p).slots ≥ n + 256)
  | none => true

/-- One exchange starts on the parent port every 256 block slots (R353); its t1 is the sending stamp of the block that takes it. -/
def execSyncExchange (s : State) : Out :=
  if !s.hallMode || s.syncRoot then .next s
  else
    let y := s.fab.sync
    match s.syncParent with
    | none => .next { s with fab := { s.fab with sync := { y with holdover := true, altUsed := false } } }
    | some (p, alt) =>
      if !s.exchangeDue p then .next s
      else
        let t : State := { s with fab := { s.fab with sync := { y with
          holdover := false, altUsed := alt, open_ := some (y.exch % 256, p, none), exch := y.exch + 1
          started := some (p, (s.wport p).slots) } } }
        .next (t.queueMsg p (mkMsg 11 3 0 0 (s.wport p).peerId s.mod.id 0 0 (y.exch % 256) (some 0) []))

/-- A TSYNC message at the head of a port's SYS queue is taken with the stamp of its block (R352). -/
def State.onTsync (s : State) (p : Nat) (answer : Bool) (f : Msg → Int → State → State) : State :=
  s.onMsg p 3 (fun m => m.ty = 11 && bitAt m.addr 8 = answer) fun m t =>
    let w := t.wport p
    f m (w.stampsIn.headD 0) (t.setWport p { w with stampsIn := w.stampsIn.drop 1 })

/-- The parent answers with its hall time at receipt, and at sending when its block goes out (R353); a request from outside its hall is
dropped (R339). -/
def execTsyncRequest (port : Fin 16) (s : State) : Out :=
  let p := port.val
  .next (s.onTsync p false fun m t2 t =>
    if !t.hallMode || !t.inHall m.src then t
    else
      let a := m.addr % 256 + 256 + 512 * b2n (t.syncRoot || t.bell.locked)
      t.queueMsg p (mkMsg 11 3 0 0 m.src t.mod.id 0 0 a (some (toBits 64 (t2 + t.fab.sync.offsetAt t2))) []))

/-- Sum of integers. -/
def sumInt (l : List Int) : Int := l.foldl (· + ·) 0

/-- Offset and delay of one exchange (R353). -/
def syncSample (t1 t2 t3 t4 : Int) : Int × Int := (((t2 - t1) + (t3 - t4)) / 2, ((t2 - t1) - (t3 - t4)) / 2)

/-- The samples whose delay lies within 1 ns of the least (R353). -/
def syncKept (l : List (Int × Int)) : List (Int × Int) :=
  let least := l.foldl (fun a x => min a x.2) ((l.headD (0, 0)).2)
  l.filter fun x => decide (x.2 ≤ least + 8)

/-- Mean of integers. -/
def meanInt (l : List Int) : Int := if l.isEmpty then 0 else sumInt l / l.length

/-- The child takes the answer to its exchange in flight, on the port of that exchange: offset and delay, filtered over the last eight
exchanges, and the rate of change of the offsets (R353). DESIGN CHOICE: the rate is that between the last two offsets applied (log entry
171). -/
def execTsyncAnswer (port : Fin 16) (s : State) : Out :=
  .next (s.onTsync port.val true fun m t4 t =>
    let y := t.fab.sync
    match y.open_ with
    | some (n, q, some t1) =>
      if n ≠ m.addr % 256 ∨ q ≠ port.val then t
      else
        let x := m.ext.toNat
        let samples := (syncSample t1 (sgn 64 (x % 2 ^ 64)) (sgn 64 (x / 2 ^ 64)) t4 :: y.samples).take 8
        let kept := syncKept samples
        let o := meanInt (kept.map (·.1))
        let first := y.samples.isEmpty
        { t with fab := { t.fab with sync := { y with
          samples := samples, offset := o, rate := if first then 0 else o - y.offset, span := if first then 0 else (t4 - y.since).toNat
          since := t4, delay := (meanInt (kept.map (·.2))).toNat, open_ := none
          lockedParent := bitAt m.addr 9, quiet := 0, said := false } } }
    | _ => t)

/-- 64 bells without an accepted exchange: the phase error counts as lost (R355). -/
def execSyncHoldover (s : State) : Out :=
  let y := s.fab.sync
  if !s.hallMode || s.syncRoot || decide (y.quiet < 64) || y.said then .next s
  else
    let t := ({ s with fab := { s.fab with sync := { y with said := true } } } : State).raiseMod 0x090B
      [(s.syncParent.map (·.1)).getD (bitsAt s.syncReg 1 4)]
    .next (if t.bell.locked then
      ({ t with bell := { t.bell with locked := false, inRange := 0 } } : State).raiseMod 0x0107 [toBits 64 t.bell.phase] else t)

end Sys2Proof.Machine
end

