-- ==== Sys2Proof/Machine/Checks.lean ====
section
/-! DEFINITION. Check units and the mismatch of clock-crossing queues (15_check_unit_queues.md R473 to R489). -/
namespace Sys2Proof.Machine

/-- WIDTH. -/
def CheckUnit.width (c : CheckUnit) : Nat := bitsAt c.cfg 0 7
/-- REFIN. -/
def CheckUnit.refin (c : CheckUnit) : Bool := bitAt c.cfg 7
/-- REFOUT. -/
def CheckUnit.refout (c : CheckUnit) : Bool := bitAt c.cfg 8
/-- MODE. -/
def CheckUnit.mode (c : CheckUnit) : Nat := bitsAt c.cfg 9 2
/-- Whether WIDTH has a meaning. -/
def CheckUnit.widthOk (c : CheckUnit) : Bool := decide (8 ≤ c.width) && decide (c.width ≤ 64)

/-- The unit after bytes; under a WIDTH that R474 would refuse, the STATE they leave is a free value (log entry 30). -/
def CheckUnit.feed (c : CheckUnit) (ctr : Nat) (l : List Byte) : CheckUnit :=
  { c with
    state := if c.widthOk then crcFeeds c.width c.poly c.refin c.state l else Config.freeLost ctr % 2 ^ 64
    fed := (c.fed + l.length) % 2 ^ 64 }

/-- RESULT; under a WIDTH that R474 would refuse it is a free value (log entry 30). -/
def CheckUnit.result (c : CheckUnit) (ctr : Nat) : Nat :=
  if c.widthOk then crcResult c.width c.xorout c.refout c.state else Config.freeLost ctr % 2 ^ 64

/-! ## Commands (R474 to R483) -/

/-- STATUS with a bit set. -/
def CheckUnit.mark (c : CheckUnit) (bit : Nat) : CheckUnit := { c with status := c.status ||| 2 ^ bit }

/-- MISUSE and its incident: the unit, and the failing field or register. -/
def State.misuse (s : State) (die u code field : Nat) : State :=
  (s.setCu die u ((s.cu die u).mark 6)).raise code die none u 0xFFFFFFFF [field]

/-- The field that makes a START fail (R474, log entry 32): 1 WIDTH, 2 POLY, 3 INIT, 4 XOROUT. -/
def CheckUnit.badField (c : CheckUnit) : Option Nat :=
  let wide := fun x => decide (x ≥ 2 ^ c.width)
  if !c.widthOk then some 1 else if wide c.poly then some 2 else if wide c.init then some 3 else if wide c.xorout then some 4 else none

/-- START (R473, R474). -/
def State.chkStart (s : State) (die u : Nat) : State :=
  let c := s.cu die u
  match c.badField with
  | some f => s.misuse die u 0x0E06 f
  | none => s.setCu die u { c with state := c.init, fed := 0 }

/-- A feed write of some bytes to a register (R475, R477). -/
def State.chkFeed (s : State) (die u reg : Nat) (l : List Byte) : State :=
  let c := s.cu die u
  if c.mode ≠ 1 then s.misuse die u 0x0E02 reg
  else (s.setCu die u (c.feed s.freeCtr l)).useFree 1

/-- First output line of which no element has been requested. -/
def Slot.nextWholeLine (q : Slot) (d : Desc) : Nat :=
  if q.allIssued then d.lines else ceilDiv ((d.piece q.run q.line).first * d.dbits) 512

/-- The slot that CHK_SNOOP names, where it runs a stream of that ID. -/
def State.snooped (s : State) (die : Nat) (c : CheckUnit) : Option (Slot × Desc) :=
  let q := (s.port (die * 8192 + c.stall)).slot c.slot
  match q.state, q.desc with
  | .running, some d => if d.id = c.id then some (q, d) else none
  | _, _ => none

/-- ARM: the unit attaches to the stream that the slot runs with that ID, or waits for the PRT.GO that starts it (R479); of a running
stream it takes the lines not yet asked for (log entry 33). -/
def State.chkArm (s : State) (die u : Nat) : State :=
  let c := s.cu die u
  if c.stall ≥ 5120 then s.misuse die u 0x0E06 6
  else if c.mode ≠ 2 then s
  else match s.snooped die c with
    | some (q, d) => s.setCu die u { c with
        attached := true, goSeq := some q.goSeq, nextLine := q.nextWholeLine d, window := [], marks := [] }
    | none => s.setCu die u { c with attached := true, goSeq := none, nextLine := 0, window := [], marks := [] }

/-- RESUME: the unit attaches to the running stream and expects output bytes from FED on (R483). -/
def State.chkResume (s : State) (die u : Nat) : State :=
  let c := s.cu die u
  if c.fed % 64 ≠ 0 then s.misuse die u 0x0E06 5
  else if c.stall ≥ 5120 then s.misuse die u 0x0E06 6
  else if c.mode ≠ 2 then s
  else match s.snooped die c with
    | some (q, _) => s.setCu die u { c with
        attached := true, goSeq := some q.goSeq, nextLine := c.fed / 64, window := [], marks := [] }
    | none => s

/-- Whether a check unit answers: its die is not fenced (11_host_rings.md R363). -/
def State.onUnit (s : State) (die : Nat) (f : State → State) : State := if s.deadDies.contains die || !s.awake then s else f s

/-- CHK_CTRL.START. -/
def execStart (die : Fin 16) (unit : Fin 4) (s : State) : Out := .next (s.onUnit die.val fun t => t.chkStart die.val unit.val)

/-- A write of CHK_FEED_B. -/
def execFeedB (die : Fin 16) (unit : Fin 4) (v : BitVec 32) (s : State) : Out :=
  .next (s.onUnit die.val fun t => t.chkFeed die.val unit.val 0x20 (leBytes 1 v.toNat))

/-- A write of CHK_FEED_H. -/
def execFeedH (die : Fin 16) (unit : Fin 4) (v : BitVec 32) (s : State) : Out :=
  .next (s.onUnit die.val fun t => t.chkFeed die.val unit.val 0x24 (leBytes 2 v.toNat))

/-- A write of CHK_FEED_W. -/
def execFeedW (die : Fin 16) (unit : Fin 4) (v : BitVec 32) (s : State) : Out :=
  .next (s.onUnit die.val fun t => t.chkFeed die.val unit.val 0x28 (leBytes 4 v.toNat))

/-- CHK_SNOOP_CTRL.ARM. -/
def execArm (die : Fin 16) (unit : Fin 4) (s : State) : Out := .next (s.onUnit die.val fun t => t.chkArm die.val unit.val)

/-- CHK_SNOOP_CTRL.RESUME. -/
def execResume (die : Fin 16) (unit : Fin 4) (s : State) : Out := .next (s.onUnit die.val fun t => t.chkResume die.val unit.val)

/-- The unit feeds the next line of its window, or detaches where a source element was not public; after the last line of a stream
that has ended it is DONE (R480 to R482). -/
def execSnoopLine (die : Fin 16) (unit : Fin 4) (s : State) : Out :=
  let n := die.val
  let u := unit.val
  let c := s.cu n u
  if !c.attached then .next s
  else match tfind c.window c.nextLine with
    | none => .next s
    | some (l, public_) =>
      if !public_ then .next ((s.setCu n u (c.detach 5)).raise 0x0E05 n none (n * 8192 + c.stall) 0xFFFFFFFF [u, c.id])
      else
        let d := c.feed s.freeCtr (bytesOfLine l)
        let e := { d with
          nextLine := c.nextLine + 1, window := tdel c.window c.nextLine
          marks := tput (tput c.marks c.nextLine (c.state, c.fed)) (c.nextLine + 1) (d.state, d.fed) }
        let q := (s.port (n * 8192 + c.stall)).slot c.slot
        let done := e.window.isEmpty && (q.state = .free || some q.goSeq ≠ c.goSeq)
        .next ((s.setCu n u (if done then e.detach 2 else e)).useFree 1)

/-! ## Registers (Table CHK.2, Table CHK.5) -/

/-- The low or the high word of a 64-bit value. -/
def halfOf (hi : Bool) (x : Nat) : Nat := if hi then bitsAt x 32 32 else bitsAt x 0 32
/-- A 64-bit value with its low or high word replaced. -/
def setHalf (hi : Bool) (x v : Nat) : Nat := if hi then bitsAt x 0 32 + v % 2 ^ 32 * 2 ^ 32 else bitsAt x 32 32 * 2 ^ 32 + v % 2 ^ 32

/-- Occupancy of a queue of Table CHK.3 in its own unit: cells that wait at an edge or at the Weago port of the die. -/
def State.occupancy (s : State) (die q : Nat) : Nat :=
  if q < 9 then
    let e := if q < 3 then 1 else if q < 6 then 0 else 2
    if q % 3 = 2 then 0 else s.edgeCells die e (decide (q % 3 = 1))
  else if q < 13 then (s.wport die).rxCells (q - 9)
  else 0

/-- CHK_Q_SEL of a die. -/
def State.queueSel (s : State) (die : Nat) : Nat := tget s.regs 0 (0x200800 + die * 0x10000) % 32

/-- A read of a queue register of a die. -/
def State.readQueue (s : State) (die off : Nat) : Nat :=
  let q := s.queueSel die
  let c := s.cq die q
  if off = 0x800 then q
  else if q > 16 then 0
  else if off = 0x804 then
    s.occupancy die q % 2 ^ 14 + 2 ^ 14 * b2n c.underrun + 2 ^ 15 * b2n c.overrun + 2 ^ 16 * b2n c.levelHit
  else if off = 0x808 then c.level
  else if off = 0x80C then c.resets
  else 0

/-- A write of a queue register of a die. A new LEVEL is compared with the occupancy as it stands. -/
def State.writeQueue (s : State) (die off v : Nat) : State :=
  let q := s.queueSel die
  let c := s.cq die q
  if off = 0x800 then { s with regs := tput s.regs (0x200800 + die * 0x10000) (v % 32) }
  else if q > 16 then s
  else if off = 0x804 then s.setCq die q { c with
    underrun := c.underrun && !bitAt v 14, overrun := c.overrun && !bitAt v 15, levelHit := c.levelHit && !bitAt v 16 }
  else if off = 0x808 then s.setCq die q { c with level := v % 2 ^ 14, armed := decide (s.occupancy die q < v % 2 ^ 14) }
  else s

/-- A read of a check unit's block (Table CHK.2); BUSY stands while its window holds lines. -/
def State.readChk (s : State) (die u off : Nat) : Nat :=
  let c := s.cu die u
  if u = 0 ∧ 0x800 ≤ off then s.readQueue die off
  else match off / 4 with
    | 0 => c.cfg
    | 1 => halfOf false c.poly
    | 2 => halfOf true c.poly
    | 3 => halfOf false c.init
    | 4 => halfOf true c.init
    | 5 => halfOf false c.xorout
    | 6 => halfOf true c.xorout
    | 11 => halfOf false c.state
    | 12 => halfOf true c.state
    | 13 => halfOf false (c.result s.freeCtr)
    | 14 => halfOf true (c.result s.freeCtr)
    | 15 => halfOf false c.fed
    | 16 => halfOf true c.fed
    | 17 => c.snoop
    | 19 => b2n (!c.window.isEmpty) + 2 * b2n c.attached + bitsAt c.status 2 6 * 4
    | _ => 0

/-- A write of a check unit's block (Table CHK.2). -/
def State.writeChk (s : State) (die u off v : Nat) : State :=
  let c := s.cu die u
  let put := fun (d : CheckUnit) => s.setCu die u d
  if u = 0 ∧ 0x800 ≤ off then s.writeQueue die off v
  else match off / 4 with
    | 0 => put { c with cfg := v % 2 ^ 11 }
    | 1 => put { c with poly := setHalf false c.poly v }
    | 2 => put { c with poly := setHalf true c.poly v }
    | 3 => put { c with init := setHalf false c.init v }
    | 4 => put { c with init := setHalf true c.init v }
    | 5 => put { c with xorout := setHalf false c.xorout v }
    | 6 => put { c with xorout := setHalf true c.xorout v }
    | 7 => if bitAt v 0 then s.chkStart die u else s
    | 8 => s.chkFeed die u 0x20 (leBytes 1 v)
    | 9 => s.chkFeed die u 0x24 (leBytes 2 v)
    | 10 => s.chkFeed die u 0x28 (leBytes 4 v)
    | 11 => put { c with state := setHalf false c.state v }
    | 12 => put { c with state := setHalf true c.state v }
    | 15 => put { c with fed := setHalf false c.fed v }
    | 16 => put { c with fed := setHalf true c.fed v }
    | 17 => put { c with snoop := v % 2 ^ 32 }
    | 18 => if bitAt v 0 then s.chkArm die u else if bitAt v 1 then s.chkResume die u else s
    | 19 => put { c with status := bitSet ((upFrom 2 6).filter fun i => bitAt c.status i && !bitAt v i) }
    | _ => s

/-! ## Clock-crossing queues (R486, R487) -/

/-- A read of an EMPTY queue (R486). -/
def State.underrun (s : State) (die q : Nat) : State :=
  (s.setCq die q { s.cq die q with underrun := true }).raiseDie 0x0E03 die [q]

/-- A write to a FULL queue (R486). -/
def State.overrun (s : State) (die q : Nat) : State :=
  (s.setCq die q { s.cq die q with overrun := true }).raiseDie 0x0E04 die [q]

/-- The link behind an edge queue of a die: 16 a + b for dies a < b, 256 + d for a host edge; none at the end of a row. -/
def edgeLink (d q : Nat) : Option Nat :=
  if q < 3 then (if colOf d = 0 then some (256 + d) else some (16 * (d - 1) + d))
  else if q < 6 then (if colOf d = 7 then none else some (16 * d + d + 1))
  else some (16 * (d % 8) + d % 8 + 8)

/-- A pointer mismatch resets a queue, whose reader last saw `occ` entries (R487, Table CHK.4). A check unit's STATE has no meaning
until it is started or written again: a free value (log entry 30). -/
def execQueueMismatch (die : Fin 16) (queue : Fin 17) (occ : Nat) (s : State) : Out :=
  let n := die.val
  let q := queue.val
  if !s.awake || s.deadDies.contains n then .next s
  else
    let c := s.cq n q
    let t := (s.setCq n q { c with resets := satInc c.resets, armed := true }).raiseDie 0x0E01 n [q, occ]
    if q < 9 then
      (match edgeLink n q with
      | some link => .next (t.failRequests link 0x0E01 t.reqs)
      | none => .next t)
    else if q < 13 then .next (t.portReset n)
    else
      let u := t.cu n (q - 13)
      .next ((t.setCu n (q - 13) { u.mark 7 with state := Config.freeLost t.freeCtr % 2 ^ 64 }).useFree 1)

end Sys2Proof.Machine
end

