-- ==== Sys2Proof/Machine/Matrix.lean ====
section
/-! DEFINITION. Matrix instructions, squares and accumulator moves (02_stall.md R77 to R86, 04_tile_ops.md R139 to R161,
03_formats.md R118, R119). -/
namespace Sys2Proof.Machine

/-! ## What a matrix instruction names -/

/-- Operand formats of an FMT value: activation and weight (Table STL.8). For I8 and I4 the code may be of either sign. -/
def mmFmts (fmt : Nat) : Fmt × Fmt :=
  match fmt with
  | 0 => (.h16, .h16)
  | 1 => (.q8f, .q8f)
  | 2 => (.q8g, .q8g)
  | 3 => (.q8f, .q8g)
  | 4 => (.q8g, .q8f)
  | 5 => (.i8s, .i8s)
  | 6 => (.q4, .q4)
  | _ => (.i4s, .i4s)

/-- Whether a tile's format code fits the operand format of the mnemonic (Table TILE.3 code 0x0303). -/
def fmtFits (f : Fmt) (code : Nat) : Bool :=
  match Fmt.ofCode code with
  | none => false
  | some g => if f.isInt then g.isInt && g.bits = f.bits else g = f

/-- Depth d of a format (R81): 1 for H16, 2 for 8-bit, 4 for 4-bit formats. -/
def depth (f : Fmt) : Nat := 16 / f.bits

/-- The three tiles and the shape of a matrix instruction (R141, R143, R144). -/
structure Mat where
  a : Tile
  w : Tile
  o : Tile
  fa : Fmt
  fw : Fmt
  d : Nat
  m : Nat
  k : Nat
  n : Nat
  /-- first tile block and pass count of the window -/
  b0 : Nat
  p : Nat
  /-- blocks of the whole tile -/
  pt : Nat
  deriving DecidableEq, Repr

/-- The shape that a word's fields and the stall's entries give (R141, R143, R144). -/
def matOf (fmt : Nat) (f : FmtM) (t : Stall) : Mat :=
  let a := tileOf (t.tcReg f.tca.toNat)
  let w := tileOf (t.tcReg f.tcw.toNat)
  let o := tileOf (t.tcReg f.tcd.toNat)
  let ff := mmFmts fmt
  let d := depth ff.1
  let pt := ceilDiv a.cols (16 * d)
  let whole := f.win = 0#1
  ⟨a, w, o, ff.1, ff.2, d, a.rows, a.cols, w.cols, if whole then 0 else f.pb0.toNat, if whole then pt else f.pn.toNat + 1, pt⟩

/-- Scale registers of the activation role (R140). -/
def Mat.aScaleRegs (x : Mat) : List Nat :=
  if x.fa = .q4 then upFrom x.a.sbase (ceilDiv ((x.a.na + 1) * x.p) 2) else []
/-- Scale registers of the weight role. -/
def Mat.wScaleRegs (x : Mat) : List Nat := if x.fw = .q4 then upFrom x.w.sbase (ceilDiv x.p 2) else []
/-- Block registers of the activation role: eight a pass for each array (R140). -/
def Mat.aRegs (x : Mat) : List Nat :=
  (upFrom 0 (x.a.na + 1)).flatMap fun i => upFrom (x.a.rbase + i * x.a.astride) (8 * x.p)
/-- Block registers of the weight role. -/
def Mat.wRegs (x : Mat) : List Nat := upFrom x.w.rbase (8 * x.p)

/-- Whether two register lists share a register. -/
def overlap (a b : List Nat) : Bool := a.any fun i => b.contains i

/-- Register extents (Table TILE.3 code 0x0308). -/
def Mat.badRegs (x : Mat) : Bool :=
  decide (x.a.rbase + x.a.na * x.a.astride + 8 * x.p > 128) || decide (x.w.rbase + 8 * x.p > 128)
    || (decide (x.a.na > 0) && decide (x.a.astride < 8 * x.p))
    || (x.fa = .q4 && (decide (x.a.sbase + ceilDiv ((x.a.na + 1) * x.p) 2 > 128) || overlap x.aScaleRegs x.aRegs))
    || (x.fw = .q4 && (decide (x.w.sbase + ceilDiv x.p 2 > 128) || overlap x.wScaleRegs x.wRegs))

/-- The bound square that a stall belongs to (04_tile_ops.md R148). -/
def State.squareOf (s : State) (k : Nat) : Option Square :=
  s.squares.find? fun q => q.die = dieOf k && decide (q.x0 ≤ xOf k) && decide (xOf k < q.x0 + 32)
    && decide (q.y0 ≤ yOf k) && decide (yOf k < q.y0 + 32)

/-- The causes of a matrix instruction (R67, R85, R86, Table TILE.3, 06_tallies.md R217). -/
def matCauses (fmt : Nat) (f : FmtM) (inSquare : Bool) (orphanGate : Bool) (x : Mat) : List (Bool × Nat) :=
  [(f.rsv ≠ 0#18, 0x0202),
   (f.win = 0#1 && (f.pb0 ≠ 0#5 || f.pn ≠ 0#5), 0x0202),
   (fmt ≠ 5 && fmt ≠ 7 && (f.sga ≠ 0#1 || f.sgw ≠ 0#1), 0x0202),
   (f.mode.toNat ≥ 2, 0x0210),
   (!x.a.valid || !x.w.valid || !x.o.valid, 0x0302),
   (!fmtFits x.fa x.a.fmt || !fmtFits x.fw x.w.fmt || x.o.fmt ≠ 0, 0x0303),
   (x.a.trans, 0x0304),
   (x.w.rows ≠ x.a.cols, 0x0305),
   (x.o.rows ≠ x.a.rows || x.o.cols ≠ x.w.cols, 0x0306),
   (!inSquare && (x.m > 16 || x.n > 16), 0x0307),
   (x.badRegs, 0x0308),
   (f.win = 1#1 && x.b0 + x.p > x.pt, 0x030D),
   (f.gen = 1#1 && orphanGate, 0x0508)]

/-! ## Issue on a lone stall -/

/-- The eight lines of a block from a register on (R139). -/
def Stall.block (t : Stall) (r : Nat) : List Line := (upFrom r 8).map t.vreg

/-- 32 scale bytes at byte `32 * i` of the area from register `b` on, as the low half of a line (R140). -/
def Stall.scales32 (t : Stall) (b i : Nat) : Line :=
  BitVec.ofNat 512 (bitsAt (t.vreg (b + i / 2)).toNat (256 * (i % 2)) 256)

/-- Activation blocks in the order array, pass (R140). -/
def Stall.actBlocks (t : Stall) (x : Mat) : List (List Line) :=
  (upFrom 0 (x.a.na + 1)).flatMap fun a => (upFrom 0 x.p).map fun j => t.block (x.a.rbase + a * x.a.astride + 8 * j)

/-- Weight blocks in pass order (R140). -/
def Stall.wtBlocks (t : Stall) (x : Mat) : List (List Line) := (upFrom 0 x.p).map fun j => t.block (x.w.rbase + 8 * j)

/-- Activation scale bytes in the order array, pass. -/
def Stall.actScales (t : Stall) (x : Mat) : List Line :=
  if x.fa = .q4 then (upFrom 0 ((x.a.na + 1) * x.p)).map fun i => t.scales32 x.a.sbase i else []

/-- Weight scale bytes in pass order. -/
def Stall.wtScales (t : Stall) (x : Mat) : List Line :=
  if x.fw = .q4 then (upFrom 0 x.p).map fun i => t.scales32 x.w.sbase i else []

/-- Whether the latch that served the previous pass holds the first weight block (R82, R147). -/
def Stall.reuses (t : Stall) (f : FmtM) (x : Mat) : Bool :=
  f.reuse = 1#1 && match t.latch.head? with
    | some l => l.loc = x.w.rbase && l.cfg = t.tcReg f.tcw.toNat
    | none => false

/-- The latches after the passes of an instruction: the last block served last, the one before in the other latch (R82). -/
def Stall.latchAfter (t : Stall) (f : FmtM) (x : Mat) (wt : List (List Line)) (sc : List Line) : List Latch :=
  let mk := fun j => (⟨x.w.rbase + 8 * j, t.tcReg f.tcw.toNat, wt.getD j [], sc.getD j 0#512⟩ : Latch)
  if x.p ≥ 2 then [mk (x.p - 1), mk (x.p - 2)] else mk 0 :: t.latch.take 1

/-- Whether no accumulator move in flight touches the bank of an array that the instruction uses (R77). -/
def Stall.banksFree (t : Stall) (bank na : Nat) : Bool :=
  t.ops.all fun o => match o.kind with
    | .accRd _ arrays b _ _ => !(b = bank && arrays.any (· ≤ na))
    | .accWr _ arrays b => !(b = bank && arrays.any (· ≤ na))
    | _ => true

/-- Gate condition: with GEN = 1, the tally is at least the gate count, unsigned (R77), or saturated (06_tallies.md R205). -/
def gateOpen (f : FmtM) (t : Stall) (p : StallPort) : Bool :=
  f.gen = 0#1 || (p.tally f.gate.toNat).reaches (t.gate f.gate.toNat)

/-- The gate count goes up by 1 modulo 2^32 at issue, where the instruction is gated (R77, log entry 25). -/
def Stall.bumpGate (t : Stall) (f : FmtM) : Stall :=
  if f.gen = 1#1 then { t with gates := tput t.gates f.gate.toNat ((t.gate f.gate.toNat + 1) % 2 ^ 32) } else t

/-- The instruction in flight on a lone stall (R82, R83): operands as they stand at issue. -/
def mmOp (f : FmtM) (fmt : Nat) (x : Mat) (act wt : List (List Line)) (aS wS : List Line) (rows cols : Nat) : OpKind :=
  .mm fmt f.bank.toNat f.mode.toNat x.a.na rows cols x.k x.d x.b0 x.p x.w.trans (f.sga = 1#1) (f.sgw = 1#1)
    [f.tca.toNat, f.tcw.toNat, f.tcd.toNat] (x.aRegs ++ x.wRegs ++ x.aScaleRegs ++ x.wScaleRegs) act wt aS wS

/-- Issue of a matrix instruction on a stall that is not in a square (R77, R82, R83, R146). -/
def mmLone (fmt : Nat) (f : FmtM) (x : Mat) (s : State) (t : Stall) : Issue :=
  let reuse := t.reuses f x
  let old := t.latch.headD ⟨0, 0#128, [], 0#512⟩
  let wt0 := t.wtBlocks x
  let wS0 := t.wtScales x
  let wt := if reuse then old.block :: wt0.drop 1 else wt0
  let wS := if reuse ∧ x.fw = .q4 then old.scale :: wS0.drop 1 else wS0
  let start := max (s.now + 1 + if reuse then 0 else 4) t.arrEnd
  let t1 := (t.bumpGate f).pushOp (start + 16 * x.p - 1 + 18) (mmOp f fmt x (t.actBlocks x) wt (t.actScales x) wS x.m x.n)
  .go s { t1 with latch := t.latchAfter f x wt wS, arrEnd := start + 16 * x.p } .seq

/-- The registers a stall of a square supplies: activations at the west edge, weights at the north edge (R154, R155). -/
def Mat.supplied (x : Mat) (X Y : Nat) : List Nat :=
  (if X = 0 ∧ 16 * Y < x.m then x.aRegs ++ x.aScaleRegs else [])
    ++ (if Y = 0 ∧ 16 * X < x.n then x.wRegs ++ x.wScaleRegs else [])

/-- A matrix instruction at its issue point (R77, R145, R155): on a lone stall it issues; in a bound square it raises READY. -/
def mmAt (fmt : Nat) (f : FmtM) (word : Word64) (s : State) (k : Nat) (t : Stall) : Issue :=
  let x := matOf fmt f t
  let p := s.port k
  let sq := s.squareOf k
  match lowestCode (matCauses fmt f sq.isSome (p.tally f.gate.toNat).orph x) with
  | some c => .fault c []
  | none =>
    match sq with
    | none =>
      if t.vReady (x.aRegs ++ x.wRegs ++ x.aScaleRegs ++ x.wScaleRegs) && gateOpen f t p && t.banksFree f.bank.toNat x.a.na
      then mmLone fmt f x s t else .wait
    | some q =>
      if q.stop.isNone && t.vReady (x.supplied (xOf k - q.x0) (yOf k - q.y0)) && gateOpen f t p
          && t.banksFree f.bank.toNat x.a.na
      then .go s { t with ready := some (word.toNat, s.now + 1) } (.park 0 false) else .wait

/-- The shared course of the eight matrix commands: READY is raised without issuing (R155), every other outcome is issue as usual. -/
def State.mmIssue (s0 : State) (sid : StallId) (fmt : Nat) (f : FmtM) : State :=
  let k := sid.num
  let word := f.word (BitVec.ofNat 4 fmt)
  match s0.squareOf k with
  | none => s0.issueAt sid word (mmAt fmt f word)
  | some _ =>
    let s := s0.at (s0.stall k).nextIssue
    let t := s.stall k
    if s0.mayIssue k && t.pc < stockBytes && t.wordAt t.pc = some word then
      match mmAt fmt f word s k t with
      | .wait => s0
      | .fault c d => s.stallFault k c d
      | .go _ t' _ => s.setStall k t'
    else s0.issueAt sid word (mmAt fmt f word)

/-- MM.H16 (Table STL.8). -/
def execMmH16 (sid : StallId) (f : FmtM) (s : State) : Out := .next (s.mmIssue sid 0 f)
/-- MM.Q8F. -/
def execMmQ8f (sid : StallId) (f : FmtM) (s : State) : Out := .next (s.mmIssue sid 1 f)
/-- MM.Q8G. -/
def execMmQ8g (sid : StallId) (f : FmtM) (s : State) : Out := .next (s.mmIssue sid 2 f)
/-- MM.Q8FG. -/
def execMmQ8fg (sid : StallId) (f : FmtM) (s : State) : Out := .next (s.mmIssue sid 3 f)
/-- MM.Q8GF. -/
def execMmQ8gf (sid : StallId) (f : FmtM) (s : State) : Out := .next (s.mmIssue sid 4 f)
/-- MM.I8. -/
def execMmI8 (sid : StallId) (f : FmtM) (s : State) : Out := .next (s.mmIssue sid 5 f)
/-- MM.Q4. -/
def execMmQ4 (sid : StallId) (f : FmtM) (s : State) : Out := .next (s.mmIssue sid 6 f)
/-- MM.I4. -/
def execMmI4 (sid : StallId) (f : FmtM) (s : State) : Out := .next (s.mmIssue sid 7 f)

/-! ## The sum -/

/-- An operand element's exact value under its block exponent (R113, R118). -/
def operandVal (f : Fmt) (signed : Bool) (code bexp : Nat) : Fl :=
  let g := if f.isInt then (if f.bits = 8 then (if signed then .i8s else .i8u) else (if signed then .i4s else .i4u)) else f
  match elemVal g code with
  | .fin d => if f = .q4 then .fin (d.scale (blockOfByte bexp)) else .fin d
  | v => v

/-- One addition of R119: the running value plus an exact product; a product with a void operand is NaN (R118). -/
def addProd (acc : Word32) (a w : Fl) : Word32 :=
  match a, w with
  | .fin x, .fin y => fAddTo (.fin (x.mul y)) acc
  | _, _ => canonNaN

/-- Element of an activation block at row `r`, position `kk` (R139). -/
def actElem (f : Fmt) (signed : Bool) (block : List Line) (sc : Line) (r kk : Nat) : Fl :=
  operandVal f signed (bitsAt (catLines block) (256 * r + kk * f.bits) f.bits) (bitsAt sc.toNat (8 * (2 * r + kk / 32)) 8)

/-- Element of a weight block at position `kk`, column `c`, in either layout (R139). -/
def wtElem (f : Fmt) (signed trans : Bool) (block : List Line) (sc : Line) (kk c : Nat) : Fl :=
  let at_ := if trans then 256 * c + kk * f.bits else (kk * 16 + c) * f.bits
  operandVal f signed (bitsAt (catLines block) at_ f.bits) (bitsAt sc.toNat (8 * (2 * c + kk / 32)) 8)

/-- One output element over the instruction's positions in ascending k (R119, R143, R146). -/
def mmElem (fmt : Nat) (sga sgw trans : Bool) (K d b0 p : Nat) (act wt : List (List Line)) (aS wS : List Line)
    (arr r c : Nat) (start : Word32) : Word32 :=
  let ff := mmFmts fmt
  (upFrom 0 p).foldl (fun acc j =>
    let base := 16 * d * (b0 + j)
    let ab := act.getD (arr * p + j) []
    let wb := wt.getD j []
    let as_ := aS.getD (arr * p + j) 0#512
    let ws_ := wS.getD j 0#512
    (upFrom 0 (min (16 * d) (K - base))).foldl (fun acc2 kk =>
      addProd acc2 (actElem ff.1 sga ab as_ r kk) (wtElem ff.2 sgw trans wb ws_ kk c)) acc) start

/-- A bank after a matrix instruction: zeroed first under MODE 01; elements outside the extent keep their value (R85, R142). -/
def bankAfter (old : Bank) (mode rows cols : Nat) (el : Nat → Nat → Word32 → Word32) : Bank :=
  if mode = 0 ∧ (rows = 0 ∨ cols = 0) then old
  else
    let base : Bank := if mode = 1 ∨ !old.held then ⟨true, []⟩ else { old with held := true }
    { base with v := (upFrom 0 rows).foldl (fun v r => (upFrom 0 cols).foldl (fun v2 c =>
        tput v2 (16 * r + c) (el r c (tget base.v 0#32 (16 * r + c)))) v) base.v }

/-- Every array's bank after a matrix instruction (R141, R142). -/
def Stall.mmWrite (t : Stall) : OpKind → Stall
  | .mm fmt bank mode na m n K d b0 p tp sga sgw _ _ act wt aS wS =>
    (upFrom 0 (na + 1)).foldl (fun u a =>
      u.setBank a bank (bankAfter (u.bank a bank) mode (min m 16) (min n 16) fun r c start =>
        mmElem fmt sga sgw tp K d b0 p act wt aS wS a r c start)) t
  | _ => t

/-- Whether an instruction in flight is a matrix instruction. -/
def OpKind.isMm : OpKind → Bool
  | .mm .. => true
  | _ => false

/-- The oldest matrix instruction in flight retires: its last accumulator write falls in this cy (R83, R119, R161). -/
def execMatrixRetire (sid : StallId) (s0 : State) : Out :=
  let k := sid.num
  match (s0.stall k).ops.find? fun o => o.kind.isMm with
  | none => .next s0
  | some o =>
    let s := s0.at o.due
    .next (s.setStall k (((s.stall k).mmWrite o.kind).retire o.seq))

/-! ## Squares -/

/-- Stall number at offset (X, Y) of a square (R148). -/
def Square.at_ (q : Square) (X Y : Nat) : Nat := stallNum q.die (q.x0 + X) (q.y0 + Y)

/-- The stalls of a square in the order of stall ID (R148). -/
def Square.stalls (q : Square) : List Nat := (upFrom 0 32).flatMap fun Y => (upFrom 0 32).map fun X => q.at_ X Y

/-- Whether two squares are the same placement. -/
def Square.same (q r : Square) : Bool := q.die = r.die && q.x0 = r.x0 && q.y0 = r.y0

/-- The state with a square replaced. -/
def State.setSquare (s : State) (q : Square) : State :=
  { s with squares := s.squares.map fun r => if r.same q then q else r }

/-- The bound square with this origin. -/
def State.squareAt (s : State) (d x0 y0 : Nat) : Option Square :=
  s.squares.find? fun q => q.die = d && q.x0 = x0 && q.y0 = y0

/-- A stall's instruction of a square in flight, and the stall after GO in cy `i` (R154, R155, R159 to R161). -/
def goStall (s : State) (q : Square) (fmt : Nat) (f : FmtM) (x : Mat) (i b : Nat) (X Y : Nat) : Stall :=
  let k := q.at_ X Y
  let t := s.stall k
  let west := s.stall (q.at_ 0 Y)
  let north := s.stall (q.at_ X 0)
  let rows := min 16 (x.m - 16 * Y)
  let cols := min 16 (x.n - 16 * X)
  let o := mmOp f fmt x (west.actBlocks x) (north.wtBlocks x) (west.actScales x) (north.wtScales x) rows cols
  let o' := match o with
    | .mm a1 a2 a3 a4 a5 a6 a7 a8 a9 a10 a11 a12 a13 a14 _ a16 a17 a18 a19 =>
      .mm a1 a2 a3 a4 a5 a6 a7 a8 a9 a10 a11 a12 a13 a14 (x.supplied X Y) a16 a17 a18 a19
    | z => z
  let t1 := { ((t.bumpGate f).pushOp (b + 16 * x.p + X + Y + 17) o') with ready := none }
  { t1.advance i .seq with latch := north.latchAfter f x (north.wtBlocks x) (north.wtScales x), arrEnd := b + 16 * x.p + X + Y }

/-- Stalls of a square stop issue for a reason of the square (R156, R157); stalls already stopped keep their state. -/
def State.stopSquare (s : State) (q : Square) (code : Nat) : State :=
  q.stalls.foldl (fun s2 k =>
    let t := s2.stall k
    match t.status with
    | .stopped _ _ => s2
    | _ => s2.setStall k { t with status := .stopped code s2.now, ready := none }) s

/-- The cy after the last READY of a square where a GO is due (Table TILE.4): every stall holds READY, none has signalled STOP by the cy
of the last READY, whose way up the tree takes as long (R157), and neither a HOLD (R158) nor a hold of the die (12_clerk_firmware.md R413)
latches by the cy in which the instruction would issue. -/
def State.squareGoCy (s : State) (q : Square) : Option Nat :=
  let last := q.stalls.foldl (fun m k => match (s.stall k).ready with
    | some r => max m r.2
    | none => m) 0
  let up := q.stalls.all fun k => (s.stall k).ready.isSome && match (s.stall k).status with
    | .running => true
    | .stopped _ cy => decide (last ≤ cy)
    | _ => false
  let hold := s.bell.held || s.heldDies.contains q.die
    || s.bell.symbols.any fun x => x.kind = .hold && decide (x.latch ≤ last + 11)
  if q.stop.isSome || hold || !up then none else some last

/-- The square's tree decides (R155, R156, R158): with READY from every stall and no STOP, and the same word and entries in every
stall, the instruction issues in every stall 12 cy after the last READY, those included that stopped after GO was decided; a difference
withholds GO and stops the square. DESIGN CHOICE: the offset of 0x0309 is one detail, X + 256 × Y (R156, log entry 157). -/
def execSquareGo (die : Fin 16) (x0 y0 : Nat) (s0 : State) : Out :=
  match s0.squareAt die.val x0 y0 with
  | none => .next s0
  | some q =>
    match s0.squareGoCy q with
    | none => .next s0
    | some last =>
      let ks := q.stalls
      let s := s0.at (last + 11)
      let origin := q.at_ 0 0
      let t0 := s.stall origin
      let w0 := (t0.ready.map (·.1)).getD 0
      match decodeWord ⟨die, 0, 0⟩ (BitVec.ofNat 64 w0) with
      | none => .next s0
      | some c =>
        let fm : Option (Nat × FmtM) := match c with
          | .mmH16 _ f => some (0, f)
          | .mmQ8f _ f => some (1, f)
          | .mmQ8g _ f => some (2, f)
          | .mmQ8fg _ f => some (3, f)
          | .mmQ8gf _ f => some (4, f)
          | .mmI8 _ f => some (5, f)
          | .mmQ4 _ f => some (6, f)
          | .mmI4 _ f => some (7, f)
          | _ => none
        match fm with
        | none => .next s0
        | some (fmt, f) =>
          let entries := fun (t : Stall) => [t.tcReg f.tca.toNat, t.tcReg f.tcw.toNat, t.tcReg f.tcd.toNat]
          match ks.find? fun k => (s.stall k).ready.map (·.1) ≠ some w0 || entries (s.stall k) ≠ entries t0 with
          | some k =>
            let s1 := (s.raiseStall 0x0309 k [q.x0, q.y0, xOf k - q.x0 + 256 * (yOf k - q.y0)]).setSquare { q with stop := some 0x0309 }
            .next (s1.stopSquare q 0x0309)
          | none =>
            let x := matOf fmt f t0
            let b := max (s.now + 5) q.passEnd
            let s1 := (upFrom 0 32).foldl (fun s2 Y => (upFrom 0 32).foldl (fun s3 X =>
              s3.setStall (q.at_ X Y) (goStall s q fmt f x s.now b X Y)) s2) s
            .next (s1.setSquare { q with passEnd := b + 16 * x.p, issued := q.issued + 1 })

/-- STOP on the square tree (R157): once a stall of the square has stopped, every other stop issue 12 cy later, and 0x030A names
the first stopping stall; a GO decided before it goes first. -/
def execSquareMemberStop (die : Fin 16) (x0 y0 : Nat) (s0 : State) : Out :=
  match s0.squareAt die.val x0 y0 with
  | none => .next s0
  | some q =>
    let stops := q.stalls.filterMap fun k => match (s0.stall k).status with
      | .stopped _ cy => some (cy, k)
      | _ => none
    match stops with
    | [] => .next s0
    | h :: r =>
      if q.stop.isSome || (s0.squareGoCy q).isSome then .next s0
      else
        let first := r.foldl (fun (b : Nat × Nat) p => if p.1 < b.1 then p else b) h
        let s := s0.at (first.1 + 12)
        let s1 := (s.raiseStall 0x030A first.2 [q.x0, q.y0]).setSquare { q with stop := some 0x030A }
        .next (s1.stopSquare q 0x030A)

/-! ## Accumulator moves -/

/-- The arrays that a mask names, ascending (Table STL.7). -/
def arraysOf (am : Nat) : List Nat := (upFrom 0 4).filter fun i => bitAt am i

/-- Whether every earlier matrix instruction on the bank of a named array, and every earlier accumulator move, has retired (R80). -/
def Stall.accReady (t : Stall) (bank : Nat) (arrays : List Nat) : Bool :=
  t.ops.all fun o => match o.kind with
    | .mm _ b _ na .. => !(b = bank && arrays.any (· ≤ na))
    | .accRd .. => false
    | .accWr .. => false
    | _ => true

/-- ACC.RD: AM = 0 or an extent past v127 raises 0x0203, an unknown CF 0x0210 (R84). -/
def accRdIssue (f : FmtA) (s : State) (_k : Nat) (t : Stall) : Issue :=
  let arrays := arraysOf f.am.toNat
  let g := Fmt.ofCode f.cf.toNat
  let n := accOutRegs (g.getD .b32) * arrays.length
  issueIf [(f.rsv ≠ 0#37, 0x0202), (arrays.isEmpty || (g.isSome && 4 * f.qd.toNat + n > 128), 0x0203), (g.isNone, 0x0210)]
    (t.accReady f.bank.toNat arrays && t.vFree (upFrom (4 * f.qd.toNat) n))
    (.go s (t.pushOp (s.now + 4 * arrays.length + 2)
      (.accRd f.qd.toNat arrays f.bank.toNat (f.clr = 1#1) (g.getD .b32))) .seq)

/-- ACC.RD (Table STL.7). -/
def execAccRd (sid : StallId) (f : FmtA) (s : State) : Out :=
  .next (s.issueAt sid (f.word 0x13#6 0x00#6) (accRdIssue f))

/-- ACC.WR: CF and CLR are reserved (Table STL.7). -/
def accWrIssue (f : FmtA) (s : State) (_k : Nat) (t : Stall) : Issue :=
  let arrays := arraysOf f.am.toNat
  let n := 16 * arrays.length
  issueIf [(f.rsv ≠ 0#37 || f.cf ≠ 0#4 || f.clr ≠ 0#1, 0x0202), (arrays.isEmpty || 4 * f.qd.toNat + n > 128, 0x0203)]
    (t.accReady f.bank.toNat arrays && t.vReady (upFrom (4 * f.qd.toNat) n))
    (.go s (t.pushOp (s.now + 4 * arrays.length + 1) (.accWr f.qd.toNat arrays f.bank.toNat)) .seq)

/-- ACC.WR (Table STL.7). -/
def execAccWr (sid : StallId) (f : FmtA) (s : State) : Out :=
  .next (s.issueAt sid (f.word 0x13#6 0x01#6) (accWrIssue f))

/-- Groups of 32 elements, with enough fuel for the list's length. -/
def groups32 {α : Type} : Nat → List α → List (List α)
  | 0, _ => []
  | n + 1, l => l.take 32 :: groups32 n (l.drop 32)

/-- The output image of one bank in a format, round to nearest even (R84, R122, 03_formats.md R114, R115). -/
def accImage (f : Fmt) (vals : List Word32) : List Line :=
  if f = .q4 then
    let bs := (groups32 8 vals).map fun g => toQ4Block .rne 0 (g.map unpack32)
    splitLines 3 (packN 4 (bs.flatMap (·.1)) + (packN 8 (bs.map (·.2))) <<< 1024)
  else splitLines (accOutRegs f) (packN f.bits (vals.map fun v => toFmt f .rne 0 (unpack32 v)))

/-- The lines an ACC.RD writes for the arrays of the list, register by register. -/
def accRdLines (t : Stall) (f : Fmt) (bank reg : Nat) : List Nat → List (Nat × Line)
  | [] => []
  | a :: r =>
    let vals := (upFrom 0 256).map (t.bank a bank).elem
    zipW (fun i l => (i, l)) (upFrom reg (accOutRegs f)) (accImage f vals) ++ accRdLines t f bank (reg + accOutRegs f) r

/-- Scales attached to an array see its bank's values before conversion (Table STL.12 kind 2). -/
def Stall.seeArrays (t : Stall) (bank : Nat) : List Nat → Stall
  | [] => t
  | a :: r => (t.see (fun c => c.watchesArray a) ((upFrom 0 256).map fun i => unpack32 ((t.bank a bank).elem i))).seeArrays bank r

/-- Banks marked EMPTY (Table STL.7 CLR). -/
def Stall.clearBanks (t : Stall) (bank : Nat) : List Nat → Stall
  | [] => t
  | a :: r => (t.setBank a bank Bank.empty).clearBanks bank r

/-- Banks filled from 16 registers each (Table STL.7 ACC.WR). -/
def Stall.fillBanks (t : Stall) (bank reg : Nat) : List Nat → Stall
  | [] => t
  | a :: r =>
    let vals := (unpackN 32 256 (t.regsNat reg 16)).map (BitVec.ofNat 32)
    (t.setBank a bank ⟨true, zipW (fun i v => (i, v)) (upFrom 0 256) vals⟩).fillBanks bank (reg + 16) r

/-- The accumulator move in flight retires (Table STL.7, R80, R85). -/
def execAccMoveRetire (sid : StallId) (s0 : State) : Out :=
  let k := sid.num
  let isMove := fun (o : Op) => match o.kind with
    | .accRd .. => true
    | .accWr .. => true
    | _ => false
  match (s0.stall k).ops.find? isMove with
  | none => .next s0
  | some o =>
    let s := s0.at o.due
    let t := s.stall k
    match o.kind with
    | .accRd qd arrays bank clr f =>
      let t1 := (t.seeArrays bank arrays).setVs (accRdLines t f bank (4 * qd) arrays)
      .next (s.setStall k ((if clr then t1.clearBanks bank arrays else t1).retire o.seq))
    | .accWr qd arrays bank => .next (s.setStall k ((t.fillBanks bank (4 * qd) arrays).retire o.seq))
    | _ => .next s0

end Sys2Proof.Machine
end

