-- ==== Sys2Proof/Machine/Orders.lean ====
section
/-! DEFINITION. The start of a taken order (11_host_rings.md R377, 12_clerk_firmware.md R401, R410): the shared operation of every
order. -/
namespace Sys2Proof.Machine

/-- Orders that a SHUTTERED or DARK module does not start (14_power_ageing_resets.md R465). -/
def lateOps : List Nat := [0x06, 0x08, 0x10, 0x11, 0x30, 0x31]

/-- Whether a ring's next order may start: it has OP `op`, it was taken before the decision of the last emitted bell (R18), a fence of its own waits for
nothing, no hold is in effect, the scheduler core runs and the module's state allows it (R377, Table CLK.10, R465). -/
def State.mayStart (s : State) (r : Ring) (o : Order) (op : Nat) : Bool :=
  o.op = op && decide (o.taken + 90 < s.bell.lastLatch) && (!o.fence || r.started.isEmpty) && !s.bell.held
    && (s.core s.bell.lead 1).state = 1 && !((s.mod.state = 4 || s.mod.state = 5) && lateOps.contains op)

/-- The next order of a ring starts, where it has OP `op` and may start: it moves from the intake to the started orders, and `f` says
what it does (R377). The ring is the one served last (R410). -/
def State.onOrder (s : State) (ring op : Nat) (f : Order → State → State) : State :=
  let r := s.ring ring
  match r.intake with
  | [] => s
  | o :: rest =>
    if s.mayStart r o op then
      f o ((({ s with served := ring } : State).ask (.order o.id)).setRing ring { r with intake := rest, started := r.started ++ [o] })
    else s

/-- An order completes DONE with a result. -/
def State.done (s : State) (o : Order) (result : Nat) : State := s.complete o.id stDone 0 result 0
/-- An order completes REJECTED with a code of its block's table. -/
def State.reject (s : State) (o : Order) (code : Nat) : State := s.complete o.id stRejected 0 code 0
/-- An order completes FAILED with its incident. -/
def State.fail (s : State) (o : Order) (code : Nat) : State := s.complete o.id stFailed code 0 0

/-- A byte of the inline parameters, numbered as in the descriptor from 36 on (Table HST.8). -/
def Order.byte (o : Order) (i : Nat) : Nat := (o.inl.getD (i - 36) 0#8).toNat
/-- `n` bytes of the inline parameters from descriptor byte `i`. -/
def Order.inline (o : Order) (i n : Nat) : Nat := fieldAt o.inl (i - 36) n
/-- `n` bytes of the argument block from byte `i`. -/
def Order.arg (o : Order) (i n : Nat) : Nat := fieldAt o.args i n

/-! ## Contexts and their stalls -/

/-- Stalls that a context's assignment names. -/
def Ctx.assigned (x : Ctx) : Nat := x.assign.length

/-- Whether a stall lies on a held die or is fenced (12_clerk_firmware.md Table CLK.5 code 3), or placement on its die is unavailable
while a die reset runs (14_power_ageing_resets.md R468). -/
def State.barred (s : State) (k : Nat) : Bool :=
  s.fenced k || s.heldDies.contains (dieOf k) || s.pow.dieResetting.contains (dieOf k)

/-- Stalls of a rectangle in ascending ID. -/
def rectStalls (d x0 y0 x1 y1 : Nat) : List Nat :=
  (upFrom y0 (y1 + 1 - y0)).flatMap fun y => (upFrom x0 (x1 + 1 - x0)).map fun x => stallNum d x y

/-- A stall that no context occupies any more, or that another now occupies: its state is that of a stall which holds nothing; its
stream numbers go on, its counted stock errors stay, and check units that snooped it stop (15_check_unit_queues.md R482). -/
def State.vacate (s0 : State) (occ : Option Nat) (k : Nat) : State :=
  let s := s0.snoopDrop k
  let t := s.stall k
  let p := s.port k
  (s.setStall k { Stall.fresh with occ := occ, eccBell := t.eccBell, eccCount := t.eccCount }).setPort k
    { StallPort.fresh with goSeq := p.goSeq }

/-- Several stalls vacated or occupied. -/
def State.vacateAll (s : State) (occ : Option Nat) : List Nat → State
  | [] => s
  | k :: r => (s.vacate occ k).vacateAll occ r

/-- 2 MiB crates of HBM taken one after another; none where HBM has not room for all (R402). -/
def State.takeCrates (s : State) : Nat → List Nat → Option (State × List Nat)
  | 0, l => some (s, l)
  | n + 1, l => match s.takeUnits 3 0 32 with
    | none => none
    | some (t, u) => t.takeCrates n (l ++ [u])

/-- HBM units given back. -/
def State.giveCrates (s : State) : List Nat → State
  | [] => s
  | u :: r => (s.giveUnits ⟨3, s.hbmUnitAddr u, s.mod.id⟩).giveCrates r

/-- 2 MiB crates of a save area for `n` stalls (R402). -/
def saveCrates (n : Nat) : Nat := ceilDiv (n * 224) 2048

/-- Squares of a context. -/
def State.squaresOf (s : State) (c : Nat) : List Square := s.squares.filter fun q => q.ctx = c

/-- Every order number that is started or taken and names a context of its own accord (Table HST.9: context, plan, square, ledger and
training orders), of context `c`. -/
def Order.ofCtx (o : Order) (c : Nat) : Bool := o.ctx = c && decide (o.op ≠ 0) && decide (o.op < 0x70)

/-- Started orders of a context. -/
def State.startedOf (s : State) (c : Nat) : List Order := s.rings.flatMap fun p => p.2.started.filter fun o => o.ofCtx c
/-- Taken orders of a context that have not started. -/
def State.intakeOf (s : State) (c : Nat) : List Order := s.rings.flatMap fun p => p.2.intake.filter fun o => o.ofCtx c

/-- Orders completed one after another. -/
def State.completeAll (s : State) (status inc : Nat) : List Order → State
  | [] => s
  | o :: r => (s.complete o.id status inc 0 0).completeAll status inc r

/-- NOP: completes DONE at the step 6 where it starts (Table HST.9). -/
def execNopOrder (ring : Nat) (s : State) : Out := .next (s.onOrder ring 0x00 fun o t => t.done o 0)

end Sys2Proof.Machine
end

