-- ==== Sys2Proof/Machine/Ends.lean ====
section
/-! DEFINITION. Faults taking effect, and the end or reset of a context (06_tallies.md R216, 05_porter.md R189, 12_clerk_firmware.md
R399, R400): the shared operations. -/
namespace Sys2Proof.Machine

/-- Whether a request still waits inside its own die: for translation, at its stall, at its spine or in its row port (R189). -/
def Req.waitsHome (r : Req) : Bool := r.atSpine || r.inPort || (match r.stage with
  | .xlate _ _ => true
  | .own => true
  | _ => false)

/-- Root stall of the stream whose line a flit carries. -/
def Flit.root (f : Flit) : Option Nat := match f.load with
  | .line root _ _ _ _ _ => some root
  | .sig _ => none

/-- Whether an answer waits at its row port for a full delivery buffer (05_porter.md R178). -/
def State.waitsPort (s : State) (r : Req) : Bool := match r.stage with
  | .data _ => !s.arriveRoom r
  | _ => false

/-- The lines and requests of the streams of some stalls are discarded where they wait, and their places freed (R189). -/
def State.dropStreams (s : State) (ks : List Nat) : State :=
  { s with
    reqs := s.reqs.filter fun r => !((r.waitsHome || s.waitsPort r) && ks.contains r.sid)
    flits := s.flits.filter fun f => match f.root with
      | some k => !ks.contains k
      | none => true }

/-- What a context left pending with the clerk is forgotten: dispatches, gathers, sets, bindings of squares. DESIGN CHOICE: its
squares are unbound by a reset as by its end (04_tile_ops.md R151, log entry 158). -/
def State.forget (s : State) (c : Nat) : State :=
  { s with
    sets := s.sets.filter (fun x => x.ctx ≠ c)
    binds := s.binds.filter (fun x => x.ctx ≠ c)
    gathers := s.gathers.filter (fun x => x.ctx ≠ c)
    dispatches := s.dispatches.filter (fun x => x.ctx ≠ c)
    sqReqs := s.sqReqs.filter (fun x => x.ctx ≠ c)
    squares := s.squares.map (fun q => if q.ctx = c then { q with unbind := true } else q)
    ledger := { s.ledger with waiters := s.ledger.waiters.filter fun w => w.ctx ≠ c } }

/-- The effects of a reset (kill = false) or of the end of a context at step 1 of a bell (R400): its streams are discarded, its stalls
stop, what it owned elsewhere is orphaned, its other orders complete CANCELLED, its reduction sets fault. A killed context's crates
are freed by the page commit of the same bell, after which its root table goes (`finishKill`). -/
def State.endCtx (s : State) (c : Nat) (kill : Bool) (order : Option Nat) : State :=
  let x := s.ctx c
  let ks := s.stallsOf c
  let s1 := ((s.dropStreams ks).vacateAll (if kill then none else some c) ks).orphanCtx c
  let mine := (s1.startedOf c ++ if kill then s1.intakeOf c else []).filter fun o => some o.id ≠ order
  let s2 := s1.completeAll stCancelled 0 mine
  let s3 := ((s2.faultSets (s2.sets.filter fun y => y.ctx = c)).forget c).dropExports (s2.ledger.moves.filter fun m => m.crate.ctx = c)
  if kill then
    let l := s3.ledger
    ((({ s3 with ledger := { l with
        pendFree := (l.pendFree.filter fun p => p.1.ctx ≠ c) ++ (l.crates.filter fun k => k.ctx = c).map fun k => (k, 0)
        pendShare := l.pendShare.filter fun q => q.crate.ctx ≠ c && q.toCtx ≠ c } } : State).giveCrates x.saveArea).setCtx c
      { Ctx.none with root := x.root })
  else
    s3.setCtx c { x with
      state := .created, images := [], ending := none, cause := none, save := none, restore := none, squares := []
      forward := [], restored := false, resumed := 0 }

/-- After the page commit, the tables of ended contexts go back to the HBM free list (R254, R272). -/
def State.finishKill (s : State) : List Nat → State
  | [] => s
  | c :: r =>
    let x := s.ctx c
    (if x.state = .free ∧ x.root ≠ none then (s.releaseTables c).setCtx c Ctx.none else s).finishKill r

/-- Stalls of a context stop issue with a cause; their porters start no further request (R399). -/
def State.stopStalls (s : State) (code : Nat) : List Nat → State
  | [] => s
  | k :: r =>
    let t := s.stall k
    (match t.status with
    | .stopped _ _ => s
    | _ => s.setStall k { t with status := .stopped code s.now }).stopStalls code r

/-- The context becomes FAULTED with the first reported cause (R399): every stall of it stops, its dispatches, started or only taken,
complete FAILED, and a save that it waited for fails (Table CLK.9). -/
def State.faultCtx (s : State) (c code k : Nat) : State :=
  let x := s.ctx c
  let s1 := s.setCtx c { x with state := .faulted, cause := none, save := none }
  let s2 := (s1.stopStalls code (s1.stallsOf c)).raise 0x0B06 (dieOf k) (some c) k 0xFFFFFFFF [code]
  let orders := (s2.startedOf c).filter (fun o => o.op = 0x06 || o.op = 0x07) ++ (s2.intakeOf c).filter fun o => o.op = 0x06
  ({ s2 with dispatches := s2.dispatches.filter fun d => d.ctx ≠ c } : State).completeAll stFailed code orders

/-- Contexts whose first stop was reported before the decision fault at step 1 (R399), before the resets and ends of the same step
(R395, R400). -/
def State.faultReported (s : State) : List Nat → State
  | [] => s
  | c :: r =>
    let x := s.ctx c
    (match x.cause with
    | some (code, k) => s.faultCtx c code k
    | none => s).faultReported r

/-- Resets and ends of step 1 (R400), with the orders to complete after step 5. -/
def State.endAsked (s : State) : List Nat → State × List Nat
  | [] => (s, [])
  | c :: r =>
    match (s.ctx c).ending with
    | some (kill, id) =>
      let t := (s.endCtx c kill (some id)).endAsked r
      (t.1, id :: t.2)
    | none => s.endAsked r

end Sys2Proof.Machine
end

