-- ==== Sys2Proof/Machine/Clerk.lean ====
section
/-! DEFINITION. Context, plan, unit and square orders, the plan loader, stop reports and the policy (12_clerk_firmware.md R397 to R410). -/
namespace Sys2Proof.Machine

/-! ## Contexts (Table CLK.4) -/

/-- CTX_CREATE: FREE becomes CREATED with a root table and the overrun policy of OVR; PRIO is inline, QUANTUM and MINRUN are 0. -/
def execCtxCreate (ring : Nat) (s : State) : Out :=
  .next (s.onOrder ring 0x01 fun o t =>
    if (t.ctx o.ctx).state ≠ .free then t.reject o 1
    else match t.newTable o.ctx 4096 with
      | none => t.reject o 4
      | some (u, root) =>
        (u.setCtx o.ctx { Ctx.none with state := .created, prio := o.byte 36 % 8, ovrFault := o.ovr, root := some root }).done o 0)

/-- A reset or kill is noted for step 1 of the next emitted bell (R400); a kill that waits already is not replaced. -/
def State.askEnd (s : State) (o : Order) (kill : Bool) : State :=
  let x := s.ctx o.ctx
  match x.ending with
  | some (true, _) => s
  | _ => s.setCtx o.ctx { x with ending := some (kill, o.id) }

/-- CTX_KILL (R400). -/
def execCtxKill (ring : Nat) (s : State) : Out :=
  .next (s.onOrder ring 0x02 fun o t => if (t.ctx o.ctx).state = .free then t.reject o 1 else t.askEnd o true)

/-- CTX_RESET (R400); a FREE or SAVED context has no stalls to reset. -/
def execCtxReset (ring : Nat) (s : State) : Out :=
  .next (s.onOrder ring 0x03 fun o t =>
    let st := (t.ctx o.ctx).state
    if st = .free ∨ st = .saved then t.reject o 1 else t.askEnd o false)

/-- CTX_POLICY (R410). -/
def execCtxPolicy (ring : Nat) (s : State) : Out :=
  .next (s.onOrder ring 0x09 fun o t =>
    let x := t.ctx o.ctx
    if x.state = .free then t.reject o 1
    else (t.setCtx o.ctx { x with prio := o.byte 36 % 8, quantum := o.inline 38 2, minrun := o.inline 40 2 }).done o 0)

/-- Number of a context state in the order of Table CLK.3. -/
def CtxState.code : CtxState → Nat
  | .free => 0
  | .created => 1
  | .running => 2
  | .saving => 3
  | .saved => 4
  | .restoring => 5
  | .faulted => 6

/-- CTX_QUERY: state in RESULT [3:0], stalls assigned in [31:8]. -/
def execCtxQuery (ring : Nat) (s : State) : Out :=
  .next (s.onOrder ring 0x0C fun o t =>
    let x := t.ctx o.ctx
    t.done o (x.state.code + 256 * x.assigned))

/-! ## Assignment (R402, R403) -/

/-- A rectangle of Table CLK.6. -/
structure RectReq where
  die : Nat
  choose : Bool
  x0 : Nat
  y0 : Nat
  x1 : Nat
  y1 : Nat
  deriving DecidableEq, Repr

/-- Rectangle `r` of a region argument. -/
def regionRect (o : Order) (r : Nat) : RectReq :=
  let e := o.arg (64 + 8 * r) 8
  ⟨bitsAt e 0 4, bitAt e 4, bitsAt e 8 6, bitsAt e 14 7, bitsAt e 21 6, bitsAt e 27 7⟩

/-- Whether a rectangle's reserved bits and bounds keep Table CLK.6. -/
def regionRectOk (o : Order) (r : Nat) : Bool :=
  let e := o.arg (64 + 8 * r) 8
  let q := regionRect o r
  bitsAt e 5 3 = 0 && e >>> 34 = 0 && decide (q.y0 ≤ 79) && decide (q.x0 ≤ q.x1) && decide (q.y0 ≤ q.y1) && decide (q.y1 ≤ 79)

/-- Stalls of a fixed rectangle. -/
def RectReq.stalls (q : RectReq) : List Nat := rectStalls q.die q.x0 q.y0 q.x1 q.y1

/-- Whether a list names something twice. -/
def hasTwice : List Nat → Bool
  | [] => false
  | a :: r => r.contains a || hasTwice r

/-- Whether a stall may be taken by a chosen rectangle (R403). -/
def State.spotFree (s : State) (taken : List Nat) (k : Nat) : Bool :=
  !s.barred k && (s.stall k).occ.isNone && !taken.contains k

/-- The first position of a chosen rectangle: dies from DIE on, origins in ascending y, then ascending x (R403). -/
def State.chooseRect (s : State) (taken : List Nat) (q : RectReq) : Option (List Nat) :=
  let w := q.x1 - q.x0
  let h := q.y1 - q.y0
  (upFrom 0 16).findSome? fun i =>
    (upFrom 0 (80 - h)).findSome? fun y =>
      (upFrom 0 (64 - w)).findSome? fun x =>
        let l := rectStalls ((q.die + i) % 16) x y (x + w) (y + h)
        if l.all (s.spotFree taken) then some l else none

/-- Chosen rectangles placed in ascending number, each outside those before it (R403). -/
def State.chooseRects (s : State) (taken : List Nat) : List RectReq → Option (List Nat)
  | [] => some taken
  | q :: r => match s.chooseRect taken q with
    | none => none
    | some l => s.chooseRects (taken ++ l) r

/-- The stalls that a REGION_ASSIGN assigns, or the code that refuses it (Table CLK.5). -/
def State.regionStalls (s : State) (o : Order) : Nat ⊕ List Nat :=
  let n := o.arg 0 2
  let nums := upFrom 0 n
  let rects := nums.map (regionRect o)
  let fixed := (rects.filter fun q => !q.choose).flatMap RectReq.stalls
  if n = 0 || decide (n > 63) || o.arg 2 62 ≠ 0 || !(nums.all (regionRectOk o)) || hasTwice fixed then .inl 7
  else if fixed.any s.barred then .inl 3
  else if fixed.any fun k => match (s.stall k).occ with
    | some c => c ≠ o.ctx
    | none => false then .inl 2
  else match s.chooseRects fixed (rects.filter fun q => q.choose) with
    | none => .inl 5
    | some l => .inr l

/-- REGION_ASSIGN: every rectangle or none, and a save area for all the stalls the context then holds, which replaces the one it had
(R402). -/
def execRegionAssign (ring : Nat) (s : State) : Out :=
  .next (s.onOrder ring 0x04 fun o t =>
    let x := t.ctx o.ctx
    if x.state ≠ .created ∧ x.state ≠ .running then t.reject o 1
    else match t.regionStalls o with
      | .inl code => t.reject o code
      | .inr l =>
        let new := l.filter fun k => !x.assign.contains k
        let all := x.assign ++ new
        let take := l.filter fun k => (t.stall k).occ ≠ some o.ctx
        if new.isEmpty then (t.vacateAll (some o.ctx) take).done o all.length
        else match t.takeCrates (saveCrates all.length) [] with
          | none => t.reject o 4
          | some (u, area) =>
            (((u.giveCrates x.saveArea).vacateAll (some o.ctx) take).setCtx o.ctx { x with assign := all, saveArea := area }).done o
              all.length)

/-- REGION_RELEASE of a CREATED context: its stalls and its save area are free, its squares unbind (R401; DESIGN CHOICE,
04_tile_ops.md R151, log entry 158). -/
def execRegionRelease (ring : Nat) (s : State) : Out :=
  .next (s.onOrder ring 0x05 fun o t =>
    let x := t.ctx o.ctx
    if x.state ≠ .created then t.reject o 1
    else
      let u := (t.vacateAll none (t.stallsOf o.ctx)).giveCrates x.saveArea
      (({ u with squares := u.squares.map fun q => if q.ctx = o.ctx then { q with unbind := true } else q } : State).setCtx o.ctx
        { x with assign := [], saveArea := [] }).done o 0)

/-! ## Dispatch (R404) -/

/-- Entry `e` of a dispatch argument (Table CLK.7). -/
def planEntry (o : Order) (e : Nat) : PlanEntry :=
  let b := 64 + 32 * e
  ⟨o.arg b 1, o.arg (b + 1) 1, o.arg (b + 2) 1, o.arg (b + 3) 1, o.arg (b + 4) 1, o.arg (b + 8) 8, o.arg (b + 16) 4, o.arg (b + 20) 4,
    o.arg (b + 24) 4, o.arg (b + 28) 4⟩

/-- Whether an entry keeps Table CLK.7. -/
def PlanEntry.ok (p : PlanEntry) : Bool :=
  decide (p.die < 16) && decide (p.x0 ≤ p.x1) && decide (p.x1 ≤ 63) && decide (p.y0 ≤ p.y1) && decide (p.y1 ≤ 79)
    && p.image % 64 = 0 && decide (p.image < 2 ^ 56) && decide (64 ≤ p.len) && decide (p.len ≤ stockBytes) && p.len % 64 = 0
    && p.load % 64 = 0 && decide (p.load + p.len ≤ stockBytes) && p.entry % 8 = 0 && decide (p.entry < stockBytes)
    && decide (p.skeep ≤ stockBytes) && p.skeep % 4096 = 0

/-- Stalls of an entry. -/
def PlanEntry.stalls (p : PlanEntry) : List Nat := rectStalls p.die p.x0 p.y0 p.x1 p.y1

/-- Stalls of a dispatch. -/
def Dispatch.stalls (d : Dispatch) : List Nat := d.entries.flatMap PlanEntry.stalls

/-- Whether a stall runs a plan or a plan is being loaded for it. -/
def State.planBusy (s : State) (k : Nat) : Bool := s.runsPlan k || s.dispatches.any fun d => d.stalls.contains k

/-- PLAN_DISPATCH: its argument and stalls are checked, and the plan loaders begin (R404). -/
def execPlanDispatch (ring : Nat) (s : State) : Out :=
  .next (s.onOrder ring 0x06 fun o t =>
    let x := t.ctx o.ctx
    let n := o.arg 0 2
    let nums := upFrom 0 n
    let entries := nums.map (planEntry o)
    let stalls := entries.flatMap PlanEntry.stalls
    let rsv := o.arg 2 6 ≠ 0 || o.arg 16 48 ≠ 0 || nums.any fun e => o.arg (64 + 32 * e + 5) 3 ≠ 0
    if x.state ≠ .created ∧ x.state ≠ .running then t.reject o 1
    else if n = 0 || decide (n > 16) || rsv || !(entries.all PlanEntry.ok) || hasTwice stalls then t.reject o 7
    else if stalls.any t.barred then t.reject o 3
    else if stalls.any fun k => (t.stall k).occ ≠ some o.ctx || t.planBusy k then t.reject o 2
    else { t with dispatches := t.dispatches ++ [⟨o.id, o.ctx, entries, o.arg 8 8, [], t.now, false, []⟩] })

/-- One piece of a plan image: a crate's part of it, from a VA for `n` bytes. -/
def imagePieces (va : Nat) : Nat → Nat → List (Nat × Nat)
  | 0, _ => []
  | fuel + 1, n =>
    if n = 0 then []
    else
      let k := min n (4096 - va % 4096)
      (va, k) :: imagePieces (va + k) fuel (n - k)

/-- What the loader of a die meets as it reads an image through the ledger (R404): the bytes, or the VA refused. -/
inductive Loaded where
  | ok (s : State) (l : List Byte)
  | wait (s : State)
  | refused (s : State) (va : Nat)

/-- What one piece of an image meets at its global address `a`: an error of its storage, else the errors that `met` gives its lines by VA
(R404, 07_depot_memory.md R234, R242). -/
def State.meetPiece (s : State) (ctx die va n a : Nat) (met : List Met) : State × Nat :=
  let own := s.lineCode die a
  if own ≠ 0 then (s.lineError die (engineId die) (some ctx) a own, own)
  else s.meetAll die (engineId die) (some ctx)
    ((met.filter fun m => decide (va ≤ m.addr) && decide (m.addr < va + n)).map fun m => ⟨a + (m.addr - va), m.err⟩)

/-- Bytes of an image read in ascending VA; host memory, or the module that holds a remote crate, answers with the image's bytes (`host`).
A piece that waits keeps the loader waiting; one refused since ends the reading (R262, R263). -/
def State.loadImage (s : State) (ctx die : Nat) (met : List Met) (host : HostMem) (base : Nat) : List (Nat × Nat) → List Byte → Loaded
  | [], acc => .ok s acc
  | (va, n) :: r, acc =>
    let x := s.engineTr ctx va (engineId die) die false
    match x.2 with
    | .ok a _ _ =>
      let y := x.1.meetPiece ctx die va n a met
      if y.2 ≠ 0 then .refused y.1 va
      else if a / 2 ^ 46 = s.mod.id ∧ a % 2 ^ 46 < stockTop then
        y.1.loadImage ctx die met host base r (acc ++ y.1.bytes (a % 2 ^ 46) n)
      else (match host with
        | .bytes b => y.1.loadImage ctx die met host base r (acc ++ (b.drop (va - base)).take n)
        | h => .refused (if a / 2 ^ 46 = s.mod.id then y.1.hostMiss die (engineId die) (some ctx) a h else y.1) va)
    | .refuse _ => .refused x.1 va
    | _ => .wait x.1

/-- Bytes written at one offset into the stock of several stalls. -/
def State.writeStocks (s : State) (off : Nat) (l : List Byte) : List Nat → State
  | [] => s
  | k :: r => (s.write (stockAddr k off) l).writeStocks off l r

/-- The image of entry `e` of a dispatch has been read and written into every stall of its rectangle (R404). A refused translation
or an uncorrectable line ends the order FAILED with 0x0B07. Only a die whose control core runs loads (Table CLK.10), and none while
a HOLD is in effect. -/
def execPlanLoaderWrite (order e : Nat) (met : List Met) (host : HostMem) (s : State) : Out :=
  match s.dispatches.find? fun d => d.order = order && !d.running with
  | none => .next s
  | some d =>
    match d.entries[e]? with
    | none => .next s
    | some p =>
      let before := (upFrom 0 e).any fun i => (d.entries[i]?.map (·.die)) = some p.die && !d.loaded.contains i
      if s.bell.held || d.loaded.contains e || before || (s.core p.die 0).state ≠ 1 then .next s
      else match s.loadImage d.ctx p.die met host p.image (imagePieces p.image (p.len / 4096 + 2) p.len) [] with
        | .wait t => .next t
        | .refused t va =>
          .next ((({ t with dispatches := t.dispatches.filter fun x => x.order ≠ order } : State).raise 0x0B07 p.die (some d.ctx) 0
            0xFFFFFFFF [e, va]).complete order stFailed 0x0B07 0 0)
        | .ok t l =>
          let d' := { d with loaded := d.loaded ++ [e], lastWrite := t.now }
          .next (({ t with dispatches := t.dispatches.map fun x => if x.order = order then d' else x } : State).writeStocks p.load l
            p.stalls)

/-- A stall at the start of a plan (R62, R136, R191, R398): afresh where the context starts on it, else only PC and s1 change.
DESIGN CHOICE: its fetch buffer is empty, so the first word issues once its line has come (01_bell.md R41, log entry 151). -/
def Stall.startPlan (t : Stall) (entry s1 skeep now : Nat) : Stall :=
  let u := if t.started then t else
    { Stall.fresh with occ := t.occ, eccBell := t.eccBell, eccCount := t.eccCount, latch := t.latch }
  { u with
    started := true, status := .running, pc := entry, s := tput u.s 1 (BitVec.ofNat 64 s1), skeep := skeep
    fetch := [], fetchReq := [], curLine := none, nextIssue := now, segStart := now, ready := none }

/-- Stall `k` starts a plan in the latch cy: its porter, tallies and bindings are those of a new context where the context starts on it
(R398). -/
def State.startStall (s : State) (p : PlanEntry) (s1 : Nat) (k : Nat) : State :=
  let t := s.stall k
  let q := s.port k
  (s.setStall k (t.startPlan p.entry s1 p.skeep s.now)).setPort k (if t.started then q else { StallPort.fresh with goSeq := q.goSeq })

/-- Stalls of an entry started. -/
def State.startStalls (s : State) (p : PlanEntry) (s1 : Nat) : List Nat → State
  | [] => s
  | k :: r => (s.startStall p s1 k).startStalls p s1 r

/-- Entries of a dispatch started. -/
def State.startEntries (s : State) (s1 : Nat) : List PlanEntry → State
  | [] => s
  | p :: r => (s.startStalls p s1 p.stalls).startEntries s1 r

/-- Dispatches whose every image was written before the decision start all their stalls in the latch cy (R404). -/
def State.startDispatches (s : State) (decided : Nat) : List Dispatch → State
  | [] => s
  | d :: r =>
    (if !d.running && decide (d.loaded.length = d.entries.length) && decide (d.lastWrite < decided) then
      let t := s.startEntries d.s1 d.entries
      let x := t.ctx d.ctx
      let u := t.setCtx d.ctx { x with state := .running, resumed := if x.state = .running then x.resumed else t.bell.count }
      { u with dispatches := u.dispatches.map fun y =>
          if y.order = d.order then { d with running := true, waits := d.stalls } else y }
    else s).startDispatches decided r

/-! ## Saves and restores (R406, R408): the orders -/

/-- CTX_SAVE asks for a save of a CREATED or RUNNING context. -/
def execCtxSave (ring : Nat) (s : State) : Out :=
  .next (s.onOrder ring 0x07 fun o t =>
    let x := t.ctx o.ctx
    if x.state ≠ .created ∧ x.state ≠ .running then t.reject o 1
    else t.setCtx o.ctx { x with save := some (some o.id) })

/-- CTX_RESTORE asks for a restore of a SAVED context; refused with code 3 where a stall saved outside a square is fenced or held. -/
def execCtxRestore (ring : Nat) (s : State) : Out :=
  .next (s.onOrder ring 0x08 fun o t =>
    let x := t.ctx o.ctx
    if x.state ≠ .saved then t.reject o 1
    else if x.images.any fun i => i.sqX = 0xFF && t.barred i.stall then t.reject o 3
    else t.setCtx o.ctx { x with restore := some o.id })

/-! ## Units (R208) -/

/-- RCK_ASSIGN: UNIT, or with ANY the lowest free unit that is present. -/
def execRckAssign (ring : Nat) (s : State) : Out :=
  .next (s.onOrder ring 0x0A fun o t =>
    let free := fun (u : Nat) => t.unitHere u && !(t.unit u).assigned
    let pick := if bitAt (o.byte 37) 0 then firstNat free (upFrom 0 256) else
      let u := o.byte 36
      if free u || (t.unitHere u && (t.unit u).owner = o.ctx) then some u else none
    if (t.ctx o.ctx).state = .free then t.reject o 1
    else match pick with
      | none => t.reject o 6
      | some u =>
        (if (t.unit u).assigned then t else t.setUnit u { Unit.free with assigned := true, owner := o.ctx }).done o u)

/-- RCK_RELEASE: the unit is orphaned and returns to the free list (R216). -/
def execRckRelease (ring : Nat) (s : State) : Out :=
  .next (s.onOrder ring 0x0B fun o t =>
    let u := o.byte 36
    if (t.ctx o.ctx).state = .free then t.reject o 1
    else if t.unitHere u && (t.unit u).assigned && (t.unit u).owner = o.ctx then (t.orphanUnit u).done o 0
    else t.reject o 6)

/-! ## Squares (R149, R151, R405) -/

/-- A square order of a context that occupies stalls: the request waits for step 5. -/
def State.askSquare (s : State) (o : Order) (any unbind : Bool) : State :=
  let st := (s.ctx o.ctx).state
  if st ≠ .created ∧ st ≠ .running then s.reject o 1
  else { s with sqReqs := s.sqReqs ++ [⟨o.id, o.ctx, any, unbind, o.byte 36, o.byte 37, o.byte 38⟩] }

/-- SQ_BIND (R149). -/
def execSqBind (ring : Nat) (s : State) : Out := .next (s.onOrder ring 0x10 fun o t => t.askSquare o false false)

/-- SQ_BIND_ANY (R405). -/
def execSqBindAny (ring : Nat) (s : State) : Out := .next (s.onOrder ring 0x11 fun o t => t.askSquare o true false)

/-- SQ_UNBIND (R151): the placement is required to be bound to the context. -/
def execSqUnbind (ring : Nat) (s : State) : Out :=
  .next (s.onOrder ring 0x12 fun o t =>
    if (t.ctx o.ctx).state = .free then t.reject o 1
    else match t.squareAt (o.byte 36) (o.byte 37) (o.byte 38) with
      | some q =>
        if q.ctx ≠ o.ctx then t.reject o 8
        else { t.setSquare { q with unbind := true } with
          sqReqs := t.sqReqs ++ [⟨o.id, o.ctx, false, true, o.byte 36, o.byte 37, o.byte 38⟩] }
      | none => t.reject o 8)

/-- SQ_QUERY: bit 4i + j for each bound placement (16i, 16j) of the die. -/
def execSqQuery (ring : Nat) (s : State) : Out :=
  .next (s.onOrder ring 0x13 fun o t =>
    if (t.ctx o.ctx).state = .free then t.reject o 1
    else
      let mine := t.squares.filter fun q => q.ctx = o.ctx && q.die = o.byte 36
      t.done o (sumNat (mine.map fun q => 2 ^ (4 * (q.x0 / 16) + q.y0 / 16))))

/-! ## Stop reports and the policy -/

/-- A stopped stall's report reaches the stop collector, which its die's control core forwards (R399, Table CLK.10). -/
def execStopReport (sid : StallId) (s : State) : Out :=
  let k := sid.num
  match (s.stall k).status, (s.stall k).occ with
  | .stopped code _, some c => if (s.core sid.die.val 0).state = 1 then .next (s.reportFault c code k) else .next s
  | _, _ => .next s

/-- Contexts that occupy stalls which a saved context needs (R410). -/
def State.rivals (s : State) (c : Nat) : List Nat :=
  let need := (s.ctx c).images.map (·.stall)
  ctxNums.filter fun v => v ≠ c && (s.stallsOf v).any fun k => need.contains k

/-- Bells that a context has run since it resumed. -/
def State.ranBells (s : State) (c : Nat) : Nat := s.bell.count - (s.ctx c).resumed

/-- A save chosen by the policy. -/
def State.chooseSave (s : State) (c : Nat) : State :=
  let x := s.ctx c
  if (x.state = .running ∨ x.state = .created) ∧ x.save.isNone then s.setCtx c { x with save := some none } else s

/-- Saves chosen one after another. -/
def State.chooseSaves (s : State) : List Nat → State
  | [] => s
  | c :: r => (s.chooseSave c).chooseSaves r

/-- Saved contexts with a pending restore, by PRIO descending, then by number. -/
def State.restoreQueue (s : State) : List Nat :=
  (upFrom 0 8).reverse.flatMap fun p => ctxNums.filter fun c =>
    let x := s.ctx c
    x.state = .saved && x.restore.isSome && x.prio = p

/-- The victims of each waiting restore, in its turn (R410). -/
def State.makeWay (s : State) : List Nat → State
  | [] => s
  | w :: r =>
    let v := s.rivals w
    let ok := v.all fun c => decide ((s.ctx c).prio < (s.ctx w).prio) && decide (s.ranBells c ≥ (s.ctx c).minrun)
    (if ok then s.chooseSaves v else s).makeWay r

/-- Contexts whose quantum has run out while a context of no lower PRIO waits for their stalls (R410). -/
def State.quantumOut (s : State) : List Nat :=
  ctxNums.filter fun c =>
    let x := s.ctx c
    x.state = .running && decide (x.quantum > 0) && decide (s.ranBells c ≥ x.quantum)
      && s.restoreQueue.any fun w => decide ((s.ctx w).prio ≥ x.prio) && (s.rivals w).contains c

/-- The scheduler core's default policy for one bell interval (R410): saves of the contexts that stand in the way of a higher PRIO, and
of those whose quantum has run out. The orders that it starts and the restores that become possible are commands of their own. -/
def execPolicy (s : State) : Out :=
  if (s.core s.bell.lead 1).state ≠ 1 then .next s
  else
    let t := s.makeWay s.restoreQueue
    .next (t.chooseSaves t.quantumOut)

end Sys2Proof.Machine
end

