-- ==== Sys2Proof/Machine/Saves.lean ====
section
/-! DEFINITION. Binding of squares, saves and restores of contexts (04_tile_ops.md R148 to R152, 12_clerk_firmware.md R405 to R408,
05_porter.md R188). -/
namespace Sys2Proof.Machine

/-! ## Squares (R148 to R152) -/

/-- Origins of placements on a die in ascending y0, then ascending x0 (00_scope.md R8, R405). -/
def origins : List (Nat × Nat) := [0, 16, 32, 48].flatMap fun y => [0, 16, 32].map fun x => (x, y)

/-- Stalls of a placement. -/
def placeStalls (die x0 y0 : Nat) : List Nat := rectStalls die x0 y0 (x0 + 31) (y0 + 31)

/-- Whether two placements of one die share a stall. -/
def placesMeet (ax ay bx by_ : Nat) : Bool := decide (ax < bx + 32) && decide (bx < ax + 32) && decide (ay < by_ + 32) && decide (by_ < ay + 32)

/-- Whether a placement is available (R148). -/
def State.placeFree (s : State) (die x0 y0 : Nat) : Bool :=
  !s.deadDies.contains die && (placeStalls die x0 y0).all (fun k => !s.fenced k)
    && !(s.squares.any fun q => q.die = die && placesMeet q.x0 q.y0 x0 y0)

/-- Whether a stall runs no plan or is parked (R149). A firmware plan fits each of its segments to its bell (R301, R312), so that a
stall which runs one counts as parked. -/
def State.restsForBind (s : State) (k : Nat) : Bool :=
  match (s.stall k).status with
  | .parked _ _ _ => true
  | .idle => true
  | _ => false

/-- Whether a stall is one that a context in RESTORING takes (R397). -/
def State.promised (s : State) (k : Nat) : Bool := s.ctxs.any fun p => p.2.state = .restoring && p.2.images.any fun i => i.stall = k

/-- The first failing condition of R149 for a binding, or for one that a restore makes. -/
def State.bindCause (s : State) (c die x0 y0 : Nat) (restore : Bool) : Option Nat :=
  let ks := placeStalls die x0 y0
  let x := s.ctx c
  let outside := x.images.filterMap fun i => if i.sqX = 0xFF then some i.stall else none
  let mine := fun (k : Nat) =>
    if restore then x.assign.contains k && (s.stall k).occ.isNone && !outside.contains k && !s.promised k
    else (s.stall k).occ = some c && s.restsForBind k
  if !(origins.contains (x0, y0)) || decide (die ≥ 16) then some 1
  else if !s.placeFree die x0 y0 then some 2
  else if !(ks.all mine) then some 3
  else if s.squares.length ≥ 64 then some 4
  else none

/-- Weight latches of stalls invalid (R150, R151); a square instruction that waited at READY waits no more. -/
def State.clearLatches (s : State) : List Nat → State
  | [] => s
  | k :: r => (s.setStall k { s.stall k with latch := [], ready := none }).clearLatches r

/-- A square bound (R150). -/
def State.bindSquare (s : State) (c die x0 y0 : Nat) : State :=
  let t := s.clearLatches (placeStalls die x0 y0)
  { t with squares := t.squares ++ [⟨die, x0, y0, c, 0, 0, none, false⟩] }

/-- Whether every stall of a square rests: parked, stopped with nothing in flight, or running no plan (R151). -/
def State.mayUnbind (s : State) (q : Square) : Bool :=
  q.stalls.all fun k => match (s.stall k).status with
    | .parked _ _ _ => true
    | .stopped _ _ => (s.stall k).ops.isEmpty
    | .idle => true
    | .running => false

/-- Squares unbound (R151). -/
def State.unbindSquares (s : State) : List Square → State
  | [] => s
  | q :: r =>
    let t := s.clearLatches q.stalls
    ({ t with squares := t.squares.filter fun x => !x.same q } : State).unbindSquares r

/-- Orders to unbind whose square is unbound complete. -/
def State.doneUnbinds (s : State) : List SqReq → State
  | [] => s
  | q :: r =>
    (if q.unbind && (s.squareAt q.die q.x0 q.y0).isNone then
      ({ s with sqReqs := s.sqReqs.filter fun x => x.order ≠ q.order } : State).complete q.order stDone 0 0 0
    else s).doneUnbinds r

/-- The placement that SQ_BIND_ANY takes: available, and wholly within the context's occupied stalls (R405). -/
def State.anyPlace (s : State) (c die : Nat) : Option (Nat × Nat × Nat) :=
  let d0 := if die = 0xFF then 0 else die
  (upFrom 0 16).findSome? fun i => origins.findSome? fun p =>
    let d := (d0 + i) % 16
    if s.placeFree d p.1 p.2 && (placeStalls d p.1 p.2).all fun k => (s.stall k).occ = some c then some (d, p.1, p.2) else none

/-- A square incident (R162): stall ID, context and PC as every tile incident, the die and, after the table's details, the origin. Where
the placement names no stall, WHERE is 0 and PC is none (log entry 144). -/
def State.raiseSquare (s : State) (code c d x0 y0 k : Nat) (detail : List Nat) : State :=
  let real := d < 16 && x0 < 64 && y0 < 80 && namesStall k
  s.raise code (if d < 16 then d else 0xFF) (some c) (if real then k else 0) (if real then (s.stall k).pc else 0xFFFFFFFF)
    (detail ++ [x0, y0])

/-- Bindings asked for by orders, one after another (R149, R405). -/
def State.bindAsked (s : State) : List SqReq → State
  | [] => s
  | q :: r =>
    (if q.unbind then s
    else
      let t := { s with sqReqs := s.sqReqs.filter fun x => x.order ≠ q.order }
      match if q.any then t.anyPlace q.ctx q.die else some (q.die, q.x0, q.y0) with
      | none => t.complete q.order stRejected 0 5 0
      | some (d, x, y) => match t.bindCause q.ctx d x y false with
        | some n => (t.raiseSquare 0x030B q.ctx d x y (stallNum d x y) [n]).complete q.order stFailed 0x030B 0 0
        | none => (t.bindSquare q.ctx d x y).complete q.order stDone 0 (if q.any then d + 256 * x + 65536 * y else 0) 0).bindAsked r

/-! ## Saves (R406) -/

/-- Whether every started bucket of a context's reduction sets has completed (R312). -/
def State.bucketsIdle (s : State) (c : Nat) : Bool := s.sets.all fun x => x.ctx ≠ c || x.buckets.isEmpty

/-- Whether a context that waits for a save may be saved at a bell decided now (R406); a reset or kill that acts at the same bell takes
the save away at step 1 (Table CLK.9). -/
def State.saveReady (s : State) (c : Nat) : Bool :=
  let x := s.ctx c
  (x.state = .created || x.state = .running) && x.save.isSome
    && (s.stallsOf c).all s.restsForBind && !(s.dispatches.any fun d => d.ctx = c && !d.running) && s.bucketsIdle c

/-- Squares that contexts about to be saved hold are noted in them (R152). -/
def State.noteSquares (s : State) : List Nat → State
  | [] => s
  | c :: r =>
    let x := s.ctx c
    (s.setCtx c { x with squares := (s.squaresOf c).map fun q => (q.die, q.x0, q.y0) }).noteSquares r

/-- The context begins its save: its stalls start no segment (R406). -/
def State.startSaves (s : State) : List Nat → State
  | [] => s
  | c :: r =>
    let x := s.ctx c
    (if x.save.isSome ∧ (x.state = .created ∨ x.state = .running) then s.setCtx c { x with state := .saving, save := none } else s).startSaves r

/-- Whether everything a stall had in flight has drained. -/
def State.drained (s : State) (k : Nat) : Bool :=
  let p := s.port k
  (s.stall k).ops.isEmpty && p.deliv.isEmpty && p.pend.isEmpty
    && (p.slots.all fun q => q.2.state = .free || (q.2.state = .running && q.2.outstanding = 0 && q.2.inFlight = 0))
    && !(s.reqs.any fun r => r.sid = k) && !(s.flits.any fun f => f.root = some k)

/-- Stock ranges of stall `k` that its slot keeps: bytes 0 to SKEEP - 1 and the context's stock-tier crates (R406). -/
def State.keptRanges (s : State) (c k : Nat) : List (Nat × Nat) :=
  let crates := s.ledger.crates.filterMap fun x => match s.leafOf x with
    | some (_, e) =>
      if x.ctx = c && eTier e = 1 && (eAddr e - stockWin) / 0x40000 = k then some ((eAddr e - stockWin) % 0x40000, 65536) else none
    | none => none
  (0, (s.stall k).skeep) :: crates

/-- The bytes of stock ranges, by offset. -/
def State.keptCells (s : State) (k : Nat) (l : List (Nat × Nat)) : List Host.Cell :=
  (cellsIn s.mem (stockAddr k 0) (stockAddr k stockBytes)).filterMap fun c =>
    let off := c.1 - stockAddr k 0
    if l.any fun r => decide (r.1 ≤ off) && decide (off < r.1 + r.2) then some (off, c.2) else none

/-- Offset of a stall in the square of a list that holds it; 0xFF twice outside (Table CLK.8). -/
def sqOffset (l : List (Nat × Nat × Nat)) (k : Nat) : Nat × Nat :=
  ((l.find? fun q => q.1 = dieOf k && decide (q.2.1 ≤ xOf k) && decide (xOf k < q.2.1 + 32) && decide (q.2.2 ≤ yOf k)
    && decide (yOf k < q.2.2 + 32)).map fun q => (xOf k - q.2.1, yOf k - q.2.2)).getD (0xFF, 0xFF)

/-- The chunk at which a stream resumes: the first that not every receiver has signalled (Table PRT.5 NEXT). -/
def State.nextChunk (s : State) (k i : Nat) (q : Slot) (d : Desc) : Nat :=
  if d.dkind = 3 then q.chunks
  else
    let of := fun (r : Nat) => (((s.port r).rx.find? fun x => x.root = k && x.slot = i && x.goSeq = q.goSeq).map (·.nextChunk)).getD 0
    match d.dests k with
    | [] => 0
    | r :: rest => rest.foldl (fun n x => min n (of x)) (of r)

/-- A RUNNING slot as its image restores it: the walk stands at the first element of chunk NEXT (R188). -/
def Slot.resumeAt (q : Slot) (d : Desc) (next : Nat) : Slot :=
  let e0 := next * d.cb * 8 / d.dbits
  let run := e0 / d.count 0
  let e := e0 % d.count 0
  let b := d.base run
  { q with
    run := run, line := if d.pack then (b + e * d.sbits / 8) / 64 - b / 64 else e, skipTo := e0
    outstanding := 0, asm := [], chunkDone := [], chunks := next, inFlight := 0, before := 0 }

/-- The slots that a stall's image keeps: RUNNING ones only (R188). -/
def State.savedSlots (s : State) (k : Nat) : Tbl Slot :=
  ((s.port k).slots.filter fun p => p.2.state = .running).map fun p => match p.2.desc with
    | some d => (p.1, p.2.resumeAt d (s.nextChunk k p.1 p.2 d))
    | none => p

/-- The image of one stall (R104, R188, R219). -/
def State.imageOf (s : State) (c k : Nat) : Image :=
  let t := s.stall k
  let p := s.port k
  let o := sqOffset (s.ctx c).squares k
  let st := { Stall.fresh with
    started := t.started, status := t.status, pc := t.pc, s := t.s, tc := t.tc, gates := t.gates, scales := t.scales, full := t.full
    v := t.v.filter fun r => t.full.getLsbD r.1, acc := t.acc.filter fun b => b.2.held, user := t.user, skeep := t.skeep }
  let kept := s.keptRanges c k
  ⟨k, k, o.1, o.2, t.skeep, st, { p with slots := s.savedSlots k, rx := p.rx.map fun r => { r with counts := [] }, deliv := [], pend := [] },
    kept, s.keptCells k kept⟩

/-- Whether the control cores of the dies of some stalls run (Table CLK.10). -/
def State.coresRun (s : State) (ks : List Nat) : Bool := ks.all fun k => (s.core (dieOf k) 0).state = 1

/-- Check units that snoop a running stream of a stall are left at the start of the chunk at which it resumes (15_check_unit_queues.md
R482). -/
def State.saveSnoops (s : State) : List Nat → State
  | [] => s
  | k :: r =>
    let t := (upFrom 0 8).foldl (fun (u : State) i =>
      let q := (s.port k).slot i
      match q.state, q.desc with
      | .running, some d => u.snoopSave k i q.goSeq (s.nextChunk k i q d * (d.chunk + 1))
      | _, _ => u) s
    t.saveSnoops r

/-- Every save write is acknowledged: the context is SAVED and its stalls are unoccupied (R406). -/
def execSaveComplete (ctx : Fin 64) (s : State) : Out :=
  let c := ctx.val
  let x := s.ctx c
  let ks := s.stallsOf c
  if x.state ≠ .saving ∨ s.bell.held ∨ !s.coresRun ks ∨ !(ks.all s.drained) then .next s
  else
    let t := ((s.saveSnoops ks).setCtx c { x with state := .saved, images := ks.map (s.imageOf c) }).vacateAll none ks
    .next (t.completeAll stDone 0 ((t.startedOf c).filter fun o => o.op = 0x07))

/-! ## Restores (R408) -/

/-- The placement of a square that a restore binds: the saved one where it meets R149, else the first that does (R408). -/
def State.restorePlace (s : State) (c : Nat) (q : Nat × Nat × Nat) : Option (Nat × Nat × Nat) :=
  let ok := fun (p : Nat × Nat × Nat) => (s.bindCause c p.1 p.2.1 p.2.2 true).isNone
  if ok q then some q
  else (upFrom 0 16).findSome? fun d => origins.findSome? fun p => if ok (d, p.1, p.2) then some (d, p.1, p.2) else none

/-- The squares of a restore bound one after another: the state, the placements found, and the first square for which there was none. -/
def State.bindRestore (s : State) (c : Nat) : List (Nat × Nat × Nat) → State × List (Nat × Nat × Nat) × Option (Nat × Nat × Nat)
  | [] => (s, [], none)
  | q :: r => match s.restorePlace c q with
    | none => (s, [], some q)
    | some p =>
      let t := (s.bindSquare c p.1 p.2.1 p.2.2).bindRestore c r
      (t.1, p :: t.2.1, t.2.2)

/-- Whether a pending restore may begin at a bell decided now (R408): the stalls saved outside squares are free, and every square has
a placement. -/
def State.restoreReady (s : State) (c : Nat) : Bool :=
  let x := s.ctx c
  x.state = .saved && x.restore.isSome && x.ending.isNone
    && (x.images.all fun i => i.sqX ≠ 0xFF || ((s.stall i.stall).occ.isNone && !s.barred i.stall))
    && (s.bindRestore c x.squares).2.2.isNone

/-- Stalls that a restore takes outside squares. -/
def Ctx.fixedStalls (x : Ctx) : List Nat := (x.images.filter fun i => i.sqX = 0xFF).map (·.stall)

/-- Contexts whose restore may begin at a bell decided in cy `d`, in ascending number; one whose stalls a context before it takes at the
same bell waits, since only one of them may be outside SAVED and FREE (R397, R408, log entry 149). -/
def State.restorable (s : State) (d : Nat) : List Nat → List Nat → List Nat
  | _, [] => []
  | taken, c :: r =>
    let x := s.ctx c
    let old := (x.restore.map fun id => !s.young d (.order id)).getD false
    if old && s.restoreReady c && x.fixedStalls.all fun k => !taken.contains k then
      c :: s.restorable d (taken ++ x.fixedStalls) r
    else s.restorable d taken r

/-- Contexts whose restore may begin at the bell decided now, in cy `d`. -/
def State.restorableNow (s : State) (d : Nat) : List Nat := s.restorable d [] ctxNums

/-- The new stall of an image: the same offset in the square's new placement (R152). -/
def Image.moved (i : Image) (old new : List (Nat × Nat × Nat)) : Image :=
  if i.sqX = 0xFF then i
  else
    let hit := (zipW (fun a b => (a, b)) old new).find? fun p => sqOffset [p.1] i.stall = (i.sqX, i.sqY)
    match hit with
    | some (_, p) => { i with stall := stallNum p.1 (p.2.1 + i.sqX) (p.2.2 + i.sqY) }
    | none => i

/-- Forwarding after stalls have moved (R215). -/
def forwards (old : List (Nat × Nat)) (l : List (Nat × Nat)) : List (Nat × Nat) :=
  let moved := fun (k : Nat) => ((l.find? fun p => p.1 = k).map (·.2)).getD k
  let kept := (old.map fun p => (p.1, moved p.2)).filter fun p => !(l.any fun q => q.1 = p.1)
  (kept ++ l).filter fun p => p.1 ≠ p.2

/-- 0x030B of a restore binding, with the first condition that fails at the square's saved placement (R149). -/
def State.raiseUnbound (s : State) (c : Nat) (q : Nat × Nat × Nat) : State :=
  s.raiseSquare 0x030B c q.1 q.2.1 q.2.2 (stallNum q.1 q.2.1 q.2.2) [(s.bindCause c q.1 q.2.1 q.2.2 true).getD 2]

/-- Step 5 of a restore: its squares are bound; where one is refused, 0x030B is recorded and those bound are unbound at the next emitted
bell (R149, R408). It waits where a restore of the same bell has taken a stall of it (R397). -/
def State.restoreSquares (s : State) : List Nat → State
  | [] => s
  | c :: r =>
    let x := s.ctx c
    let b := s.bindRestore c x.squares
    (show State from if x.fixedStalls.any s.promised then s else match b.2.2 with
    | none =>
      let imgs := x.images.map fun i => i.moved x.squares b.2.1
      b.1.setCtx c { x with
        state := .restoring, images := imgs, squares := b.2.1
        forward := forwards x.forward (imgs.map fun i => (i.home, i.stall)) }
    | some q =>
      ({ b.1 with squares := b.1.squares.map fun y => if y.ctx = c then { y with unbind := true } else y } : State).raiseUnbound c q
    ).restoreSquares r

/-- The stalls of contexts whose restore has begun at step 5 are occupied from step 6 on. -/
def State.occupyRestored (s : State) : List Nat → State
  | [] => s
  | c :: r =>
    let x := s.ctx c
    (if x.state = .restoring then s.vacateAll (some c) (x.images.map (·.stall)) else s).occupyRestored r

/-- The last write of a restore has been made (R408). -/
def execRestoreComplete (ctx : Fin 64) (s : State) : Out :=
  let c := ctx.val
  let x := s.ctx c
  if x.state ≠ .restoring ∨ s.bell.held ∨ x.restored ∨ !s.coresRun (x.images.map (·.stall)) then .next s
  else .next (s.setCtx c { x with restored := true })

/-- Stock bytes of an image written back. -/
def State.putKept (s : State) (i : Image) : State :=
  let base := stockAddr i.stall 0
  let mem := i.kept.foldl (fun m r => cellsDrop m (base + r.1) (base + r.1 + r.2)) s.mem
  { s with mem := i.stock.foldl (fun m c => cellPut m (base + c.1) c.2) mem }

/-- A RUNNING descriptor shifted by the displacement of its stall's square (R408). -/
def Desc.shifted (d : Desc) (old new : Nat) : Desc :=
  if d.dkind = 2 then
    { d with x0 := d.x0 + xOf new - xOf old, x1 := d.x1 + xOf new - xOf old
             y0 := d.y0 + yOf new - yOf old, y1 := d.y1 + yOf new - yOf old }
  else d

/-- A slot of a restored porter: a RUNNING one goes on under a new stream number; what a FREE one held of its last stream is lost
(log entry 13). -/
def restoredSlot (i : Image) (base ctr now n : Nat) : Slot :=
  match tfind i.port.slots n with
  | some q => { q with goSeq := base + q.goSeq, desc := q.desc.map fun d => d.shifted i.home i.stall, due := now }
  | none =>
    let f := fun (j : Nat) => Config.freeLost (ctr + 256 + 3 * n + j)
    { Slot.idle with chunks := f 0 % 2 ^ 32, streamId := f 1 % 65536, faulted := f 2 % 2 = 1 }

/-- A restored stall (R104): what its image holds; its turn buffers hold what no image keeps (log entry 13). -/
def restoredStall (i : Image) (t : Stall) (c ctr : Nat) : Stall :=
  { i.st with
    occ := some c, eccBell := t.eccBell, eccCount := t.eccCount
    turn := (upFrom 0 256).map fun r => (r, Config.freeLost (ctr + r) % 2 ^ 1024) }

/-- An image installed on its stall at the bell at which it resumes. -/
def State.install (s : State) (c : Nat) (imgs : List Image) (i : Image) : State :=
  let k := i.stall
  let p := s.port k
  let newRoot := fun (r : Nat) => ((imgs.find? fun j => j.home = r).map (·.stall)).getD r
  let rx := i.port.rx.map fun r => { r with root := newRoot r.root, goSeq := (s.port (newRoot r.root)).goSeq + r.goSeq }
  let port : StallPort := { i.port with
    slots := (upFrom 0 8).map fun n => (n, restoredSlot i p.goSeq s.freeCtr s.now n)
    rx := rx, goSeq := p.goSeq, credit := 64, xcache := [], meshLast := [] }
  ((s.setStall k (restoredStall i (s.stall k) c s.freeCtr)).setPort k port).putKept i |>.useFree 280

/-- Images installed one after another. -/
def State.installAll (s : State) (c : Nat) (imgs : List Image) : List Image → State
  | [] => s
  | i :: r => (s.install c imgs i).installAll c imgs r

/-- Stream numbers of restored stalls go on after those of their images. -/
def State.raiseSeqs (s : State) : List Image → State
  | [] => s
  | i :: r =>
    let p := s.port i.stall
    (s.setPort i.stall { p with goSeq := p.goSeq + i.port.goSeq }).raiseSeqs r

/-- Contexts whose restore has been written in whole resume at step 6: their CTX_RESTORE orders complete (R408). -/
def State.resumeAll (s : State) : List Nat → State
  | [] => s
  | c :: r =>
    let x := s.ctx c
    (if x.state = .restoring ∧ x.restored then
      let t := (s.installAll c x.images x.images).raiseSeqs x.images
      let runs := x.images.any fun i => i.st.status ≠ .idle
      let u := t.setCtx c { x with
        state := if runs then .running else .created, images := [], restored := false, restore := none, squares := [], resumed := t.bell.count }
      u.completeAll stDone 0 ((u.startedOf c).filter fun o => o.op = 0x08)
    else s).resumeAll r

/-- Stock-tier leaves that name a stall which resumes elsewhere are rewritten at step 4 (R408). -/
def State.moveStockLeaves (s : State) (imgs : List Image) : List Crate → State
  | [] => s
  | c :: r =>
    (match s.leafOf c with
    | some (_, e) =>
      let st := eStore e
      let k := (st.addr - stockWin) / 0x40000
      (match imgs.find? fun (i : Image) => i.home = k && i.stall ≠ k with
      | some i =>
        if st.tier = 1 then
          let st2 : Store := { st with addr := stockAddr i.stall ((st.addr - stockWin) % 0x40000) }
          let t := (s.putStore c st2).dropCrate c
          { t with ledger := { t.ledger with shares := t.ledger.shares.map fun (x : Store × Crate) => if x.1 = st ∧ x.2 = c then (st2, c) else x } }
        else s
      | none => s)
    | none => s).moveStockLeaves imgs r

/-- Step 4 for the contexts that resume at this bell. -/
def State.moveLeaves (s : State) : List Nat → State
  | [] => s
  | c :: r =>
    let x := s.ctx c
    (if x.state = .restoring ∧ x.restored then s.moveStockLeaves x.images s.ledger.crates else s).moveLeaves r

end Sys2Proof.Machine
end

