-- ==== Sys2Proof/Machine/Power.lean ====
section
/-! DEFINITION. Stretches, voltage domains, fences, die resets and the low-power states (14_power_ageing_resets.md R447 to R468). -/
namespace Sys2Proof.Machine

/-! ## Stretch (R449, R451, R471) -/

/-- MOD_POWER_LIMIT.LIMIT in W. -/
def State.powerLimit (s : State) : Nat := bitsAt (s.liveReg 38000 0xA4) 0 16
/-- THROTTLE_C. -/
def State.throttleC (s : State) : Nat := bitsAt (s.liveReg 0x6E5F 0xA8) 0 8
/-- TRIP_C. -/
def State.tripC (s : State) : Nat := bitsAt (s.liveReg 0x6E5F 0xA8) 8 8

/-- The largest of a list of numbers. -/
def maxNat (l : List Nat) : Nat := l.foldl max 0

/-- S_pow after an interval of `t` cy that took `e` mJ: T × p = e × 2,250,000 W cy (R449). -/
def nextSpow (e t limit p max_ s : Nat) : Nat :=
  let tp := e * 2250000
  min max_ (if tp > limit * t then ceilDiv tp limit - p
    else if tp * 100 < 95 * limit * t then s - ceilDiv s 8 else s)

/-- S_th after an interval (R449). -/
def nextSth (hot cool : Bool) (p max_ s : Nat) : Nat :=
  min max_ (if hot then s + ceilDiv p 4 else if cool then s - ceilDiv s 8 else s)

/-- Decisions in a row at which a stretch stood at its maximum, 17 once its condition holds at the 16th or later (R451). -/
def stretchRun (atMax cond : Bool) (n : Nat) : Nat :=
  if !atMax then 0 else if n = 17 then 17 else if n ≥ 15 then (if cond then 17 else 16) else n + 1

/-- The power core's computation at a decision, over the interval of `t` cy that ends there (R449, R452). A power core that is not in
service leaves S as it is; the first decision ends no interval. -/
def State.stretch (s : State) (t : Nat) (x : Telemetry) : State :=
  let w := s.pow
  let first : State := { s with pow := { w with tel := x, telCy := t, first := false } }
  if !s.powerRuns then first
  else if w.first then first
  else
    let mx := s.stretchMax
    let temp := maxNat x.temps
    let hot := decide (temp ≥ s.throttleC) || decide (x.hbm ≥ 95)
    let cool := decide (temp + 5 ≤ s.throttleC) && decide (x.hbm ≤ 90)
    let above := decide (x.energy * 2250000 > s.powerLimit * t)
    let spow := nextSpow x.energy t s.powerLimit s.period mx w.spow
    let sth := if bitAt s.bell.cause 1 then mx else nextSth hot cool s.period mx w.sth
    { s with pow := { w with
      tel := x, telCy := t, first := false, spow := spow, sth := sth, s := max spow sth
      runPow := stretchRun (decide (spow = mx)) above w.runPow, runTh := stretchRun (decide (sth = mx)) hot w.runTh } }

/-- What a decision learns of the input, the temperatures and the energy drawn (R444, R445, R448, R471). -/
def State.measure (s : State) (x : Telemetry) : State :=
  { s with pow := { s.pow with
    inputOut := decide (x.vin < 4600) || decide (x.vin > 5800)
    hotDies := if x.temps.all fun c => decide (c + 10 < s.tripC) then [] else s.pow.hotDies
    energySum := (s.pow.energySum + x.energy) % 2 ^ 64 } }

/-- Step 8: the telemetry fields take the values of the interval that ended at this bell's decision (R471). -/
def State.capture (s : State) : State :=
  let w := s.pow
  let x := w.tel
  let dies := upFrom 0 16
  { s with pow := { w with
    vin := x.vin, iin := x.iin, tmax := maxNat x.temps, hmax := x.hbm, energy := w.energySum
    powerNow := if w.telCy = 0 then 0 else x.energy * 2250000 / w.telCy
    dieTemp := zipW (fun n c => (n, c)) dies x.temps
    diePower := zipW (fun n c => (n, c)) dies x.powers
    diePeak := zipW (fun n c => (n, max c (tget w.diePeak 0 n))) dies x.temps } }

/-! ## Domains (R447, R455, R456) -/

/-- Domain 20n + k. -/
def State.dom (s : State) (i : Nat) : Domain := tget s.pow.domains Domain.fresh i
/-- The state with a domain replaced. -/
def State.setDom (s : State) (i : Nat) (d : Domain) : State := { s with pow := { s.pow with domains := tput s.pow.domains i d } }
/-- GUARD. -/
def State.guardCodes (s : State) : Nat := bitsAt s.guardReg 0 5

/-- Domains that the ageing log records as fenced, those due included (R459, R461). -/
def State.logFenced (s : State) : List Nat :=
  (upFrom 0 320).filter fun i => s.domFenced (i / 20) (i % 20) && !s.deadDies.contains (i / 20) || (s.dom i).due.isSome

/-- Bytes 0 to 2,815 of an ageing log record (Table PWR.4). -/
def State.logBody (s : State) (rseq kind replans : Nat) : List Byte :=
  let all := upFrom 0 320
  ascii "TBAG" ++ leBytes 4 rseq ++ leBytes 8 s.bell.count ++ leBytes 8 serial ++ leBytes 1 s.bell.lead ++ leBytes 1 kind ++ leBytes 2 0
    ++ leBytes 4 replans ++ all.flatMap (fun i => leBytes 1 (s.dom i).vcode) ++ all.flatMap (fun i => leBytes 1 ((s.dom i).vpass.getD 255))
    ++ all.flatMap (fun i => leBytes 1 (s.dom i).floor) ++ all.flatMap (fun i => leBytes 2 (s.dom i).ratio)
    ++ leBytes 40 (bitSet s.logFenced) ++ leBytes 1144 0

/-- An ageing log record signed by the device key (R461). -/
def State.logRecord (s : State) (rseq kind replans : Nat) : List Byte :=
  let body := s.logBody rseq kind replans
  body ++ fitBytes 1280 (Config.falconSign s.bell.lead s.freeCtr body)

/-- The circular log with room for one record more: a full one loses its oldest sector of 16 records (R460). -/
def logRoom (l : List (List Byte)) : List (List Byte) := if l.length < 4080 then l else l.take 4064

/-- A record of the ageing log is written: 1 boot, 2 re-plan, 3 fence, 4 die reset (R460, R461); one that fails records 0x0D09 and is
retried at the next re-plan. -/
def State.writeLog (s : State) (ok : Bool) (kind : Nat) : State :=
  let l := s.flash.log
  if !ok then
    ({ s with pow := { s.pow with logDue := s.pow.logDue ++ [kind] } } : State).raiseMod 0x0D09 [0x3010000 + 4096 * (l.records % 4080)]
  else
    let n := l.replans + b2n (kind = 2)
    ({ s with
      flash := { s.flash with log := { l with
        floors := s.pow.domains.map fun p => (p.1, p.2.floor)
        fenced := s.logFenced, records := l.records + 1, replans := n
        recs := s.logRecord (l.records + 1) kind n :: logRoom l.recs } } } : State).useFree 1

/-- Records written one after another. -/
def State.writeLogs (s : State) (ok : Bool) : List Nat → State
  | [] => s
  | k :: r => (s.writeLog ok k).writeLogs ok r

/-- A domain's fence becomes due, and until it takes effect the domain runs at code 200 (R456, R458). -/
def State.makeDue (s : State) (i cause : Nat) : State :=
  let d := s.dom i
  if d.due.isSome || s.domFenced (i / 20) (i % 20) then s else (s.ask (.fence i)).setDom i { d with due := some cause, vcode := 200 }

/-- The code that plan() gives a domain, none where it fences it (R455). -/
def Domain.plan (d : Domain) (guard : Nat) : Option Nat :=
  match d.vpass with
  | none => none
  | some p =>
    let v := max (p + guard + ceilDiv (d.ratio0 - d.ratio) 64) d.floor
    if v > 200 then none else some v

/-- plan() on a domain that is not fenced (R455). -/
def State.planDom (s : State) (i cause : Nat) : State :=
  let d := s.dom i
  if s.domFenced (i / 20) (i % 20) || d.due.isSome then s
  else match d.plan s.guardCodes with
    | none => s.makeDue i cause
    | some v => s.setDom i { d with vcode := v }

/-- plan() on domains one after another. -/
def State.planDoms (s : State) (cause : Nat) : List Nat → State
  | [] => s
  | i :: r => (s.planDom i cause).planDoms cause r

/-- A canary fires: the domain's code and floor rise by 1, or its fence becomes due at code 200 (R456); a power core that is not in
service changes no code. `logged` says whether the record of a fence that becomes due could be written. -/
def execCanary (die : Fin 16) (domain : Fin 20) (logged : Bool) (s : State) : Out :=
  let i := 20 * die.val + domain.val
  let d := s.dom i
  if !s.awake || s.domFenced die.val domain.val then .next s
  else
    let t : State := { s with pow := { s.pow with canaries := tmod s.pow.canaries 0 die.val satInc } }
    if !s.powerRuns then .next t
    else if d.vcode ≥ 200 then
      .next (if d.due.isSome then t else (t.makeDue i 2).writeLog logged 3)
    else
      let first := d.canaryBell ≠ some s.bell.count
      let u := t.setDom i { d with vcode := d.vcode + 1, floor := d.vcode + 1, canaryBell := some s.bell.count }
      .next (if first then u.raiseDie 0x0D06 die.val [domain.val, d.vcode + 1] else u)

/-- Fresh RATIO measurements taken over (R457). -/
def State.takeRatios (s : State) : List DomainTrim → State
  | [] => s
  | x :: r =>
    let i := 20 * x.die + x.domain
    (if x.die < 16 ∧ x.domain < 20 then s.setDom i { s.dom i with ratio := x.ratio } else s).takeRatios r

/-- A re-plan of every domain from fresh RATIO measurements: it writes the records whose write has failed, one for fences that become
due, and one where it changed a code (R457, R461). -/
def execReplan (ratios : List DomainTrim) (logged : Bool) (s : State) : Out :=
  if !s.awake || !s.powerRuns || !s.pow.replanDue then .next s
  else
    let all := upFrom 0 320
    let t := (s.takeRatios ratios).planDoms 1 all
    let changed := (all.filter fun i => (t.dom i).vcode ≠ (s.dom i).vcode).length
    let due := (all.filter fun i => (t.dom i).due.isSome && (s.dom i).due.isNone).length
    let u : State := { t with pow := { t.pow with replanDue := false, replans := satInc t.pow.replans, logDue := [] } }
    let v := if changed = 0 ∧ due = 0 then u else u.raiseMod 0x0D07 [changed, due]
    .next (v.writeLogs logged (s.pow.logDue ++ (if due = 0 then [] else [3]) ++ if changed = 0 then [] else [2]))

/-! ## Fences (R458) -/

/-- Stalls of a domain that a context occupies. -/
def State.domOccupied (s : State) (i : Nat) : List Nat :=
  (s.stalls.filter fun p => dieOf p.1 = i / 20 && yOf p.1 / 4 = i % 20 && p.2.occ.isSome).map (·.1)

/-- Whether a stall of the domain is SAVING or RESTORING (Table CLK.9). -/
def State.domMoves (s : State) (i : Nat) : Bool :=
  ctxNums.any fun c =>
    let x := s.ctx c
    (x.state = .saving && (s.domOccupied i).any fun k => (s.stall k).occ = some c)
      || (x.state = .restoring && x.images.any fun g => dieOf g.stall = i / 20 && yOf g.stall / 4 = i % 20)

/-- Contexts faulted with a cause, each with the first of its stalls among some. -/
def State.faultOn (s : State) (code : Nat) (ks : List Nat) : List Nat → State
  | [] => s
  | c :: r =>
    (match ks.find? fun k => (s.stall k).occ = some c with
    | some k => if (s.ctx c).state = CtxState.faulted then s else s.faultCtx c code k
    | none => s).faultOn code ks r

/-- Squares on a fenced stall: 0x030C, and they unbind at step 5 (04_tile_ops.md R153). -/
def State.fenceSquares (s : State) : List Square → State
  | [] => s
  | q :: r =>
    (match q.stalls.find? s.fenced with
    | some k => (s.setSquare { q with unbind := true }).raiseSquare 0x030C q.ctx q.die q.x0 q.y0 k []
    | none => s).fenceSquares r

/-- One due fence takes effect (R458). -/
def State.fenceDom (s : State) (i cause : Nat) : State :=
  let d := s.dom i
  let ks := s.domOccupied i
  let t := ({ s with fencedDoms := s.fencedDoms ++ [i] } : State).setDom i { d with due := none }
  (t.raiseDie 0x0D05 (i / 20) [i % 20, cause, d.vcode]).faultOn 0x0D05 ks ctxNums

/-- Due fences take effect one after another. -/
def State.fenceDoms (s : State) : List Nat → State
  | [] => s
  | i :: r =>
    (match (s.dom i).due with
    | some cause => if s.domMoves i then s else s.fenceDom i cause
    | none => s).fenceDoms r

/-- The fences of step 1, those that were due at the bell's decision (R366, R458). -/
def State.takeFences (s : State) (due : List Nat) : State :=
  let t := s.fenceDoms due
  if t.fencedDoms = s.fencedDoms then s else (t.fenceSquares t.squares).capsChanged

/-- A fenced domain that no context occupies is powered off (R458). -/
def execDomainPowerOff (die : Fin 16) (domain : Fin 20) (s : State) : Out :=
  let i := 20 * die.val + domain.val
  .next (if s.domFenced die.val domain.val && (s.domOccupied i).isEmpty then s.setDom i { s.dom i with powered := false } else s)

/-! ## Die reset (R468) -/

/-- A write of DIE_RESET (R466, R468); the block of a fenced die ignores it (11_host_rings.md R363). -/
def State.writeDieReset (s : State) (die v : Nat) : State :=
  if s.deadDies.contains die then s
  else if bitsAt v 16 16 ≠ 0xC1EA then s.raiseMod 0x0D0A [0x100414 + die * 0x10000, v]
  else if bitAt v 0 && !s.pow.dieResetAsked.contains die then
    ({ s with pow := { s.pow with dieResetAsked := s.pow.dieResetAsked ++ [die] } } : State).ask (.die die)
  else s

/-- DIE_RESET. -/
def execDieReset (die : Fin 16) (v : BitVec 32) (s : State) : Out := .next (s.writeDieReset die.val v.toNat)

/-- First address past the stock windows of a die. -/
def dieStock (die : Nat) : Nat := stockAddr (die * 8192) 0

/-- A die reset takes effect, or is refused with a reason: 1 a context occupies a stall, 2 the lead or the ring engine's die, 3 held. -/
def State.resetDie (s : State) (die : Nat) : State :=
  let busy := s.stalls.any fun p => dieOf p.1 = die && p.2.occ.isSome
  let reason := if busy then 1 else if die = s.bell.lead ∨ die = s.conf.ringDie then 2 else if s.heldDies.contains die then 3 else 0
  if reason ≠ 0 then s.raiseDie 0x0D0C die [reason]
  else if s.pow.dieResetting.contains die then s
  else
    { s with
      mem := cellsDrop s.mem (dieStock die) (dieStock (die + 1))
      cores := tmod s.cores ⟨0, 0, 0, 0⟩ (4 * die) fun c => { c with state := 2, fired := s.decisions }
      ports := tmap s.ports fun k p => if dieOf k = die then { p with xcache := [] } else p
      ledger := { s.ledger with dieCache := tdel s.ledger.dieCache die, upper := tdel s.ledger.upper die }
      pow := { s.pow with dieResetting := s.pow.dieResetting ++ [die] } }

/-- Die resets asked for, at step 1. -/
def State.resetDies (s : State) : List Nat → State
  | [] => s
  | d :: r => (s.resetDie d).resetDies r

/-- VPASS measured afresh. -/
def State.takePasses (s : State) (die : Nat) : List DomainTrim → State
  | [] => s
  | x :: r =>
    let i := 20 * die + x.domain
    (if x.die = die ∧ x.domain < 20 ∧ !s.domFenced die x.domain then
      s.setDom i { s.dom i with vpass := if x.ok then x.vpass else none, ratio := x.ratio } else s).takePasses die r

/-- A die reset completes: its domains are planned from fresh measurements, 0x0D0D, a KIND 4 record, and its control core is back in
service (R455, R461, R468). -/
def execDieResetDone (die : Fin 16) (trims : List DomainTrim) (logged : Bool) (s : State) : Out :=
  let n := die.val
  if !s.pow.dieResetting.contains n then .next s
  else
    let mine := upFrom (20 * n) 20
    let t := (s.takePasses n trims).planDoms 0 mine
    let new := (mine.filter fun i => (t.dom i).due.isSome && (s.dom i).due.isNone).length
    let u : State := { t with
      cores := tmod t.cores ⟨0, 0, 0, 0⟩ (4 * n) fun c => { c with state := 1 }
      pow := { t.pow with dieResetting := t.pow.dieResetting.filter (· ≠ n) } }
    .next ((u.raiseDie 0x0D0D n [new]).writeLogs logged (if new = 0 then [4] else [3, 4]))

/-! ## Low-power states (R464, R465) -/

/-- Whether a DARK exit is in progress: MOD_POWER_CTRL.BUSY. -/
def State.busyExit (s : State) : Bool := s.pow.exit.isSome

/-- A committed TARGET moves the module at step 2 of the bell that applies it (Table PWR.6); a HELD module stays HELD. -/
def State.applyTarget (s : State) : State :=
  let t := s.targetMode
  let m := s.mod.state
  if m = 2 ∨ m = t then s
  else if t = 5 then (if m = 3 ∨ m = 4 then s.setMode 5 else s)
  else if m = 5 then (if s.pow.exit.isSome then s else { s with pow := { s.pow with exit := some s.now, powered := [] } })
  else s.setMode t

/-- Step 6 of a bell at least 45,000 cy after a DARK exit began, every domain powered, ends the exit (Table PWR.6). -/
def State.endExit (s : State) : State :=
  match s.pow.exit with
  | some c =>
    if s.now ≥ c + 45000 ∧ s.pow.powered.length = 20 then
      ({ s with pow := { s.pow with exit := none, powered := [] } } : State).setMode s.targetMode
    else s
  | none => s

/-- Stock of domain `k` of some dies zeroed. -/
def State.zeroDomain (s : State) (k : Nat) : List Nat → State
  | [] => s
  | d :: r =>
    let lo := stockAddr (stallNum d 0 (4 * k)) 0
    ({ s with mem := cellsDrop s.mem lo (lo + 256 * 0x40000) } : State).zeroDomain k r

/-- In a DARK exit, domain `k` of every die is powered 2,250 × k cy after the latch, and its stock is zeroed (Table PWR.6). -/
def execDomainPowerUp (domain : Fin 20) (s0 : State) : Out :=
  match s0.pow.exit with
  | none => .next s0
  | some c =>
    let k := domain.val
    if s0.pow.powered.length ≠ k then .next s0
    else
      let s := s0.at (c + 2250 * k)
      .next (({ s with pow := { s.pow with powered := s.pow.powered ++ [k] } } : State).zeroDomain k (upFrom 0 16))

end Sys2Proof.Machine
end

