-- ==== Sys2Proof/Machine/LedgerOrders.lean ====
section
/-! DEFINITION. Ledger orders 0x20 to 0x27 (08_ledger_dray.md R271, R284, 10_weago.md R350). -/
namespace Sys2Proof.Machine

/-- Operands of a ledger order (11_host_rings.md Table HST.10). -/
def ldgOrder (o : Order) : LdgArgs :=
  let b := o.arg 10 1
  ⟨o.ctx, o.arg 0 8, o.arg 8 2, bitAt b 0, bitsAt b 1 3, bitsAt b 4 2, bitAt b 6, o.arg 11 1 % 16, bitAt b 7, false, true⟩

/-- ADDR2 of a ledger order. -/
def Order.addr2 (o : Order) : Nat := o.arg 16 8
/-- CTX2 of a ledger order. -/
def Order.ctx2 (o : Order) : Nat := o.arg 12 1 % 64
/-- MODULE of a ledger order. -/
def Order.module (o : Order) : Nat := o.arg 24 3 % 2 ^ 18

/-- A ledger order ends with its status: DONE for 0, REJECTED with no effect for any other (R271). -/
def State.ldgDone (s : State) (o : Order) (r : State × Nat) : State := if r.2 = 0 then r.1.done o 0 else s.reject o r.2

/-- ALLOC as an order. -/
def execAllocOrder (ring : Nat) (s : State) : Out :=
  .next (s.onOrder ring 0x20 fun o t => t.ldgDone o (t.allocFn (ldgOrder o)))

/-- FREE as an order, which may also free stock and public crates. -/
def execFreeOrder (ring : Nat) (s : State) : Out :=
  .next (s.onOrder ring 0x21 fun o t => t.ldgDone o (t.freeFn (ldgOrder o)))

/-- Crates mapped with a leaf each; none where no HBM is left for a table. -/
def State.mapLeaves (s : State) : List (Crate × Nat) → Option State
  | [] => some s
  | (c, e) :: r => match s.mapCrate c e with
    | none => none
    | some t => t.mapLeaves r

/-- LEND_STOCK maps one stock region of a stall of the context as a 64 KiB crate (R269, R271). DESIGN CHOICE: a region that is lent already,
or has not drained yet, is no free storage and is rejected with status 3 (log entry 161). -/
def execLendStock (ring : Nat) (s : State) : Out :=
  .next (s.onOrder ring 0x22 fun o t =>
    let a := ldgOrder o
    let k := bitsAt o.addr2 0 17
    let store : Store := ⟨1, stockAddr k (if bitAt o.addr2 17 then 65536 else 0), t.mod.id⟩
    let st := firstStatus [
      ((t.ctx o.ctx).state = .free, 6),
      (rangeBad a.va a.count a.big || a.count ≠ 1 || a.big, 2),
      (!namesStall k || t.fenced k || (t.stall k).occ ≠ some o.ctx, 3),
      (t.lentStock.contains store.addr, 3),
      (a.crates.any t.overlaps, 1)]
    if st ≠ 0 then t.reject o st
    else
      match t.mapCrates (mkLeaf a.pol a.w false false false false store) a.crates with
      | none => t.reject o 4
      | some u => u.done o 0)

/-- PUBLIC_MAP maps a host buffer as TIER 5 crates (R269, R271). -/
def execPublicMap (ring : Nat) (s : State) : Out :=
  .next (s.onOrder ring 0x23 fun o t =>
    let a := ldgOrder o
    let size := crateBytes a.big
    let st := firstStatus [
      ((t.ctx o.ctx).state = .free, 6),
      (rangeBad a.va a.count a.big || o.addr2 % size ≠ 0 || decide (o.addr2 < ddrBase) || decide (o.addr2 + a.count * size > cfgBase), 2),
      (a.crates.any t.overlaps, 1)]
    if st ≠ 0 then t.reject o st
    else
      let leaf := fun (i : Nat) => mkLeaf a.pol a.w false false false false ⟨5, o.addr2 + i * size, t.mod.id⟩
      match t.mapLeaves (zipW (fun i c => (c, leaf i)) (upFrom 0 a.count) a.crates) with
      | none => t.reject o 4
      | some u => u.done o 0)

/-- Tables made for crates that are mapped later; none where no HBM is left for one. -/
def State.leafSlots (s : State) : List Crate → Option State
  | [] => some s
  | c :: r => match s.leafSlot c with
    | none => none
    | some (t, _) => t.leafSlots r

/-- SHARE: crates of CTX2 are mapped into the context at the next page commit (R271). -/
def execShare (ring : Nat) (s : State) : Out :=
  .next (s.onOrder ring 0x24 fun o t =>
    let a := ldgOrder o
    let src := rangeCrates o.ctx2 o.addr2 a.count a.big
    let st := firstStatus [
      ((t.ctx o.ctx).state = .free || (t.ctx o.ctx2).state = .free, 6),
      (rangeBad a.va a.count a.big || rangeBad o.addr2 a.count a.big, 2),
      (a.crates.any t.overlaps || src.any fun c => (t.leafOf c).isNone, 1)]
    if st ≠ 0 then t.reject o st
    else match t.leafSlots a.crates with
      | none => t.reject o 4
      | some u =>
        let reqs := zipW (fun c d => (⟨c, d.ctx, d.va, a.w, none, t.now⟩ : ShareReq)) src a.crates
        ({ u with ledger := { u.ledger with pendShare := u.ledger.pendShare ++ reqs } } : State).done o 0)

/-- EXPORT asks for a sealed copy of each crate in the host buffer, images one after another; the order completes with the last
(R284). -/
def execExport (ring : Nat) (s : State) : Out :=
  .next (s.onOrder ring 0x25 fun o t =>
    let a := ldgOrder o
    let st := firstStatus [
      ((t.ctx o.ctx).state = .free, 6),
      (rangeBad a.va a.count a.big, 2),
      (a.crates.any fun c => (t.leafOf c).isNone, 1)]
    if st ≠ 0 then t.reject o st
    else
      let mk := fun (i : Nat) (c : Crate) =>
        Move.mk c .asked ⟨0, 0, 0⟩ ⟨4, o.addr2 + i * (64 + crateBytes c.big), t.mod.id⟩ 0 true (some o.id) [] 0 false t.now
      { t with ledger := { t.ledger with moves := t.ledger.moves ++ zipW mk (upFrom 0 a.count) a.crates } })

/-- The bytes of `n` images of `len` bytes that host memory answers with, or its refusal; none for an answer of another length. -/
def imagesOf (n len : Nat) : HostMem → Option (Option (List (List Byte)))
  | .bytes l => if l.length = n * len then some (some ((upFrom 0 n).map fun i => (l.drop (i * len)).take len)) else none
  | _ => some none

/-- Owner images imported one after another; the first refusal ends the order (R283, R284). -/
def State.importAll (s : State) (a : LdgArgs) (order : Option Nat) : List (Crate × List Byte) → State × Nat
  | [] => (s, 0)
  | (c, img) :: r =>
    let x := s.importOwner c a.pol a.w order (img.take 64) (img.drop 64)
    if x.2 = 0 then x.1.importAll a order r else x

/-- The order that a ring would start next with OP `op`. -/
def State.nextOrder (s : State) (ring op : Nat) : Option Order := (s.ring ring).intake.head?.filter fun o => o.op = op

/-- An error response of host memory met by an order (R248, R251): its incident, and the order fails with its code. -/
def State.hostRefused (s : State) (o : Order) (h : HostMem) : State :=
  let d := s.conf.ringDie
  (s.hostMiss d (engineId d) (some o.ctx) (s.mod.id * 2 ^ 46 + o.addr2) h).fail o (if h = .late then 0x0608 else 0x0706)

/-- The moves of an order that has failed go on without it. -/
def State.dropOrder (s : State) (o : Order) : State :=
  { s with ledger := { s.ledger with moves := s.ledger.moves.map fun m => if m.order = some o.id then { m with order := none } else m } }

/-- IMPORT opens owner images of host memory into the context (R284). It ends at once, or with the page commit that gives a public or remote
crate its new storage (R266). DEDUCED: a range mapped with crates of another size is rejected with status 1 (log entry 45). -/
def execImport (ring : Nat) (image : HostMem) (s : State) : Out :=
  match s.nextOrder ring 0x26 with
  | none => .next s
  | some q =>
    match imagesOf (ldgOrder q).count (64 + crateBytes (ldgOrder q).big) image with
    | none => .next s
    | some l =>
      .next (s.onOrder ring 0x26 fun o t =>
        let a := ldgOrder o
        let st := firstStatus [((t.ctx o.ctx).state = .free, 6), (rangeBad a.va a.count a.big, 2),
          (a.crates.any fun c => (t.leafOf c).isNone && t.overlaps c, 1)]
        if st ≠ 0 then t.reject o st
        else match l with
          | none => t.hostRefused o image
          | some imgs =>
            let r := t.importAll a (some o.id) (zipW (fun c i => (c, i)) a.crates imgs)
            if r.2 ≠ 0 then (r.1.dropOrder o).fail o r.2
            else if (r.1.ledger.moves.any fun m => m.order = some o.id) then r.1 else r.1.done o 0)

/-- Owner images sent to another module, one crate after another (R350). -/
def State.sendImages (s : State) (o : Order) : List (Crate × List Byte) → State
  | [] => s
  | (c, img) :: r =>
    let t : State := { s with fab := { s.fab with exchanges := s.fab.exchanges ++ [⟨o.module, c, 2, 0, some o.id, 0⟩] } }
    (t.sendReqs (imageMsgs 4 o.module s.mod.id c.ctx c img ++ [crateMsg 5 o.module s.mod.id c.ctx c 0])).sendImages o r

/-- CAMPUS_COPY sends owner images unchanged to a module by PUT and PUT_DONE (R350); an unreachable module fails the order. -/
def execCampusCopy (ring : Nat) (image : HostMem) (s : State) : Out :=
  match s.nextOrder ring 0x27 with
  | none => .next s
  | some q =>
    match imagesOf (ldgOrder q).count (64 + crateBytes (ldgOrder q).big) image with
    | none => .next s
    | some l =>
      .next (s.onOrder ring 0x27 fun o t =>
        let a := ldgOrder o
        let st := firstStatus [((t.ctx o.ctx).state = .free, 6), (rangeBad a.va a.count a.big, 2)]
        if st ≠ 0 then t.reject o st
        else if t.sending o.module (!t.inHall o.module) = .unreachable then
          (t.raiseMod 0x0907 [o.module, 0, t.mod.id]).fail o 0x0907
        else match l with
          | none => t.hostRefused o image
          | some imgs => t.sendImages o (zipW (fun c i => (c, i)) a.crates imgs))

end Sys2Proof.Machine
end

