-- ==== Sys2Proof/Machine/Trust.lean ====
section
/-! DEFINITION. Attestation, sessions and firmware update (13_trust.md R424 to R441). -/
namespace Sys2Proof.Machine

/-! ## Attestation (R427, R429) -/

/-- FLAGS of the evidence (Table TRU.4). -/
def State.evidenceFlags (s : State) (kem : Bool) : Nat :=
  b2n s.mod.session + 2 * b2n kem + 4 * s.trust.slot + 8 * b2n s.trust.fallback + 16 * b2n s.trust.staged.isSome

/-- Evidence bytes 0 to 2,303 (Table TRU.4). -/
def State.evidenceBody (s : State) (nonce : List Byte) (ek : Option (List Byte)) : List Byte :=
  let i := s.trust.image
  let st := s.trust.staged
  ascii "TBEV" ++ leBytes 2 1 ++ leBytes 1 s.bell.lead ++ leBytes 1 (s.evidenceFlags ek.isSome) ++ leBytes 8 s.bell.count
    ++ leBytes 8 serial ++ leBytes 4 i.version ++ leBytes 2 i.ifMin ++ leBytes 2 i.ifMax ++ fitBytes 64 nonce
    ++ fitBytes 64 (Config.shake 64 (pubKeyOf s.bell.lead)) ++ fitBytes 64 i.m ++ fitBytes 256 (i.comps.flatMap (fitBytes 64))
    ++ fitBytes 64 ((st.map FwImage.m).getD []) ++ leBytes 4 ((st.map FwImage.version).getD 0) ++ leBytes 1 i.keyidx ++ leBytes 3 0
    ++ leBytes 4 s.trust.sessions ++ fitBytes 64 s.trust.ownerId ++ leBytes 4 s.stallsFree ++ leBytes 2 s.diesBits
    ++ leBytes 2 s.domsFenced ++ leBytes 4 s.flash.log.replans ++ fitBytes 32 (logDigest s.flash.log)
    ++ leBytes 12 0 ++ fitBytes 1568 (ek.getD []) ++ leBytes 60 0

/-- ATTEST: the lead assayer writes signed evidence, with KEM = 1 a fresh encapsulation key in it (R427). `entropy`: the health test of
the random source passes (R417). -/
def execAttest (ring : Nat) (entropy : Bool) (s : State) : Out :=
  .next (s.onOrder ring 0x70 fun o t =>
    if !entropy then (t.entropyFail 1).fail o 0x0C04
    else
      let kem := bitAt (o.byte 36) 0
      let body := t.evidenceBody (o.args.take 64) (if kem then some (Config.kemGen t.freeCtr).1 else none)
      let sig := fitBytes 1280 (Config.falconSign t.bell.lead (t.freeCtr + 1) body)
      let u := if kem then { t with trust := { t.trust with kem := some (t.freeCtr, body) } } else t
      ((u.useFree 2).emit [.bytes (o.arg 64 8) (body ++ sig ++ leBytes 512 0)]).done o 0)

/-- GET_IDENTITY: a die's identity record goes to the host buffer (R429). -/
def execGetIdentity (ring : Nat) (s : State) : Out :=
  .next (s.onOrder ring 0x71 fun o t =>
    let n := if o.byte 36 = 0xFF then t.bell.lead else o.byte 36
    (t.emit [.bytes (o.arg 0 8) (identityRecord n)]).done o 0)

/-! ## Sessions (R430, R432) -/

/-- A ring at session open: its counters are 0, and one that had run out runs again (11_host_rings.md R382). -/
def Ring.newSession (r : Ring) : Ring :=
  { r with
    eseq := 0, cidx := 0, spent := false, cplSpent := false
    state := if r.state = 3 ∧ r.cause = 0x0A then 1 else r.state
    cause := if r.state = 3 ∧ r.cause = 0x0A then 0 else r.cause }

/-- OC messages on every trained port at a session open (R435). -/
def State.sendOcs (s : State) : List Nat → State
  | [] => s
  | p :: r => (if (s.wport p).state = 2 ∨ (s.wport p).state = 3 then s.sendOc p else s).sendOcs r

/-- What takes effect at once when a session opens (R430). -/
def State.openSession (s : State) (orderKey crateKey ownerId : List Byte) : State :=
  let t : State := { s with
    mod := { s.mod with session := true, orderKey := leNat orderKey }
    trust := { s.trust with crateKey := crateKey, ownerId := ownerId, sessions := satInc s.trust.sessions }
    rings := tmap s.rings fun _ r => r.newSession
    inc := { s.inc with index := 0, exhausted := false }
    ledger := { s.ledger with sealCount := 1, ownerFloor := 0 } }
  (t.sendOcs (upFrom 0 16)).interrupt 65

/-- SESSION_OPEN: the pending key decapsulates CT, the keys are derived, WRAP is opened (R430, Tables TRU.7, TRU.8). -/
def execSessionOpen (ring : Nat) (s : State) : Out :=
  .next (s.onOrder ring 0x72 fun o t =>
    if t.mod.session then t.reject o 1
    else match t.trust.kem with
      | none => t.reject o 2
      | some (n, evid) =>
        let ct := o.args.take 1568
        let ss := Config.kemDecap (Config.kemGen n).2 ct
        let keys := Config.shake 64 (ss ++ Config.shake 64 evid ++ ct ++ ascii "TB80 session")
        let u : State := { t with trust := { t.trust with kem := none } }
        match gcmOpen (keys.take 32) (leBytes 12 0) ct ((o.args.drop 1568).take 96) ((o.args.drop 1664).take 16) with
        | none => (u.raise 0x0C05 u.bell.lead none ring 0xFFFFFFFF [o.seq]).fail o 0x0C05
        | some wrap => (u.openSession ((keys.drop 32).take 32) (wrap.take 32) ((wrap.drop 32).take 64)).done o 0)

/-- SESSION_CLOSE waits for the first emitted bell after it starts (R432). -/
def execSessionClose (ring : Nat) (s : State) : Out :=
  .next (s.onOrder ring 0x73 fun o t => { t with trust := { t.trust with close := some o.id } })

/-- Storage lent to other modules given back. -/
def State.endGrants (s : State) : List Grant → State
  | [] => s
  | g :: r => (s.drainStore ⟨3, g.addr, s.mod.id⟩ g.big).endGrants r

/-- The lend table is cleared, the close orders complete under the keys they close, and the keys are erased (R432, Table TRU.10). -/
def State.closeSession (s : State) : State :=
  let orders := s.rings.flatMap fun (p : Nat × Ring) => p.2.started.filter fun o => o.op = 0x73
  let t := ({ s with fab := { s.fab with grants := [] } } : State).endGrants s.fab.grants
  let u := t.completeAll stDone 0 orders
  (({ u with
    mod := { u.mod with session := false, orderKey := 0 }
    trust := { u.trust with crateKey := [], ownerId := [], close := none }
    ledger := { u.ledger with sealCount := 0 } } : State).disownAll (upFrom 0 16)).interrupt 65

/-! ## Firmware images (R423, R424) -/

/-- Bytes of a list that are not zero. -/
def notZero (l : List Byte) : Bool := l.any fun b => b ≠ 0#8

/-- KIND, OFFSET and SIZE of component `c` of a header (Table TRU.3). -/
def compOf (l : List Byte) (c : Nat) : Nat × Nat × Nat :=
  (fieldAt l (64 + 32 * c) 1, fieldAt l (68 + 32 * c) 4, fieldAt l (72 + 32 * c) 4)

/-- The bytes of component `c`. -/
def compBytes (l : List Byte) (c : Nat) : List Byte :=
  let x := compOf l c
  (l.drop x.2.1).take x.2.2

/-- The image measurement over the header and the component measurements (R424). -/
def imageM (l : List Byte) : List Byte :=
  Config.shake 64 (l.take 2048 ++ ([0, 1, 2, 3].flatMap fun c => Config.shake 64 (compBytes l c)))

/-- The first failing check of R424 on the bytes of an image, 0 for a valid one. -/
def imageCheck (l : List Byte) : Nat :=
  let comps := [0, 1, 2, 3].map (compOf l)
  let len := fieldAt l 16 4
  let meets := fun (a b : Nat × Nat × Nat) => decide (a.2.1 < b.2.1 + b.2.2) && decide (b.2.1 < a.2.1 + a.2.2)
  let clash := [(0, 1), (0, 2), (0, 3), (1, 2), (1, 3), (2, 3)].any fun p => meets (comps.getD p.1 (0, 0, 0)) (comps.getD p.2 (0, 0, 0))
  if l.take 4 ≠ ascii "TBFW" ∨ fieldAt l 4 2 ≠ 1 then 1
  else if fieldAt l 6 1 > 3 then 2
  else if fieldAt l 7 1 ≠ 4 || !([1, 2, 3, 4].all fun k => (comps.map (·.1)).contains k) then 3
  else if clash || comps.any fun c => c.2.1 % 4096 ≠ 0 || decide (c.2.1 < 4096) || decide (c.2.1 + c.2.2 > len) then 4
  else if len % 64 ≠ 0 || decide (len > 2 ^ 24) || decide (len > l.length) || comps.any fun c => c.2.2 = 0 || decide (c.2.2 > 2 ^ 21) then 5
  else if notZero ((l.drop 20).take 44) || notZero ((l.drop 192).take 1856) || notZero ((l.drop 3328).take 768)
      || [0, 1, 2, 3].any fun c => notZero ((l.drop (65 + 32 * c)).take 3) || notZero ((l.drop (76 + 32 * c)).take 20) then 6
  else if !Config.falconOk (Config.fwKey (fieldAt l 6 1)) (imageM l) ((l.drop 2048).take 1280) then 7
  else 0

/-- What the assayer knows of an image from its bytes. -/
def imageOfBytes (l : List Byte) : FwImage :=
  ⟨imageCheck l, fieldAt l 8 4, fieldAt l 12 2, fieldAt l 14 2, fieldAt l 6 1, imageM l, [0, 1, 2, 3].map fun c => Config.shake 64 (compBytes l c)⟩

/-! ## Firmware update (R438 to R441) -/

/-- The flash with an image in the slot that is not running. -/
def State.putIdle (s : State) (i : FwImage) : State :=
  { s with flash := if s.trust.slot = 0 then { s.flash with slotB := i } else { s.flash with slotA := i } }

/-- An image refused at a check (R438). -/
def State.stageRejected (s : State) (o : Order) (check : Nat) : State :=
  (s.raise 0x0C06 s.bell.lead none 0 0xFFFFFFFF [check]).complete o.id stFailed 0x0C06 0 check

/-- FW_STAGE: the image read from SRC, whether its write and read-back succeed (R438). Where they fail the slot holds what no rule
names (log entry 14). -/
def execFwStage (ring : Nat) (image : HostMem) (flashOk : Bool) (s : State) : Out :=
  .next (s.onOrder ring 0x74 fun o t =>
    if t.trust.act.isSome then t.reject o 3
    else match image.data with
      | none =>
        let d := t.conf.ringDie
        (t.hostMiss d (engineId d) none (t.mod.id * 2 ^ 46 + o.arg 0 8) image).fail o (if image = .late then 0x0608 else 0x0706)
      | some l =>
        let i := imageOfBytes (l.take (o.arg 8 4))
        if i.check ≠ 0 then t.stageRejected o i.check
        else if !flashOk then
          (({ t with trust := { t.trust with staged := none } } : State).putIdle { i with check := Config.freeLost t.freeCtr % 8 } |>.useFree 1).stageRejected
            o 8
        else (({ t with trust := { t.trust with staged := some i } } : State).putIdle i).done o 0)

/-- FW_ACTIVATE (R439). -/
def execFwActivate (ring : Nat) (s : State) : Out :=
  .next (s.onOrder ring 0x75 fun o t =>
    if t.trust.act.isSome then t.reject o 3
    else if t.trust.staged.isNone then t.reject o 4
    else { t with trust := { t.trust with act := some o.id, deferred := false, deferLogged := false } })

/-- FW_DISCARD (Table TRU.5). -/
def execFwDiscard (ring : Nat) (s : State) : Out :=
  .next (s.onOrder ring 0x76 fun o t =>
    if t.trust.act.isSome then t.reject o 3
    else ({ t with trust := { t.trust with staged := none } } : State).done o 0)

/-- Conditions (a) to (d), (f) and (g) of R439; a started FW_STAGE has ended when a decision is taken. -/
def State.quietButPower (s : State) : Bool :=
  (ctxNums.all fun c => (s.ctx c).state = .free) && s.sets.isEmpty && s.conf.status ≠ 1 && s.conf.status ≠ 2 && !s.bell.held
    && s.fab.grants.isEmpty && s.fab.exchanges.isEmpty

/-- The assayer's evaluation at the decision of an emitted bell (R439): whether the bell is quiescent. -/
def State.evaluateActivation (s : State) : State × Bool :=
  if s.trust.act.isNone || s.trust.reloading.isSome || !s.quietButPower then (s, false)
  else if s.pow.level = 0 then (s, true)
  else
    let t : State := { s with trust := { s.trust with deferred := true, deferLogged := true } }
    (if s.trust.deferLogged then t else t.raiseMod 0x0C07 [s.bell.count + 1], false)

/-- Cores that an activation reloads: the control core of every die that is not fenced, and the lead die's scheduler and power cores;
failed ones stay failed (R441). -/
def State.activationCores (s : State) : List Nat :=
  ((upFrom 0 16).filter (fun d => !s.deadDies.contains d)).map (4 * ·) ++ [4 * s.bell.lead + 1, 4 * s.bell.lead + 2]

/-- Those cores reset and reloaded. -/
def State.reloadCores (s : State) : State :=
  { s with cores := s.activationCores.foldl (fun t k =>
      tmod t ⟨0, 0, 0, 0⟩ k fun c => if c.state = 3 then c else { c with state := 2, fired := s.decisions }) s.cores }

/-- The activation takes place at a quiescent bell (R441). -/
def State.beginActivation (s : State) (quiescent : Bool) : State :=
  if quiescent ∧ s.trust.act.isSome ∧ s.trust.reloading.isNone then
    { s.reloadCores with trust := { s.trust with reloading := some s.decisions } }
  else s

/-- The first core of an activation that is not in service. -/
def State.coreOut (s : State) : Option Nat := s.activationCores.find? fun k => (tget s.cores ⟨0, 0, 0, 0⟩ k).state = 2

/-- A new image's interface range that leaves out the accepted driver version refuses it and holds the module (11_host_rings.md R368). -/
def State.recheckVersion (s : State) : State :=
  let i := s.trust.image
  if s.conf.hs = 1 ∧ (s.conf.drvIf < i.ifMin ∨ i.ifMax < s.conf.drvIf) then
    (({ s with conf := { s.conf with hs := 2 } } : State).decideHold s.bell.lead 0 (s.now + 4)).interrupt 65
  else s

/-- Every core is in service after an activation (R441). -/
def execActivationComplete (s : State) : Out :=
  match s.trust.act, s.trust.reloading, s.trust.staged with
  | some o, some _, some i =>
    if s.coreOut.isSome then .next s
    else
      let slot := 1 - s.trust.slot
      let t : State := { s with
        flash := selectSlot s.flash slot
        trust := { s.trust with image := i, slot := slot, staged := none, act := none, deferred := false, deferLogged := false, reloading := none } }
      let u := ((t.recheckVersion.raiseMod 0x0C0A [s.trust.image.version, i.version]).complete o stDone 0 0 0).interrupt 65
      .next (if u.mod.session then u.closeSession else u)
  | _, _, _ => .next s

/-- A core is not in service by the latch of the eighth scheduled decision: every core is reloaded from the previous image (R441). -/
def execActivationReverted (s : State) : Out :=
  match s.trust.act, s.trust.reloading, s.coreOut with
  | some o, some d, some k =>
    if !s.eighthLatch d then .next s
    else
      let t : State := { s.reloadCores with trust := { s.trust with act := none, deferred := false, deferLogged := false, reloading := none } }
      .next ((t.raiseDie 0x0C09 (k / 4) [k % 4]).complete o stFailed 0x0C09 0 0)
  | _, _, _ => .next s

end Sys2Proof.Machine
end

