-- ==== Sys2Proof/Machine/Commit.lean ====
section
/-! DEFINITION. Staging, the commit rules and the application of a commit (11_host_rings.md R364 to R373, 10_weago.md R335, R357,
14_power_ageing_resets.md R470). -/
namespace Sys2Proof.Machine

/-! ## The staging image (R364) -/

/-- A register that holds ST fields: offset, power-on value, mask of the ST fields. -/
structure StReg where
  off : Nat
  dflt : Nat
  mask : Nat
  deriving DecidableEq, Repr

/-- The ST registers of ring `i` (Table HST.3). -/
def ringRegs (i : Nat) : List StReg :=
  let b := 0x100 + 0x20 * i
  [⟨b, 0, 0xFFFFF000⟩, ⟨b + 4, 0, 0x3FFF⟩, ⟨b + 8, 0, 0xFFFFF000⟩, ⟨b + 12, 0, 0x3FFF⟩, ⟨b + 16, 4, 0x1F⟩]

/-- Every register that holds an ST field, in ascending address (Tables HST.3, PWR.10, BELL.8, LDG.10, WGO.12). -/
def stRegs : List StReg :=
  [⟨0x30, 0, 0xFFFFF000⟩, ⟨0x34, 0, 0x3FFF⟩, ⟨0x38, 0, 0xFFFFF000⟩, ⟨0x3C, 0, 0x3FFF⟩, ⟨0x40, 0, 0xFFFFF000⟩, ⟨0x44, 0, 0x3FFF⟩,
    ⟨0x48, 8, 0x1F⟩, ⟨0x50, 2250, 0xFFFFFFFF⟩, ⟨0x54, 0, 0xFFFFFFFF⟩, ⟨0x58, 0, 0xFFFFFFFF⟩,
    ⟨0xA0, 3, 0x7⟩, ⟨0xA4, 38000, 0xFFFF⟩, ⟨0xA8, 0x6E5F, 0xFFFF⟩, ⟨0xAC, 60, 0x7F⟩, ⟨0xB0, 0x0F10, 0x3F1F⟩]
  ++ (upFrom 0 64).flatMap ringRegs
  ++ [⟨0x10000, 0x57E4, 0xFFFFFFFF⟩, ⟨0x10004, 0x40, 0xF3⟩,
    ⟨0x12000, 0, 0xFFFF0000⟩, ⟨0x12004, 0, 0x3FFF⟩, ⟨0x12008, 0, 0xFFFFFFFF⟩, ⟨0x1200C, 0x4000140A, 0xFF01FFFF⟩,
    ⟨0x13000, 0, 0x3FFFF⟩, ⟨0x13004, 0, 0x3FFFF⟩, ⟨0x13008, 0, 0x3FFF⟩, ⟨0x1300C, 0, 0xFFFFFFC0⟩, ⟨0x13010, 0, 0x3FFF⟩,
    ⟨0x13014, 0, 0xFFFFFFFF⟩, ⟨0x13018, 0, 0xFFFF⟩, ⟨0x1301C, 0, 0x7FF⟩, ⟨0x13020, 0x410, 0xFF1F⟩, ⟨0x13024, 0, 0xFFFFFFFF⟩]

/-- The ST register at an offset. -/
def stRegAt (off : Nat) : Option StReg := stRegs.find? fun r => r.off = off

/-- The staged value of an ST register: what was written last, else its live value. -/
def State.staged (s : State) (r : StReg) : Nat := tget s.regs (s.liveReg r.dflt r.off) r.off

/-- The staging image as values by offset. -/
def State.stagingImage (s : State) : Tbl Nat := stRegs.map fun r => (r.off, s.staged r)

/-- Its bytes, every register little-endian (R364). -/
def imageBytes (image : Tbl Nat) : List Byte := image.flatMap fun p => leBytes 4 p.2

/-! ## The rules (Tables HST.5, PWR.9, R357) -/

/-- A register of the copied image. -/
def State.copied (s : State) (off : Nat) : Nat := tget s.conf.copy 0 off
/-- A 64-bit value of the copied image. -/
def State.copied2 (s : State) (off : Nat) : Nat := s.copied off + s.copied (off + 4) * 2 ^ 32
/-- The live value of an ST register. -/
def State.liveAt (s : State) (off : Nat) : Nat := s.liveReg ((stRegAt off).map StReg.dflt |>.getD 0) off
/-- Whether the copied value of a register differs from its live value. -/
def State.changes (s : State) (off : Nat) : Bool := s.copied off ≠ s.liveAt off
/-- Whether the copied image enables ring `i`. -/
def State.enables (s : State) (i : Nat) : Bool := if i < 32 then bitAt (s.copied 0x54) i else bitAt (s.copied 0x58) (i - 32)

/-- Whether a region lies wholly inside host DDR5. -/
def inDdr (base len : Nat) : Bool := decide (ddrBase ≤ base) && decide (base + len ≤ cfgBase)

/-- Regions of the copied image that rule 18 compares: base and length of those with neither zero. -/
def State.regions (s : State) : List (Nat × Nat) :=
  let rings := (upFrom 0 64).flatMap fun i =>
    if s.enables i then
      let b := 0x100 + 0x20 * i
      let n := 64 * 2 ^ s.copied (b + 16)
      [(s.copied2 b, n), (s.copied2 (b + 8), n)]
    else []
  (rings ++ [(s.copied2 0x30, 4096), (s.copied2 0x38, 4096), (s.copied2 0x40, 64 * 2 ^ s.copied 0x48),
    (s.copied2 0x12000, s.copied 0x12008 * 65536)]).filter fun r => r.1 ≠ 0 && r.2 ≠ 0

/-- Whether two regions of a list overlap. -/
def anyOverlap : List (Nat × Nat) → Bool
  | [] => false
  | a :: r => (r.any fun b => decide (a.1 < b.1 + b.2) && decide (b.1 < a.1 + a.2)) || anyOverlap r

/-- Whether any crate is sealed in the DDR5 region. -/
def State.anySealed (s : State) : Bool :=
  s.ledger.crates.any fun c => match s.leafOf c with
    | some (_, e) => eTier e = 4
    | none => false

/-- Whether any ring is live RUNNING or DRAINING. -/
def Ring.busy (r : Ring) : Bool := r.state = 1 || r.state = 2

/-- Rule 17. -/
def State.rule17 (s : State) : Bool :=
  let rings := upFrom 0 64
  let anyOn := rings.any s.enables
  let size := fun (i : Nat) => s.copied (0x110 + 0x20 * i)
  let len := fun (i : Nat) => 64 * 2 ^ size i
  let bases := [(s.copied2 0x30, 4096), (s.copied2 0x38, 4096), (s.copied2 0x40, 64 * 2 ^ s.copied 0x48)]
  (rings.any fun i => decide (size i < 4) || decide (size i > 16))
    || decide (s.copied 0x48 < 6) || decide (s.copied 0x48 > 16)
    || (rings.any fun i => s.enables i
      && !(inDdr (s.copied2 (0x100 + 0x20 * i)) (len i) && inDdr (s.copied2 (0x108 + 0x20 * i)) (len i)))
    || (bases.any fun b => b.1 ≠ 0 && !inDdr b.1 b.2)
    || (anyOn && bases.any fun b => b.1 = 0)

/-- Rule 6 (08_ledger_dray.md R286). -/
def State.rule6 (s : State) : Bool :=
  let n := s.copied 0x12008
  (n ≠ 0 && (!inDdr (s.copied2 0x12000) (n * 65536) || n % 32 ≠ 0 || decide (n < 1024)))
    || ((s.changes 0x12000 || s.changes 0x12004 || s.changes 0x12008) && s.anySealed)

/-- Bytes of the route image for a hall size (R335). -/
def routeLen (size : Nat) : Nat := 16 + 4 * (size + 256)

/-- The entries of a route image. -/
def routeEntries (size : Nat) (l : List Byte) : List Nat := (upFrom 0 (size + 256)).map fun i => fieldAt l (16 + 4 * i) 4

/-- Rule 10: the route image is unreadable, fails its CRC or breaks R335. -/
def State.rule10 (s : State) (image : HostMem) : Bool :=
  match image.data with
  | none => true
  | some l0 =>
    let size := s.copied 0x13008
    let l := l0.take (routeLen size)
    let es := routeEntries size l
    !inDdr (s.copied2 0x1300C) (routeLen size) || decide (l.length < routeLen size) || crc32c l ≠ s.copied 0x13014
      || fieldAt l 0 2 ≠ 1 || fieldAt l 2 2 ≠ size || fieldAt l 4 4 ≠ 256 || fieldAt l 8 8 ≠ 0
      || (es.any fun e => e >>> 10 ≠ 0)
      || (let own := es.getD (s.copied 0x13000 - s.copied 0x13004) 0
          bitAt own 4 || bitAt own 9)

/-- Rule 11: an entry names an absent or disabled port. -/
def State.rule11 (s : State) (image : HostMem) : Bool :=
  match image.data with
  | none => false
  | some l =>
    let bad := fun (p : Nat) => s.deadDies.contains p || !bitAt (s.copied 0x13018) p
    (routeEntries (s.copied 0x13008) l).any fun e => (bitAt e 4 && bad (bitsAt e 0 4)) || (bitAt e 9 && bad (bitsAt e 5 4))

/-- Rule 15. -/
def State.rule15 (s : State) : Bool :=
  (s.changes 0x13000 || s.changes 0x13004 || s.changes 0x13008)
    && (upFrom 0 16).any fun p =>
      let w := s.wport p
      w.state = 1 || w.state = 2 || w.state = 3

/-- Rule 19. -/
def State.rule19 (s : State) : Bool :=
  (upFrom 0 64).any fun i =>
    let r := s.ring i
    let b := 0x100 + 0x20 * i
    (r.busy && (s.changes b || s.changes (b + 4) || s.changes (b + 8) || s.changes (b + 12) || s.changes (b + 16)))
      || (r.state = 2 && s.enables i)

/-- Rule 20. -/
def State.rule20 (s : State) : Bool :=
  ([0x30, 0x34, 0x38, 0x3C, 0x40, 0x44, 0x48].any s.changes) && s.rings.any fun p => p.2.busy

/-- Rule 35. -/
def State.rule35 (s : State) : Bool :=
  let t := s.copied 0xA0
  (t = 4 || t = 5) && ((ctxNums.any fun c => (s.ctx c).state = .running || (s.ctx c).state = .saving || (s.ctx c).state = .restoring)
    || (s.dispatches.any fun d => !d.running) || !s.sets.isEmpty || s.gathers.any fun g => g.running)

/-- Rule 36. -/
def State.rule36 (s : State) : Bool :=
  s.copied 0xA0 = 5 && ((ctxNums.any fun c => (s.ctx c).state = .created || (s.ctx c).state = CtxState.faulted)
    || s.ledger.crates.any fun c => match s.leafOf c with
      | some (_, e) => eTier e = 1
      | none => false)

/-- The marked rules, which hang on live state, with their numbers. -/
def State.markedRules (s : State) : List (Bool × Nat) :=
  [((s.changes 0x10000 || s.copied 0x10004 % 4 ≠ s.liveAt 0x10004 % 4) && !s.dispatches.isEmpty, 5),
    (s.rule6, 6), (s.rule15, 15), (s.rule19, 19), (s.rule20, 20), (s.rule35, 35), (s.rule36, 36),
    (s.changes 0xA0 && s.busyExit, 37)]

/-- Every rule, in ascending number, on the copied image and the route image read from host memory. -/
def State.commitRules (s : State) (route : HostMem) : List (Bool × Nat) :=
  let c := s.copied
  let sync := c 0x1301C
  let th := c 0xA8
  let m := s.markedRules
  let marked := fun (n : Nat) => (m.any fun p => p.2 = n && p.1, n)
  [(s.conf.hs ≠ 1, 1), (crc32c (imageBytes s.conf.copy) ≠ s.conf.crc, 2),
    (decide (c 0x10000 < 2250), 3), (decide (c 0x10004 % 4 ≥ 2) || bitsAt (c 0x10004) 4 4 = 0, 4),
    marked 5, marked 6,
    (decide (bitsAt (c 0x1200C) 0 8 ≥ bitsAt (c 0x1200C) 8 8) || decide (bitsAt (c 0x1200C) 8 8 > 60) || bitsAt (c 0x1200C) 24 8 = 0, 7),
    (c 0x13008 = 0 || decide (c 0x13008 > 12288) || decide (c 0x13004 + c 0x13008 > 2 ^ 18), 8),
    (decide (c 0x13000 < c 0x13004) || decide (c 0x13000 ≥ c 0x13004 + c 0x13008), 9),
    (s.rule10 route, 10), (s.rule11 route, 11),
    (bitAt sync 0 && bitAt sync 5, 12), (c 0x10004 % 4 = 1 && !bitAt sync 0 && !bitAt sync 5, 13),
    (bitsAt sync 1 4 = bitsAt sync 6 4 && bitAt sync 10, 14), marked 15,
    (bitsAt (c 0x13020) 0 5 = 0 || bitsAt (c 0x13020) 8 8 = 0, 16),
    (s.rule17, 17), (anyOverlap s.regions, 18), marked 19, marked 20,
    (decide (c 0xA0 < 3) || decide (c 0xA0 > 5), 32),
    (decide (c 0xA4 < 5000) || decide (c 0xA4 > 38000) || decide (c 0xAC < 30) || decide (c 0xAC > 64)
      || decide (bitsAt (c 0xB0) 0 5 < 8) || bitsAt (c 0xB0) 8 6 = 0, 33),
    (decide (bitsAt th 0 8 < 70) || decide (bitsAt th 8 8 > 115) || decide (bitsAt th 8 8 < bitsAt th 0 8 + 5), 34),
    marked 35, marked 36, marked 37]

/-! ## Application (R371, R372, R378, R387) -/

/-- A ring after a commit that enables it or not (R378): its intake is cancelled where it drains. One whose numbers have run out is
STOPPED again, not RUNNING, in the session in which they did (R382, log entry 114). -/
def State.applyRing (s : State) (i : Nat) : State :=
  let r := s.ring i
  if s.ringOn i then
    (if r.state = 0 then
      s.setRing i { r with state := if r.spent then 3 else 1, cause := if r.spent then 0x0A else 0, broken := false }
    else s)
  else if r.state = 1 then
    ((s.setRing i { r with state := 2, toFetch := 0 }).completeAll stCancelled 0 r.intake).settleRing i
  else if r.state = 3 then s.setRing i { r with state := 0, cause := 0 }
  else s

/-- Every ring after a commit. -/
def State.applyRings (s : State) : List Nat → State
  | [] => s
  | i :: r => (s.applyRing i).applyRings r

/-- Held incidents written once the incident ring is enabled (R373). -/
def State.offerAll (s : State) : List Incident → State
  | [] => s
  | i :: r => (s.incOffer i).offerAll r

/-- Ports after a commit: the bar of R327 is lifted, and a port that is not enabled goes OFF (R326). -/
def State.applyPorts (s : State) : List Nat → State
  | [] => s
  | p :: r =>
    let w := s.wport p
    let t := if w.barred then s.setWport p { w with barred := false } else s
    (if (t.wport p).state ≠ 0 ∧ !t.portEnabled p then t.portOff p else t).applyPorts r

/-- Every staged field becomes live at once (R371). -/
def State.applyCommit (s : State) : State :=
  let moved := s.changes 0x40 || s.changes 0x44 || s.changes 0x48
  let t : State := { s with
    live := s.conf.copy
    mod := { s.mod with id := s.copied 0x13000, configValid := true }
    fab := { s.fab with routes := s.conf.routes }
    conf := { s.conf with status := 3, rule := 0, applied := (s.conf.applied + 1) % 65536, copy := [], routes := [] }
    inc := { s.inc with broken := s.inc.broken && !moved } }
  let u := (t.applyPorts (upFrom 0 16)).applyRings (upFrom 0 64)
  let v := if u.incRing ∧ !u.inc.held.isEmpty then
    ({ u with inc := { u.inc with held := [] } } : State).offerAll u.inc.held else u
  v.interrupt 65

/-- A commit refused by rule `n` at stage 0, its check, or 1, its bell (R370, R371). -/
def State.refuseCommit (s : State) (n stage : Nat) : State :=
  (({ s with conf := { s.conf with status := 4, rule := n, copy := [], routes := [] } } : State).raiseMod 0x0A02 [n, stage]).interrupt 65

/-- Step 2 of a bell: a PENDING commit whose check completed before the decision cy is checked again by the marked rules and applied
(R371). -/
def State.applyPending (s : State) (decided : Nat) : State :=
  if s.conf.status = 2 ∧ s.conf.checked < decided then
    match firstStatus s.markedRules with
    | 0 => s.applyCommit
    | n => s.refuseCommit n 1
  else s

/-! ## Commands -/

/-- A write of MOD_COMMIT: the staging image is copied and its check begins (R369). -/
def State.writeCommit (s : State) (v : Nat) : State :=
  if s.conf.status = 1 ∨ s.conf.status = 2 then { s with conf := { s.conf with overrun := true } }
  else { s with conf := { s.conf with status := 1, rule := 0, copy := s.stagingImage, crc := v, routes := [] } }

/-- MOD_COMMIT, which comes over a host edge (R362). -/
def execModCommit (v : BitVec 32) (s : State) : Out := .next (if s.awake && s.hostPath then s.writeCommit v.toNat else s)

/-- The check of a commit ends; `route` is what host memory answers for the route image. The first commit since power-on is applied in
the cy after (R370, R372). No check advances unless the scheduler core runs (12_clerk_firmware.md Table CLK.10). -/
def execCommitCheck (route : HostMem) (s : State) : Out :=
  if s.conf.status ≠ 1 ∨ (s.core s.bell.lead 1).state ≠ 1 then .next s
  else match firstStatus (s.commitRules route) with
    | 0 =>
      let es := match route.data with
        | some l => routeEntries (s.copied 0x13008) l
        | none => []
      let t : State := { s with conf := { s.conf with status := 2, checked := s.now, routes := es } }
      if s.mod.configValid then .next t else .next (t.at (t.now + 1)).applyCommit
    | n => .next ((s.hostLate route (s.copied2 0x1300C)).refuseCommit n 0)

/-- A write of MOD_DRV_IF starts the comparison afresh until a version is accepted (R367). -/
def State.writeDrvIf (s : State) (v : Nat) : State :=
  if s.conf.hs = 1 then s
  else { s with conf := { s.conf with drvIf := v % 65536, hsRun := some (v % 65536) } }

/-- MOD_DRV_IF, which comes over a host edge (R362). -/
def execModDrvIf (v : BitVec 32) (s : State) : Out := .next (if s.awake && s.hostPath then s.writeDrvIf v.toNat else s)

/-- The comparison ends: ACCEPTED or VERSION_REFUSED (R367). -/
def execHandshake (s : State) : Out :=
  match s.conf.hsRun with
  | none => .next s
  | some v =>
    let i := s.trust.image
    let ok := decide (i.ifMin ≤ v) && decide (v ≤ i.ifMax)
    let t : State := { s with conf := { s.conf with hsRun := none, hs := if ok then 1 else 2 } }
    .next ((if ok then t else t.raiseMod 0x0A01 [v, i.ifMin, i.ifMax]).interrupt 65)

end Sys2Proof.Machine
end

