-- ==== Sys2Proof/Machine/Cores.lean ====
section
/-! DEFINITION. Crashes of the cores of the die controllers (12_clerk_firmware.md R411 to R413). Core kinds: 0 control, 1 scheduler,
2 power, 3 assayer. -/
namespace Sys2Proof.Machine

/-- The state with a core replaced. -/
def State.setCore (s : State) (die kind : Nat) (c : Core) : State := { s with cores := tput s.cores (4 * die + kind) c }

/-- A RUNNING core's watchdog fires, or it meets a fatal exception or an SRAM error (causes 1 to 3): it is reset and reloaded, 0x0B01.
A crash of the assayer holds the module instead, 0x0B05 (R411, R412, Table CLK.10). -/
def execCoreWatchdog (die : Fin 16) (core : Fin 4) (cause : Fin 4) (s : State) : Out :=
  let c := s.core die.val core.val
  if !s.awake || c.state ≠ 1 || cause.val = 0 then .next s
  else if core.val = 3 then
    .next (((s.setCore die.val 3 { c with state := 3, cause := cause.val }).raiseDie 0x0B05 die.val [cause.val]).decideHold s.bell.lead
      causeAssayer (s.now + 4))
  else
    .next ((s.setCore die.val core.val
      { c with state := 2, restarts := min 255 (c.restarts + 1), cause := cause.val, fired := s.decisions }).raiseDie 0x0B01 die.val
        [core.val, cause.val])

/-- Interrupts held back whose gap is over are sent (R389). -/
def State.interrupts (s : State) : List Nat → State
  | [] => s
  | v :: r => (s.interrupt v).interrupts r

/-- What waited in the module while the ring engine's control core restarted, or while the engine moved, goes out, then the interrupts
that no gap holds back any more (Table CLK.10, 11_host_rings.md R389). -/
def State.flushOut (s : State) : State :=
  if s.sends then ({ s with out := s.outWait ++ s.out, outWait := [] } : State).interrupts s.intHeld else s

/-- A restarted core's first kick: it is back in service (R412). -/
def execCoreKick (die : Fin 16) (core : Fin 4) (s : State) : Out :=
  let c := s.core die.val core.val
  if c.state ≠ 2 then .next s
  else .next (s.setCore die.val core.val { c with state := 1 }).flushOut

/-- Contexts with a stall on a held die get its cause, which faults them at step 1 of the next emitted bell (R413). -/
def State.reportHeld (s : State) (die : Nat) : List Nat → State
  | [] => s
  | c :: r =>
    (match (s.stallsOf c).find? fun k => dieOf k = die with
    | some k => s.reportFault c 0x0B02 k
    | none => s).reportHeld die r

/-- A die is held: its stalls never resume, the capability table drops them, the moves of its dray engine are handed over
(R413, 08_ledger_dray.md R273). -/
def State.holdDie (s : State) (die : Nat) : State :=
  let t : State := { s with
    heldDies := s.heldDies ++ [die]
    ledger := { s.ledger with moves := s.ledger.moves.map fun (m : Move) =>
      if m.engine = die ∧ m.phase = .moving then { m with phase := .handover, since := s.now } else m } }
  ((t.raiseDie 0x0B02 die []).capsChanged).reportHeld die ctxNums

/-- Taken and not started orders complete CANCELLED for want of a scheduler core (Table CLK.10). -/
def State.cancelIntake (s : State) (inc : Nat) : State :=
  s.completeAll stCancelled inc (s.rings.flatMap fun (p : Nat × Ring) => p.2.intake)

/-- A core is not in service at the latch of the eighth scheduled decision after its fire (R412, Table CLK.10). While a firmware
activation or a die reset reloads a core, its restart is theirs. -/
def execCoreRestartFailed (die : Fin 16) (core : Fin 3) (s : State) : Out :=
  let n := die.val
  let c := s.core n core.val
  if c.state ≠ 2 ∨ !s.eighthLatch c.fired ∨ s.trust.reloading.isSome ∨ s.pow.dieResetting.contains n then .next s
  else
    let t := s.setCore n core.val { c with state := 3 }
    match core.val with
    | 0 => .next (t.holdDie n)
    | 1 => .next ((t.raiseDie 0x0B03 n [c.cause]).cancelIntake 0x0B03)
    | _ => .next (t.raiseDie 0x0B04 n [c.cause, t.pow.s])

end Sys2Proof.Machine
end

