-- ==== Sys2Proof/Machine/Training.lean ====
section
/-! DEFINITION. Gathers and reduction sets (09_training.md R299 to R312). -/
namespace Sys2Proof.Machine

/-! ## Lines by virtual address -/

/-- What a read of one line by VA meets. -/
inductive VaRead where
  | ok (s : State) (l : Line)
  | wait (s : State)
  | refuse (s : State) (code : Nat)

/-- Whether a global address is memory of this module's dies. -/
def State.onDies (s : State) (a : Nat) : Bool := a / 2 ^ 46 = s.mod.id && decide (a % 2 ^ 46 < stockTop)

/-- The incident of an uncorrectable line at a local address (07_depot_memory.md R234, R242, 02_stall.md R100). -/
def uncorrCode (a : Nat) : Nat := if a < hbmTop then 0x0604 else if a < depotTop then 0x0602 else 0x0206

/-- One line read by VA. `host` has the lines that lie outside the module's dies; a line of the DDR5 window that it lacks is not backed
(07_depot_memory.md R248). `met` are the errors that lines meet, by VA (R234, R242). -/
def State.readVa (s : State) (ctx requester va : Nat) (host : Tbl Line) (met : List Met) : VaRead :=
  let d := dieOf requester % 16
  let x := s.engineTr ctx va requester d false
  match x.2 with
  | .ok a _ _ =>
    let y := x.1.meetLine d requester (some ctx) a (metAt met va)
    if y.2 ≠ 0 then .refuse y.1 y.2
    else if s.onDies a then .ok y.1 (y.1.line (a % 2 ^ 46))
    else if a / 2 ^ 46 ≠ s.mod.id && s.unreachable (a / 2 ^ 46) then
      .refuse (y.1.raiseMod 0x0907 [a / 2 ^ 46, 0, s.mod.id]) 0x0907
    else match tfind host va with
      | some l => .ok y.1 l
      | none => .refuse (if a / 2 ^ 46 = s.mod.id then y.1.hostMiss d requester (some ctx) a .refused else y.1) 0x0706
  | .refuse code => .refuse x.1 code
  | _ => .wait x.1

/-- What a write of one line by VA comes to: done, sent to another module under a tag, to be tried again, or refused. -/
inductive VaWrite where
  | done (s : State)
  | sent (s : State) (tag : Nat)
  | wait (s : State)
  | refuse (s : State) (code : Nat)

/-- A line written to another module in a message of its own (10_weago.md R337, R340, 07_depot_memory.md R232). -/
def State.writeModule (s : State) (ctx a : Nat) (l : Line) : VaWrite :=
  let m := a / 2 ^ 46
  match s.sending m false with
  | .hold => .wait s
  | .unreachable => .refuse (s.raiseMod 0x0907 [m, 0, s.mod.id]) 0x0907
  | .send psel =>
    let o := s.openRemote m ((routePort (s.route m) psel).getD 0) psel ctx (a % 2 ^ 46) [l] []
    .sent o.1 o.2

/-- One line written by VA: on the dies, in host memory, or at the module that holds the crate. `met` are the errors that lines meet, by VA. -/
def State.writeVa (s : State) (ctx requester va : Nat) (l : Line) (met : List Met) : VaWrite :=
  let d := dieOf requester % 16
  let x := s.engineTr ctx va requester d true
  match x.2 with
  | .ok a _ _ =>
    let y := x.1.meetLine d requester (some ctx) a ((metAt met va).filter fun e => e = .absent || e = .late)
    let t := y.1
    let b := a % 2 ^ 46
    if y.2 ≠ 0 then .refuse t y.2
    else if s.onDies a then .done (t.putLine b l)
    else if a / 2 ^ 46 = t.mod.id then .done { t with out := .bytes b (bytesOfLine l) :: t.out }
    else t.writeModule ctx a l
  | .refuse code => .refuse x.1 code
  | _ => .wait x.1

/-- The error code that answered one of the writes of a list of tags, with its line (07_depot_memory.md R232). -/
def State.failedWrite (s : State) (acks : List (Nat × Nat)) : Option (Nat × Nat) :=
  acks.findSome? fun x => (tfind s.fab.failedWrites x.1).map fun c => (x.2, c)

/-- Whether a write of a list of tags has no answer yet. -/
def State.awaits (s : State) (acks : List (Nat × Nat)) : Bool := acks.any fun x => s.fab.remotes.any fun r => r.tag = x.1

/-- The state with what is known of those tags dropped. -/
def State.dropAcks (s : State) (acks : List (Nat × Nat)) : State :=
  { s with fab := { s.fab with failedWrites := s.fab.failedWrites.filter fun p => !(acks.map (·.1)).contains p.1 } }

/-- A function of the sixteen binary32 elements of a line. -/
def mapLine (f : Word32 → Word32) (l : Line) : Line :=
  BitVec.ofNat 512 (packN 32 (((unpackN 32 16 l.toNat).map fun x => (f (BitVec.ofNat 32 x)).toNat)))

/-- The sums, element by element, of two lines (03_formats.md R116). -/
def addLines (a b : Line) : Line :=
  BitVec.ofNat 512 (packN 32 (zipW (fun x y => (fAdd (BitVec.ofNat 32 x) (BitVec.ofNat 32 y)).toNat) (unpackN 32 16 a.toNat)
    (unpackN 32 16 b.toNat)))

/-! ## Gathers (R299 to R301) -/

/-- Whether a number is a global tally ID with HERE = 1 (06_tallies.md Table TLY.2). -/
def hereTally (n : Nat) : Bool := n >>> 48 = 0 && bitAt n 41 && bitsAt n 23 18 = 0 && namesStall (bitsAt n 6 17)

/-- Whether a 32-bit number is a finite binary32. -/
def finite32 (n : Nat) : Bool := bitsAt n 23 8 ≠ 255

/-- Whether the ranges of two byte spans meet. -/
def spansMeet (a b n : Nat) : Bool := decide (a < b + n) && decide (b < a + n)

/-- The first failing check of R300 for a gather descriptor of a context. -/
def State.gatherCheck (s : State) (c : Nat) (g : Gather) : Option Nat :=
  let b := fun (lo n : Nat) => fieldAt g.desc lo n
  let rsv := b 7 1 ≠ 0 || b 15 1 ≠ 0 || b 22 1 / 4 ≠ 0 || b 23 1 ≠ 0 || b 56 1 / 16 ≠ 0 || b 57 1 / 64 ≠ 0 || b 58 1 / 128 ≠ 0
    || b 59 1 / 64 ≠ 0 || b 60 1 / 128 ≠ 0 || b 61 3 ≠ 0
  let doneOk := if g.doneen then hereTally g.done else g.done = 0
  let scaleOk := finite32 g.scale.toNat && (g.scalen || g.scale = 0#32)
  let value := g.dst % 64 ≠ 0 || g.slot0 % 64 ≠ 0 || g.sstride % 64 ≠ 0 || decide (g.sstride < g.length) || decide (g.nslot < 2)
    || decide (g.nslot > 64) || g.length % 64 ≠ 0 || decide (g.length < 64) || decide (g.length > 2 ^ 36) || !scaleOk
    || !hereTally g.wait || !doneOk || decide (b 58 1 > 79) || decide (b 59 1 < b 57 1) || decide (b 60 1 < b 58 1) || decide (b 60 1 > 79)
  let overlap := (upFrom 0 g.nslot).any fun i => spansMeet g.dst (g.slot0 + i * g.sstride) g.length && !(i = 0 && g.dst = g.slot0)
  let stalls := g.stalls.any fun k => s.fenced k || (s.stall k).occ ≠ some c
  let held := fun (id : Nat) => (s.stall (bitsAt id 6 17)).occ = some c
  if rsv then some 1 else if value then some 2 else if overlap then some 3 else if stalls then some 4
  else if !held g.wait || (g.doneen && !held g.done) then some 5 else none

/-- GATHER: the descriptor is checked, and the gather waits for its bell (R300, R301). -/
def execGather (ring : Nat) (s : State) : Out :=
  .next (s.onOrder ring 0x30 fun o t =>
    let g : Gather := ⟨o.id, o.ctx, o.args, false, false, 0, []⟩
    match t.gatherCheck o.ctx g with
    | some n => (t.raise 0x0802 0xFF (some o.ctx) ring 0xFFFFFFFF [n]).fail o 0x0802
    | none => { t with gathers := t.gathers ++ [g] })

/-- Whether a waiting gather starts at step 6 (R301). -/
def State.gatherStarts (s : State) (g : Gather) : Bool :=
  let x := s.ctx g.ctx
  !g.running && !g.finished && (x.state = .created || x.state = .running)
    && ((s.port (bitsAt g.wait 6 17)).tally (bitsAt g.wait 0 6)).reaches g.waitval
    && g.stalls.all fun k => !s.runsPlan k && !(s.dispatches.any fun d => d.stalls.contains k)

/-- Gathers of a list started where they may (R301). -/
def State.startGathers (s : State) : List Gather → State
  | [] => s
  | g :: r =>
    (if s.gatherStarts g then
      { s with gathers := s.gathers.map fun x => if x.order = g.order then { x with running := true } else x }
    else s).startGathers r

/-- The sum of one gather line's slots in ascending slot (R301); the slot of a refusal. -/
def State.gatherSum (s : State) (g : Gather) (k l : Nat) (host : Tbl Line) (met : List Met) (acc : Option Line) :
    List Nat → VaRead × Nat
  | [] => (.ok s (let a := acc.getD 0#512
                  if g.scalen then mapLine (fun x => fMul x g.scale) a else a), 0)
  | i :: r =>
    match s.readVa g.ctx k (g.slot0 + i * g.sstride + 64 * l) host met with
    | .ok t x => t.gatherSum g k l host met (some (match acc with
        | none => x
        | some a => addLines a x)) r
    | .wait t => (.wait t, i)
    | .refuse t code => (.refuse t code, i)

/-- One gather line: read whole, then written (R301); the slot of a refusal, NSLOT for the line's own. -/
def State.gatherLine (s : State) (g : Gather) (host : Tbl Line) (met : List Met) (l : Nat) : VaWrite × Nat :=
  let ks := g.stalls
  let k := ks.getD (l % ks.length) 0
  match s.gatherSum g k l host met none (upFrom 0 g.nslot) with
  | (.ok t x, _) => (t.writeVa g.ctx k (g.dst + 64 * l) x met, g.nslot)
  | (.wait t, i) => (.wait t, i)
  | (.refuse t code, i) => (.refuse t code, i)

/-- What a run over gather lines ends in, with the writes that have left for other modules: every line written, a wait at a line, or the
first refusal with its line, slot and cause. -/
inductive GatherRun where
  | ok (s : State) (acks : List (Nat × Nat))
  | wait (s : State) (line : Nat) (acks : List (Nat × Nat))
  | refuse (s : State) (line slot code : Nat)

/-- Gather lines one after another. -/
def State.gatherLines (s : State) (g : Gather) (host : Tbl Line) (met : List Met) (acks : List (Nat × Nat)) : List Nat → GatherRun
  | [] => .ok s acks
  | l :: r => match s.gatherLine g host met l with
    | (.done t, _) => t.gatherLines g host met acks r
    | (.sent t tag, _) => t.gatherLines g host met (acks ++ [(tag, l)]) r
    | (.wait t, _) => .wait t l acks
    | (.refuse t code, i) => .refuse t l i code

/-- The state with a gather replaced. -/
def State.setGather (s : State) (g : Gather) : State :=
  { s with gathers := s.gathers.map fun x => if x.order = g.order then g else x }

/-- A gather stopped by an error of a line (R301, R314; the detail's layout: log entry 165). -/
def State.failGather (s : State) (g : Gather) (line slot code : Nat) : State :=
  let o := s.findOrder g.order
  (((s.dropAcks g.acks).setGather { g with finished := true }).raise 0x0804 0xFF (some g.ctx) ((o.map (·.ring)).getD 0) 0xFFFFFFFF
    [line, slot + code * 2 ^ 32, (o.map (·.seq)).getD 0]).complete g.order stFailed 0x0804 0 0

/-- A gather all of whose lines are written ends once every write has been acknowledged (R232, R301). -/
def State.endGather (s : State) (g : Gather) : State :=
  match s.failedWrite g.acks with
  | some (l, code) => s.failGather g l g.nslot code
  | none =>
    if s.awaits g.acks then s.setGather g
    else
      let u := (s.dropAcks g.acks).setGather { g with finished := true }
      (if g.doneen then u.raiseDone g.done else u).complete g.order stDone 0 0 0

/-- A gather goes on (R301): with every line written and acknowledged DONE goes up; a refused translation or an uncorrectable line stops it
with the lines of `written` done before it; a translation that waits leaves the lines from there on for later. -/
def execGatherComplete (order : Nat) (host : List (Nat × Line)) (met : List Met) (written : List Nat) (s : State) : Out :=
  match s.gathers.find? fun g => g.order = order && g.running && !g.finished with
  | none => .next s
  | some g =>
    let x := s.ctx g.ctx
    let n := g.length / 64
    if s.bell.held ∨ (x.state ≠ .created ∧ x.state ≠ .running) then .next s
    else
      match s.gatherLines g host met g.acks (upFrom g.next (n - g.next)) with
      | .ok t acks => .next (t.endGather { g with next := n, acks := acks })
      | .wait t l acks => .next (t.setGather { g with next := l, acks := acks })
      | .refuse t line slot code =>
        match s.gatherLines g host met g.acks ((written.filter fun l => decide (g.next ≤ l) && decide (l < n) && l ≠ line) ++ [line]) with
        | .refuse u line slot code => .next (u.failGather g line slot code)
        | _ => .next (t.failGather g line slot code)

/-! ## Binding (R305, R306) -/

/-- REDUCE_BIND: bound at step 6 of the next emitted bell (R306). `host` has the table lines that lie outside the module's dies. -/
def execReduceBind (ring : Nat) (host : List (Nat × Line)) (s : State) : Out :=
  .next (s.onOrder ring 0x31 fun o t => { t with binds := t.binds ++ [⟨o.id, o.ctx, o.args, host⟩] })

/-- Bytes of a table read by VA in whole lines. -/
def State.readTable (s : State) (ctx va : Nat) (host : Tbl Line) : Nat → List Byte → VaRead × List Byte
  | 0, acc => (.ok s 0#512, acc)
  | n + 1, acc => match s.readVa ctx 0x20000 va host [] with
    | .ok t l => t.readTable ctx (va + 64) host n (acc ++ bytesOfLine l)
    | .wait t => (.wait t, acc)
    | .refuse t code => (.refuse t code, acc)

/-- Whether a reduction set descriptor keeps Table TRN.6. -/
def setDescOk (d : List Byte) : Bool :=
  let b := fun (lo n : Nat) => fieldAt d lo n
  let n := b 24 2
  let g := b 28 2
  let scalen := bitAt (b 31 1) 0
  let doneen := bitAt (b 31 1) 1
  b 7 1 = 0 && b 15 1 = 0 && b 47 1 = 0 && b 31 1 / 4 = 0 && b 56 8 = 0 && b 0 7 % 4096 = 0 && b 8 7 % 64 = 0 && b 16 8 % 1024 = 0
    && decide (b 16 8 ≤ 2 ^ 40) && decide (2 ≤ n) && decide (n ≤ 12288) && decide (b 26 2 < n)
    && (g = 0 || (decide (2 ≤ g) && decide (2 * g ≤ n) && n % g = 0)) && decide (b 30 1 ≤ 64)
    && finite32 (b 32 4) && (scalen || b 32 4 = 0) && decide (1 ≤ b 36 2) && decide (b 36 2 ≤ 256) && b 40 7 % 64 = 0
    && (if doneen then hereTally (b 48 8) else b 48 8 = 0)

/-- Row of a stall within the module. -/
def rowNum (k : Nat) : Nat := dieOf k * 160 + yOf k * 2 + xOf k / 32

/-- The first failing check of R306 for a set whose tables have been read. -/
def State.bindCheck (s : State) (c : Nat) (d : List Byte) (members : List Nat) (reducers : List Nat) : Option Nat :=
  let mods := members.map fun e => e % 2 ^ 18
  let table := members.any (fun e => decide (e ≥ 2 ^ 24)) || hasTwice mods || mods.any (fun m => !s.inHall m)
    || reducers.any fun e => decide (e ≥ 2 ^ 17) || !namesStall e
  if !setDescOk d || table then some 1
  else if reducers.any fun k => s.barred k || (s.stall k).occ ≠ some c || s.planBusy k then some 2
  else if hasTwice (reducers.map rowNum) then some 3
  else if (s.findSet (fieldAt d 38 2)).isSome then some 4
  else if mods.any fun m => m ≠ s.mod.id && !s.pathUsable m 0 false then some 5
  else none

/-- The gate count with which the firmware plan of a set compares its fill tally, moved on by an amount (R306). -/
def State.moveGate (s : State) (x : RSet) (n : Nat) : State :=
  let k := x.reducers.getD 0 0
  let t := s.stall k
  s.setStall k { t with gates := tput t.gates 63 ((tget t.gates 1 63 + n) % 2 ^ 32) }

/-- A set bound: its fill tally has RA = 1, and the plan's gate count waits for the first bucket (R306, R307).
DESIGN CHOICE: the fill tally starts at 0 (log entry 164). -/
def State.bindSet (s : State) (c : Nat) (d : List Byte) (members : List Nat) (reducers : List Nat) : State :=
  let x : RSet := ⟨fieldAt d 38 2, c, d, members.map fun e => (e % 2 ^ 18, bitsAt e 18 6), reducers, 0, 0, 0, [], [], [], [], [], false, none⟩
  let k := reducers.getD 0 0
  let p := s.port k
  let t := s.setPort k { p with tallies := tput p.tallies 63 { Tally.zero with ra := true } }
  let y := t.stall k
  let u := (t.setStall k { y with gates := tput y.gates 63 0 }).moveGate x (x.threshold 0)
  { u with sets := u.sets ++ [x] }

/-- Sets to be bound at step 6 (R306): their tables are read through the context's address space. A table that cannot be read breaks
check 1; one whose crate has still to be placed waits for a later bell. -/
def State.bindSets (s : State) : List RBind → State
  | [] => s
  | b :: r =>
    let n := fieldAt b.desc 24 2
    let rc := fieldAt b.desc 36 2
    let refuse := fun (t : State) (check : Nat) =>
      (({ t with binds := t.binds.filter fun x => x.order ≠ b.order } : State).raise 0x0801 0xFF (some b.ctx) (fieldAt b.desc 38 2)
        0xFFFFFFFF [check]).complete b.order stFailed 0x0801 0 0
    (if !setDescOk b.desc then refuse s 1
    else match s.readTable b.ctx (fieldAt b.desc 8 7) b.host (ceilDiv (8 * n) 64) [] with
    | (.wait t, _) => t
    | (.refuse t _, _) => refuse t 1
    | (.ok t _, mem) =>
      match t.readTable b.ctx (fieldAt b.desc 40 7) b.host (ceilDiv (4 * rc) 64) [] with
      | (.wait u, _) => u
      | (.refuse u _, _) => refuse u 1
      | (.ok u _, red) =>
        let members := (upFrom 0 n).map fun i => fieldAt mem (8 * i) 8
        let reducers := (upFrom 0 rc).map fun i => fieldAt red (4 * i) 4
        match u.bindCheck b.ctx b.desc members reducers with
        | some n => refuse u n
        | none => (({ u with binds := u.binds.filter fun x => x.order ≠ b.order } : State).bindSet b.ctx b.desc members reducers).complete
            b.order stDone 0 0 0).bindSets r

/-- REDUCE_RELEASE: the set is unbound at the first bell at which every started bucket has completed (R312). -/
def execReduceRelease (ring : Nat) (s : State) : Out :=
  .next (s.onOrder ring 0x32 fun o t =>
    match t.findSet (o.inline 36 2) with
    | some x => if x.ctx = o.ctx ∧ x.release.isNone then t.setSet { x with release := some o.id } else t.reject o 1
    | none => t.reject o 1)

/-- Sets whose release waits are unbound where no started bucket is left (R312). -/
def State.releaseSets (s : State) : List RSet → State
  | [] => s
  | x :: r =>
    (match x.release with
    | some o => if x.buckets.isEmpty || x.faulted then
        ({ s with sets := s.sets.filter fun y => y.setid ≠ x.setid } : State).complete o stDone 0 0 0 else s
    | none => s).releaseSets r

/-! ## The rings (R308, R309) -/

/-- Gs of R308. -/
def RSet.gs (x : RSet) : Nat := if x.g = 0 then x.n else x.g
/-- H of R308. -/
def RSet.h (x : RSet) : Nat := if x.g = 0 then 1 else x.n / x.g
/-- This member's group. -/
def RSet.grp (x : RSet) : Nat := x.self / x.gs
/-- This member's position in its group. -/
def RSet.pos (x : RSet) : Nat := x.self % x.gs

/-- q1 of line `l` of a bucket of `n` lines. -/
def RSet.q1 (x : RSet) (n l : Nat) : Nat := l * x.gs / n
/-- q2. -/
def RSet.q2 (x : RSet) (n l : Nat) : Nat :=
  let q := x.q1 n l
  let lo := ceilDiv (q * n) x.gs
  let size := ceilDiv ((q + 1) * n) x.gs - lo
  (l - lo) * x.h / size

/-- Lines of bucket `j`, counted over all steps. -/
def RSet.linesOf (x : RSet) (j : Nat) : Nat := x.bucketLines (j % x.nbuckets)

/-- How many members before this one in its ring have sent a line of a kind on, where this member sends it; `g` and `q` are a member's
group and position (R308). -/
def RSet.hop (x : RSet) (kind j g q l : Nat) : Option Nat :=
  let n := x.linesOf j
  let q1 := x.q1 n l
  let q2 := x.q2 n l
  let gs := x.gs
  let h := x.h
  match kind with
  | 0 => if q = q1 then none else some ((q + gs - q1 - 1) % gs)
  | 1 => if h = 1 ∨ q ≠ q1 ∨ g = q2 then none else some ((g + h - q2 - 1) % h)
  | 2 => if h = 1 ∨ q ≠ q1 ∨ (g + 1) % h = q2 then none else some ((g + h - q2) % h)
  | _ => if (q + 1) % gs = q1 then none else some ((q + gs - q1) % gs)

/-- The lines of a kind and bucket that a member's reducer `r` sends, in the order in which it sends them: first those that it starts,
then those that have come one hop, and so on, each in ascending line (R309, log entry 53). -/
def RSet.sendList (x : RSet) (kind r j g q : Nat) : List Nat :=
  let mine := (upFrom 0 (x.linesOf j)).filter fun l => l % x.reducers.length = r
  (upFrom 0 (max x.gs x.h)).flatMap fun d => mine.filter fun l => x.hop kind j g q l = some d

/-- The line at a place of a sequence that `f` gives bucket by bucket, and its place: the bucket and its index there. -/
def seqAt (f : Nat → List Nat) : Nat → Nat × Nat → Option ((Nat × Nat) × Nat)
  | 0, _ => none
  | fuel + 1, (j, i) => match (f j)[i]? with
    | some l => some ((j, i), l)
    | none => seqAt f fuel (j + 1, 0)

/-- The next line of a kind that a reducer takes from its predecessor: the one next in the order in which the predecessor sends (R309). -/
def RSet.expected (x : RSet) (kind r : Nat) : Option ((Nat × Nat) × Nat) :=
  let f := fun j =>
    if kind = 0 ∨ kind = 3 then x.sendList kind r j x.grp ((x.pos + x.gs - 1) % x.gs)
    else x.sendList kind r j ((x.grp + x.h - 1) % x.h) x.pos
  seqAt f (x.nbuckets + 2) (tget x.seen (0, 0) (4 * r + kind))

/-- The next line of a kind that a reducer sends. -/
def RSet.nextSend (x : RSet) (kind r : Nat) : Option ((Nat × Nat) × Nat) :=
  seqAt (fun j => x.sendList kind r j x.grp x.pos) (x.nbuckets + 2) (tget x.sentAt (0, 0) (4 * r + kind))

/-- Index of this member's successor within its group, or among the groups. -/
def RSet.succ (x : RSet) (level : Nat) : Nat :=
  if level = 1 then x.grp * x.gs + (x.pos + 1) % x.gs else (x.grp + 1) % x.h * x.gs + x.pos

/-- The tag of a line (R309; its layout: log entry 53). -/
def RSet.tag (x : RSet) (kind j l : Nat) : Line :=
  BitVec.ofNat 512 (x.setid + kind * 2 ^ 16 + x.self * 2 ^ 32 + l * 2 ^ 64 + j % x.nbuckets * 2 ^ 128 + j / x.nbuckets * 2 ^ 192)

/-- A line sent to the reducer of the same index on a ring successor, in the ordered class along the primary path (R309); an
unreachable successor is recorded (10_weago.md R337) and faults the set (R312). -/
def State.sendRing (s : State) (x : RSet) (r : RLine) : State :=
  let i := x.succ (if r.kind = 0 ∨ r.kind = 3 then 1 else 2)
  let m := x.members.getD i (0, 0)
  let k := x.reducers.getD (r.line % x.reducers.length) 0
  if s.pathUsable m.1 0 false then s.sendMsg (mkMsg 2 2 2 0 m.1 s.mod.id m.2 0 (stockAddr k 0) none [x.tag r.kind r.num r.line, r.value])
  else (s.raiseMod 0x0907 [m.1, 0, s.mod.id]).faultSet x 0x0807 [i, m.1]

/-- A computed line joins those that wait for their turn (R309). -/
def RSet.queue (x : RSet) (kind j l : Nat) (v : Line) : RSet := { x with outq := x.outq ++ [⟨kind, j, l, v⟩] }

/-- The set as it stands bound. -/
def State.onSet (s : State) (setid : Nat) (f : RSet → RSet) : State :=
  match s.findSet setid with
  | some x => s.setSet (f x)
  | none => s

/-- The first waiting line whose turn it is, with the place it has in its sequence. -/
def RSet.due (x : RSet) : Option (RLine × (Nat × Nat)) :=
  x.outq.findSome? fun r => match x.nextSend r.kind (r.line % x.reducers.length) with
    | some (at_, l) => if at_.1 = r.num ∧ l = r.line then some (r, at_) else none
    | none => none

/-- Lines whose turn has come leave, each sequence in its order (R309). -/
def State.sendDue (s : State) (setid : Nat) : Nat → State
  | 0 => s
  | fuel + 1 => match s.findSet setid with
    | none => s
    | some x => match x.due with
      | none => s
      | some (r, at_) =>
        if x.faulted then s
        else
          let y := { x with
            outq := x.outq.erase r, sentAt := tput x.sentAt (4 * (r.line % x.reducers.length) + r.kind) (at_.1, at_.2 + 1) }
          ((s.setSet y).sendRing y r).sendDue setid fuel

/-- The set's bucket with a number. -/
def RSet.bucket (x : RSet) (j : Nat) : Option Bucket := x.buckets.find? fun b => b.num = j
/-- The set with a bucket replaced. -/
def RSet.setBucket (x : RSet) (b : Bucket) : RSet := { x with buckets := x.buckets.map fun y => if y.num = b.num then b else y }

/-- VA of line `l` of bucket `j` of the member's region. -/
def RSet.lineVa (x : RSet) (j l : Nat) : Nat := x.grad + j % x.nbuckets * x.bk * 1024 + 64 * l

/-- The final value of a line is written to the region (R311). -/
def State.writeGrad (s : State) (x : RSet) (j l : Nat) (v : Line) (met : List Met) : VaWrite :=
  let note := fun (t : State) (tag : Option Nat) => t.onSet x.setid fun y => match y.bucket j with
    | some b => y.setBucket { b with written := l :: b.written, acks := b.acks ++ (tag.map fun n => (n, l)).toList }
    | none => y
  match s.writeVa x.ctx (x.reducers.getD (l % x.reducers.length) 0) (x.lineVa j l) v met with
  | .done t => .done (note t none)
  | .sent t tag => .done (note t (some tag))
  | r => r

/-- The state where a write has been done, with what follows it. -/
def VaWrite.andThen (w : VaWrite) (f : State → State) : VaWrite :=
  match w with
  | .done t => .done (f t)
  | .sent t tag => .sent (f t) tag
  | r => r

/-- The final value at the member where the sum ends: scaled, written, and sent round both levels (R308). -/
def State.finishLine (s : State) (x : RSet) (j l : Nat) (v : Line) (met : List Met) : VaWrite :=
  let w := if x.scalen then mapLine (fun e => fMul e x.scale) v else v
  (s.writeGrad x j l w met).andThen fun t =>
    t.onSet x.setid fun y => (if x.h > 1 then y.queue 2 j l w else y).queue 3 j l w

/-- A partial of level 2 meets this member's group sum (R308). -/
def State.joinLevel2 (s : State) (x : RSet) (j l : Nat) (v p : Line) (met : List Met) : VaWrite :=
  let w := addLines v p
  if x.grp = x.q2 (x.linesOf j) l then s.finishLine x j l w met else .done (s.onSet x.setid fun y => y.queue 1 j l w)

/-- The group sum of a line is complete at this member (R308): it starts level 2, meets the partial that has come, or waits for it. -/
def State.groupSum (s : State) (x : RSet) (j l : Nat) (p : Line) (met : List Met) : VaWrite :=
  if x.h = 1 then s.finishLine x j l p met
  else if x.grp = (x.q2 (x.linesOf j) l + 1) % x.h then .done (s.onSet x.setid fun y => y.queue 1 j l p)
  else .done (s.onSet x.setid fun y => match y.bucket j with
    | some b => y.setBucket { b with sums := tput b.sums l p }
    | none => y)

/-- Whether a line that waits can be used: its bucket has started, and a partial of level 2 finds this member's group sum. -/
def RSet.usable (x : RSet) (r : RLine) : Bool :=
  match x.bucket r.num with
  | none => false
  | some b => r.kind ≠ 1 || (tfind b.sums r.line).isSome

/-- One line is used (R308): added to this member's own line or group sum, or written and passed on; a line of this member that starts a
sum is read and sent. -/
def State.useLine (s : State) (x : RSet) (r : RLine) (host : Tbl Line) (met : List Met) : VaWrite :=
  let j := r.num
  let l := r.line
  let n := x.linesOf j
  let k := x.reducers.getD (l % x.reducers.length) 0
  match r.kind with
  | 1 => (match (x.bucket j).bind fun b => tfind b.sums l with
    | some p => s.joinLevel2 x j l r.value p met
    | none => .wait s)
  | 2 => (s.writeGrad x j l r.value met).andThen fun t =>
      t.onSet x.setid fun y => (if (x.grp + 1) % x.h = x.q2 n l then y else y.queue 2 j l r.value).queue 3 j l r.value
  | 3 => (s.writeGrad x j l r.value met).andThen fun t =>
      t.onSet x.setid fun y => if (x.pos + 1) % x.gs = x.q1 n l then y else y.queue 3 j l r.value
  | _ => (match s.readVa x.ctx k (x.lineVa j l) host met with
    | .ok t own =>
      if r.kind = 4 then .done (t.onSet x.setid fun y => y.queue 0 j l own)
      else
        let w := addLines r.value own
        if x.pos = x.q1 n l then t.groupSum x j l w met else .done (t.onSet x.setid fun y => y.queue 0 j l w)
    | .wait t => .wait t
    | .refuse t code => .refuse t code)

/-- Whether a set's reducers run: no HOLD, no fault, the context neither saved nor being saved. -/
def State.setRuns (s : State) (x : RSet) : Bool :=
  !s.bell.held && !x.faulted && ((s.ctx x.ctx).state = .created || (s.ctx x.ctx).state = .running)

/-- The lines of a set that wait are used one after another, as far as its reducers run, and what they give is sent in its turn (R308,
R309). A line that waits for its crate stops the run there; a refused translation or an uncorrectable line of the region faults the set
with 0x0809 (R312). -/
def State.runSet (s : State) (setid : Nat) (host : Tbl Line) (met : List Met) : Nat → State
  | 0 => s
  | fuel + 1 => match s.findSet setid with
    | none => s
    | some x =>
      if !s.setRuns x then s
      else match x.waiting.find? x.usable with
        | none => s.sendDue setid x.outq.length
        | some r => match s.useLine x r host met with
          | .done t => ((t.onSet setid fun y => { y with waiting := y.waiting.erase r }).sendDue setid (x.outq.length + 2)).runSet setid host
              met fuel
          | .sent t _ => t
          | .wait t => t.sendDue setid x.outq.length
          | .refuse t code => match t.findSet setid with
            | some y => t.faultSet y 0x0809 [y.lineVa r.num r.line, code]
            | none => t

/-- What a run may at most use: the waiting lines, each of which can free a partial of level 2. -/
def State.runAll (s : State) (setid : Nat) (host : Tbl Line) (met : List Met) : State :=
  match s.findSet setid with
  | some x => s.runSet setid host met (x.waiting.length + 1)
  | none => s

/-- The lines of a bucket whose sum this member starts: it stands after position q1 of its group (R308). -/
def RSet.starts (x : RSet) (j : Nat) : List Nat :=
  (upFrom 0 (x.linesOf j)).filter fun l => x.pos = (x.q1 (x.linesOf j) l + 1) % x.gs

/-- Whether the next bucket of a set may start: the fill tally has received its threshold (R307). -/
def State.bucketReady (s : State) (x : RSet) : Bool := s.setRuns x && decide (x.fill ≥ x.threshold x.nextStart)

/-- A bucket starts where the fill tally has received its threshold (R307): the plan's gate count moves to the next bucket's threshold, this
member's first lines are read and sent, and lines that came before the start are used. Where no bucket can start, the set's lines that
wait are used as far as they can be. -/
def execBucketStart (setid : Nat) (host : List (Nat × Line)) (met : List Met) (s : State) : Out :=
  match s.findSet setid with
  | none => .next s
  | some x =>
    let j := x.nextStart
    let t := if s.bucketReady x then
        (s.setSet { x with
          nextStart := j + 1, buckets := x.buckets ++ [⟨j, [], [], []⟩]
          waiting := x.waiting ++ (x.starts j).map fun l => ⟨4, j, l, 0#512⟩ }).moveGate x (x.threshold (j + 1) - x.threshold j)
      else s
    .next (t.runAll setid host met)

/-- A line that a reducer takes from its predecessor enters its stock and waits there for its use (R309). -/
def State.takeRing (s : State) (x : RSet) (m : Msg) (r : Nat) (at_ : Nat × Nat) (line : RLine) : State :=
  (s.putLines (m.addr % 2 ^ 46) m.data).setSet { x with
    seen := tput x.seen (4 * r + line.kind) (at_.1, at_.2 + 1), waiting := x.waiting ++ [line] }

/-- An ordered write at the head of a port's ORD queue reaches its reducer (R309): the next expected line is taken, and used where the
reducers run (a HOLD delivers it, R312); any other is dropped and faults the set with 0x0805. -/
def execReduceLine (port : Fin 16) (host : List (Nat × Line)) (met : List Met) (s : State) : Out :=
  match s.headMsg port.val 2 with
  | none => .next s
  | some m =>
    if m.dest ≠ s.mod.id ∨ m.ty ≠ 2 then .next s
    else
      let t := s.takeMsg port.val 2
      let k := (m.addr - stockWin) / 0x40000
      let tag := (m.data.getD 0 0#512).toNat
      let kind := bitsAt tag 16 16
      let l := bitsAt tag 64 64
      let detail := fun (r : Nat) => [r + bitsAt tag 32 32 * 2 ^ 32, bitsAt tag 0 32 + l % 2 ^ 32 * 2 ^ 32,
        bitsAt tag 128 32 + bitsAt tag 192 32 * 2 ^ 32]
      if !t.inHall m.src then .next (t.reply m 5 0 3 [])
      else match t.sets.find? fun x => x.reducers.contains k with
      | none => .next (t.raise 0x0805 (dieOf k % 16) none (bitsAt tag 0 16) 0xFFFFFFFF (detail k))
      | some x =>
        let r := ((upFrom 0 x.reducers.length).find? fun i => x.reducers.getD i 0 = k).getD 0
        let j := bitsAt tag 192 64 * x.nbuckets + bitsAt tag 128 64
        if x.faulted then .next t
        else match x.expected kind r with
        | some (at_, e) =>
          if bitsAt tag 0 16 ≠ x.setid ∨ kind > 3 ∨ at_.1 ≠ j ∨ e ≠ l then .next (t.faultSet x 0x0805 (detail r))
          else .next ((t.takeRing x m r at_ ⟨kind, j, l, m.data.getD 1 0#512⟩).runAll x.setid host met)
        | none => .next (t.faultSet x 0x0805 (detail r))

/-- Every line of the oldest bucket has been written and acknowledged: DONE goes up by 1 (R311). A write that another module refused
faults the set with 0x0809 (R312). -/
def execBucketComplete (setid : Nat) (s : State) : Out :=
  match s.findSet setid with
  | none => .next s
  | some x =>
    match x.bucket x.nextDone with
    | none => .next s
    | some b =>
      if !s.setRuns x then .next s
      else match s.failedWrite b.acks with
      | some (l, code) => .next ((s.dropAcks b.acks).faultSet x 0x0809 [x.lineVa b.num l, code])
      | none =>
        if decide (b.written.length < x.linesOf b.num) || s.awaits b.acks then .next s
        else
          let t := (s.dropAcks b.acks).setSet { x with nextDone := x.nextDone + 1, buckets := x.buckets.filter fun y => y.num ≠ b.num }
          .next (if x.doneen then t.raiseDone x.done else t)

/-- An abort of a set comes round a ring (R312): 0x0806 with the faulting member and its cause; it goes on to the neighbours. -/
def execSetAbort (setid member cause : Nat) (s : State) : Out :=
  match s.findSet setid with
  | none => .next s
  | some x => .next (s.faultSet x 0x0806 [member, cause])

/-- Sets with a reducer on which a fence has taken effect fault with 0x0808 (R312). -/
def State.fenceSets (s : State) : List RSet → State
  | [] => s
  | x :: r =>
    (match x.reducers.find? s.fenced with
    | some k => s.faultSet x 0x0808 [k]
    | none => s).fenceSets r

end Sys2Proof.Machine
end

