-- ==== Sys2Proof/Machine/Bell.lean ====
section
/-! DEFINITION. The bell: its decision and the actions of its latch (01_bell.md R36 to R52, Table BELL.4). -/
namespace Sys2Proof.Machine

/-! ## Overruns (R42, R44 to R47) -/

/-- Whether a stall's segment is not complete at a decision in cy `d` (R42): a stall that runs no plan, is fenced or lies on a held
die counts as complete. -/
def State.late (s : State) (d k : Nat) (t : Stall) : Bool :=
  !s.fenced k && !s.heldDies.contains (dieOf k) && (match t.status with
    | .idle => false
    | .running => true
    | .parked _ _ cy => decide (cy + 91 > d)
    | .stopped _ cy => decide (cy + 91 > d))

/-- Each context with an overrun, with its first overrunning stall in the order of stall ID (R45, R46). -/
def State.overruns (s : State) (d : Nat) : List (Nat × Nat) :=
  ctxNums.filterMap fun c => (s.stalls.find? fun p => p.2.occ = some c && s.late d p.1 p.2).map fun p => (c, p.1)

/-- 0x0101 for every slipping context (R45). -/
def State.raiseSlips (s : State) : List (Nat × Nat) → State
  | [] => s
  | (c, k) :: r => (s.raise 0x0101 (dieOf k) (some c) k 0xFFFFFFFF []).raiseSlips r

/-! ## Hall phase (R49 to R51, 10_weago.md R352 to R355) -/

/-- An integer divided by a positive one, rounded to nearest. -/
def roundDiv (a : Int) (b : Nat) : Int := (2 * a + b) / (2 * b)

/-- Phase error of a decision in cy `d` against the hall grid in ninths of 0.125 ns: 32/9 units of 0.125 ns make one cy (R352, R354). The
offset is extrapolated (R353), in holdover too (R355). -/
def State.phaseError (s : State) (d : Nat) : Int :=
  let p : Int := 32 * s.period
  let m := (32 * (d : Int) + 9 * s.fab.sync.offsetAt (localAt d)) % p
  if 2 * m > p then m - p else m

/-- Hall phase at a decision: the error, LOCKED, 0x0107 where the lock is lost, and C (R49 to R51). In free-run mode all are clear;
DESIGN CHOICE: LOCKED clears there without 0x0107, which R50 gives for an error beyond ±16 ns (log entry 148). -/
def State.hallPhase (s : State) (d : Nat) (x : Telemetry) : State × Int :=
  let y := s.fab.sync
  if !s.hallMode then
    ({ s with
      bell := { s.bell with locked := false, phase := 0, inRange := 0 }
      fab := { s.fab with sync := { y with zeroed := false, quiet := 0, said := false } } }, 0)
  else
    let t : State := if s.syncRoot ∧ !y.zeroed then
      { s with fab := { s.fab with sync := { y with offset := -localAt d, rate := 0, span := 0, zeroed := true } } } else s
    let e := t.phaseError d
    let err := roundDiv e 9
    let quiet := !t.syncRoot && decide (y.quiet ≥ 64)
    let inRange := if !quiet ∧ e.natAbs ≤ 576 then min 16 (t.bell.inRange + 1) else 0
    let lost := t.bell.locked && (quiet || decide (e.natAbs > 1152))
    let locked := !lost && (t.bell.locked || (decide (inRange = 16) && (t.syncRoot || y.lockedParent)))
    let u : State := { t with bell := { t.bell with locked := locked, phase := err, inRange := inRange } }
    let v := if lost then u.raiseMod 0x0107 [toBits 64 err] else u
    let c := max (-4) (min 4 (-(roundDiv e 32)))
    (v, if x.step ≠ 0 ∧ !locked ∧ v.dispatches.isEmpty then x.step else c)

/-! ## The decision (R36 to R40, R45 to R47, R57, R58) -/

/-- What had been asked of the engines before the decision in cy `d`: what was registered in that cy itself belongs to the following
bell (00_scope.md R18). -/
def State.dueNow (s : State) (d : Nat) (quiescent : Bool) : Due :=
  let old := fun (e : Ask) => !s.young d e
  { faults := ctxNums.filter fun c => (s.ctx c).cause.isSome && old (.fault c)
    ends := ctxNums.filter fun c => match (s.ctx c).ending with
      | some (_, id) => old (.order id)
      | none => false
    close := (s.trust.close.map fun id => old (.order id)).getD false
    orders := (s.sqReqs.map (·.order) ++ s.gathers.map (·.order) ++ s.binds.map (·.order) ++ s.sets.filterMap (·.release)).filter
      fun id => old (.order id)
    dies := s.pow.dieResetAsked.filter fun n => old (.die n)
    fences := (upFrom 0 320).filter fun i => (s.dom i).due.isSome && old (.fence i)
    units := (upFrom 0 256).filter fun u => (s.unit u).pending && (s.unit u).bellm && !(s.unit u).pen && old (.unit u)
    ready := ctxNums.filter fun c => s.saveReady c && (match (s.ctx c).save with
      | some (some id) => old (.order id)
      | _ => true)
    restorable := s.restorableNow d
    quiescent := quiescent }

/-- A BELL emitted in cy `d`, with the faults decided with it. -/
def State.emitBell (s : State) (d : Nat) (faults : List BellFault) : State :=
  let (t, quiet) := s.evaluateActivation
  let u := t.send ⟨.bell, t.bell.lead, (t.bell.count + 1) % 2, d, d + 90, 0, faults, t.dueNow d quiet⟩
  { u with bell := { u.bell with slipRun := 0, slipped := false } }

/-- The faults of fault-policy contexts at a decision (R46). -/
def faultsOf (code : Nat) (l : List (Nat × Nat)) : List BellFault := l.map fun p => ⟨p.1, code, p.2⟩

/-- The overrun check, and the symbol or slip that follows from it (R44 to R47). A HOLD in flight that latches no later than this bell
would discards the bell and everything decided with it (R57). -/
def State.decideBell (s : State) (d : Nat) : State :=
  if s.bell.symbols.any fun x => x.kind = .hold && decide (x.latch ≤ d + 90) then s.emitBell d []
  else
    let late := s.overruns d
    let strict := late.filter fun p => (s.ctx p.1).ovrFault
    let slips := late.filter fun p => !(s.ctx p.1).ovrFault
    let faults := faultsOf 0x0102 strict
    if slips.isEmpty then s.emitBell d faults
    else if s.bell.slipRun + 1 > s.slipMax then s.emitBell d (faults ++ faultsOf 0x0103 slips)
    else
      let t := s.raiseSlips slips
      let u : State := { t with bell := { t.bell with slips := satInc t.bell.slips, slipRun := t.bell.slipRun + 1, slipped := true } }
      if faults.isEmpty then u else u.send ⟨.slip, u.bell.lead, 0, d, d + 90, 0, faults, Due.none⟩

/-- While the module is held a GO emits RELEASE where every cause is still clear and no HOLD has been decided from the cy of the GO
write on and before this decision (R57, R58); a module without a host path stays HELD (11_host_rings.md R362). -/
def State.decideRelease (s : State) (d : Nat) : State :=
  let go := match s.bell.go with
    | some g => s.hostPath && s.bell.cause = 0 && !(s.bell.holds.any fun c => decide (g ≤ c) && decide (c < d))
    | none => false
  let t : State := { s with bell := { s.bell with go := none, holds := s.bell.holds.filter (d ≤ ·), slipped := false } }
  if go then t.send ⟨.release, t.bell.lead, 0, d, d + 90, 0, [], Due.none⟩ else t

/-- The next decision cy (R36, R38, R51), clipped to 2^32 − 1 (0x010B); in free-run mode S ends at 2^31 − 1. DESIGN CHOICE: a phase step
that would leave no interval leaves one of 1 cy (log entry 147). -/
def State.schedule (s : State) (d : Nat) (c : Int) : State :=
  let p := s.period
  let st := if s.hallMode then ceilDiv s.bell.stretchNext p * p else min s.bell.stretchNext 2147483647
  let want := ((p + st : Nat) + c).toNat
  let t : State := { s with
    decisions := s.decisions + 1
    bell := { s.bell with
      stretch := st, stretchNext := s.pow.s, lastD := d, nextD := d + max 1 (min want 4294967295) } }
  if want > 4294967295 then t.raiseMod 0x010B [want] else t

/-- The scheduled decision: stretch, hall phase, overruns, the symbol, the next decision cy. It waits for symbols that latch before it. -/
def execBellDecision (tel : Telemetry) (s0 : State) : Out :=
  let d := s0.bell.nextD
  if !s0.awake || s0.bell.symbols.any fun x => decide (x.latch < d) then .next s0
  else
    let s := (((s0.at d).measure tel).stretch (d - s0.bell.lastD) tel).settleEmergency
    let (t, c) := s.hallPhase d tel
    let u := if t.bell.held then t.decideRelease d else t.decideBell d
    let v := u.schedule d c
    .next { v with asks := v.asks.filter fun p => decide (d ≤ p.2) }

/-! ## Step 1 -/

/-- Contexts faulted by an overrun, with the records of R46 and R47. -/
def State.overrunFaults (s : State) : List BellFault → State
  | [] => s
  | f :: r =>
    let x := s.ctx f.ctx
    (if x.state = .free ∨ x.state = CtxState.faulted then s
    else (s.raise f.code (dieOf f.stall) (some f.ctx) f.stall 0xFFFFFFFF []).faultCtx f.ctx f.code f.stall).overrunFaults r

/-- Every context ended by a session close (13_trust.md R432). -/
def State.endAll (s : State) : List Nat → State
  | [] => s
  | c :: r => (if (s.ctx c).state = .free then s else s.endCtx c true none).endAll r

/-- Links whose retraining had failed before the decision in cy `d` are marked failed, and the ring engine moves off a die that is fenced, held or has lost its host edge
(07_depot_memory.md R246, 11_host_rings.md R362, 12_clerk_firmware.md R413). -/
def State.failLinks (s : State) (d : Nat) : State :=
  let old := s.failing.filter fun l => !s.young d (.link l)
  let t : State := { s with
    failedLinks := s.failedLinks ++ old.filter (fun l => !s.failedLinks.contains l)
    failing := s.failing.filter fun l => s.young d (.link l) }
  if !t.ringUp t.conf.ringDie && t.ringUp (8 - t.conf.ringDie) then
    ({ t with conf := { t.conf with ringDie := 8 - t.conf.ringDie } } : State).flushOut else t

/-- Step 1: overrun faults, fences, die resets, reported faults, resets and ends, session close; the orders that asked for the ends. -/
def State.bellStep1 (s : State) (x : Symbol) : State × List Nat :=
  let f := (((s.failLinks x.decided).overrunFaults x.faults).takeFences x.due.fences)
  let g := f.fenceSets f.sets
  let h := ({ g with pow := { g.pow with dieResetAsked := g.pow.dieResetAsked.filter fun d => !x.due.dies.contains d } } : State).resetDies
    x.due.dies
  let (e, ids) := (h.faultReported x.due.faults).endAsked x.due.ends
  let c := if x.due.close then let t := e.endAll ctxNums; t.faultSets t.sets else e
  (c.beginActivation x.due.quiescent, ids)

/-! ## Step 3 (06_tallies.md R206, R211) -/

/-- The least reference of tally `t` of a stall (R206). -/
def leastRef (gates : Tbl Nat) (p : StallPort) (t : Nat) (y : Tally) : Nat :=
  p.slots.foldl (fun b q => match q.2.desc with
    | some d => if q.2.state ≠ .free && d.freeden && d.freed = t then min b q.2.f0 else b
    | none => b) (min y.value (tget gates 1 t))

/-- realign(t) on one stall. -/
def realignOne (g : Tbl Nat) (p : StallPort) (t : Nat) (y : Tally) : Tbl Nat × StallPort :=
  let b := leastRef g p t y
  (tput g t (tget g 1 t - b),
    { p with
      tallies := tput p.tallies t { y with value := y.value - b }
      slots := tmap p.slots fun _ q => match q.desc with
        | some d => if q.state ≠ .free && d.freeden && d.freed = t then { q with f0 := q.f0 - b } else q
        | none => q })

/-- Every tally with RA = 1 of one stall. -/
def realignAll (g : Tbl Nat) (p : StallPort) : List (Nat × Tally) → Tbl Nat × StallPort
  | [] => (g, p)
  | (t, y) :: r => if y.ra then realignAll (realignOne g p t y).1 (realignOne g p t y).2 r else realignAll g p r

/-- Whether a stall's issue has stopped: no later bell alters its state (02_stall.md R103). -/
def Stall.isStopped (t : Stall) : Bool :=
  match t.status with
  | .stopped _ _ => true
  | _ => false

/-- Re-alignment of every stall whose issue has not stopped (R206, 02_stall.md R103, log entry 156). -/
def State.realignStalls (s : State) : List (Nat × StallPort) → State
  | [] => s
  | (k, p) :: r =>
    (if !(s.stall k).isStopped && p.tallies.any fun q => q.2.ra then
      let t := s.stall k
      let x := realignAll t.gates p p.tallies
      (s.setStall k { t with gates := x.1 }).setPort k x.2
    else s).realignStalls r

/-- Reckoning units that wait for the bell release their generation (R211). -/
def State.releaseUnits (s : State) : List Nat → State
  | [] => s
  | u :: r => (if (s.unit u).pending then s.releaseUnit u else s).releaseUnits r

/-- Step 3. -/
def State.bellStep3 (s : State) (x : Symbol) : State :=
  let t := if !s.hallMode || s.bell.locked then s.realignStalls s.ports else s
  t.releaseUnits x.due.units

/-! ## Steps 4 and 5 -/

/-- Step 4 (08_ledger_dray.md R267). -/
def State.bellStep4 (s : State) (x : Symbol) : State := ((s.moveLeaves ctxNums).pageCommit x.decided).finishKill ctxNums

/-- Contexts that are saved at this bell: those found ready at its decision (12_clerk_firmware.md R406). -/
def State.savesNow (s : State) (x : Symbol) : List Nat := x.due.ready.filter s.saveReady

/-- Squares that step 5 unbinds: those asked for whose stalls rest, those of contexts that are saved, those with a fenced stall
(04_tile_ops.md R151 to R153). A square whose unbinding was asked for after the decision waits. -/
def State.unbindNow (s : State) (x : Symbol) : List Square :=
  let young := fun (q : Square) => s.sqReqs.any fun r => r.unbind && r.die = q.die && r.x0 = q.x0 && r.y0 = q.y0
    && !x.due.orders.contains r.order
  s.squares.filter fun q => (q.unbind && s.mayUnbind q && !young q) || (s.savesNow x).contains q.ctx || q.stalls.any s.fenced

/-- Whether a restore found possible at the decision is still asked for. -/
def State.stillSaved (s : State) (c : Nat) : Bool := (s.ctx c).state = .saved && (s.ctx c).restore.isSome

/-- Step 5: unbindings, then restore bindings, then the bindings asked for (04_tile_ops.md R149 to R153, 12_clerk_firmware.md R405,
R408); the orders behind resets and ends complete, and a session closes (13_trust.md R432). -/
def State.bellStep5 (s : State) (x : Symbol) (ids : List Nat) : State :=
  let t := s.noteSquares (s.savesNow x)
  let u := t.unbindSquares (t.unbindNow x)
  let v := u.doneUnbinds u.sqReqs
  let w := v.restoreSquares (x.due.restorable.filter v.stillSaved)
  let b := w.bindAsked (w.sqReqs.filter fun q => x.due.orders.contains q.order)
  let d := ids.foldl (fun (r : State) id => r.complete id stDone 0 0 0) b
  if x.due.close then d.closeSession else d

/-! ## Step 6 -/

/-- A stall at step 6: parked at a segment's end it issues again in the latch cy; parked at its plan's end with every slot FREE it
runs no plan (02_stall.md R70, 05_porter.md R168). -/
def State.startSegment (s : State) (k : Nat) (t : Stall) : Stall :=
  match t.status, t.occ with
  | .parked _ false _, some c =>
    if (s.ctx c).state = .running ∧ !s.fenced k ∧ !s.heldDies.contains (dieOf k) ∧ s.mod.state = 3 then
      { t with status := .running, nextIssue := s.now, segStart := s.now } else t
  | .parked _ true _, _ => if (s.port k).allFree then { t with status := .idle } else t
  | _, _ => t

/-- A RUNNING context none of whose stalls runs a plan is CREATED (Table CLK.3). -/
def State.settleCtx (s : State) (c : Nat) : State :=
  let x := s.ctx c
  if x.state = .running ∧ !((s.stallsOf c).any s.runsPlan) ∧ !(s.dispatches.any fun d => d.ctx = c) then
    s.setCtx c { x with state := .created } else s

/-- Contexts of a list settled. -/
def State.settleCtxs (s : State) : List Nat → State
  | [] => s
  | c :: r => (s.settleCtx c).settleCtxs r

/-- Step 6: saves, restores and plans begin, reduction sets are bound and released, gathers start, segments start (Table BELL.4). -/
def State.bellStep6 (s : State) (x : Symbol) : State :=
  let mine := fun (o : Nat) => x.due.orders.contains o
  let a := ((s.startSaves (s.savesNow x)).occupyRestored x.due.restorable).resumeAll ctxNums
  let b := a.endExit
  let c := (b.startDispatches x.decided b.dispatches).bindSets (b.binds.filter fun r => mine r.order)
  let d : State := { c with gathers := c.gathers.filter fun g => !g.finished }
  let e := d.startGathers (d.gathers.filter fun g => mine g.order)
  let f := e.releaseSets (e.sets.filter fun y => (y.release.map mine).getD false)
  let g : State := { f with stalls := tmap f.stalls f.startSegment }
  g.settleCtxs ctxNums

/-! ## Step 7 and the latch -/

/-- Doorbell page base (Table HST.3). -/
def State.dbBase (s : State) : Nat := s.liveReg 0 0x30 + s.liveReg 0 0x34 * 2 ^ 32

/-- Step 7: the ring engine issues its read of the doorbell page, unless the last one is still out (11_host_rings.md R376); a ring
engine whose core restarts, or whose die has no host edge, samples nothing (Table CLK.10, 11_host_rings.md R362). -/
def State.bellStep7 (s : State) : State :=
  if s.conf.dbOut || !s.mod.configValid || s.dbBase < ddrBase || !s.sends then s
  else { s with conf := { s.conf with dbOut := true } }

/-- Dies whose own bell count disagrees with the symbol's BP (R32). -/
def State.parityDies (s : State) (x : Symbol) : List Nat :=
  (upFrom 0 16).filter fun d => !s.deadDies.contains d && (tget s.bell.dieCount s.bell.count d + 1) % 2 ≠ x.bp

/-- Each such die sources a hold and records 0x0105 (R32). -/
def State.raiseParity (s : State) (x : Symbol) : List Nat → State
  | [] => s
  | d :: r =>
    ((s.decideHold d causeStar (s.now + 5)).raiseDie 0x0105 d [(tget s.bell.dieCount s.bell.count d + 1) % 2, x.bp]).raiseParity x r

/-- The bell number goes on; what lasts for one bell begins anew: first-correction marks, NOROUTE paths, the quiet count of time sync;
a re-plan falls due every 2^20 bells (R41, 02_stall.md R100, 10_weago.md R337, R355, 14_power_ageing_resets.md R457). -/
def State.nextBell (s : State) : State :=
  let n := s.bell.count + 1
  { s with
    bell := { s.bell with
      count := n, lastLatch := s.now, dieCount := (upFrom 0 16).map fun d => (d, tget s.bell.dieCount s.bell.count d + 1) }
    stalls := tmap s.stalls fun _ t => { t with eccBell := false }
    dieMem := tmap s.dieMem fun _ m => { m with depotCeBell := false, hbmCeBell := false }
    fab := { s.fab with badPaths := [], sync := { s.fab.sync with quiet := if s.hallMode then s.fab.sync.quiet + 1 else 0 } }
    pow := { s.pow with replanDue := s.pow.replanDue || n % 1048576 = 0 } }

/-- The bell actions in the order of Table BELL.4. -/
def State.bellActions (s : State) (x : Symbol) : State :=
  let a := (s.raiseParity x (s.parityDies x)).nextBell
  let b := a.bellStep1 x
  let c := ((b.1.applyPending x.decided).applyTarget).loseMembers
  let d := (((c.bellStep3 x).bellStep4 x).bellStep5 x b.2).bellStep6 x
  d.bellStep7.capture

/-- The bell that latches first: discarded while the module is held (R57); a decision that slipped only faults (R46). -/
def execBellLatch (s0 : State) : Out :=
  match s0.nextSymbol with
  | none => .next s0
  | some x =>
    match x.kind with
    | .bell =>
      let s := s0.latchSymbol x
      .next (if s.bell.held then s else s.bellActions x)
    | .slip =>
      let s := s0.latchSymbol x
      .next (if s.bell.held then s else s.overrunFaults x.faults)
    | _ => .next s0

end Sys2Proof.Machine
end

