-- ==== Sys2Proof/Machine/Resets.lean ====
section
/-! DEFINITION. Power-on, module reset, boot and warm clear (13_trust.md R419, R422, R425, 14_power_ageing_resets.md R444, R453 to R469,
01_bell.md R29, R34). -/
namespace Sys2Proof.Machine

/-! ## OFF and STANDBY (R444, R464, R466, Table PWR.8) -/

/-- Pins, the I3C port and the TAP with every rail but standby off; the boot stage is 0, or 14 with the flash held externally. -/
def Pkg.standby (p : Pkg) : Pkg :=
  { p with rails := false, bootStage := if p.flashSelN then 0 else 14, aValid := false, bValid := false, aCheck := 0, bCheck := 0, diesOk := 0 }

/-- The module with its main rails off: every setting that Table PWR.8 lists as lost is at its power-on value, the flash is kept.
`mode`: 0 OFF, 1 STANDBY. A change to STANDBY while the module had another MOD_STATE is recorded (R465); OFF has no MOD_STATE. -/
def State.unpowered (s : State) (mode : Nat) : State :=
  let t := { State.reset with
    now := s.now
    freeCtr := s.freeCtr
    idSeq := s.idSeq
    hbmEpoch := s.hbmEpoch
    bell := { Bell.reset with lead := 0 }
    cores := []
    mod := ⟨0, mode, false, false, 0⟩
    inc := ⟨[], 0, 0, 0, 0, false, false, false, s.inc.log⟩
    out := s.out
    flash := s.flash
    pkg := s.pkg.standby
    pending := s.pending }
  if mode = 1 ∧ 2 ≤ s.mod.state then t.raiseMod 0x0D0B [s.mod.state, 1] else t

/-- The IDCODE: version 0x1 for stepping B0, part 0x0080, manufacturer identity 0x53A, and 1 (16_package_test.md R505). -/
def idcode : Nat := 0x1 * 2 ^ 28 + 0x0080 * 2 ^ 12 + 0x53A * 2 + 1

/-- The TAP in Test-Logic-Reset: IDCODE is current, and the lands are back at their functions (16_package_test.md R503, R506). -/
def Pkg.tapReset (p : Pkg) : Pkg := { p with ir := 1, extest := none, cells := false, dr := idcode }

/-- The input leaves 42.0 to 62.0 V: every rail is switched off, from any state (R444). -/
def execSupervisorTrip (s : State) : Out :=
  let t := s.unpowered 0
  .next { t with pkg := { t.pkg with i3cIndex := 0, dynAddr := none } }

/-- The input has stood at 46.0 V or more for 1 ms: from OFF, the standby rail comes on, the I3C address lands are sampled, the TAP
resets (R444, 16_package_test.md R503, Table PKG.4). -/
def execStandbyEntry (addrPins : BitVec 2) (s : State) : Out :=
  if s.mod.state ≠ 0 then .next s
  else
    let t := s.unpowered 1
    .next { t with pkg := { t.pkg.tapReset with addrPins := addrPins.toNat } }

/-- To STANDBY from any state but OFF. -/
def State.toStandby (s : State) : State := if s.mod.state = 0 then s else s.unpowered 1

/-- RESET_N low for 1 µs (R464). -/
def execResetNLow (s : State) : Out := .next (({ s with pkg := { s.pkg with resetN := false } } : State).toStandby)

/-- REFCLK stopped for 1 µs acts as RESET_N low (16_package_test.md R499). -/
def execRefclkLost (s : State) : Out := .next (({ s with pkg := { s.pkg with refclk := false } } : State).toStandby)

/-! ## Boot (13_trust.md R425) -/

/-- The order of the election (01_bell.md R34). -/
def electionOrder : List Nat := [3, 4, 11, 12, 2, 5, 10, 13, 1, 6, 9, 14, 0, 7, 8, 15]

/-- Flight of a lane as a boot measures it; a lane that the report does not list has the longest flight of Table BELL.1. -/
def laneFlight (r : BootReport) (rx tx : Nat) : Int :=
  ((r.laneFlights.find? fun p => p.1 = rx && p.2.1 = tx).map fun p => p.2.2).getD 9

/-- Deskew pad of a lane: 43 less its flight (R29, Table BELL.1). -/
def lanePad (r : BootReport) (rx tx : Nat) : Int := 43 - laneFlight r rx tx

/-- Lanes between dies that take part, by receiving and sending die. -/
def starLanes (dead : List Nat) : List (Nat × Nat) :=
  let live := (upFrom 0 16).filter fun d => !dead.contains d
  live.flatMap fun a => live.map fun b => (a, b)

/-- Lanes whose pad lies outside 0 to 63 (R29). -/
def badLanes (r : BootReport) (dead : List Nat) : List (Nat × Nat) :=
  (starLanes dead).filter fun p => decide (lanePad r p.1 p.2 < 0) || decide (63 < lanePad r p.1 p.2)

/-- Failed star lanes that have die `d` at one end (01_bell.md R29). -/
def lanesAt (l : List (Nat × Nat)) (d : Nat) : Nat := (l.filter fun p => p.1 = d || p.2 = d).length

/-- The end of a failed lane that is fenced: the one with more failed lanes, on a tie the higher-numbered (01_bell.md R29). -/
def laneVictim (l : List (Nat × Nat)) (p : Nat × Nat) : Nat :=
  let a := lanesAt l p.1
  let b := lanesAt l p.2
  if a > b then p.1 else if b > a then p.2 else max p.1 p.2

/-- Dies fenced for their lanes, each fence recorded once with the lane behind it; a lane with an end already fenced fences nothing more
(01_bell.md R29, log entry 81). -/
def State.fenceLanes (s : State) (all : List (Nat × Nat)) : List (Nat × Nat) → State
  | [] => s
  | p :: r =>
    let d := laneVictim all p
    (if s.deadDies.contains p.1 || s.deadDies.contains p.2 then s
    else ({ s with deadDies := s.deadDies ++ [d] } : State).raiseDie 0x010A d [p.2]).fenceLanes all r

/-- Incidents raised one after another on dies. -/
def State.raiseEach (s : State) (code : Nat) : List Nat → State
  | [] => s
  | d :: r => (s.raiseDie code d []).raiseEach code r

/-- What a boot's measurements and the ageing log give a domain before plan() (R454, R455, R462). -/
def bootDomain (log : AgeingLog) (r : BootReport) (i : Nat) : Domain :=
  let m := r.trims.find? fun x => 20 * x.die + x.domain = i
  let ratio := (m.map DomainTrim.ratio).getD 32768
  { Domain.fresh with
    vpass := match m with
      | some x => if x.ok then x.vpass else none
      | none => some 0
    floor := tget log.floors 0 i
    ratio := ratio
    ratio0 := if r.baseline then tget log.ratio0 ratio i else ratio }

/-- The ageing log as the boot accepts it: 0x0D08 where records are ignored or the baseline is replaced, with REPLANS 0 and the measured
ratios in a new baseline (R462). -/
def State.acceptLog (s : State) (r : BootReport) : State :=
  let l := s.flash.log
  let new := r.trims.map fun x => (20 * x.die + x.domain, x.ratio)
  let t : State := if r.baseline then s
    else ({ s with flash := { s.flash with log := { l with ratio0 := new, replans := 0, base := s.logRecord 0 0 0 } } } : State).useFree 1
  if r.ignored > 0 ∨ !r.baseline then t.raiseMod 0x0D08 [r.ignored, b2n (!r.baseline)] else t

/-- Fences that a boot's plan decides take effect at once, with cause 0 (R455, R458; log entry 60). -/
def State.bootFences (s : State) : List Nat → State
  | [] => s
  | i :: r => (if (s.dom i).due.isSome then s.fenceDom i 0 else s).bootFences r

/-- Domains of the boot: the fences of the log stand, the others are planned from fresh measurements (R453 to R459, R462). -/
def State.bootDomains (s : State) (r : BootReport) : State :=
  let log := s.flash.log
  let live := (upFrom 0 320).filter fun i => !s.deadDies.contains (i / 20)
  let a : State := { s with
    fencedDoms := log.fenced
    pow := { s.pow with domains := live.map fun i => (i, bootDomain log r i) } }
  let c := (a.acceptLog r).planDoms 0 live
  let due := live.any fun i => (c.dom i).due.isSome
  (c.bootFences live).writeLogs r.logWritten (if due then [3, 1] else [1])

/-- A stack that failed training, or that belongs to a fenced die: 0x0606, and the die's share is unpopulated (07_depot_memory.md
R239). -/
def State.loseStack (s : State) (die stack : Nat) : State :=
  let m := s.dmem die
  (s.setDmem die { m with
    absent := true, stack0 := m.stack0 && stack ≠ 0, stack1 := m.stack1 && stack ≠ 1 }).raiseDie 0x0606 die [stack]

/-- Stacks lost one after another. -/
def State.loseStacks (s : State) : List (Nat × Nat) → State
  | [] => s
  | p :: r => (s.loseStack p.1 p.2).loseStacks r

/-- Cores after the election (12_clerk_firmware.md R392, R393): the control core of every die in service, the lead die's other cores. -/
def bootCores (dead : List Nat) (lead : Nat) : Tbl Core :=
  ((upFrom 0 16).filter fun d => !dead.contains d).flatMap fun d =>
    (4 * d, ⟨1, 0, 0, 0⟩) :: (if d = lead then [(4 * d + 1, ⟨1, 0, 0, 0⟩), (4 * d + 2, ⟨1, 0, 0, 0⟩), (4 * d + 3, ⟨1, 0, 0, 0⟩)] else [])

/-- Steps 4 to 6 of the boot with a valid image (R425): trims, memory, cores; the module is HELD with its first decision a period away. -/
def State.startUp (s : State) (r : BootReport) (slot : Nat) (fallback : Bool) : State :=
  let lead := s.bell.lead
  let lost := s.deadDies.flatMap (fun d => [(d, 0), (d, 1)]) ++ r.stackFail.filter fun p => !s.deadDies.contains p.1
  let t : State := { s with
    hbmEpoch := s.hbmEpoch + 1
    mem := []
    bell := { Bell.reset with lead := lead, pads := s.bell.pads, lastD := s.now, nextD := s.now + s.period, lastLatch := s.now }
    cores := bootCores s.deadDies lead
    conf := { s.conf with ringDie := if s.deadDies.contains 0 then 8 else 0 }
    trust := { s.trust with image := flashImage s.flash slot, slot := slot, fallback := fallback }
    pkg := { s.pkg with rails := true, bootStage := 5 } }
  let u := ((t.bootDomains r).loseStacks lost).setMode 2
  if u.pkg.holdReq then u.decideHold lead causeReq (u.now + 7) else u

/-- Step 3 of the boot: the selected slot's image, else the other slot's; with neither valid the module stays in STANDBY (R425). -/
def State.bootImage (s : State) (r : BootReport) : State :=
  let f := s.flash
  let a := flashSelected f
  let b := 1 - a
  let t : State := { s with pkg := { s.pkg with
    aValid := f.slotA.check = 0, bValid := f.slotB.check = 0, aCheck := f.slotA.check, bCheck := f.slotB.check } }
  let lead := t.bell.lead
  if (flashImage f a).check = 0 then t.startUp r a false
  else
    let u := t.raiseDie 0x0C02 lead [a, (flashImage f a).check]
    if (flashImage f b).check = 0 then (u.raiseDie 0x0C03 lead [b]).startUp r b true
    else
      let v := u.raiseDie 0x0C02 lead [b, (flashImage f b).check]
      { v with pkg := { v.pkg with bootStage := 15 } }

/-- Boot from STANDBY, with RESET_N high and REFCLK running; a boot that found no lead die is tried again only after a module reset or
power-on (01_bell.md R34); with FLASH_SEL_N low the module stays in STANDBY (R425, R464,
16_package_test.md R499, R502). -/
def execBoot (r : BootReport) (s0 : State) : Out :=
  if s0.mod.state ≠ 1 ∨ s0.pkg.bootStage = 13 then .next s0
  else if !s0.pkg.flashSelN then .next { s0 with pkg := { s0.pkg with bootStage := 14 } }
  else
    let z := s0.unpowered 1
    let dead := (upFrom 0 16).filter r.selfTestFail.contains
    let bad := (upFrom 0 16).filter r.identityFail.contains
    let lanes := badLanes r dead
    let s : State := { z with
      inc := s0.inc
      deadDies := dead
      bell := { z.bell with pads := (starLanes dead).map fun p => (16 * p.1 + p.2, (lanePad r p.1 p.2).toNat) }
      pkg := { z.pkg with resetN := true, refclk := true, diesOk := bitSet ((upFrom 0 16).filter fun d => !dead.contains d) } }
    let t := (s.raiseEach 0x0C01 bad).fenceLanes lanes lanes
    match electionOrder.find? fun d => !t.deadDies.contains d && !bad.contains d with
    | none => .next { t with pkg := { t.pkg with bootStage := 13 } }
    | some lead => .next (({ t with bell := { t.bell with lead := lead } } : State).bootImage r)

/-! ## Warm clear (R467, R469) -/

/-- Contexts ended with the effects of CTX_KILL, without waiting for a bell (R400, R467). -/
def State.killAll (s : State) : List Nat → State
  | [] => s
  | c :: r => (if (s.ctx c).state = .free then s else s.endCtx c true none).killAll r

/-- Every taken order not yet completed completes CANCELLED, ring by ring in ring order (R467). -/
def State.cancelOrders (s : State) : State :=
  s.completeAll stCancelled 0 (s.rings.flatMap fun (p : Nat × Ring) => p.2.started ++ p.2.intake)

/-- A ring that a warm clear turns OFF: its counters go on, and numbers that have run out stay so (R382, R467). -/
def Ring.warm (r : Ring) : Ring :=
  { Ring.off with
    ohead := r.ohead, ctail := r.ctail, chead := r.chead, eseq := r.eseq, cidx := r.cidx
    lost := r.lost, spent := r.spent, cplSpent := r.cplSpent }

/-- The clerk and the ledger with no context: what the page commit of an end does is done at once. -/
def State.clearWork (s : State) : State :=
  let t := (s.commitFrees (s.ledger.pendFree.map (·.1))).finishKill ctxNums
  let l := t.ledger
  ({ t with
    squares := []
    sqReqs := []
    dispatches := []
    gathers := []
    binds := []
    sets := []
    ctxs := []
    stalls := []
    ports := []
    sigs := []
    flits := []
    units := []
    arrivals := []
    casts := []
    answers := []
    ledger := { l with
      pendFree := [], pendPol := [], pendShare := [], evicting := [], places := [], demands := [], waiters := [], denied := [], importRefused := 0, movesDone := 0
      hintsSkipped := 0, faultVa := 0, faultCtx := 0, ownerFloor := 0 } } : State)

/-- The memory registers of a die at warm clear (Table DEP.7). -/
def DieMem.warm (m : DieMem) : DieMem :=
  { DieMem.fresh with stack0 := m.stack0, stack1 := m.stack1, keyed := m.keyed, absent := m.absent }

/-- A port at warm clear: its counters are 0, its link goes on (Table WGO.12). -/
def WPort.warm (w : WPort) : WPort := { w with resends := 0, badBlocks := 0, authErr := 0, retrains := 0 }

/-- The power block at warm clear (Table PWR.10). -/
def Power.warm (w : Power) : Power :=
  { w with
    spow := 0, sth := 0, s := 0, runPow := 0, runTh := 0, vin := 0, iin := 0, inputOut := false, powerNow := 0, tmax := 0, hmax := 0
    dieTemp := [], diePeak := [], diePower := [], canaries := [], domSel := [], exit := none, powered := [] }

/-- Every register at its warm clear value; the staging block equals the live configuration with every ring EN cleared (Tables BELL.8,
HST.3, TLY.9, WGO.12, DEP.7, PWR.10, CHK.2, CHK.5, R467). -/
def State.warmRegs (s : State) : State :=
  ({ s with
    rings := tmap s.rings fun _ r => r.warm
    regs := []
    live := tput (tput s.live 0x54 0) 0x58 0
    tlySats := 0
    tlyRejects := 0
    dieMem := tmap s.dieMem fun _ m => m.warm
    fab := { s.fab with
      ports := tmap s.fab.ports fun _ w => w.warm
      timeouts := 0, noroutes := 0
      sync := { s.fab.sync with delay := 0, altUsed := false, holdover := false } }
    conf := { s.conf with
      hs := 0, hsRun := none, drvIf := 0, status := 0, overrun := false, rule := 0, copy := [], crc := 0, routes := [], checked := 0 }
    inc := { s.inc with lost := 0 }
    bell := { s.bell with
      slipped := false, slipRun := 0, slips := 0, stretch := 0, stretchNext := 0, phase := 0, go := none
      cause := bitSet ((upFrom 0 7).filter fun i => bitAt s.bell.cause i && (i = 4 || i = 6 || bitAt s.activeCauses i)) }
    trust := { s.trust with close := none }
    pow := s.pow.warm
    cus := []
    queues := [] } : State).settleEmergency

/-- The warm clear as one step (log entry 61): the HOLD of the cy after the write latches, every context ends, every order is
cancelled, the registers are cleared, the module is HELD; a DARK module's stock is zeroed. -/
def State.warmClear (s : State) : State :=
  let h := s.holdLatch ⟨.hold, s.bell.lead, 0, s.now + 1, s.now + 91, 0, [], Due.none⟩
  let d : State := if h.mod.state = 5 then { h with mem := cellsDrop h.mem stockWin stockTop } else h
  let k := (d.faultSets d.sets).killAll ctxNums
  (k.cancelOrders.clearWork.warmRegs).setMode 2

/-- A write of MOD_RESET (R466): 1 warm clear, 2 module reset; another KEY or KIND is ignored with 0x0D0A. -/
def State.writeModReset (s : State) (v : Nat) : State :=
  if bitsAt v 16 16 ≠ 0xC1EA then s.raiseMod 0x0D0A [0xC8, v]
  else if v % 16 = 1 then s.warmClear
  else if v % 16 = 2 then s.toStandby
  else s.raiseMod 0x0D0A [0xC8, v]

/-- MOD_RESET KIND 2 with its KEY. -/
def execModuleReset (key : BitVec 16) (s : State) : Out :=
  .next (if s.awake then s.writeModReset (key.toNat * 65536 + 2) else s)

/-- MOD_RESET KIND 1 with its KEY. -/
def execWarmClear (key : BitVec 16) (s : State) : Out :=
  .next (if s.awake then s.writeModReset (key.toNat * 65536 + 1) else s)

end Sys2Proof.Machine
end

