-- ==== Sys2Proof/Machine/Regs.lean ====
section
/-! DEFINITION. Configuration space: every register's read and write (11_host_rings.md R363 to R365 and the register tables of the other
chapters). Offsets count from 0x3F00_0000_0000. -/
namespace Sys2Proof.Machine

/-- The low 32 bits. -/
def lo32 (n : Nat) : Nat := bitsAt n 0 32
/-- Bits 32 to 63. -/
def hi32 (n : Nat) : Nat := bitsAt n 32 32

/-! ## Reads (Table SCO.4) -/

/-- MOD_RING_STAT and MOD_RING_ESEQ of ring `i` (Table HST.3). -/
def State.readRing (s : State) (i off : Nat) : Nat :=
  let r := s.ring i
  if off = 0x14 then r.state + 256 * (r.cause % 256) else if off = 0x18 then r.eseq else 0

/-- MOD_TRUST_STATUS (Table TRU.12). -/
def State.trustStatus (s : State) : Nat :=
  let t := s.trust
  t.slot % 2 + 2 * b2n t.fallback + 4 * b2n t.staged.isSome + 8 * b2n t.act.isSome + 16 * b2n t.deferred + 32 * b2n t.kem.isSome
    + 256 * (t.image.keyidx % 4)

/-- A MOD_ register without ST fields, and BUSY of MOD_POWER_CTRL (Tables HST.3, TRU.12, PWR.10). -/
def State.readMod (s : State) (off : Nat) : Nat :=
  if 0x1000 ≤ off ∧ off < 0x1100 then leNat ((s.capTable.drop (off - 0x1000)).take 4)
  else if 0x100 ≤ off ∧ off < 0x900 then s.readRing ((off - 0x100) / 32) ((off - 0x100) % 32)
  else match off with
    | 0x00 => 0x00805248
    | 0x04 => 0xB0
    | 0x08 => lo32 s.trust.image.version
    | 0x0C => s.trust.image.ifMin % 65536 + 65536 * (s.trust.image.ifMax % 65536)
    | 0x10 => s.conf.drvIf
    | 0x14 => s.conf.hs
    | 0x18 => s.mod.state + 8 * b2n s.mod.configValid + 16 * b2n s.mod.session
    | 0x24 => s.conf.status + 8 * b2n s.conf.overrun + 256 * s.conf.rule + 65536 * s.conf.applied
    | 0x4C => s.inc.lost
    | 0x60 => s.conf.capGen
    | 0x80 => s.trustStatus
    | 0x84 => lo32 ((s.trust.staged.map FwImage.version).getD 0)
    | 0x88 => s.trust.sessions
    | 0x8C => lo32 serial
    | 0x90 => hi32 serial
    | 0xA0 => 256 * b2n s.busyExit
    | 0xB4 => s.pow.vin % 65536 + 65536 * (s.pow.iin % 65536)
    | 0xB8 => s.pow.powerNow % 65536 + 65536 * (s.pow.tmax % 256) + 16777216 * (s.pow.hmax % 256)
    | 0xBC => s.emergencyReg
    | 0xC0 => lo32 s.pow.energy
    | 0xC4 => hi32 s.pow.energy
    | 0xCC => s.pow.replans
    | 0xD0 => s.domsFenced
    | _ => 0

/-- A BELL_ register (Table BELL.8). DESIGN CHOICE: BELL_PHASE.ERR holds the low 16 bits of an error that can be larger (R49, log entry
150). -/
def State.readBell (s : State) (off : Nat) : Nat :=
  let b := s.bell
  match off with
  | 0x08 => b.lead + 16 * b2n b.locked + 32 * b2n b.held + 64 * b2n b.slipped + 256 * (b.slipRun % 16)
  | 0x0C => lo32 b.stretch
  | 0x10 => toBits 16 b.phase
  | 0x14 => lo32 b.count
  | 0x18 => hi32 b.count
  | 0x1C => b.slips
  | 0x20 => b.cause
  | _ => 0

/-- A TLY_ register (Table TLY.9). -/
def State.readTly (s : State) (off : Nat) : Nat :=
  let u := tget s.regs 0 0x11000 % 256
  let x := s.unit u
  match off with
  | 0x00 => u
  | 0x04 => x.gen % 4 + 4 * b2n x.bellm + 8 * b2n x.pen + 16 * b2n x.orph + 32 * b2n x.assigned + 64 * b2n x.pending
      + 128 * b2n (!s.unitHere u) + 256 * (x.owner % 64)
  | 0x08 => x.arrived % 2 ^ 24
  | 0x0C => x.parked % 2 ^ 24
  | 0x10 => x.n % 2 ^ 24
  | 0x14 => s.tlySats
  | 0x18 => s.tlyRejects
  | 0x1C => s.unitsHere
  | _ => 0

/-- An LDG_ register (Table LDG.10); a TIER without a free list shows 0. -/
def State.readLdg (s : State) (off : Nat) : Nat :=
  let l := s.ledger
  let sel := tget s.regs 0 0x12010
  let tier := sel % 8
  match off with
  | 0x10 => sel
  | 0x14 => lo32 (s.freeCount tier (bitsAt sel 4 4))
  | 0x18 => lo32 l.sealCount
  | 0x1C => hi32 l.sealCount
  | 0x20 => lo32 l.ownerFloor
  | 0x24 => hi32 l.ownerFloor
  | 0x28 => l.importRefused
  | 0x2C => l.movesDone
  | 0x30 => l.hintsSkipped
  | 0x34 => lo32 l.faultVa
  | 0x38 => bitsAt l.faultVa 32 24 + 2 ^ 24 * (l.faultCtx % 64)
  | _ => 0

/-- Code of a port width (Table WGO.12). -/
def widthCode (w : Nat) : Nat := if w = 2 then 1 else if w = 4 then 2 else if w = 8 then 3 else 0

/-- A WGO_ register (Table WGO.12). -/
def State.readWgo (s : State) (off : Nat) : Nat :=
  let w := s.wport ((off - 0x100) / 32)
  if 0x100 ≤ off ∧ off < 0x300 then
    match (off - 0x100) % 32 with
    | 0x00 => w.state + 8 * widthCode w.width + 256 * (w.lanesOk % 256) + 65536 * (w.peerPort % 16) + 2 ^ 20 * b2n w.peerHall
    | 0x04 => w.peerId % 2 ^ 18
    | 0x08 => w.flight % 65536 + 65536 * b2n w.long
    | 0x0C => w.resends
    | 0x10 => w.badBlocks
    | 0x14 => w.authErr
    | 0x18 => w.retrains
    | _ => 0
  else match off with
    | 0x28 => s.fab.sync.delay % 65536 + 65536 * b2n s.fab.sync.altUsed + 131072 * b2n s.fab.sync.holdover
    | 0x2C => s.fab.timeouts
    | 0x30 => s.fab.noroutes
    | _ => 0

/-- DIE_DOMAIN of the domain that DIE_DOMAIN_SEL names (Table PWR.10). -/
def State.readDomain (s : State) (die k : Nat) : Nat :=
  if k ≥ 20 then 0
  else
    let d := s.dom (20 * die + k)
    d.vcode % 256 + 256 * (d.vpass.getD 255 % 256) + 65536 * (d.floor % 256) + 2 ^ 24 * b2n (s.domFenced die k) + 2 ^ 25 * b2n d.due.isSome

/-- A DIE_ register (Tables DEP.7, CLK.12, PWR.10). -/
def State.readDie (s : State) (die off : Nat) : Nat :=
  let m := s.dmem die
  let core := s.core die
  let sel := tget s.pow.domSel 0 die
  match off with
  | 0x200 => b2n m.stack0 + 2 * b2n m.stack1 + 4 * b2n m.keyed + 8 * b2n m.absent
  | 0x204 => m.depotCe
  | 0x208 => m.depotUe
  | 0x20C => m.hbmCe
  | 0x210 => m.hbmUe
  | 0x214 => lo32 m.ueAddr
  | 0x218 => bitsAt m.ueAddr 32 14 + 16384 * m.ueSrc
  | 0x21C => s.hbmInflight die % 8192 + 65536 * (m.hbmPeak % 8192)
  | 0x220 => m.peakDepth % 64 + 64 * (m.peakSlice % 32) + 2048 * (m.peakQueue % 32)
  | 0x228 => m.ddrTimeouts
  | 0x300 => (core 0).state + 4 * (core 1).state + 16 * (core 2).state + 64 * (core 3).state + 256 * b2n (s.heldDies.contains die)
  | 0x304 => (core 0).restarts + 256 * (core 1).restarts + 65536 * (core 2).restarts
  | 0x308 => (core 0).cause + 16 * (core 1).cause + 256 * (core 2).cause
  | 0x400 => tget s.pow.dieTemp 0 die % 256 + 256 * (tget s.pow.diePeak 0 die % 256)
  | 0x404 => tget s.pow.diePower 0 die % 65536
  | 0x408 => sel
  | 0x40C => s.readDomain die sel
  | 0x410 => tget s.pow.canaries 0 die
  | _ => 0

/-- The ST fields of an offset read as staged (R364). -/
def State.readStaged (s : State) (off : Nat) : Nat :=
  match stRegAt off with
  | some r => s.staged r
  | none => 0

/-- A read of configuration space; offsets not listed and the blocks of a fenced die read 0 (R363). -/
def State.readReg (s : State) (off : Nat) : Nat :=
  if 0x200000 ≤ off ∧ off < 0x300000 then
    let die := (off - 0x200000) / 65536
    let u := off % 65536 / 4096
    if s.deadDies.contains die ∨ 4 ≤ u then 0 else s.readChk die u (off % 4096)
  else if 0x100000 ≤ off ∧ off < 0x200000 then
    let die := (off - 0x100000) / 65536
    if s.deadDies.contains die then 0 else s.readDie die (off % 65536)
  else s.readStaged off + (match off / 4096 with
    | 0x10 => s.readBell (off % 4096)
    | 0x11 => s.readTly (off % 4096)
    | 0x12 => s.readLdg (off % 4096)
    | 0x13 => s.readWgo (off % 4096)
    | _ => if off < 0x10000 then s.readMod off else 0)

/-! ## Writes -/

/-- A write of WGO_PORT_CTRL (Table WGO.12). -/
def State.writePortCtrl (s : State) (p v : Nat) : State :=
  if bitAt v 1 then s.portReset p else if bitAt v 0 then s.askRetrain p else s

/-- A write of a DIE_ register (Tables DEP.7, PWR.10). -/
def State.writeDie (s : State) (die off v : Nat) : State :=
  match off with
  | 0x224 => if bitAt v 0 then s.clearPeaks die else s
  | 0x408 => { s with pow := { s.pow with domSel := tput s.pow.domSel die (v % 32) } }
  | 0x414 => s.writeDieReset die v
  | _ => s

/-- A write of a register of the lead die (Tables HST.3, PWR.10, BELL.8, TLY.9, LDG.10, WGO.12): a behaviour of its own, or a value
held. -/
def State.writeLead (s : State) (off v : Nat) : State :=
  match stRegAt off with
  | some r => { s with regs := tput s.regs off (v &&& r.mask) }
  | none =>
    match off with
    | 0x10 => s.writeDrvIf v
    | 0x20 => s.writeCommit v
    | 0x24 => if bitAt v 3 then { s with conf := { s.conf with overrun := false } } else s
    | 0xC8 => s.writeModReset v
    | 0x10020 => s.writeCause v
    | 0x10024 => s.writeGo v
    | 0x11000 => { s with regs := tput s.regs off (v % 256) }
    | 0x12010 => { s with regs := tput s.regs off (v &&& 0xF7) }
    | _ => if 0x13100 ≤ off ∧ off < 0x13300 ∧ off % 32 = 0x1C then s.writePortCtrl ((off - 0x13100) / 32) v else s

/-- A write of configuration space (R363, Table SCO.4). -/
def State.writeReg (s : State) (off v : Nat) : State :=
  if 0x200000 ≤ off ∧ off < 0x300000 then
    let die := (off - 0x200000) / 65536
    let u := off % 65536 / 4096
    if s.deadDies.contains die ∨ 4 ≤ u then s else s.writeChk die u (off % 4096) v
  else if 0x100000 ≤ off ∧ off < 0x200000 then
    let die := (off - 0x100000) / 65536
    if s.deadDies.contains die then s else s.writeDie die (off % 65536) v
  else s.writeLead off v

/-! ## The message layer (R360, Table HST.1) -/

/-- The fields of a header cell. -/
def PkgHead.ofCell (c : Nat) : PkgHead :=
  ⟨bitsAt c 0 4, bitsAt c 4 2, bitsAt c 6 5, bitsAt c 11 5, bitsAt c 16 5, bitsAt c 21 14, bitsAt c 35 6, bitsAt c 41 46, bitAt c 87,
    bitsAt c 88 32, bitsAt c 120 8⟩

/-- The header cell of its fields. -/
def PkgHead.cell (h : PkgHead) : Nat :=
  h.type + 2 ^ 4 * h.vc + 2 ^ 6 * h.lines + 2 ^ 11 * h.sdie + 2 ^ 16 * h.ddie + 2 ^ 21 * h.tag + 2 ^ 35 * h.ctx + 2 ^ 41 * h.addr
    + 2 ^ 87 * b2n h.w4 + 2 ^ 88 * h.data + 2 ^ 120 * h.rsv

/-- Whether a message is malformed: a field outside its legal values, or lines behind a 4 B access. -/
def PkgHead.malformed (h : PkgHead) : Bool :=
  decide (11 < h.type) || decide (2 < h.vc) || decide (16 < h.lines) || decide (16 < h.sdie) || decide (16 < h.ddie)
    || (h.w4 && h.lines ≠ 0) || h.rsv ≠ 0

/-! ## The host's accesses (R361 to R363) -/

/-- An answer to the host over the host edge; with both paths lost there is none (R362). -/
def State.toHost (s : State) (w : HostWrite) : State := if s.hostPath then { s with out := w :: s.out } else s

/-- Header cell of a 4 B access of the host that a command gives by its address and value: TAG 0, bound for the ring engine's die (log
entry 62). -/
def State.hostCell (s : State) (write : Bool) (addr v : Nat) : Nat :=
  (⟨if write then 2 else 1, 0, 0, 16, s.conf.ringDie, 0, 0, addr % 2 ^ 46, true, if write then v else 0, 0⟩ : PkgHead).cell

/-- A message that is not allowed: 0x0A09 with its edge and header cell, and an ERR where it asked for an answer (R361, R363). -/
def State.badMessage (s : State) (edge cell cause : Nat) (answer : Bool) : State :=
  let t := s.raise 0x0A09 16 none 0 0xFFFFFFFF [edge, cell % 2 ^ 64, cell / 2 ^ 64]
  if answer then t.toHost (.err cause) else t

/-- Last address of configuration space plus 1. -/
def cfgTop : Nat := 2 ^ 46

/-- The die that serves an offset of configuration space (Table HST.2). -/
def State.servedBy (s : State) (off : Nat) : Nat :=
  if 0x200000 ≤ off ∧ off < 0x300000 then (off - 0x200000) / 65536
  else if 0x100000 ≤ off ∧ off < 0x200000 then (off - 0x100000) / 65536
  else s.bell.lead

/-- A 4 B access of the host at its edge: outside configuration space ERR cause 1, at an address that is not a multiple of 4 cause 3; at
a die that no route reaches 0x0607 and ERR cause 2 (07_depot_memory.md R246). The blocks of a fenced die need no route (R363). -/
def State.hostAccess (s : State) (edge cell addr : Nat) (f : State → State) : State :=
  if addr < cfgBase ∨ cfgTop ≤ addr then s.badMessage edge cell 1 true
  else if addr % 4 ≠ 0 then s.badMessage edge cell 3 true
  else
    let n := s.servedBy (addr - cfgBase)
    if !s.deadDies.contains n && (s.routeHost n).isNone then (s.raise 0x0607 16 none 0 0xFFFFFFFF [16, n]).toHost (.err 2)
    else f s

/-- A 4 B write of the host. -/
def State.hostWrite (s : State) (edge cell addr v : Nat) : State :=
  s.hostAccess edge cell addr fun t => (t.writeReg (addr - cfgBase) v).toHost (.ackReg addr)

/-- A 4 B read of the host. -/
def State.hostRead (s : State) (edge cell addr : Nat) : State :=
  s.hostAccess edge cell addr fun t => t.toHost (.reg addr (t.readReg (addr - cfgBase)))

/-- Whether the module waits for an answer of the host die: a read of the doorbell page, of an order or of a route image, an access to
DDR5, or a write sent. -/
def State.awaitsHost (s : State) : Bool :=
  s.conf.dbOut || s.conf.status = 1 || (s.rings.any fun p => p.2.toFetch ≠ 0)
    || (s.reqs.any fun r => match r.stage with
      | .host _ => true
      | _ => false)
    || s.out.any fun w => match w with
      | .bytes _ _ => true
      | _ => false

/-- An answer of the host die to the module (R361). Its data comes with the command that takes it; an ERR to a write of the ring engine is
taken here, by its TAG: the ring, or 64 for the incident ring (R378, R387, log entry 62). An answer that nothing waits for is dropped. -/
def State.hostAnswer (s : State) (edge cell : Nat) (h : PkgHead) : State :=
  if !s.awaitsHost then s.badMessage edge cell 0 false
  else if h.type ≠ 5 then s
  else if h.tag < 64 then s.cplRefused h.tag (entryAt (s.ring h.tag).ctail (s.ringSize h.tag) ((h.addr - s.cplBase h.tag) / 64))
  else if h.tag = 64 then s.incRefused (some (entryAt s.inc.tail s.incSize ((h.addr - s.incBase) / 64)))
  else s

/-- A message of the host die (R360, R361): an empty cell is none; a malformed one is dropped with 0x0A09; 4 B accesses are carried out;
an access of another size is answered with ERR cause 3 inside configuration space and 1 outside; answers are taken; any other message is
dropped, with 0x0A09. -/
def State.hostMessage (s : State) (edge cell : Nat) : State :=
  let h := PkgHead.ofCell cell
  if h.type = 0 then s
  else if h.malformed then s.badMessage edge cell 0 false
  else if h.type = 1 ∧ h.w4 then s.hostRead edge cell h.addr
  else if h.type = 2 ∧ h.w4 then s.hostWrite edge cell h.addr h.data
  else if h.type ≤ 2 then s.badMessage edge cell (if h.addr < cfgBase then 1 else 3) true
  else if h.type ≤ 5 then s.hostAnswer edge cell h
  else s.badMessage edge cell 0 false

/-- What the host edge brings: a configuration access by its address and value, any message by its header cell, or a fault of a
clock-crossing queue (R360, R361, R363, 15_check_unit_queues.md R486). A message over an edge that is lost does not arrive (R362); nothing
is answered in OFF and STANDBY (log entry 62). -/
def execRegisterWrite (a : HostAccess) (s : State) : Out :=
  if !s.awake || !s.hostPath then .next s
  else match a with
    | .write addr v => .next (s.hostWrite s.conf.ringDie (s.hostCell true addr v.toNat) addr v.toNat)
    | .read addr => .next (s.hostRead s.conf.ringDie (s.hostCell false addr 0) addr)
    | .message edge cell => .next (if s.edgeUp edge then s.hostMessage edge cell.toNat else s)
    | .underrun die q => .next (if die < 16 ∧ q < 17 ∧ !s.deadDies.contains die then s.underrun die q else s)
    | .overrun die q => .next (if die < 16 ∧ q < 17 ∧ !s.deadDies.contains die then s.overrun die q else s)

end Sys2Proof.Machine
end

