-- ==== Sys2Proof/Machine/Host.lean ====
section
/-! DEFINITION. The doorbell page and the fetch of orders (11_host_rings.md R374 to R384, R387, R389). -/
namespace Sys2Proof.Machine

/-! ## The doorbell page (R376, R378, R387) -/

/-- One ring sampled (R376): descriptors to fetch, or 0x0A06 and the ring STOPPED. -/
def State.sampleRing (s : State) (page : List Byte) (i : Nat) : State :=
  let r := s.ring i
  if r.state ≠ 1 then s
  else
    let otail := fieldAt page (8 * i) 4
    let chead := fieldAt page (8 * i + 4) 4
    let e := s.ringSize i
    let n := (otail + 2 ^ 32 - r.ohead % 2 ^ 32) % 2 ^ 32
    let c := (r.ctail + 2 ^ 32 - chead) % 2 ^ 32
    if n > e ∨ c > e then (s.setRing i { r with chead := chead, toFetch := 0 }).stopRing i 0x0A06 [otail, chead]
    else
      s.setRing i { r with
        chead := chead
        toFetch := min n (min (16 - r.intake.length) (e - c - (r.intake.length + r.started.length))) }

/-- Rings sampled in ring order. -/
def State.sampleRings (s : State) (page : List Byte) : List Nat → State
  | [] => s
  | i :: r => (s.sampleRing page i).sampleRings page r

/-- IHEAD is taken, and writing resumes once the incident ring shows room (R387). -/
def State.sampleInc (s : State) (ihead : Nat) : State :=
  let used := (s.inc.tail + 2 ^ 32 - ihead) % 2 ^ 32
  { s with inc := { s.inc with head := ihead, full := s.inc.full && decide (used + 2 > s.incSize) } }

/-- The doorbell read returns: refusals of earlier writes take effect, then the page is sampled; where host memory refuses the page
nothing is, and a run of refusals is recorded once (R376). Sampling pauses while the control core of the ring engine's die does not
run, and while that die has no host edge (12_clerk_firmware.md Table CLK.10, R362). -/
def execDoorbellRead (page : HostMem) (badRings : List (Fin 64 × Nat)) (badIncidents : Option Nat) (s0 : State) : Out :=
  if !s0.conf.dbOut || !s0.sends then .next s0
  else
    let s1 := (s0.cplsRefused badRings).incRefused badIncidents
    let s : State := { s1 with conf := { s1.conf with dbOut := false } }
    match page.data with
    | none =>
      let t : State := { s.hostLate page s.dbBase with conf := { s.conf with dbRefused := true } }
      .next (if s.conf.dbRefused then t else t.raise 0x0A07 0xFF none 0xFE 0xFFFFFFFF [s.dbBase])
    | some l =>
      let t : State := { s with conf := { s.conf with dbRefused := false } }
      .next ((t.sampleInc (fieldAt l 512 4)).sampleRings l (upFrom 0 64))

/-! ## Format (R379, R380, R384) -/

/-- Whether Table HST.9 has the OP (Tables CLK.4, TRU.5). -/
def opKnown (op : Nat) : Bool :=
  decide (op ≤ 0x0C) || (decide (0x10 ≤ op) && decide (op ≤ 0x13)) || (decide (0x20 ≤ op) && decide (op ≤ 0x27))
    || (decide (0x30 ≤ op) && decide (op ≤ 0x32)) || (decide (0x70 ≤ op) && decide (op ≤ 0x76))

/-- Whether an order runs without a session (R381, Table TRU.5). -/
def sessionless (op : Nat) : Bool := op = 0 || op = 0x70 || op = 0x71 || op = 0x72 || op = 0x74 || op = 0x75 || op = 0x76

/-- Bits of the inline bytes 36 to 47 that an OP defines (Tables HST.9, CLK.4, TRU.5). -/
def inlineMask (op : Nat) : List Nat :=
  match op with
  | 0x01 => [7]
  | 0x09 => [7, 0, 255, 255, 255, 255]
  | 0x0A => [255, 1]
  | 0x0B => [255]
  | 0x10 => [255, 255, 255]
  | 0x11 => [255]
  | 0x12 => [255, 255, 255]
  | 0x13 => [255]
  | 0x32 => [255, 255]
  | 0x70 => [1]
  | 0x71 => [255]
  | _ => []

/-- Bits of the descriptor that are reserved or that its OP does not use: byte and mask (Table HST.8). -/
def reservedBits (op : Nat) : List (Nat × Nat) :=
  [(1, 0xF8), (2, 255), (3, 255), (8, 0xC0), (9, if op = 1 then 0xFE else 255), (10, 255), (11, 255), (12, 255), (13, 255), (14, 255),
    (15, 255)] ++ (upFrom 0 12).map fun j => (36 + j, 255 - (inlineMask op).getD j 0)

/-- Bytes of the argument block that an OP takes; those of the two orders with a table of entries follow from its count
(R402, R404). -/
def argLenOf (op : Nat) (args : List Byte) : Nat :=
  if op = 0x04 then 64 * ceilDiv (64 + 8 * fieldAt args 0 2) 64
  else if op = 0x06 then 64 * ceilDiv (64 + 32 * fieldAt args 0 2) 64
  else if (0x20 ≤ op ∧ op ≤ 0x27) ∨ op = 0x30 ∨ op = 0x31 ∨ op = 0x71 ∨ op = 0x74 then 64
  else if op = 0x70 then 128
  else if op = 0x72 then 1728
  else 0

/-- Whether ARG and ARGLEN have legal values (Table HST.8). -/
def argLegal (arg len : Nat) : Bool :=
  decide (len ≤ 4096) && len % 64 = 0 && arg % 64 = 0 && (if len = 0 then arg = 0 else inDdr arg len)

/-- First byte of a range of the argument block that is not zero. -/
def firstSet (args : List Byte) (lo n : Nat) : Option Nat := (upFrom lo n).find? fun i => (args.getD i 0#8) ≠ 0#8

/-- Masks of bytes 10 to 12 of a ledger order, of ADDR2 and of MODULE, as its OP uses them (Table HST.10). -/
def ledgerMasks (op : Nat) : List (Nat × Nat) :=
  let b10 := if op = 0x20 then 0xFF else if op = 0x21 ∨ op = 0x25 ∨ op = 0x27 then 0x01 else if op = 0x24 then 0x41 else 0x71
  let b11 := if op = 0x20 then 0x0F else 0
  let b12 := if op = 0x24 then 0x3F else 0
  let addr2 := if op = 0x20 ∨ op = 0x21 then [0, 0, 0, 0, 0, 0, 0, 0] else if op = 0x22 then [255, 255, 3, 0, 0, 0, 0, 0]
    else [255, 255, 255, 255, 255, 255, 255, 255]
  let mod := if op = 0x27 then [255, 255, 3] else [0, 0, 0]
  [(7, 0), (10, b10), (11, b11), (12, b12), (13, 0), (14, 0), (15, 0)] ++ zipW (fun i m => (16 + i, m)) (upFrom 0 8) addr2
    ++ zipW (fun i m => (24 + i, m)) (upFrom 0 3) mod ++ (upFrom 27 37).map fun i => (i, 0)

/-- Whether a buffer is aligned and lies in the DDR5 window (Table TRU.5). -/
def bufferOk (a n : Nat) : Bool := a % 64 = 0 && inDdr a n

/-- The first byte of the argument block that breaks its table, where the table's chapter names no status of its own for it
(Tables HST.10, TRU.5, TRU.7; log entry 63). -/
def argBad (op : Nat) (args : List Byte) : Option Nat :=
  if 0x20 ≤ op ∧ op ≤ 0x27 then
    if fieldAt args 8 2 = 0 then some 8
    else ((ledgerMasks op).find? fun p => (args.getD p.1 0#8).toNat &&& (255 - p.2) ≠ 0).map (·.1)
  else if op = 0x70 then (if bufferOk (fieldAt args 64 8) 4096 then firstSet args 72 56 else some 64)
  else if op = 0x71 then (if bufferOk (fieldAt args 0 8) 8192 then firstSet args 8 56 else some 0)
  else if op = 0x72 then firstSet args 1680 48
  else if op = 0x74 then (if inDdr (fieldAt args 0 8) (fieldAt args 8 4) then firstSet args 12 52 else some 0)
  else none

/-- The byte offset of a format failure: in the descriptor, or 64 on in the argument block (R384; log entry 63). -/
def formatBad (d args : List Byte) : Option Nat :=
  let b := fun (i : Nat) => (d.getD i 0#8).toNat
  let op := b 0
  let arg := fieldAt d 24 8
  let len := fieldAt d 32 4
  match (reservedBits op).find? fun p => b p.1 &&& p.2 ≠ 0 with
  | some p => some (if opKnown op then p.1 else 0)
  | none =>
    if !opKnown op then some 0
    else if op = 0x71 ∧ b 36 > 15 ∧ b 36 ≠ 255 then some 36
    else if !argLegal arg len then some (if arg % 64 = 0 ∧ (len > 4096 ∨ len % 64 ≠ 0) then 32 else 24)
    else if len ≠ argLenOf op args then some 32
    else (argBad op args).map (· + 64)

/-! ## The fetch (R380 to R384) -/

/-- The order that a descriptor and its argument block spell (Table HST.8). -/
def orderOf (id ring taken : Nat) (d args : List Byte) : Order :=
  let b := fun (i : Nat) => (d.getD i 0#8).toNat
  ⟨id, ring, b 0, bitAt (b 1) 1, bitAt (b 1) 2, fieldAt d 4 4, b 8 % 64, bitAt (b 9) 0, fieldAt d 16 8, (d.drop 36).take 12, args, taken⟩

/-- A format failure: 0x0A05, status FORMAT (R384). -/
def State.formatFail (s : State) (o : Order) (off : Nat) : State :=
  (s.raise 0x0A05 0xFF none o.ring 0xFFFFFFFF [o.seq, off]).complete o.id stFormat 0x0A05 0 0

/-- ESEQ goes on; a ring whose ESEQ would pass its last value is STOPPED (R382). -/
def State.nextSeq (s : State) (i : Nat) : State :=
  let r := s.ring i
  if r.eseq ≥ 4294967295 then s.spendRing i else s.setRing i { r with eseq := r.eseq + 1 }

/-- Where a well-formed order goes: to the clerk, or, with the scheduler core failed, back as CANCELLED (Table CLK.10). -/
def State.takeOrder (s : State) (o : Order) (bad : Option Nat) : State :=
  match bad with
  | some off => s.formatFail o off
  | none =>
    if !s.mod.session && !sessionless o.op then s.complete o.id stNoSession 0 0 0
    else if (s.core s.bell.lead 1).state = 3 then s.complete o.id stCancelled 0x0B03 0 0
    else s

/-- The checks of R382 with a session, of R381 without one. -/
def State.checkOrder (s : State) (o : Order) (d args : List Byte) (ok : Bool) : State :=
  let t := bitAt ((d.getD 1 0#8).toNat) 0
  let tag := fieldAt d 48 16
  let r := s.ring o.ring
  let bad := formatBad d args
  if s.mod.session then
    if !t then s.complete o.id stAuth 0 0 0
    else if o.seq ≠ r.eseq then
      (s.raise 0x0A04 0xFF none o.ring 0xFFFFFFFF [o.seq, r.eseq]).complete o.id stSequence 0x0A04 0 0
    else if tag ≠ (recordTag s.mod.orderKey o.seq o.ring 0 (d.take 48 ++ if ok then args else [])).toNat then
      (s.raise 0x0A03 0xFF none o.ring 0xFFFFFFFF [o.seq]).complete o.id stAuth 0x0A03 0 0
    else (s.nextSeq o.ring).takeOrder o bad
  else if t then s.complete o.id stNoSession 0 0 0
  else if o.seq ≠ 0 then s.formatFail o 4
  else if tag ≠ 0 then s.formatFail o 48
  else s.takeOrder o bad

/-- The last fetch of a sample writes the ring's status page entry (R376). -/
def State.endFetch (s : State) (i : Nat) : State := if (s.ring i).toFetch = 0 then s.emit [s.stsEntry i] else s

/-- Host memory refuses a ring's entry or an order's argument block: 0x0A07, the ring is STOPPED at this entry (R378). -/
def State.fetchRefused (s : State) (i addr : Nat) : State :=
  ((s.setRing i { s.ring i with toFetch := 0 }).stopRing i 0x0A07 [addr]).endFetch i

/-- An order fetched with its argument block: it takes its place in the ring and is checked. -/
def State.fetched (s : State) (i : Nat) (d args : List Byte) (ok : Bool) : State :=
  let r := s.ring i
  let o := orderOf s.newId i s.now d args
  let t := s.tick.setRing i { r with
    ohead := (r.ohead + 1) % 2 ^ 32, toFetch := r.toFetch - 1, intake := r.intake ++ [o] }
  (t.checkOrder o d args ok).endFetch i

/-- The next sampled order of a ring: its descriptor, and its argument block where ARG and ARGLEN are legal (R376, R380). -/
def execOrderFetch (ring : Fin 64) (desc args : HostMem) (s : State) : Out :=
  let i := ring.val
  let r := s.ring i
  if r.state ≠ 1 ∨ r.toFetch = 0 ∨ !s.sends then .next s
  else
    let place := s.liveReg 0 (0x100 + 0x20 * i) + s.liveReg 0 (0x104 + 0x20 * i) * 2 ^ 32 + 64 * (r.ohead % s.ringSize i)
    match desc.data with
    | none => .next ((s.hostLate desc place).fetchRefused i place)
    | some l =>
      let d := fitBytes 64 l
      let arg := fieldAt d 24 8
      let len := fieldAt d 32 4
      let ok := argLegal arg len
      if !ok || len = 0 then .next (s.fetched i d [] ok)
      else match args.data with
        | none => .next ((s.hostLate args arg).fetchRefused i arg)
        | some a => .next (s.fetched i d (fitBytes len a) true)

/-! ## Interrupts (R389) -/

/-- The gap of a vector ends: the interrupt held back is sent. -/
def execInterruptGap (vector : Fin 66) (s0 : State) : Out :=
  let v := vector.val
  if !s0.intHeld.contains v then .next s0
  else
    let s := s0.at (tget s0.intLast 0 v + s0.liveReg 2250 0x50)
    .next (s.interrupt v)

end Sys2Proof.Machine
end

