-- ==== Sys2Proof/Machine/Lands.lean ====
section
/-! DEFINITION. The land grid and the boundary-scan chain of the carrier (16_package_test.md R494 to R498, R507): which land carries which
signal, and which cell of the chain stands behind it. -/
namespace Sys2Proof.Machine

/-! ## Lands (R494 to R498) -/

/-- Land groups (Table PKG.3). -/
inductive LandGroup where
  | ddr5 (channel : Nat)
  | hostSerial
  | ground
  | weago (port : Nat)
  | hostSideband
  | moduleSideband
  | factory
  deriving DecidableEq, Repr

/-- The group of land (c, l): every land of the grid belongs to exactly one (R494). -/
def landGroup (c l : Nat) : LandGroup :=
  if c < 36 then .ddr5 (c / 12 + 3 * (l / 24))
  else if c < 42 then .hostSerial
  else if c < 72 then .ground
  else if l < 64 then .weago ((c - 72) / 12 * 8 + l / 8)
  else if 80 ≤ l then .factory
  else if 72 ≤ l then .ground
  else if c < 80 then .hostSideband
  else if c < 88 then .moduleSideband
  else .ground

/-- First column and line of a Weago port's block of 12 columns by 8 lines (R496). -/
def weagoBlock (p : Nat) : Nat × Nat := (72 + 12 * (p / 8), 8 * (p % 8))

/-- TX P and TX N of a lane (R496). -/
def weagoTx (p lane : Nat) : (Nat × Nat) × (Nat × Nat) :=
  let b := weagoBlock p
  ((b.1 + 2, b.2 + lane), (b.1 + 3, b.2 + lane))

/-- RX P and RX N of a lane (R496). -/
def weagoRx (p lane : Nat) : (Nat × Nat) × (Nat × Nat) :=
  let b := weagoBlock p
  ((b.1 + 8, b.2 + lane), (b.1 + 9, b.2 + lane))

/-- First column and line of a DDR5 channel's block of 12 columns by 24 lines (R497). -/
def ddrBlock (ch : Nat) : Nat × Nat := (12 * (ch % 3), 24 * (ch / 3))

/-- Module sideband signals in the order of their lands (Table PKG.4). -/
def sidebandLands : List (String × Nat × Nat) :=
  [("REFCLK_P", 80, 64), ("REFCLK_N", 81, 64), ("PRESENT_N", 82, 64), ("RESET_N", 83, 64), ("PWRGD", 84, 64), ("ALERT_N", 85, 64),
    ("HOLD_REQ", 86, 64), ("I3C_SCL", 80, 66), ("I3C_SDA", 81, 66), ("I3C_ADDR0", 82, 66), ("I3C_ADDR1", 83, 66), ("TCK", 84, 66),
    ("TMS", 85, 66), ("TDI", 86, 66), ("TDO", 87, 66), ("TRST_N", 80, 68), ("FLASH_SEL_N", 81, 68), ("FLASH_CLK", 82, 68),
    ("FLASH_CS_N", 83, 68), ("FLASH_IO0", 84, 68), ("FLASH_IO1", 85, 68), ("FLASH_IO2", 86, 68), ("FLASH_IO3", 87, 68)]

/-! ## The boundary-scan chain (R507, Table PKG.7) -/

/-- Module sideband cells, bits 0 to 17. -/
def sidebandCells : List String :=
  ["FLASH_SEL_N", "FLASH_CLK", "FLASH_CS_N", "FLASH_IO0", "FLASH_IO1", "FLASH_IO2", "FLASH_IO3", "I3C_SCL", "I3C_SDA", "I3C_ADDR0",
    "I3C_ADDR1", "REFCLK_P", "REFCLK_N", "PRESENT_N", "RESET_N", "PWRGD", "ALERT_N", "HOLD_REQ"]

/-- What a cell of the chain stands behind: a signal of the module sideband, signal or control cell `k` of a DDR5 channel, cell `k` of a
host-die group, the control cell, a TX lane, or a leg of an RX lane of a Weago port. -/
inductive ScanCell where
  | sideband (name : String)
  | ddrSignal (channel k : Nat)
  | ddrByteLane (channel lane : Nat)
  | ddrCommand (channel : Nat)
  | ddrReset (channel : Nat)
  | hostSerial (k : Nat)
  | hostSideband (k : Nat)
  | weagoControl (port : Nat)
  | weagoTx (port lane : Nat)
  | weagoRx (port lane : Nat) (negative : Bool)
  deriving DecidableEq, Repr

/-- Length of the chain. -/
def scanLength : Nat := 2611

/-- The cell at a bit of the chain; bit 0 lies next to TDO. -/
def scanCell (bit : Nat) : Option ScanCell :=
  if bit < 18 then (sidebandCells[bit]?).map ScanCell.sideband
  else if bit < 1986 then
    let ch := (bit - 18) / 164
    let k := (bit - 18) % 164
    some (if k < 152 then .ddrSignal ch k else if k < 162 then .ddrByteLane ch (k - 152) else if k = 162 then .ddrCommand ch
      else .ddrReset ch)
  else if bit < 2179 then some (.hostSerial (bit - 1986))
  else if bit < 2211 then some (.hostSideband (bit - 2179))
  else if bit < scanLength then
    let p := (bit - 2211) / 25
    let k := (bit - 2211) % 25
    some (if k = 0 then .weagoControl p else if k < 9 then .weagoTx p (k - 1) else .weagoRx p ((k - 9) / 2) (decide ((k - 9) % 2 = 1)))
  else none

/-- Whether a cell only observes, under every instruction (R506). -/
def ScanCell.observes : ScanCell → Bool
  | .sideband _ => true
  | .weagoRx _ _ _ => true
  | _ => false

end Sys2Proof.Machine
end

