-- ==== Sys2Proof/Machine/Package.lean ====
section
/-! DEFINITION. The module sideband: the flash switch, the I3C port, the TAP (16_package_test.md R498 to R507). -/
namespace Sys2Proof.Machine

/-! ## Flash (R502) -/

/-- Whether the flash is at the FLASH_ lands: PWRGD low and FLASH_SEL_N low. -/
def State.flashOut (s : State) : Bool := !s.pkg.rails && !s.pkg.flashSelN

/-- FLASH_SEL_N takes a level, and `flash` is what an external programmer that holds the flash has left in it. In STANDBY the boot status
shows it. -/
def execFlashSelN (high : Bool) (flash : Option Flash) (s : State) : Out :=
  let t : State := { s with pkg := { s.pkg with flashSelN := high } }
  let held := s.flashOut || t.flashOut
  let u : State := if held then { t with flash := flash.getD t.flash } else t
  .next (if s.mod.state = 1 then
      { u with pkg := { u.pkg with bootStage := if u.flashOut then 14 else if s.pkg.bootStage = 14 then 0 else s.pkg.bootStage } }
    else u)

/-! ## I3C (R501) -/

/-- BOOT_STATUS (R501). -/
def State.bootStatus (s : State) : Nat :=
  let p := s.pkg
  p.bootStage + 16 * b2n p.aValid + 32 * b2n p.bValid + 64 * (p.aCheck % 8) + 512 * (p.bCheck % 8) + 4096 * (s.bell.lead % 16)
    + 65536 * p.diesOk

/-- Where private reads of the identity record of die `n` stand: the port's index space has one index for each record, and a read goes
on inside the record that its index named (log entry 64). -/
def identityIndex (n : Nat) : Nat := 0x10000 + n * 0x4000

/-- The byte at an index (Table PKG.5). -/
def State.i3cByte (s : State) (i : Nat) : Nat :=
  let up := b2n (2 ≤ s.mod.state)
  if i < 0x04 then bitsAt s.bootStatus (8 * i) 8
  else if i < 0x08 then bitsAt (s.readMod 0x18) (8 * (i - 0x04)) 8
  else if i < 0x0C then up * bitsAt (s.readMod 0xB4) (8 * (i - 0x08)) 8
  else if i < 0x10 then up * bitsAt (s.readMod 0xB8) (8 * (i - 0x0C)) 8
  else if i < 0x14 then up * bitsAt (s.readMod 0xBC) (8 * (i - 0x10)) 8
  else if i < 0x18 then up * bitsAt (s.readMod 0x08) (8 * (i - 0x14)) 8
  else if s.flashOut then 0
  else if i < 0x20 then bitsAt serial (8 * (i - 0x18)) 8
  else if 0x10000 ≤ i then
    let off := (i - 0x10000) % 0x4000
    if off < 8192 then ((identityRecord ((i - 0x10000) / 0x4000)).getD off 0#8).toNat else 0
  else 0

/-- The index after the byte at an index is read. -/
def nextIndex (i : Nat) : Nat :=
  if 0x10000 ≤ i then (if (i - 0x10000) % 0x4000 < 8192 then i + 1 else i) else (i + 1) % 0x10000

/-- A private write sets the index (R501). -/
def execI3cPrivateWrite (index : BitVec 16) (s : State) : Out :=
  let n := index.toNat
  if s.mod.state = 0 then .next s
  else .next { s with pkg := { s.pkg with i3cIndex := if 0x8000 ≤ n ∧ n < 0x8010 then identityIndex (n - 0x8000) else n } }

/-- `n` bytes read from an index on, and the index after them. -/
def State.i3cBytes (s : State) : Nat → Nat → List Byte × Nat
  | 0, i => ([], i)
  | n + 1, i =>
    let r := s.i3cBytes n (nextIndex i)
    (BitVec.ofNat 8 (s.i3cByte i) :: r.1, r.2)

/-- A private read returns bytes from the index on (R501). -/
def execI3cPrivateRead (n : Nat) (s : State) : Out :=
  if s.mod.state = 0 then .next s
  else
    let r := s.i3cBytes n s.pkg.i3cIndex
    .next { s with pkg := { s.pkg with i3cIndex := r.2, i3cOut := r.1 :: s.pkg.i3cOut } }

/-- SETDASA gives a dynamic address to the port with a static address of 0x34 + I3C_ADDR (R501). -/
def execSetdasa (static dyn : BitVec 7) (s : State) : Out :=
  if s.mod.state = 0 ∨ static.toNat ≠ 0x34 + s.pkg.addrPins then .next s
  else .next { s with pkg := { s.pkg with dynAddr := some dyn.toNat } }

/-- ENTDAA gives a dynamic address to a port that has none (R501; log entry 65). -/
def execEntdaa (dyn : BitVec 7) (s : State) : Out :=
  if s.mod.state = 0 ∨ s.pkg.dynAddr.isSome then .next s
  else .next { s with pkg := { s.pkg with dynAddr := some dyn.toNat } }

/-! ## TAP (R503 to R507) -/

/-- Whether the TAP can leave Test-Logic-Reset: the standby rail is on and TRST_N is high (R503). -/
def State.tapRuns (s : State) : Bool := decide (s.mod.state ≠ 0) && s.pkg.trstN

/-- TRST_N takes a level; low, it keeps the TAP in Test-Logic-Reset (R503). -/
def execTrstN (high : Bool) (s : State) : Out :=
  let p := if high then s.pkg else s.pkg.tapReset
  .next { s with pkg := { p with trstN := high } }

/-- Five TCK cycles with TMS high (R503). -/
def execTapReset (s : State) : Out := .next (if s.tapRuns then { s with pkg := s.pkg.tapReset } else s)

/-- What the register that an instruction selects captures: IDCODE, the boundary scan register, or the 1-bit bypass register, which
captures 0 (Table PKG.6; PRESUMED for the bypass register: IEEE 1149.1, log entry 170). -/
def Pkg.capture (p : Pkg) (ir : Nat) : Nat := if ir = 1 then idcode else if 2 ≤ ir ∧ ir ≤ 6 then p.bsr else 0

/-- An instruction becomes current at Update-IR, after the instruction register has captured 0x01; one of the EXTEST family that was
current ends, and the lands return (R504, R506). -/
def Pkg.load (p : Pkg) (ir : Nat) : Pkg := { p.tapReset with ir := ir, dr := p.capture ir, irCap := 1 }

/-- IDCODE: the IDCODE register is selected and read (R505). -/
def execIdcode (s : State) : Out := .next (if s.tapRuns then { s with pkg := s.pkg.load 1 } else s)

/-- BYPASS, and every opcode that Table PKG.6 does not list (R504). -/
def execBypass (s : State) : Out := .next (if s.tapRuns then { s with pkg := s.pkg.load 0xFF } else s)

/-- Bits that the boundary scan register captures: with the main rails off, cells outside the module sideband capture 0 (R506, R507). -/
def State.captured (s : State) (bits : Nat) : Nat := if 2 ≤ s.mod.state then bits % 2 ^ scanLength else bits % 2 ^ sidebandCells.length

/-- SAMPLE: the boundary scan register captures the lands (R504). -/
def execSample (bits : Nat) (s : State) : Out :=
  .next (if s.tapRuns then { s with pkg := { s.pkg.load 2 with bsr := s.captured bits, dr := s.captured bits } } else s)

/-- PRELOAD: the boundary scan register takes bits shifted in (R504). -/
def execPreload (bits : Nat) (s : State) : Out :=
  .next (if s.tapRuns then { s with pkg := { s.pkg.load 3 with bsr := bits % 2 ^ scanLength, dr := bits % 2 ^ scanLength } } else s)

/-- An instruction of the EXTEST family: outside STANDBY the lead die decides a hold with cause HOLD_REQ, and the cells take the lands
2,250 cy later (R506). -/
def State.extestOn (s : State) (ir : Nat) : State :=
  if !s.tapRuns then s
  else ({ s with pkg := { s.pkg.load ir with extest := some s.now } } : State).decideHold s.bell.lead causeReq (s.now + 7)

/-- EXTEST. -/
def execExtest (s : State) : Out := .next (s.extestOn 4)
/-- EXTEST_PULSE. -/
def execExtestPulse (s : State) : Out := .next (s.extestOn 5)
/-- EXTEST_TRAIN. -/
def execExtestTrain (s : State) : Out := .next (s.extestOn 6)

/-- Every trained port loses lock and retrains for want of a lane pair (R506, 10_weago.md R328, R329). -/
def State.loseLock (s : State) : List Nat → State
  | [] => s
  | p :: r => (if (s.wport p).state = 2 ∨ (s.wport p).state = 3 then s.retrain p 3 else s).loseLock r

/-- The cells take the lands 2,250 cy after Update-IR (R506). -/
def execCellsTakeLands (s0 : State) : Out :=
  match s0.pkg.extest with
  | none => .next s0
  | some c =>
    if s0.pkg.cells then .next s0
    else
      let s := s0.at (c + 2250)
      .next (({ s with pkg := { s.pkg with cells := true } } : State).loseLock (upFrom 0 16))

end Sys2Proof.Machine
end

