-- ==== Sys2Proof/Machine/Price.lean ====
section
/-! DEFINITION. The price board (02_stall.md R94 to R96, 03_formats.md R132 to R134). Built-in functions are fixed up to 2 ulp
(4 ulp for derivatives): a free value is taken where it lies within that bound of the function's value, which is computed here in
fixed point with 640 fraction bits; elsewhere the nearest binary32 value is taken (log entry 10). -/
namespace Sys2Proof.Machine

/-! ## Fixed point with 640 fraction bits -/

/-- Fraction bits. -/
def fxBits : Nat := 640
/-- The number 1. -/
def fxOne : Int := (2 ^ fxBits : Nat)
/-- Product. -/
def fxMul (a b : Int) : Int := (a * b) >>> fxBits
/-- Quotient. -/
def fxDiv (a b : Int) : Int := if b = 0 then 0 else (a * fxOne) / b
/-- An exact binary value in fixed point; magnitudes of 2^300 and more stand for themselves only roughly. -/
def fxOf (d : Dy) : Int :=
  let k := d.e + fxBits
  let n : Nat := if k ≥ 0 then d.m <<< (min k 1000).toNat else d.m >>> (-k).toNat
  if d.neg then -(n : Int) else (n : Int)

/-- Newton's steps toward the integer square root of `n` from above. -/
def isqrtFrom (n : Nat) : Nat → Nat → Nat
  | 0, x => x
  | fuel + 1, x =>
    let y := (x + n / x) / 2
    if y < x then isqrtFrom n fuel y else x

/-- Integer square root. -/
def isqrt (n : Nat) : Nat := if n = 0 then 0 else isqrtFrom n 2000 (2 ^ (ilog2 n / 2 + 1))

/-- Square root. -/
def fxSqrt (a : Int) : Int := (isqrt (a.toNat <<< fxBits) : Nat)

/-- Sum of `term, term * step(1), …`: each new term is made from the last by `next n term`. -/
def fxSeries (next : Nat → Int → Int) : Nat → Nat → Int → Int → Int
  | 0, _, _, acc => acc
  | fuel + 1, n, term, acc => if term = 0 then acc else fxSeries next fuel (n + 1) (next n term) (acc + term)

/-- `z + z^3/3 + z^5/5 + …`, for a magnitude of at most 1/3. -/
def fxAtanh (z : Int) : Int :=
  let z2 := fxMul z z
  let rec go : Nat → Nat → Int → Int → Int
    | 0, _, _, acc => acc
    | fuel + 1, n, pow, acc => if pow = 0 then acc else go fuel (n + 2) (fxMul pow z2) (acc + pow / (n : Int))
  go 700 1 z 0

/-- The natural logarithm of 2. -/
def fxLn2 : Int := 2 * fxAtanh (fxOne / 3)

/-- `1/q - 1/(3 q^3) + …`. -/
def fxArctanInv (q : Nat) : Int :=
  let rec go : Nat → Nat → Int → Int → Int
    | 0, _, _, acc => acc
    | fuel + 1, n, pow, acc =>
      if pow = 0 then acc
      else go fuel (n + 2) (pow / ((q * q : Nat) : Int)) (acc + (if n % 4 = 1 then pow / (n : Int) else -(pow / (n : Int))))
  go 700 1 (fxOne / (q : Int)) 0

/-- The circle number, by Machin's formula. -/
def fxPi : Int := 4 * (4 * fxArctanInv 5 - fxArctanInv 239)

/-- e^x; past ±400 the result stands for overflow or underflow. -/
def fxExp (x : Int) : Int :=
  if x > 400 * fxOne then fxOne <<< (577 : Nat)
  else if x < -(400 * fxOne) then 0
  else
    let k := x / fxLn2
    let r := x - k * fxLn2
    let y := fxSeries (fun n t => fxMul t r / ((n : Int) + 1)) 400 0 fxOne 0
    if k ≥ 0 then y <<< k.toNat else y >>> (-k).toNat

/-- ln of a positive exact value. -/
def fxLn (d : Dy) : Int :=
  let e := (ilog2 d.m : Int) + d.e
  let m : Int := ((d.m <<< fxBits) >>> ilog2 d.m : Nat)
  e * fxLn2 + 2 * fxAtanh (fxDiv (m - fxOne) (m + fxOne))

/-- erf; past ±11 the result is ±1. -/
def fxErf (x : Int) : Int :=
  if x > 11 * fxOne then fxOne
  else if x < -(11 * fxOne) then -fxOne
  else
    let x2 := fxMul x x
    let rec go : Nat → Nat → Int → Int → Int
      | 0, _, _, acc => acc
      | fuel + 1, n, t, acc =>
        if t = 0 ∨ t = -1 then acc else go fuel (n + 1) (-(fxMul t x2) / ((n : Int) + 1)) (acc + t / (2 * (n : Int) + 1))
    fxDiv (2 * go 1200 0 x 0) (fxSqrt fxPi)

/-- The standard normal distribution function. -/
def fxPhiCap (x : Int) : Int := (fxOne + fxErf (fxDiv x (fxSqrt (2 * fxOne)))) / 2
/-- Its density. -/
def fxPhi (x : Int) : Int := fxDiv (fxExp (-(fxMul x x) / 2)) (fxSqrt (2 * fxPi))
/-- The sigmoid. -/
def fxSigmoid (x : Int) : Int :=
  if x ≥ 0 then fxDiv fxOne (fxOne + fxExp (-x)) else fxDiv (fxExp x) (fxOne + fxExp x)

/-- tanh; the division of small differences keeps the leading bits of a small input. -/
def fxTanh (x : Int) : Int :=
  let e := fxExp (-(2 * x.natAbs : Int))
  let y := fxDiv (fxOne - e) (fxOne + e)
  if x < 0 then -y else y

/-- An input magnitude of at least 2^`k`. -/
def Dy.atLeast (d : Dy) (k : Int) : Bool := decide (d.m ≠ 0) && decide ((ilog2 d.m : Int) + d.e ≥ k)

/-- The exact function of slot 0 to 11 at a finite input, in fixed point (Table FMT.6). Inputs of magnitude 2^40 or more stand at
2^40, where every function that is not one of slots 2 to 5 has reached its end. -/
def priceVal (slot : Nat) (d : Dy) : Int :=
  let c : Dy := if d.atLeast 40 ∧ (slot < 2 ∨ slot > 5) then ⟨d.neg, 1, 40⟩ else d
  let x := fxOf c
  match slot with
  | 0 => fxExp x
  | 1 => if x % fxOne = 0 then (if x ≥ 0 then fxOne <<< (min (x / fxOne).toNat 600) else fxOne >>> (-x / fxOne).toNat) else fxExp (fxMul x fxLn2)
  | 2 => fxLn d
  | 3 => fxDiv fxOne x
  | 4 => fxDiv fxOne (fxSqrt x)
  | 5 => fxSqrt x
  | 6 => fxTanh x
  | 7 => fxSigmoid x
  | 8 => if x < -(16 * fxOne) then 0 else fxMul (fxOf d) (fxPhiCap x)
  | 9 => fxMul (fxOf d) (fxSigmoid x)
  | 10 => if x > 300 * fxOne then fxOf d else
      let y := fxOne + fxExp x
      fxLn ⟨false, y.toNat, -(fxBits : Int)⟩
  | _ => fxErf x

/-- The exact derivative of slot 0 to 11 at a finite input (Table FMT.6). -/
def priceDeriv (slot : Nat) (d : Dy) : Int :=
  let c : Dy := if d.atLeast 40 ∧ (slot < 2 ∨ slot > 5) then ⟨d.neg, 1, 40⟩ else d
  let x := fxOf c
  match slot with
  | 0 => fxExp x
  | 1 => fxMul fxLn2 (fxExp (fxMul x fxLn2))
  | 2 => fxDiv fxOne x
  | 3 => -(fxMul (fxDiv fxOne x) (fxDiv fxOne x))
  | 4 => -(fxDiv (fxDiv fxOne x) (fxSqrt x)) / 2
  | 5 => fxDiv fxOne (2 * fxSqrt x)
  | 6 => let e := fxExp (-(2 * x.natAbs : Int)); fxDiv (4 * e) (fxMul (fxOne + e) (fxOne + e))
  | 7 => fxMul (fxSigmoid x) (fxSigmoid (-x))
  | 8 => if x < -(17 * fxOne) then 0 else fxPhiCap x + fxMul x (fxPhi x)
  | 9 => fxMul (fxSigmoid x) (fxOne + fxMul x (fxSigmoid (-x)))
  | 10 => fxSigmoid x
  | _ => fxDiv (2 * fxExp (-(fxMul x x))) (fxSqrt fxPi)

/-! ## Results -/

/-- The largest finite binary32 in fixed point. -/
def fxMaxFin : Int := ((16777215 * 2 ^ 104 : Nat) : Int) * fxOne

/-- Whether a value lies within `k` ulp of the exact result, which is `v` or, where `below` says so, so little less in magnitude that
`v` stands for it; the spacing is that at the exact result (R132). -/
def withinUlps (k : Nat) (v : Int) (below : Bool) (cand : Word32) : Bool :=
  match unpack32 cand with
  | .fin d =>
    let q := max ((ilog2 (v.natAbs - below.toNat) : Int) - fxBits - 23) (-149)
    let ulp : Int := (2 ^ (q + fxBits).toNat : Nat)
    decide (((fxOf d) - v).natAbs ≤ (k * ulp + 1).natAbs)
  | _ => false

/-- A result fixed up to `k` ulp: the free value where it is within the bound, else the nearest; infinite past the largest finite
value, a zero of the result's sign below 2^-150 (R132, R133). -/
def boundedResult (k : Nat) (v : Int) (below zneg : Bool) (free : Word32) : Word32 :=
  let neg := if v = 0 then zneg else decide (v < 0)
  if v.natAbs > fxMaxFin.natAbs then sign32 neg 0x7F800000
  else if v.natAbs < 2 ^ (fxBits - 150) then sign32 neg 0
  else if withinUlps k v below free then free
  else round32 .rne ⟨neg, v.natAbs, -(fxBits : Int)⟩

/-- Whether a result too small for binary32, or an exact zero, is negative. -/
def zeroNeg (slot : Nat) (deriv : Bool) (x : Dy) : Bool :=
  if deriv then slot = 3 || slot = 4 || ((slot = 8 || slot = 9) && x.neg)
  else (slot = 3 || slot = 6 || slot = 8 || slot = 9 || slot = 11) && x.neg

/-- Plus infinity. -/
def pInf : Word32 := 0x7F800000#32
/-- Minus infinity. -/
def nInf : Word32 := 0xFF800000#32
/-- Minus zero. -/
def nZero : Word32 := 0x80000000#32
/-- 1.0. -/
def fOne : Word32 := 0x3F800000#32

/-- PB.F of a built-in slot on one lane (Table FMT.6, R132). -/
def priceF (slot : Nat) (x : Word32) : Word32 :=
  match unpack32 x with
  | .nan => canonNaN
  | .inf neg =>
    match slot with
    | 3 => sign32 neg 0
    | 6 => sign32 neg fOne.toNat
    | 11 => sign32 neg fOne.toNat
    | 4 => if neg then canonNaN else 0#32
    | 2 => if neg then canonNaN else pInf
    | 5 => if neg then canonNaN else pInf
    | 7 => if neg then 0#32 else fOne
    | 8 => if neg then nZero else pInf
    | 9 => if neg then nZero else pInf
    | _ => if neg then 0#32 else pInf
  | .fin d =>
    if d.m = 0 ∧ slot = 2 then nInf
    else if d.m = 0 ∧ (slot = 3 ∨ slot = 4) then sign32 d.neg 0x7F800000
    else if d.m = 0 ∧ slot = 5 then x
    else if d.neg ∧ d.m ≠ 0 ∧ (slot = 2 ∨ slot = 4 ∨ slot = 5) then canonNaN
    else if slot = 1 ∧ !d.lt ⟨false, 128, 0⟩ then pInf
    else if slot = 1 ∧ !(Dy.lt ⟨true, 150, 0⟩ d) then 0#32
    else boundedResult 2 (priceVal slot d) (slot ≥ 6 && slot ≠ 10 && d.m ≠ 0) (zeroNeg slot false d) (Config.freePrice slot false x)

/-- PB.D of a built-in slot on one lane (Table FMT.6, R133). DESIGN CHOICE (log entry 10): R133 speaks of infinite inputs, and of the
zeros Table FMT.6 states a derivative for slot 5 only; the formulas of slots 2 and 4 have the limits +inf and −inf at +0 and none at −0,
where the free value stands, and that of slot 3 has the limit −inf at either zero. -/
def priceD (slot : Nat) (x : Word32) : Word32 :=
  match unpack32 x with
  | .nan => canonNaN
  | .inf neg =>
    match slot with
    | 0 => if neg then 0#32 else pInf
    | 1 => if neg then 0#32 else pInf
    | 2 => if neg then canonNaN else 0#32
    | 3 => nZero
    | 4 => if neg then canonNaN else nZero
    | 5 => if neg then canonNaN else 0#32
    | 8 => if neg then nZero else fOne
    | 9 => if neg then nZero else fOne
    | 10 => if neg then 0#32 else fOne
    | _ => 0#32
  | .fin d =>
    if d.m = 0 ∧ (slot = 2 ∨ slot = 4) then (if d.neg then Config.freePrice slot true x else if slot = 2 then pInf else nInf)
    else if d.m = 0 ∧ slot = 3 then nInf
    else if d.m = 0 ∧ slot = 5 then sign32 d.neg 0x7F800000
    else if d.neg ∧ d.m ≠ 0 ∧ (slot = 2 ∨ slot = 4 ∨ slot = 5) then canonNaN
    else boundedResult 4 (priceDeriv slot d) (slot = 10 && d.m ≠ 0) (zeroNeg slot true d) (Config.freePrice slot true x)

/-- The largest integer not above a non-negative finite value, at most 255. -/
def floor255 (x : Word32) : Nat :=
  match unpack32 x with
  | .fin d => if d.neg then 0 else min 255 (if d.e ≥ 0 then d.m <<< (min d.e 40).toNat else d.m >>> (-d.e).toNat)
  | .inf neg => if neg then 0 else 255
  | .nan => 0

/-- A user slot's value (R134): the fixed sequence of roundings. -/
def userVal (u : UserSlot) (x : Word32) : Word32 :=
  if isNaN32 x then canonNaN
  else
    let xc := fMin (fMax x u.lo) u.hi
    let y := fMul (fSub xc u.lo) u.w
    let k := floor255 y
    let t := fSub y (toFmt .b32 .rne 0 (.fin ⟨false, k, 0⟩) |> BitVec.ofNat 32)
    let c := fun i => u.coef.getD (3 * k + i) 0#32
    fFma t (fFma t (c 2) (c 1)) (c 0)

/-- A header that R96 accepts gives the slot; any other gives none. -/
def userSlotOf (bytes : List Byte) : Option UserSlot :=
  let w := fun i => BitVec.ofNat 32 (leNat ((bytes.drop (4 * i)).take 4))
  let lo := w 0
  let hi := w 1
  let span := fSub hi lo
  let scale := fDiv 0x43800000#32 span
  let finite := fun v => match unpack32 v with
    | .fin _ => true
    | _ => false
  if finite lo && finite hi && rank32 lo < rank32 hi && !(isZero32 lo && isZero32 hi) && finite span && finite scale
      && ((bytes.drop 8).take 56).all (· = 0#8)
  then some ⟨lo, hi, scale, (upFrom 16 768).map w⟩ else none

/-! ## Instructions -/

/-- Whether a PB.LD of the slot is in flight (R96). -/
def Stall.slotLoading (t : Stall) (slot : Nat) : Bool :=
  t.ops.any fun o => match o.kind with
    | .pbld n _ => n = slot
    | _ => false

/-- The state and stall after a price-board function has entered its unit, which takes one quad every 2 cy (R94). -/
def priceGo (s : State) (t : Stall) (qd : Nat) (lanes : List Word32) : Issue :=
  .go s ({ t with pbNext := s.now + 2 }.pushOp (s.now + 12) (.pb (zipW (fun i l => (i, l)) (quadRegs qd) (linesOfLanes lanes)) qd lanes)) .seq

/-- PB.F: a user slot that no PB.LD has filled in the context raises 0x0208 (R95). -/
def pbFIssue (f : FmtV) (s : State) (_k : Nat) (t : Stall) : Issue :=
  let slot := f.lane.toNat % 16
  let loading := t.slotLoading slot
  issueIf [(vUnused f true false false false false true || f.lane.toNat ≥ 16, 0x0202),
      (slot ≥ 12 && !loading && (tfind t.user slot).isNone, 0x0208)]
    (!loading && decide (t.pbNext ≤ s.now) && t.vReady (quadRegs f.qa.toNat) && t.vFree (quadRegs f.qd.toNat))
    (priceGo s t f.qd.toNat (match tfind t.user slot with
      | some u => (t.lanes f.qa.toNat).map (if slot ≥ 12 then userVal u else priceF slot)
      | none => (t.lanes f.qa.toNat).map (priceF slot)))

/-- PB.F (Table STL.11). -/
def execPbF (sid : StallId) (f : FmtV) (s : State) : Out :=
  .next (s.issueAt sid (f.word 0x12#6 0x00#6) (pbFIssue f))

/-- PB.D: slots 0 to 11 only, else 0x0208 (R95). -/
def pbDIssue (f : FmtV) (s : State) (_k : Nat) (t : Stall) : Issue :=
  let slot := f.lane.toNat % 16
  issueIf [(vUnused f true false false false false true || f.lane.toNat ≥ 16, 0x0202), (slot ≥ 12, 0x0208)]
    (decide (t.pbNext ≤ s.now) && t.vReady (quadRegs f.qa.toNat) && t.vFree (quadRegs f.qd.toNat))
    (priceGo s t f.qd.toNat ((t.lanes f.qa.toNat).map (priceD slot)))

/-- PB.D (Table STL.11). -/
def execPbD (sid : StallId) (f : FmtV) (s : State) : Out :=
  .next (s.issueAt sid (f.word 0x12#6 0x01#6) (pbDIssue f))

/-- PB.LD: a slot below 12 raises 0x0208, a misaligned or out-of-range address 0x0204; an image in stock that breaks the header rules
raises 0x0208 and loads nothing (R95, R96). -/
def pbLdIssue (f : FmtV) (s : State) (k : Nat) (t : Stall) : Issue :=
  let slot := f.lane.toNat % 16
  let off := (t.sreg f.qa.toNat).toNat % 2 ^ 18
  let badAddr := off % 64 ≠ 0 || off + 3136 > stockBytes
  let stores := (upFrom (off / 64) 49).all fun l => t.ops.all fun o => !o.kind.lineWrites.contains l
  let badImage := !badAddr && stores && (userSlotOf (s.bytes (stockAddr k off) 3136)).isNone
  issueLocal t [f.qa.toNat]
    [(vRsv f || f.qd ≠ 0#5 || f.qb ≠ 0#5 || f.qc ≠ 0#5 || f.bs ≠ 0#1 || f.sen ≠ 0#1 || f.rm ≠ 0#2 || f.lane.toNat ≥ 16, 0x0202),
     (badAddr, 0x0204), (slot < 12 || badImage, 0x0208)]
    (stores && !t.slotLoading slot)
    (.go s (t.pushOp (s.now + 49) (.pbld slot off)) .seq)

/-- PB.LD (Table STL.11). -/
def execPbLd (sid : StallId) (f : FmtV) (s : State) : Out :=
  .next (s.issueAt sid (f.word 0x12#6 0x02#6) (pbLdIssue f))

/-- The next price-board result is written (R94, R97). -/
def execPriceBoardResult (sid : StallId) (s0 : State) : Out :=
  let k := sid.num
  match firstDue (fun o => match o with
    | .pb .. => true
    | _ => false) (s0.stall k).ops with
  | none => .next s0
  | some o =>
    let s := s0.at o.due
    match o.kind with
    | .pb regs quad seen => .next (s.setStall k ((((s.stall k).seeQuad (some quad) seen).setVs regs).retire o.seq))
    | _ => .next s0

/-- The PB.LD in flight ends: the slot takes the image (R96); an uncorrectable line loads nothing (R100). DESIGN CHOICE: the header is
checked at issue and the content is taken 49 cy later; an image that a delivery has made illegal between the two loads nothing and
raises nothing (log entry 155). -/
def execPbLdComplete (sid : StallId) (ecc : Ecc) (s0 : State) : Out :=
  let k := sid.num
  match firstDue (fun o => match o with
    | .pbld .. => true
    | _ => false) (s0.stall k).ops with
  | none => .next s0
  | some o =>
    match o.kind with
    | .pbld slot off =>
      let s := (s0.at o.due).stockEcc k o.pc ecc
      let t := (s.stall k).retire o.seq
      if ecc = .double then .next (s.setStall k t)
      else match userSlotOf (s.bytes (stockAddr k off) 3136) with
        | none => .next (s.setStall k t)
        | some u => .next (s.setStall k { t with user := tput t.user slot u })
    | _ => .next s0

end Sys2Proof.Machine
end

