-- ==== Sys2Proof/Machine/Reckon.lean ====
section
/-! DEFINITION. Reckoning instructions, arrivals and completions (06_tallies.md R208 to R218). -/
namespace Sys2Proof.Machine

/-- Binding `b` of a porter. -/
def StallPort.binding (p : StallPort) (b : Nat) : Binding := tget p.rb Binding.none b

/-- RCK.BIND (R210). -/
def rckBindIssue (f : FmtRck) (s : State) (k : Nat) (t : Stall) : Issue :=
  let id := (t.sreg f.s.toNat).toNat
  let p := s.port k
  let g := bitsAt id 33 2
  issueLocal t [f.s.toNat] [(f.rsv ≠ 0#44, 0x0202), (rckIdBad id, 0x050B)] true
    (.go (s.setPort k { p with rb := tput p.rb f.b.toNat ⟨id, g, g, false, true⟩ }) t .seq)

/-- RCK.BIND. -/
def execRckBind (sid : StallId) (f : FmtRck) (s : State) : Out := .next (s.issueAt sid (f.word 0x22#6 0x00#6) (rckBindIssue f))

/-- An arrival sets out from stall `k` for a binding (R211, 10_weago.md R346); its LGEN goes up by one. -/
def State.sendArrival (s : State) (k b : Nat) : State :=
  let p := s.port k
  let x := p.binding b
  let m := s.rckModule x.id
  let ctx := ((s.stall k).occ).getD 0
  let s1 := s.setPort k { p with rb := tput p.rb b { x with lgen := (x.lgen + 1) % 4 } }
  if m = s.mod.id then
    { s1.tick with arrivals := s1.arrivals ++ [⟨s1.idSeq, rckUnit x.id, x.lgen, rckCtx x.id, k, ctx, none, m⟩] }
  else
    if s1.inHall m then
      (s1.sendFrom (dieOf k) (some ctx) k (mkMsg 7 0 0 0 m s1.mod.id (rckCtx x.id) 0 (rckUnit x.id + x.lgen * 256) none [])).1
    else s1.refuseSignal 0x0504 (dieOf k) (some ctx) k [2]

/-- RCK.ARR. -/
def rckArrIssue (f : FmtRck) (s : State) (k : Nat) (t : Stall) : Issue :=
  let x := (s.port k).binding f.b.toNat
  issueLocal t [f.s.toNat] [(f.rsv ≠ 0#44, 0x0202), (!x.valid, 0x050B)] true
    (.go (s.sendArrival k f.b.toNat) (t.setS f.s.toNat (BitVec.ofNat 64 x.lgen)) .seq)

/-- RCK.ARR. -/
def execRckArr (sid : StallId) (f : FmtRck) (s : State) : Out := .next (s.issueAt sid (f.word 0x22#6 0x01#6) (rckArrIssue f))

/-- Whether the generation before LGEN is complete in a binding's view (Table TLY.6). -/
def Binding.complete (x : Binding) : Bool :=
  let d := (x.cpl + 8 - (x.lgen + 3) % 4) % 4
  d = 1 || d = 2

/-- The wait part of RCK.WAIT and RCK.AW. -/
def rckWaitPart (f : FmtRck) (s : State) (k : Nat) (t : Stall) : Issue :=
  let p := s.port k
  let x := p.binding f.b.toNat
  issueLocal t [f.s.toNat] [(f.rsv ≠ 0#44, 0x0202), (!x.valid, 0x050B)] (x.complete || x.orph)
    (.go (s.setPort k { p with aw := none }) (t.setS f.s.toNat (if x.orph then 1#64 else 0#64)) .seq)

/-- RCK.WAIT. -/
def execRckWait (sid : StallId) (f : FmtRck) (s : State) : Out := .next (s.issueAt sid (f.word 0x22#6 0x02#6) (rckWaitPart f))

/-- RCK.AW: RCK.ARR in its first issue slot, RCK.WAIT in its second. -/
def rckAwIssue (f : FmtRck) (s : State) (k : Nat) (t : Stall) : Issue :=
  if (s.port k).aw = some t.pc then rckWaitPart f s k t
  else
    let x := (s.port k).binding f.b.toNat
    let s1 := s.sendArrival k f.b.toNat
    issueLocal t [f.s.toNat] [(f.rsv ≠ 0#44, 0x0202), (!x.valid, 0x050B)] true
      (.go (s1.setPort k { s1.port k with aw := some t.pc }) (t.setS f.s.toNat (BitVec.ofNat 64 x.lgen)) .stay)

/-- RCK.AW. -/
def execRckAw (sid : StallId) (f : FmtRck) (s : State) : Out := .next (s.issueAt sid (f.word 0x22#6 0x03#6) (rckAwIssue f))

/-- Status of RCK.CFG. DESIGN CHOICE: the lowest that applies; a unit of another module, of a fenced die or never assigned is not owned
(log entry 41). -/
def State.rckCfgStatus (s : State) (c id cfg parent : Nat) : Nat :=
  let u := rckUnit id
  let x := s.unit u
  let pen := bitAt cfg 25
  let here := s.rckModule id = s.mod.id && s.unitHere u
  let badParent := pen && (rckIdBad parent || !(s.rckModule parent = s.mod.id || s.inHall (s.rckModule parent)))
  if here && (x.arrived ≠ 0 || x.parked ≠ 0) then 2
  else if !here || x.owner ≠ c || rckCtx id ≠ c || !(x.assigned || x.orph) then 3
  else if bitsAt cfg 0 24 = 0 || cfg >>> 26 ≠ 0 || badParent then 4
  else if !x.assigned then 5
  else 0

/-- RCK.CFG (R209). -/
def rckCfgIssue (f : FmtRckCfg) (s : State) (_k : Nat) (t : Stall) : Issue :=
  let id := (t.sreg f.sa.toNat).toNat
  let cfg := (t.sreg f.sb.toNat).toNat
  let parent := (t.sreg f.sc.toNat).toNat
  let st := s.rckCfgStatus (t.occ.getD 0) id cfg parent
  let u := rckUnit id
  let x := s.unit u
  let pen := bitAt cfg 25
  let y := { x with
    n := bitsAt cfg 0 24, bellm := bitAt cfg 24, pen := pen, parent := if pen then parent else x.parent, gen := 0
    kids := [], kidsNext := [], mods := [] }
  let s1 := if st = 0 then s.setUnit u y else s
  issueLocal t [f.sa.toNat, f.sb.toNat, f.sc.toNat, f.sd.toNat] [(f.rsv ≠ 0#32, 0x0202), (rckIdBad id, 0x050B)] true
    (.go s1 (t.setS f.sd.toNat (BitVec.ofNat 64 st)) .seq)

/-- RCK.CFG. -/
def execRckCfg (sid : StallId) (f : FmtRckCfg) (s : State) : Out := .next (s.issueAt sid (f.word 0x22#6 0x04#6) (rckCfgIssue f))

/-- Insertion into a list of arrivals by the arriving stall's ID (R211). DESIGN CHOICE: arrivals of other modules and of child units come
as if from stall 0, and those of equal stall ID in the order in which they set out (log entry 167). -/
def insArrival (a : Arrival) : List Arrival → List Arrival
  | [] => [a]
  | b :: r => if a.stall < b.stall then a :: b :: r else b :: insArrival a r

/-- Arrivals taken one after another. -/
def State.arriveAll (s : State) : List Arrival → State
  | [] => s
  | a :: r => (s.arriveUnit a).arriveAll r

/-- The named arrivals reach their unit in one cy and are taken in the order of the arriving stall's ID (R211). -/
def execRckArrival (unit : Nat) (ids : List Nat) (s : State) : Out :=
  let named := s.arrivals.filter fun a => ids.contains a.id && a.unit = unit
  let sorted := named.foldl (fun l a => insArrival a l) []
  .next (({ s with arrivals := s.arrivals.filter fun a => !(ids.contains a.id && a.unit = unit) } : State).arriveAll sorted)

/-- A broadcast reaches the stalls (R212, R216). -/
def execRckCompletion (id : Nat) (s : State) : Out :=
  match s.casts.find? fun b => b.id = id with
  | none => .next s
  | some b => .next (({ s with casts := s.casts.filter fun x => x.id ≠ id } : State).hear b)

/-- A parent's answer reaches its child unit, which releases its own participants (R213). -/
def execRckParentAnswer (id : Nat) (s : State) : Out :=
  match s.answers.find? fun a => a.id = id with
  | none => .next s
  | some a =>
    let s1 := { s with answers := s.answers.filter fun x => x.id ≠ id }
    let x := s1.unit a.child
    if x.pending && x.pen && x.gen = a.gen then .next (s1.releaseUnit a.child) else .next s1

/-- A remote arrival joins the arrivals in flight, or is refused (10_weago.md R339, R346). -/
def execRarr (port : Fin 16) (s : State) : Out :=
  .next (s.onMsg port.val 0 (fun m => m.ty = 7) fun m t =>
    let u := bitsAt m.addr 0 8
    let child := if bitAt m.addr 10 then some (m.src * 256 + bitsAt m.addr 11 8) else none
    if !t.inHall m.src then t.refuseSignal 0x0504 port.val (some m.ctx) u [2]
    else { t.tick with arrivals := t.arrivals ++ [⟨t.idSeq, u, bitsAt m.addr 8 2, m.ctx, 0, m.ctx, child, m.src⟩] })

/-- Child units of this module whose parent is unit `u` of module `m`. -/
def State.childrenOf (s : State) (m u : Nat) : List Nat :=
  (upFrom 0 256).filter fun c => let x := s.unit c
    x.pen && x.pending && s.rckModule x.parent = m && rckUnit x.parent = u

/-- A remote completion is broadcast within this module; child units of that unit get their answer (10_weago.md R346). One from outside the
hall is answered ERR with cause 3 (10_weago.md R339). -/
def execRcpl (port : Fin 16) (s : State) : Out :=
  .next (s.onMsg port.val 0 (fun m => m.ty = 8) fun m t =>
    let u := bitsAt m.addr 0 8
    let g := bitsAt m.addr 8 2
    if !t.inHall m.src then t.sendMsg (mkMsg 5 1 0 0 m.src t.mod.id m.ctx m.tag 3 none [])
    else
    let t1 := t.cast u g (bitAt m.addr 10) m.src
    if bitAt m.addr 10 then t1
    else t1.answerKids g ((t1.childrenOf m.src u).map fun c => t1.mod.id * 256 + c))

end Sys2Proof.Machine
end

