-- ==== Sys2Proof/Machine/Tallies.lean ====
section
/-! DEFINITION. Tally instructions and the application of signals (06_tallies.md R191 to R207). -/
namespace Sys2Proof.Machine

/-! ## Tally words (Table TLY.1) -/

/-- The owner of a tally in a stall of context `c`. -/
def Tally.ownerIn (t : Tally) (c : Nat) : Nat := t.owner.getD c

/-- The 64-bit state word. -/
def Tally.word (t : Tally) (c : Nat) : Nat :=
  t.value + t.ownerIn c * 2 ^ 32 + b2n t.mode * 2 ^ 38 + b2n t.ra * 2 ^ 39 + b2n t.sat * 2 ^ 40 + b2n t.under * 2 ^ 41
    + b2n t.orph * 2 ^ 42

/-- The porter with a tally replaced. -/
def StallPort.setTally (p : StallPort) (i : Nat) (t : Tally) : StallPort := { p with tallies := tput p.tallies i t }

/-! ## Instructions (Table TLY.3) -/

/-- TLY.SET: a tally in the cy after issue, or a gate count at once. -/
def tlySetIssue (f : FmtTSet) (s : State) (k : Nat) (t : Stall) : Issue :=
  let v := (t.sreg f.sa.toNat).toNat % 2 ^ 32
  let go := if f.gc = 1#1 then Issue.go s { t with gates := tput t.gates f.t.toNat v } .seq
    else Issue.go (s.pushChange k (.set f.t.toNat v (t.occ.getD 0))) t .seq
  issueLocal t [f.sa.toNat] [(f.rsv ≠ 0#40, 0x0202)] true go

/-- TLY.SET. -/
def execTlySet (sid : StallId) (f : FmtTSet) (s : State) : Out := .next (s.issueAt sid (f.word 0x21#6 0x00#6) (tlySetIssue f))

/-- TLY.ADD: a local signal. -/
def tlyAddIssue (f : FmtTAdd) (s : State) (k : Nat) (t : Stall) : Issue :=
  issueIf [(f.rsv ≠ 0#30, 0x0202)] true (.go (s.pushChange k (.add f.t.toNat f.amt.toInt)) t .seq)

/-- TLY.ADD. -/
def execTlyAdd (sid : StallId) (f : FmtTAdd) (s : State) : Out := .next (s.issueAt sid (f.word 0x21#6 0x01#6) (tlyAddIssue f))

/-- Whether a global tally ID breaks R197's issue checks. -/
def tallyIdBad (n : Nat) : Bool :=
  decide (n >>> 48 ≠ 0) || decide (bitsAt n 6 13 ≥ 5120) || (bitAt n 41 && decide (bitsAt n 23 18 ≠ 0))

/-- The direction of a mesh neighbour of `k` (R203). -/
def neighbourDir (k dst : Nat) : Option Nat := firstNat (fun d => neighbour k d = some dst) [0, 1, 2, 3]

/-- A signal sets out from stall `k` to the tally that `id` names (R197, R203, 10_weago.md R345). -/
def State.sendSignal (s : State) (k id : Nat) (amt : Int) : State :=
  let m := if bitAt id 41 then s.mod.id else bitsAt id 23 18
  let dst := bitsAt id 6 17
  let ctx := bitsAt id 42 6
  if m = s.mod.id then
    let sig : Sig := ⟨s.idSeq, k, bitsAt id 0 6, dst, ctx, amt, true⟩
    match neighbourDir k dst with
    | some d => ({ s.tick with sigs := s.sigs ++ [{ sig with arrived := false }] } : State).pushFlit k d 0 (.sig s.idSeq)
    | none => { s.tick with sigs := s.sigs ++ [sig] }
  else if !s.inHall m then s.refuseSignal 0x0504 (dieOf k) (s.stall k).occ k [2]
  else
    let addr := bitsAt id 0 6 + dst * 64 + toBits 16 amt * 2 ^ 23
    (s.sendFrom (dieOf k) (s.stall k).occ k (mkMsg 6 0 0 0 m s.mod.id ctx 0 addr none [])).1

/-- TLY.SIG; ORD = 1 waits until every line sent before it has been written or acknowledged (R200). -/
def tlySigIssue (f : FmtTSig) (s : State) (k : Nat) (t : Stall) : Issue :=
  let id := (t.sreg f.sa.toNat).toNat
  let drained := (s.port k).slots.all fun q => q.2.inFlight = 0
  issueLocal t [f.sa.toNat] [(f.rsv ≠ 0#30, 0x0202), (tallyIdBad id, 0x0501)] (f.ord = 0#1 || drained)
    (.go (s.sendSignal k id f.amt.toInt) t .seq)

/-- TLY.SIG. -/
def execTlySig (sid : StallId) (f : FmtTSig) (s : State) : Out := .next (s.issueAt sid (f.word 0x21#6 0x02#6) (tlySigIssue f))

/-- TLY.WAIT. -/
def tlyWaitIssue (f : FmtTWait) (s : State) (k : Nat) (t : Stall) : Issue :=
  let i := f.t.toNat
  let ta := (s.port k).tally i
  let g := t.gate i
  let sd := f.sd.toNat
  let go := if ta.orph then Issue.go s (t.setS sd 1#64) .seq
    else Issue.go s ({ t with gates := tput t.gates i ((g + f.inc.toNat) % 2 ^ 32) }.setS sd 0#64) .seq
  issueLocal t [sd] [(f.rsv ≠ 0#25, 0x0202)] (ta.orph || ta.reaches g) go

/-- TLY.WAIT. -/
def execTlyWait (sid : StallId) (f : FmtTWait) (s : State) : Out := .next (s.issueAt sid (f.word 0x21#6 0x03#6) (tlyWaitIssue f))

/-- TLY.WAITV. -/
def tlyWaitvIssue (f : FmtTWaitV) (s : State) (k : Nat) (t : Stall) : Issue :=
  let ta := (s.port k).tally f.t.toNat
  let v := (t.sreg f.sb.toNat).toNat % 2 ^ 32
  issueLocal t [f.sd.toNat, f.sb.toNat] [(f.rsv ≠ 0#36, 0x0202), (ta.ra, 0x0506)] (ta.orph || ta.reaches v)
    (.go s (t.setS f.sd.toNat (if ta.orph then 1#64 else 0#64)) .seq)

/-- TLY.WAITV. -/
def execTlyWaitv (sid : StallId) (f : FmtTWaitV) (s : State) : Out :=
  .next (s.issueAt sid (f.word 0x21#6 0x04#6) (tlyWaitvIssue f))

/-- TLY.TAKE. -/
def tlyTakeIssue (f : FmtTTake) (s : State) (k : Nat) (t : Stall) : Issue :=
  let i := f.t.toNat
  let ta := (s.port k).tally i
  let amt := f.amt.toNat
  let go := if ta.orph then Issue.go s (t.setS f.sd.toNat 1#64) .seq
    else Issue.go (s.pushChange k (.add i (-(amt : Int)))) (t.setS f.sd.toNat 0#64) .seq
  issueLocal t [f.sd.toNat] [(f.rsv ≠ 0#25, 0x0202), (amt = 0, 0x0501), (!ta.mode, 0x0506)]
    (ta.orph || ta.reaches amt) go

/-- TLY.TAKE. -/
def execTlyTake (sid : StallId) (f : FmtTTake) (s : State) : Out :=
  .next (s.issueAt sid (f.word 0x21#6 0x05#6) (tlyTakeIssue f))

/-- TLY.RD. -/
def tlyRdIssue (f : FmtTReg) (s : State) (k : Nat) (t : Stall) : Issue :=
  issueLocal t [f.s.toNat] [(f.rsv ≠ 0#41, 0x0202)] true
    (.go s (t.setS f.s.toNat (BitVec.ofNat 64 (((s.port k).tally f.t.toNat).word (t.occ.getD 0)))) .seq)

/-- TLY.RD. -/
def execTlyRd (sid : StallId) (f : FmtTReg) (s : State) : Out := .next (s.issueAt sid (f.word 0x21#6 0x06#6) (tlyRdIssue f))

/-- TLY.CFG; an OWNER that names a FREE context orphans the tally at once (R199). -/
def tlyCfgIssue (f : FmtTReg) (s : State) (k : Nat) (t : Stall) : Issue :=
  let v := (t.sreg f.s.toNat).toNat
  let i := f.t.toNat
  let s1 := s.pushChange k (.cfg i v)
  let p := s1.port k
  let s2 := if (s.ctx (bitsAt v 2 6)).state = .free then
      (s1.setPort k (p.setTally i (p.tally i).orphan)).raiseStall 0x0507 k [bitsAt v 2 6] else s1
  issueLocal t [f.s.toNat] [(f.rsv ≠ 0#41, 0x0202), (decide (v >>> 10 ≠ 0), 0x0501), (bitAt v 0 && bitAt v 1, 0x0506)] true
    (.go s2 t .seq)

/-- TLY.CFG. -/
def execTlyCfg (sid : StallId) (f : FmtTReg) (s : State) : Out := .next (s.issueAt sid (f.word 0x21#6 0x07#6) (tlyCfgIssue f))

/-! ## Application (R192, R193, R195) -/

/-- A TLY.SET or TLY.CFG applied before the signals of its cy (R195). -/
def Tally.configure (t : Tally) (i : Nat) : Change → Tally
  | .set j v c => if j = i then { t with value := v, owner := some c, sat := false, under := false, orph := false } else t
  | .cfg j v =>
    if j = i then
      { t with mode := bitAt v 0, ra := bitAt v 1, owner := some (bitsAt v 2 6)
               sat := t.sat && !bitAt v 8, under := t.under && !bitAt v 9 }
    else t
  | .add _ _ => t

/-- The tally number that a change names. -/
def Change.tallyNum : Change → Nat
  | .set t _ _ => t
  | .cfg t _ => t
  | .add t _ => t

/-- The amounts that changes bring to tally `i`. -/
def amountsOf (i : Nat) (l : List Change) : List Int :=
  l.filterMap fun c => match c with
    | .add j a => if j = i then some a else none
    | _ => none

/-- What the application of a cy's amounts does to a tally (R193). -/
structure Applied where
  tally : Tally
  saturated : Bool
  underflow : Option Int
  negatives : Nat
  deriving DecidableEq, Repr

/-- The amounts of one cy applied to a tally by its MODE (R193). -/
def Tally.apply (t : Tally) (amts : List Int) : Applied :=
  let pos := amts.filter (0 ≤ ·)
  let net := if t.mode then amts.foldl (· + ·) 0 else pos.foldl (· + ·) 0
  let v : Int := (t.value : Int) + net
  let neg := if t.mode then 0 else amts.length - pos.length
  if t.mode && decide (v < 0) then ⟨{ t with under := true }, false, some net, 0⟩
  else if v > 4294967295 then ⟨{ t with value := 4294967295, sat := true }, !t.sat, none, neg⟩
  else ⟨{ t with value := v.toNat }, false, none, neg⟩

/-- Incidents and counts of an application at stall `k` (R193). -/
def State.noteApplied (s : State) (k : Nat) (holder : Option Nat) (i : Nat) (a : Applied) : State :=
  let d := dieOf k
  let s1 := if a.saturated then ({ s with tlySats := satInc s.tlySats } : State).raise 0x0502 d holder k 0xFFFFFFFF [] else s
  let s2 := match a.underflow with
    | some net => s1.raise 0x0503 d holder k 0xFFFFFFFF [i, toBits 64 net]
    | none => s1
  (List.replicate a.negatives 0).foldl (fun (t : State) _ => t.raise 0x0505 d holder k 0xFFFFFFFF []) s2

/-- Changes of one cy applied to a tally file, tally by tally. -/
def State.applyFile (s : State) (k : Nat) (holder : Option Nat) (p : StallPort) (l : List Change) :
    List Nat → State × StallPort
  | [] => (s, p)
  | i :: r =>
    let t0 := l.foldl (fun t c => t.configure i c) (p.tally i)
    let a := t0.apply (amountsOf i l)
    (s.noteApplied k holder i a).applyFile k holder (p.setTally i a.tally) l r

/-- The stall at which a signal ends up: a context restored elsewhere leaves a forwarding entry (R215). -/
def State.forwarded (s : State) (g : Sig) : Nat :=
  (((s.ctx g.ctx).forward.find? fun f => f.1 = g.stall).map (·.2)).getD g.stall

/-- Whether a stall runs a context (R197): it holds the context's state, and a dispatch or a firmware plan has started the context there
(12_clerk_firmware.md R398, log entry 166). -/
def State.runsCtx (s : State) (k c : Nat) : Bool := (s.stall k).occ = some c && ((s.stall k).started || s.runsFirmware k)

/-- Whether a signal reaches the tally file of stall `k` itself (R197). -/
def State.sigLands (s : State) (k : Nat) (g : Sig) : Bool :=
  s.forwarded g = k && g.arrived && !s.fenced k && s.runsCtx k g.ctx && !((s.ctx g.ctx).images.any fun i => i.stall = k)

/-- Whether a signal reaches the saved image of a stall (R197, R215). -/
def State.sigSaved (s : State) (k : Nat) (g : Sig) : Bool :=
  s.forwarded g = k && g.arrived && !s.fenced k && (s.ctx g.ctx).images.any fun i => i.stall = k

/-- A signal that names no holder is dropped, counted and recorded (R197). -/
def State.refuseSigs (s : State) (k : Nat) : List Sig → State
  | [] => s
  | g :: r => (s.refuseSignal 0x0504 (dieOf k) (some g.ctx) k [1]).refuseSigs k r

/-- The fill that changes bring to tally 63 (09_training.md R307). -/
def fillOf (l : List Change) : Nat := (amountsOf 63 l).foldl (fun (n : Nat) (a : Int) => n + a.toNat) 0

/-- The state after a stall's fill tally has received what changes bring it (09_training.md R307). -/
def State.noteFills (s : State) (k : Nat) (l : List Change) : State := if fillOf l = 0 then s else s.noteFill k (fillOf l)

/-- Signals of one cy applied to the saved image of a stall by the die controller, one net change for each tally of the contexts that they
name (R192, R215). -/
def State.applySaved (s : State) (k : Nat) (l : List Sig) : List Nat → State
  | [] => s
  | c :: r =>
    let x := s.ctx c
    match x.images.find? fun i => i.stall = k with
    | none => s.applySaved k l r
    | some i =>
      let cs := (l.filter fun g => g.ctx = c).map fun g => Change.add g.tally g.amt
      let t := s.applyFile k (some c) i.port cs (cs.map Change.tallyNum).eraseDups
      ((t.1.setCtx c { x with images := x.images.map fun j => if j.stall = k then { j with port := t.2 } else j }).noteFills k cs).applySaved
        k l r

/-- The changes that reached a tally file in cy `c`. -/
def changesAt (l : List (Nat × Change)) (c : Nat) : List Change := (l.filter fun p => p.1 = c).map (·.2)

/-- The changes of each cy of a list applied, cy by cy, one net change for each tally (R192). -/
def State.applyCys (s : State) (k : Nat) (holder : Option Nat) (p : StallPort) : List (List Change) → State × StallPort
  | [] => (s, p)
  | l :: r =>
    let t := s.applyFile k holder p l (l.map Change.tallyNum).eraseDups
    t.1.applyCys k holder t.2 r

/-- The changes that wait at a stall, cy by cy, with the amounts of the signals that reach it in the present cy (R192). -/
def StallPort.groups (p : StallPort) (now : Nat) (arrived : List Change) : List (List Change) :=
  let cys := (p.pend.map (·.1)).eraseDups
  let old := (cys.filter (· ≠ now)).map (changesAt p.pend)
  let last := changesAt p.pend now ++ arrived
  if last.isEmpty then old else old ++ [last]

/-- The pending changes of a stall are applied in the order of their cy, with the named signals, which reach it in the present cy (R192);
signals to a saved image are applied there, and the rest are refused (R197, R215). What came in a cy is applied in the next and seen in the
one after, to which the model goes on. -/
def execTallySignalApply (sid : StallId) (ids : List Nat) (s : State) : Out :=
  let k := sid.num
  let named := s.sigs.filter fun g => ids.contains g.id && s.forwarded g = k && g.arrived
  let s1 := { s with sigs := s.sigs.filter fun g => !(named.any fun h => h.id = g.id) }
  let here := named.filter (s.sigLands k)
  let saved := named.filter (s.sigSaved k)
  let lost := named.filter fun g => !s.sigLands k g && !s.sigSaved k g
  let p := s1.port k
  let arrived := here.map fun g => Change.add g.tally g.amt
  let l := p.pend.map (·.2) ++ arrived
  let t := s1.applyCys k (s1.stall k).occ { p with pend := [] } (p.groups s.now arrived)
  let s2 := if l.isEmpty then s1 else t.1.setPort k t.2
  let s3 := ((s2.noteFills k l).applySaved k saved ((saved.map (·.ctx)).eraseDups)).refuseSigs k lost
  let last := if here.isEmpty && saved.isEmpty then (p.pend.map (·.1)).foldl max 0 else s.now
  .next (if l.isEmpty && saved.isEmpty then s3 else s3.at (last + 2))

/-- A remote tally signal arrives and joins the signals in flight, or is refused as coming from outside the hall (10_weago.md R339,
R345). -/
def execTsig (port : Fin 16) (s : State) : Out :=
  .next (s.onMsg port.val 0 (fun m => m.ty = 6) fun m t =>
    let stall := bitsAt m.addr 6 17
    if !t.inHall m.src then t.refuseSignal 0x0504 port.val (some m.ctx) stall [2]
    else if !namesStall stall then t.refuseSignal 0x0504 port.val (some m.ctx) stall [1]
    else { t.tick with sigs := t.sigs ++ [⟨t.idSeq, stall, bitsAt m.addr 0 6, stall, m.ctx, sgn 16 (bitsAt m.addr 23 16), true⟩] })

end Sys2Proof.Machine
end

