-- ==== Sys2Proof/Machine/Turn.lean ====
section
/-! DEFINITION. Turn buffers (02_stall.md R87 to R89) and tile configuration entries (04_tile_ops.md R136 to R138). -/
namespace Sys2Proof.Machine

/-- Row `r` of turn buffer `tb`, as the number of its 128 bytes; zero where nothing was written since the context began (R89). -/
def Stall.turnRow (t : Stall) (tb r : Nat) : Nat := tget t.turn 0 (128 * tb + r)

/-- Bits of an element for a W code (Table STL.9). -/
def turnBits (w : Nat) : Nat := 4 * 2 ^ w

/-- Whether no earlier TRN.LD of the buffer, and no earlier TRN.RD of it, is in flight (R89). -/
def Stall.turnFree (t : Stall) (tb : Nat) : Bool :=
  t.ops.all fun o => match o.kind with
    | .trnLd b .. => b ≠ tb
    | .trnRd b .. => b ≠ tb
    | _ => true

/-- TRN.LD: base and STRIDE are multiples of 8 and no row reaches past stock, else 0x0204 (R89). -/
def trnLdIssue (f : FmtTLd) (s : State) (_k : Nat) (t : Stall) : Issue :=
  let off := (t.sreg f.sa.toNat).toNat % 2 ^ 18
  let rows := f.rows.toNat + 1
  let len := 8 * (f.len.toNat + 1)
  let stride := f.stride.toNat
  let tb := f.tb.toNat
  issueLocal t [f.sa.toNat]
    [(f.rsv ≠ 0#17, 0x0202),
     (off % 8 ≠ 0 || stride % 8 ≠ 0 || off + (rows - 1) * stride + len > stockBytes, 0x0204)] (t.turnFree tb)
    (.go s (t.pushOp (s.now + ceilDiv (rows * len) 128 + 3) (.trnLd tb off rows len stride)) .seq)

/-- TRN.LD (Table STL.9). -/
def execTrnLd (sid : StallId) (f : FmtTLd) (s : State) : Out :=
  .next (s.issueAt sid (f.word 0x05#6 0x00#6) (trnLdIssue f))

/-- TRN.RD: COLS × W above 1,024 bits or an output past v127 raises 0x0209 (R89). -/
def trnRdIssue (f : FmtTRd) (s : State) (_k : Nat) (t : Stall) : Issue :=
  let rows := f.rows.toNat + 1
  let cols := f.cols.toNat + 1
  let w := turnBits f.w.toNat
  let n := ceilDiv (rows * cols * w) 512
  let tb := f.tb.toNat
  issueIf [(f.rsv ≠ 0#27, 0x0202), (cols * w > 1024 || f.vd.toNat + n > 128, 0x0209)]
    (t.turnFree tb && t.vFree (upFrom f.vd.toNat n))
    (.go s (t.pushOp (s.now + 4 + ceilDiv (rows * cols * w) 1024) (.trnRd tb f.vd.toNat w rows cols)) .seq)

/-- TRN.RD (Table STL.9). -/
def execTrnRd (sid : StallId) (f : FmtTRd) (s : State) : Out :=
  .next (s.issueAt sid (f.word 0x05#6 0x01#6) (trnRdIssue f))

/-- The transposed matrix: element (r, c) at position c × rows + r (R88). -/
def Stall.transposed (t : Stall) (tb w rows cols : Nat) : Nat :=
  packN w ((upFrom 0 cols).flatMap fun c => (upFrom 0 rows).map fun r => bitsAt (t.turnRow tb r) (w * c) w)

/-- Rows of a turn buffer filled from stock (Table STL.9). -/
def Stall.fillTurn (t : Stall) (s : State) (k tb off len stride : Nat) : Nat → Stall
  | 0 => t
  | r + 1 =>
    let u := t.fillTurn s k tb off len stride r
    let old := u.turnRow tb r
    let new := leNat (s.bytes (stockAddr k (off + r * stride)) len)
    { u with turn := tput u.turn (128 * tb + r) (new + (old >>> (8 * len)) <<< (8 * len)) }

/-- The transfer with this issue number ends: a TRN.LD has filled its rows, a TRN.RD writes its registers (R87, R88, R100). -/
def execTurnBufferComplete (sid : StallId) (seq : Nat) (ecc : Ecc) (s0 : State) : Out :=
  let k := sid.num
  match splitOp (s0.stall k).ops seq with
  | none => .next s0
  | some (older, o) =>
    match o.kind with
    | .trnLd tb off rows len stride =>
      if !(o.kind.lineReads.all fun l => lineClear older l false) then .next s0
      else
        let s := (s0.at o.due).stockEcc k o.pc ecc
        let t := s.stall k
        .next (s.setStall k ((if ecc = .double then t else t.fillTurn s k tb off len stride rows).retire seq))
    | .trnRd tb vd w rows cols =>
      let s := s0.at o.due
      let t := s.stall k
      let n := ceilDiv (rows * cols * w) 512
      let lines := splitLines n (t.transposed tb w rows cols)
      .next (s.setStall k ((t.setVs (zipW (fun i l => (i, l)) (upFrom vd n) lines)).retire seq))
    | _ => .next s0

/-! ## TC.SET and TC.GET -/

/-- Whether an instruction in flight uses a tile configuration entry (R79). -/
def OpKind.usesTc (o : OpKind) (i : Nat) : Bool :=
  match o with
  | .mm _ _ _ _ _ _ _ _ _ _ _ _ _ tcs _ _ _ _ _ => tcs.contains i
  | _ => false

/-- TC.SET: a value with a bit in [7:6] or [127:49] or FMT 9 to 15 raises 0x0301 (R138). -/
def tcSetIssue (f : FmtTcSet) (s : State) (_k : Nat) (t : Stall) : Issue :=
  let v : BitVec 128 := t.sreg f.sb.toNat ++ t.sreg f.sa.toNat
  let n := v.toNat
  issueLocal t [f.sa.toNat, f.sb.toNat]
    [(f.rsv ≠ 0#38, 0x0202), (bitsAt n 6 2 ≠ 0 || n >>> 49 ≠ 0 || bitsAt n 1 4 > 8, 0x0301)]
    (t.ops.all fun o => !o.kind.usesTc f.t.toNat)
    (.go s { t with tc := tput t.tc f.t.toNat v } .seq)

/-- TC.SET (Table TILE.2). -/
def execTcSet (sid : StallId) (f : FmtTcSet) (s : State) : Out :=
  .next (s.issueAt sid (f.word 0x18#6 0x00#6) (tcSetIssue f))

/-- TC.GET (Table TILE.2). -/
def tcGetIssue (f : FmtTcGet) (s : State) (_k : Nat) (t : Stall) : Issue :=
  let v := t.tcReg f.t.toNat
  issueLocal t [f.sd.toNat] [(f.rsv ≠ 0#42, 0x0202)] true
    (.go s (t.setS f.sd.toNat (if f.h = 0#1 then v.extractLsb' 0 64 else v.extractLsb' 64 64)) .seq)

/-- TC.GET (R137). -/
def execTcGet (sid : StallId) (f : FmtTcGet) (s : State) : Out :=
  .next (s.issueAt sid (f.word 0x18#6 0x01#6) (tcGetIssue f))

end Sys2Proof.Machine
end

