-- ==== Sys2Proof/Machine/Dispatch.lean ====
section
/-! DEFINITION. The effect of every command on the state, its queue aside: one call for each row of the opcode table. -/
namespace Sys2Proof.Machine

/-- The effect of a command. -/
def exec (i : Instr) (s : State) : Host.Outcome State Fault Refusal :=
  match i with
  | .nop sid f => Sys2Proof.Machine.execNop sid f s
  | .bellWait sid f => Sys2Proof.Machine.execBellWait sid f s
  | .fence sid f => Sys2Proof.Machine.execFence sid f s
  | .illegalOpcode sid word => Sys2Proof.Machine.execIllegalOpcode sid word s
  | .brEq sid f => Sys2Proof.Machine.execBrEq sid f s
  | .brNe sid f => Sys2Proof.Machine.execBrNe sid f s
  | .brLt sid f => Sys2Proof.Machine.execBrLt sid f s
  | .brGe sid f => Sys2Proof.Machine.execBrGe sid f s
  | .brLtu sid f => Sys2Proof.Machine.execBrLtu sid f s
  | .brGeu sid f => Sys2Proof.Machine.execBrGeu sid f s
  | .j sid f => Sys2Proof.Machine.execJ sid f s
  | .jr sid f => Sys2Proof.Machine.execJr sid f s
  | .loop sid f => Sys2Proof.Machine.execLoop sid f s
  | .add sid f => Sys2Proof.Machine.execAdd sid f s
  | .sub sid f => Sys2Proof.Machine.execSub sid f s
  | .and sid f => Sys2Proof.Machine.execAnd sid f s
  | .or sid f => Sys2Proof.Machine.execOr sid f s
  | .xor sid f => Sys2Proof.Machine.execXor sid f s
  | .sll sid f => Sys2Proof.Machine.execSll sid f s
  | .srl sid f => Sys2Proof.Machine.execSrl sid f s
  | .sra sid f => Sys2Proof.Machine.execSra sid f s
  | .mul sid f => Sys2Proof.Machine.execMul sid f s
  | .min sid f => Sys2Proof.Machine.execMin sid f s
  | .max sid f => Sys2Proof.Machine.execMax sid f s
  | .minu sid f => Sys2Proof.Machine.execMinu sid f s
  | .maxu sid f => Sys2Proof.Machine.execMaxu sid f s
  | .slt sid f => Sys2Proof.Machine.execSlt sid f s
  | .sltu sid f => Sys2Proof.Machine.execSltu sid f s
  | .orhi sid f => Sys2Proof.Machine.execOrhi sid f s
  | .rds sid f => Sys2Proof.Machine.execRds sid f s
  | .vld sid f => Sys2Proof.Machine.execVld sid f s
  | .vst sid f => Sys2Proof.Machine.execVst sid f s
  | .ldS sid f => Sys2Proof.Machine.execLdS sid f s
  | .stS sid f => Sys2Proof.Machine.execStS sid f s
  | .rel sid f => Sys2Proof.Machine.execRel sid f s
  | .fetchLineArrival sid ecc => Sys2Proof.Machine.execFetchLineArrival sid ecc s
  | .loadStoreComplete sid seq ecc => Sys2Proof.Machine.execLoadStoreComplete sid seq ecc s
  | .mmH16 sid f => Sys2Proof.Machine.execMmH16 sid f s
  | .mmQ8f sid f => Sys2Proof.Machine.execMmQ8f sid f s
  | .mmQ8g sid f => Sys2Proof.Machine.execMmQ8g sid f s
  | .mmQ8fg sid f => Sys2Proof.Machine.execMmQ8fg sid f s
  | .mmQ8gf sid f => Sys2Proof.Machine.execMmQ8gf sid f s
  | .mmI8 sid f => Sys2Proof.Machine.execMmI8 sid f s
  | .mmQ4 sid f => Sys2Proof.Machine.execMmQ4 sid f s
  | .mmI4 sid f => Sys2Proof.Machine.execMmI4 sid f s
  | .matrixRetire sid => Sys2Proof.Machine.execMatrixRetire sid s
  | .squareGo die x0 y0 => Sys2Proof.Machine.execSquareGo die x0 y0 s
  | .squareMemberStop die x0 y0 => Sys2Proof.Machine.execSquareMemberStop die x0 y0 s
  | .accRd sid f => Sys2Proof.Machine.execAccRd sid f s
  | .accWr sid f => Sys2Proof.Machine.execAccWr sid f s
  | .accMoveRetire sid => Sys2Proof.Machine.execAccMoveRetire sid s
  | .trnLd sid f => Sys2Proof.Machine.execTrnLd sid f s
  | .trnRd sid f => Sys2Proof.Machine.execTrnRd sid f s
  | .turnBufferComplete sid seq ecc => Sys2Proof.Machine.execTurnBufferComplete sid seq ecc s
  | .vadd sid f => Sys2Proof.Machine.execVadd sid f s
  | .vsub sid f => Sys2Proof.Machine.execVsub sid f s
  | .vmul sid f => Sys2Proof.Machine.execVmul sid f s
  | .vfma sid f => Sys2Proof.Machine.execVfma sid f s
  | .vfnma sid f => Sys2Proof.Machine.execVfnma sid f s
  | .vmax sid f => Sys2Proof.Machine.execVmax sid f s
  | .vmin sid f => Sys2Proof.Machine.execVmin sid f s
  | .vabs sid f => Sys2Proof.Machine.execVabs sid f s
  | .vneg sid f => Sys2Proof.Machine.execVneg sid f s
  | .vsel sid f => Sys2Proof.Machine.execVsel sid f s
  | .vcmplt sid f => Sys2Proof.Machine.execVcmplt sid f s
  | .vcmpeq sid f => Sys2Proof.Machine.execVcmpeq sid f s
  | .vrsum sid f => Sys2Proof.Machine.execVrsum sid f s
  | .vext sid f => Sys2Proof.Machine.execVext sid f s
  | .vins sid f => Sys2Proof.Machine.execVins sid f s
  | .vcvtTo sid f => Sys2Proof.Machine.execVcvtTo sid f s
  | .vcvtFrom sid f => Sys2Proof.Machine.execVcvtFrom sid f s
  | .vectorWriteback sid => Sys2Proof.Machine.execVectorWriteback sid s
  | .pbF sid f => Sys2Proof.Machine.execPbF sid f s
  | .pbD sid f => Sys2Proof.Machine.execPbD sid f s
  | .pbLd sid f => Sys2Proof.Machine.execPbLd sid f s
  | .priceBoardResult sid => Sys2Proof.Machine.execPriceBoardResult sid s
  | .pbLdComplete sid ecc => Sys2Proof.Machine.execPbLdComplete sid ecc s
  | .sclAtt sid f => Sys2Proof.Machine.execSclAtt sid f s
  | .sclRd sid f => Sys2Proof.Machine.execSclRd sid f s
  | .sclRoll sid f => Sys2Proof.Machine.execSclRoll sid f s
  | .sclClr sid f => Sys2Proof.Machine.execSclClr sid f s
  | .sclProp sid f => Sys2Proof.Machine.execSclProp sid f s
  | .tcSet sid f => Sys2Proof.Machine.execTcSet sid f s
  | .tcGet sid f => Sys2Proof.Machine.execTcGet sid f s
  | .prtGo sid f => Sys2Proof.Machine.execPrtGo sid f s
  | .prtKill sid f => Sys2Proof.Machine.execPrtKill sid f s
  | .prtStat sid f => Sys2Proof.Machine.execPrtStat sid f s
  | .prtDrain sid f => Sys2Proof.Machine.execPrtDrain sid f s
  | .porterRequest sid => Sys2Proof.Machine.execPorterRequest sid s
  | .porterLineArrival sid req ecc reply => Sys2Proof.Machine.execPorterLineArrival sid req ecc reply s
  | .registerDelivery sid => Sys2Proof.Machine.execRegisterDelivery sid s
  | .porterWriteAck sid req reply => Sys2Proof.Machine.execPorterWriteAck sid req reply s
  | .meshFlit sid dir ecc => Sys2Proof.Machine.execMeshFlit sid dir ecc s
  | .tlySet sid f => Sys2Proof.Machine.execTlySet sid f s
  | .tlyAdd sid f => Sys2Proof.Machine.execTlyAdd sid f s
  | .tlySig sid f => Sys2Proof.Machine.execTlySig sid f s
  | .tlyWait sid f => Sys2Proof.Machine.execTlyWait sid f s
  | .tlyWaitv sid f => Sys2Proof.Machine.execTlyWaitv sid f s
  | .tlyTake sid f => Sys2Proof.Machine.execTlyTake sid f s
  | .tlyRd sid f => Sys2Proof.Machine.execTlyRd sid f s
  | .tlyCfg sid f => Sys2Proof.Machine.execTlyCfg sid f s
  | .tallySignalApply sid ids => Sys2Proof.Machine.execTallySignalApply sid ids s
  | .rckBind sid f => Sys2Proof.Machine.execRckBind sid f s
  | .rckArr sid f => Sys2Proof.Machine.execRckArr sid f s
  | .rckWait sid f => Sys2Proof.Machine.execRckWait sid f s
  | .rckAw sid f => Sys2Proof.Machine.execRckAw sid f s
  | .rckCfg sid f => Sys2Proof.Machine.execRckCfg sid f s
  | .rckArrival unit ids => Sys2Proof.Machine.execRckArrival unit ids s
  | .rckCompletion id => Sys2Proof.Machine.execRckCompletion id s
  | .rckParentAnswer id => Sys2Proof.Machine.execRckParentAnswer id s
  | .alloc sid f => Sys2Proof.Machine.execAlloc sid f s
  | .free sid f => Sys2Proof.Machine.execFree sid f s
  | .hint sid f => Sys2Proof.Machine.execHint sid f s
  | .translate sid slot ecc => Sys2Proof.Machine.execTranslate sid slot ecc s
  | .spineAccept die row => Sys2Proof.Machine.execSpineAccept die row s
  | .depotAdmit die slice => Sys2Proof.Machine.execDepotAdmit die slice s
  | .depotBankAccess die slice bank ecc => Sys2Proof.Machine.execDepotBankAccess die slice bank ecc s
  | .hbmAccess die slice req ecc => Sys2Proof.Machine.execHbmAccess die slice req ecc s
  | .stockWindowRelay die slice ecc => Sys2Proof.Machine.execStockWindowRelay die slice ecc s
  | .edgeForward die slice => Sys2Proof.Machine.execEdgeForward die slice s
  | .ucieLinkFailed link => Sys2Proof.Machine.execUcieLinkFailed link s
  | .ddrTimeout req => Sys2Proof.Machine.execDdrTimeout req s
  | .ctl src dst => Sys2Proof.Machine.execCtl src dst s
  | .dieMemPeakClr die => Sys2Proof.Machine.execDieMemPeakClr die s
  | .tsig port => Sys2Proof.Machine.execTsig port s
  | .rarr port => Sys2Proof.Machine.execRarr port s
  | .rcpl port => Sys2Proof.Machine.execRcpl port s
  | .drayPlace ctx va => Sys2Proof.Machine.execDrayPlace ctx va s
  | .drayEvict tier => Sys2Proof.Machine.execDrayEvict tier s
  | .drayImport ctx va hdr body => Sys2Proof.Machine.execDrayImport ctx va hdr body s
  | .moveCopy ctx va src met => Sys2Proof.Machine.execMoveCopy ctx va src met s
  | .storageDrain index => Sys2Proof.Machine.execStorageDrain index s
  | .forward port cls => Sys2Proof.Machine.execForward port cls s
  | .wgoRd port met => Sys2Proof.Machine.execWgoRd port met s
  | .wgoWr port met => Sys2Proof.Machine.execWgoWr port met s
  | .wgoRdr port => Sys2Proof.Machine.execWgoRdr port s
  | .wgoWra port => Sys2Proof.Machine.execWgoWra port s
  | .wgoErr port => Sys2Proof.Machine.execWgoErr port s
  | .noroute port => Sys2Proof.Machine.execNoroute port s
  | .remoteTimeout tag => Sys2Proof.Machine.execRemoteTimeout tag s
  | .roomReq port => Sys2Proof.Machine.execRoomReq port s
  | .roomGrant port => Sys2Proof.Machine.execRoomGrant port s
  | .roomDeny port => Sys2Proof.Machine.execRoomDeny port s
  | .put port => Sys2Proof.Machine.execPut port s
  | .putDone port => Sys2Proof.Machine.execPutDone port s
  | .opened port => Sys2Proof.Machine.execOpened port s
  | .refused port => Sys2Proof.Machine.execRefused port s
  | .fetch port met => Sys2Proof.Machine.execFetch port met s
  | .returnImage port => Sys2Proof.Machine.execReturn port s
  | .returnDone port => Sys2Proof.Machine.execReturnDone port s
  | .roomFree port => Sys2Proof.Machine.execRoomFree port s
  | .portTraining port lanes flight => Sys2Proof.Machine.execPortTraining port lanes flight s
  | .trainingTimeout port => Sys2Proof.Machine.execTrainingTimeout port s
  | .downRetry port => Sys2Proof.Machine.execDownRetry port s
  | .retrain port => Sys2Proof.Machine.execRetrain port s
  | .portReset port => Sys2Proof.Machine.execPortReset port s
  | .blockSend port sub => Sys2Proof.Machine.execBlockSend port sub s
  | .blockReceive port sub fec fixed bytes => Sys2Proof.Machine.execBlockReceive port sub fec fixed bytes s
  | .resendTimer port => Sys2Proof.Machine.execResendTimer port s
  | .laneLost port lanes ahead => Sys2Proof.Machine.execLaneLost port lanes ahead s
  | .widthSwitch port => Sys2Proof.Machine.execWidthSwitch port s
  | .hello port entropy => Sys2Proof.Machine.execHello port entropy s
  | .lanes port => Sys2Proof.Machine.execLanes port s
  | .cert port => Sys2Proof.Machine.execCert port s
  | .ekLink port entropy => Sys2Proof.Machine.execEkLink port entropy s
  | .ctLink port => Sys2Proof.Machine.execCtLink port s
  | .oc port => Sys2Proof.Machine.execOc port s
  | .syncExchange => Sys2Proof.Machine.execSyncExchange s
  | .tsyncRequest port => Sys2Proof.Machine.execTsyncRequest port s
  | .tsyncAnswer port => Sys2Proof.Machine.execTsyncAnswer port s
  | .syncHoldover => Sys2Proof.Machine.execSyncHoldover s
  | .nopOrder ring => Sys2Proof.Machine.execNopOrder ring s
  | .ctxCreate ring => Sys2Proof.Machine.execCtxCreate ring s
  | .ctxKill ring => Sys2Proof.Machine.execCtxKill ring s
  | .ctxReset ring => Sys2Proof.Machine.execCtxReset ring s
  | .regionAssign ring => Sys2Proof.Machine.execRegionAssign ring s
  | .regionRelease ring => Sys2Proof.Machine.execRegionRelease ring s
  | .planDispatch ring => Sys2Proof.Machine.execPlanDispatch ring s
  | .ctxSave ring => Sys2Proof.Machine.execCtxSave ring s
  | .ctxRestore ring => Sys2Proof.Machine.execCtxRestore ring s
  | .ctxPolicy ring => Sys2Proof.Machine.execCtxPolicy ring s
  | .rckAssign ring => Sys2Proof.Machine.execRckAssign ring s
  | .rckRelease ring => Sys2Proof.Machine.execRckRelease ring s
  | .ctxQuery ring => Sys2Proof.Machine.execCtxQuery ring s
  | .sqBind ring => Sys2Proof.Machine.execSqBind ring s
  | .sqBindAny ring => Sys2Proof.Machine.execSqBindAny ring s
  | .sqUnbind ring => Sys2Proof.Machine.execSqUnbind ring s
  | .sqQuery ring => Sys2Proof.Machine.execSqQuery ring s
  | .planLoaderWrite order e met host => Sys2Proof.Machine.execPlanLoaderWrite order e met host s
  | .stopReport sid => Sys2Proof.Machine.execStopReport sid s
  | .policy => Sys2Proof.Machine.execPolicy s
  | .allocOrder ring => Sys2Proof.Machine.execAllocOrder ring s
  | .freeOrder ring => Sys2Proof.Machine.execFreeOrder ring s
  | .lendStock ring => Sys2Proof.Machine.execLendStock ring s
  | .publicMap ring => Sys2Proof.Machine.execPublicMap ring s
  | .share ring => Sys2Proof.Machine.execShare ring s
  | .exportOrder ring => Sys2Proof.Machine.execExport ring s
  | .importOrder ring image => Sys2Proof.Machine.execImport ring image s
  | .campusCopy ring image => Sys2Proof.Machine.execCampusCopy ring image s
  | .saveComplete ctx => Sys2Proof.Machine.execSaveComplete ctx s
  | .restoreComplete ctx => Sys2Proof.Machine.execRestoreComplete ctx s
  | .gather ring => Sys2Proof.Machine.execGather ring s
  | .gatherComplete order host met written => Sys2Proof.Machine.execGatherComplete order host met written s
  | .reduceBind ring host => Sys2Proof.Machine.execReduceBind ring host s
  | .reduceRelease ring => Sys2Proof.Machine.execReduceRelease ring s
  | .bucketStart setid host met => Sys2Proof.Machine.execBucketStart setid host met s
  | .reduceLine port host met => Sys2Proof.Machine.execReduceLine port host met s
  | .bucketComplete setid => Sys2Proof.Machine.execBucketComplete setid s
  | .setAbort setid member cause => Sys2Proof.Machine.execSetAbort setid member cause s
  | .bellDecision tel => Sys2Proof.Machine.execBellDecision tel s
  | .bellLatch => Sys2Proof.Machine.execBellLatch s
  | .starSymbol die lane sym => Sys2Proof.Machine.execStarSymbol die lane sym s
  | .bellWatchdog die => Sys2Proof.Machine.execBellWatchdog die s
  | .comparatorTrip die => Sys2Proof.Machine.execComparatorTrip die s
  | .thermalTrip die => Sys2Proof.Machine.execThermalTrip die s
  | .holdReq high => Sys2Proof.Machine.execHoldReq high s
  | .holdLatch => Sys2Proof.Machine.execHoldLatch s
  | .releaseLatch => Sys2Proof.Machine.execReleaseLatch s
  | .bellReleaseGo v => Sys2Proof.Machine.execBellReleaseGo v s
  | .bellHoldCause v => Sys2Proof.Machine.execBellHoldCause v s
  | .registerWrite a => Sys2Proof.Machine.execRegisterWrite a s
  | .modDrvIf v => Sys2Proof.Machine.execModDrvIf v s
  | .handshake => Sys2Proof.Machine.execHandshake s
  | .modCommit v => Sys2Proof.Machine.execModCommit v s
  | .commitCheck route => Sys2Proof.Machine.execCommitCheck route s
  | .doorbellRead page badRings badIncidents => Sys2Proof.Machine.execDoorbellRead page badRings badIncidents s
  | .orderFetch ring desc args => Sys2Proof.Machine.execOrderFetch ring desc args s
  | .interruptGap vector => Sys2Proof.Machine.execInterruptGap vector s
  | .attest ring entropy => Sys2Proof.Machine.execAttest ring entropy s
  | .getIdentity ring => Sys2Proof.Machine.execGetIdentity ring s
  | .sessionOpen ring => Sys2Proof.Machine.execSessionOpen ring s
  | .sessionClose ring => Sys2Proof.Machine.execSessionClose ring s
  | .fwActivate ring => Sys2Proof.Machine.execFwActivate ring s
  | .fwDiscard ring => Sys2Proof.Machine.execFwDiscard ring s
  | .fwStage ring image flashOk => Sys2Proof.Machine.execFwStage ring image flashOk s
  | .activationComplete => Sys2Proof.Machine.execActivationComplete s
  | .activationReverted => Sys2Proof.Machine.execActivationReverted s
  | .coreWatchdog die core cause => Sys2Proof.Machine.execCoreWatchdog die core cause s
  | .coreKick die core => Sys2Proof.Machine.execCoreKick die core s
  | .coreRestartFailed die core => Sys2Proof.Machine.execCoreRestartFailed die core s
  | .supervisorTrip => Sys2Proof.Machine.execSupervisorTrip s
  | .standbyEntry addrPins => Sys2Proof.Machine.execStandbyEntry addrPins s
  | .inputRange vin => Sys2Proof.Machine.execInputRange vin s
  | .emergencyHold => Sys2Proof.Machine.execEmergencyHold s
  | .canary die domain logged => Sys2Proof.Machine.execCanary die domain logged s
  | .replan ratios logged => Sys2Proof.Machine.execReplan ratios logged s
  | .domainPowerOff die domain => Sys2Proof.Machine.execDomainPowerOff die domain s
  | .domainPowerUp domain => Sys2Proof.Machine.execDomainPowerUp domain s
  | .resetNLow => Sys2Proof.Machine.execResetNLow s
  | .moduleReset key => Sys2Proof.Machine.execModuleReset key s
  | .refclkLost => Sys2Proof.Machine.execRefclkLost s
  | .boot r => Sys2Proof.Machine.execBoot r s
  | .warmClear key => Sys2Proof.Machine.execWarmClear key s
  | .dieReset die v => Sys2Proof.Machine.execDieReset die v s
  | .dieResetDone die trims logged => Sys2Proof.Machine.execDieResetDone die trims logged s
  | .start die unit => Sys2Proof.Machine.execStart die unit s
  | .feedB die unit v => Sys2Proof.Machine.execFeedB die unit v s
  | .feedH die unit v => Sys2Proof.Machine.execFeedH die unit v s
  | .feedW die unit v => Sys2Proof.Machine.execFeedW die unit v s
  | .arm die unit => Sys2Proof.Machine.execArm die unit s
  | .resume die unit => Sys2Proof.Machine.execResume die unit s
  | .snoopLine die unit => Sys2Proof.Machine.execSnoopLine die unit s
  | .queueMismatch die queue occ => Sys2Proof.Machine.execQueueMismatch die queue occ s
  | .flashSelN high flash => Sys2Proof.Machine.execFlashSelN high flash s
  | .i3cPrivateWrite index => Sys2Proof.Machine.execI3cPrivateWrite index s
  | .i3cPrivateRead n => Sys2Proof.Machine.execI3cPrivateRead n s
  | .setdasa static dyn => Sys2Proof.Machine.execSetdasa static dyn s
  | .entdaa dyn => Sys2Proof.Machine.execEntdaa dyn s
  | .trstN high => Sys2Proof.Machine.execTrstN high s
  | .idcode => Sys2Proof.Machine.execIdcode s
  | .sample bits => Sys2Proof.Machine.execSample bits s
  | .preload bits => Sys2Proof.Machine.execPreload bits s
  | .extest => Sys2Proof.Machine.execExtest s
  | .extestPulse => Sys2Proof.Machine.execExtestPulse s
  | .extestTrain => Sys2Proof.Machine.execExtestTrain s
  | .cellsTakeLands => Sys2Proof.Machine.execCellsTakeLands s
  | .bypass => Sys2Proof.Machine.execBypass s
  | .tapReset => Sys2Proof.Machine.execTapReset s

end Sys2Proof.Machine
end

