-- ==== Sys2Proof/Machine/Step.lean ====
section
/-! DEFINITION. One step: the command at the front of the queue. -/
namespace Sys2Proof.Machine

/-- The state without the queue's front. -/
def State.popped (s : State) : State := { s with pending := s.pending.tail }

/-- The idle step on an empty queue: one cy passes (log entry 3). -/
def State.idle (s : State) : State := { s with now := s.now + 1 }

/-- One step: the command at the front runs on the state with the queue's rest; with none waiting a cy passes. -/
def step (s : State) : Host.Outcome State Fault Refusal :=
  match s.pending with
  | [] => .next s.idle
  | c :: _ => exec c s.popped

/-- The state with the command of a table word at the front of its queue; no row of the table gives bits, so no word spells one. -/
def State.withFetchWord (s : State) (nbits w : Nat) : State :=
  match decodeTableWord nbits w with
  | some c => { s with pending := c :: s.pending }
  | none => s

end Sys2Proof.Machine
end

