-- ==== Sys2Proof/WellFormed.lean ====
section
/-! DEFINITION. Which commands are well formed: an operand given as a number names something the spec has. -/
namespace Sys2Proof

/-- The origin of a square's placement (04_tile_ops.md R148). -/
def isOrigin (x0 y0 : Nat) : Bool := x0 % 16 = 0 && y0 % 16 = 0 && decide (x0 ≤ 32) && decide (y0 ≤ 48)

/-- A UCIe link by number: 256 + d for the host edge of CD0 or CD8, else 16 a + b for neighbours a < b of a row of eight dies or of
one rung (07_depot_memory.md R243). -/
def isLink (n : Nat) : Bool :=
  n = 256 || n = 264 || (decide (n < 256) && (let a := n / 16; let b := n % 16; (b = a + 1 && a % 8 ≠ 7) || b = a + 8))

/-- A context and the address of a crate in it (08_ledger_dray.md R254). -/
def isCrate (ctx va : Nat) : Bool := decide (ctx < 64) && decide (va < 2 ^ 56) && va % 65536 = 0

/-- A tier in which the dray makes room (R275). -/
def isTier (t : Nat) : Bool := t = 2 || t = 3

/-- One value for each die (14_power_ageing_resets.md R444, R449). -/
def isTelemetry (x : Telemetry) : Bool := x.temps.length = 16 && x.powers.length = 16

/-- A domain of the module (R447). -/
def isTrim (x : DomainTrim) : Bool := decide (x.die < 16) && decide (x.domain < 20)

/-- Dies, lanes, stacks and domains of the module (13_trust.md R425). -/
def isBoot (r : BootReport) : Bool :=
  (r.laneFlights.all fun p => decide (p.1 < 16) && decide (p.2.1 < 16)) && (r.selfTestFail.all fun d => decide (d < 16))
    && (r.identityFail.all fun d => decide (d < 16)) && (r.stackFail.all fun p => decide (p.1 < 16) && decide (p.2 < 2))
    && r.trims.all isTrim

/-- A 46-bit local address, or a queue of a die (11_host_rings.md Table HST.1, 15_check_unit_queues.md Table CHK.3). -/
def isAccess : HostAccess → Bool
  | .write a _ => decide (a < 2 ^ 46)
  | .read a => decide (a < 2 ^ 46)
  | .message e _ => e = 0 || e = 8
  | .underrun d q => decide (d < 16) && decide (q < 17)
  | .overrun d q => decide (d < 16) && decide (q < 17)

/-- A command whose operands name something the spec has. -/
def Instr.wf : Instr → Bool
  | .squareGo _ x0 y0 => isOrigin x0 y0
  | .squareMemberStop _ x0 y0 => isOrigin x0 y0
  | .rckArrival unit _ => decide (unit < 256)
  | .spineAccept _ row => decide (row < 160)
  | .ucieLinkFailed link => isLink link
  | .drayPlace ctx va => isCrate ctx va
  | .drayEvict tier => isTier tier
  | .drayImport ctx va _ _ => isCrate ctx va
  | .moveCopy ctx va _ _ => isCrate ctx va
  | .remoteTimeout tag => decide (tag < 16384)
  | .portTraining _ _ flight => decide (flight < 65536)
  | .nopOrder ring => decide (ring < 64)
  | .ctxCreate ring => decide (ring < 64)
  | .ctxKill ring => decide (ring < 64)
  | .ctxReset ring => decide (ring < 64)
  | .regionAssign ring => decide (ring < 64)
  | .regionRelease ring => decide (ring < 64)
  | .planDispatch ring => decide (ring < 64)
  | .ctxSave ring => decide (ring < 64)
  | .ctxRestore ring => decide (ring < 64)
  | .ctxPolicy ring => decide (ring < 64)
  | .rckAssign ring => decide (ring < 64)
  | .rckRelease ring => decide (ring < 64)
  | .ctxQuery ring => decide (ring < 64)
  | .sqBind ring => decide (ring < 64)
  | .sqBindAny ring => decide (ring < 64)
  | .sqUnbind ring => decide (ring < 64)
  | .sqQuery ring => decide (ring < 64)
  | .planLoaderWrite _ e _ _ => decide (e < 16)
  | .allocOrder ring => decide (ring < 64)
  | .freeOrder ring => decide (ring < 64)
  | .lendStock ring => decide (ring < 64)
  | .publicMap ring => decide (ring < 64)
  | .share ring => decide (ring < 64)
  | .exportOrder ring => decide (ring < 64)
  | .importOrder ring _ => decide (ring < 64)
  | .campusCopy ring _ => decide (ring < 64)
  | .gather ring => decide (ring < 64)
  | .reduceBind ring _ => decide (ring < 64)
  | .reduceRelease ring => decide (ring < 64)
  | .bucketStart setid _ _ => decide (setid < 65536)
  | .bucketComplete setid => decide (setid < 65536)
  | .setAbort setid _ _ => decide (setid < 65536)
  | .bellDecision tel => isTelemetry tel
  | .registerWrite a => isAccess a
  | .attest ring _ => decide (ring < 64)
  | .getIdentity ring => decide (ring < 64)
  | .sessionOpen ring => decide (ring < 64)
  | .sessionClose ring => decide (ring < 64)
  | .fwActivate ring => decide (ring < 64)
  | .fwDiscard ring => decide (ring < 64)
  | .fwStage ring _ _ => decide (ring < 64)
  | .coreWatchdog _ _ cause => decide (cause.val ≠ 0)
  | .inputRange vin => decide (vin < 65536)
  | .replan ratios _ => ratios.all isTrim
  | .boot r => isBoot r
  | .dieResetDone die trims _ => trims.all fun x => isTrim x && x.die = die.val
  | .queueMismatch _ _ occ => decide (occ < 16384)
  | .i3cPrivateRead n => decide (n < 65536)
  | .sample bits => decide (bits < 2 ^ 2611)
  | .preload bits => decide (bits < 2 ^ 2611)
  | .nop .. | .bellWait .. | .fence .. | .illegalOpcode .. | .brEq .. | .brNe .. | .brLt .. | .brGe .. | .brLtu .. | .brGeu ..
  | .j .. | .jr .. | .loop .. | .add .. | .sub .. | .and .. | .or .. | .xor .. | .sll .. | .srl .. | .sra .. | .mul .. | .min ..
  | .max .. | .minu .. | .maxu .. | .slt .. | .sltu .. | .orhi .. | .rds .. | .vld .. | .vst .. | .ldS .. | .stS .. | .rel ..
  | .fetchLineArrival .. | .loadStoreComplete .. | .mmH16 .. | .mmQ8f .. | .mmQ8g .. | .mmQ8fg .. | .mmQ8gf .. | .mmI8 ..
  | .mmQ4 .. | .mmI4 .. | .matrixRetire .. | .accRd .. | .accWr .. | .accMoveRetire .. | .trnLd .. | .trnRd ..
  | .turnBufferComplete .. | .vadd .. | .vsub .. | .vmul .. | .vfma .. | .vfnma .. | .vmax .. | .vmin .. | .vabs .. | .vneg ..
  | .vsel .. | .vcmplt .. | .vcmpeq .. | .vrsum .. | .vext .. | .vins .. | .vcvtTo .. | .vcvtFrom .. | .vectorWriteback ..
  | .pbF .. | .pbD .. | .pbLd .. | .priceBoardResult .. | .pbLdComplete .. | .sclAtt .. | .sclRd .. | .sclRoll .. | .sclClr ..
  | .sclProp .. | .tcSet .. | .tcGet .. | .prtGo .. | .prtKill .. | .prtStat .. | .prtDrain .. | .porterRequest ..
  | .porterLineArrival .. | .registerDelivery .. | .porterWriteAck .. | .meshFlit .. | .tlySet .. | .tlyAdd .. | .tlySig ..
  | .tlyWait .. | .tlyWaitv .. | .tlyTake .. | .tlyRd .. | .tlyCfg .. | .tallySignalApply .. | .rckBind .. | .rckArr ..
  | .rckWait .. | .rckAw .. | .rckCfg .. | .rckCompletion .. | .rckParentAnswer .. | .alloc .. | .free .. | .hint ..
  | .translate .. | .depotAdmit .. | .depotBankAccess .. | .hbmAccess .. | .stockWindowRelay .. | .edgeForward ..
  | .ddrTimeout .. | .ctl .. | .dieMemPeakClr .. | .tsig .. | .rarr .. | .rcpl .. | .storageDrain .. | .forward .. | .wgoRd ..
  | .wgoWr .. | .wgoRdr .. | .wgoWra .. | .wgoErr .. | .noroute .. | .roomReq .. | .roomGrant .. | .roomDeny .. | .put ..
  | .putDone .. | .opened .. | .refused .. | .fetch .. | .returnImage .. | .returnDone .. | .roomFree .. | .trainingTimeout ..
  | .downRetry .. | .retrain .. | .portReset .. | .blockSend .. | .blockReceive .. | .resendTimer .. | .laneLost ..
  | .widthSwitch .. | .hello .. | .lanes .. | .cert .. | .ekLink .. | .ctLink .. | .oc .. | .syncExchange .. | .tsyncRequest ..
  | .tsyncAnswer .. | .syncHoldover .. | .stopReport .. | .policy .. | .saveComplete .. | .restoreComplete ..
  | .gatherComplete .. | .reduceLine .. | .bellLatch .. | .starSymbol .. | .bellWatchdog .. | .comparatorTrip ..
  | .thermalTrip .. | .holdReq .. | .holdLatch .. | .releaseLatch .. | .bellReleaseGo .. | .bellHoldCause .. | .modDrvIf ..
  | .handshake .. | .modCommit .. | .commitCheck .. | .doorbellRead .. | .orderFetch .. | .interruptGap ..
  | .activationComplete .. | .activationReverted .. | .coreKick .. | .coreRestartFailed .. | .supervisorTrip ..
  | .standbyEntry .. | .emergencyHold .. | .canary .. | .domainPowerOff .. | .domainPowerUp .. | .resetNLow .. | .moduleReset ..
  | .refclkLost .. | .warmClear .. | .dieReset .. | .start .. | .feedB .. | .feedH .. | .feedW .. | .arm .. | .resume ..
  | .snoopLine .. | .flashSelN .. | .i3cPrivateWrite .. | .setdasa .. | .entdaa .. | .trstN .. | .idcode .. | .extest ..
  | .extestPulse .. | .extestTrain .. | .cellsTakeLands .. | .bypass .. | .tapReset .. => true

end Sys2Proof
end

