-- ==== Sys2Proof/Certificates/Slice0/Obligations.lean ====
section
/-! DEFINITION. What the model is claimed to do: statements for the provers, each an `Obligations.<Name>`, over helper definitions
that say once what a hypothesis or a frame means. -/
namespace Sys2Proof.Claim
open Sys2Proof Sys2Proof.Machine

/-- The cy in which the next word of a stall issues: the cy after its last issue, or now if that has passed. -/
def issueCy (s : State) (sid : StallId) : Nat := max s.now (s.stall sid.num).nextIssue

/-- The stall can issue this word: the module is OPEN and not held, the stall's domain and die are in use, the stall runs and waits at
no square, and its fetch buffer holds the word at its PC, which lies in stock. -/
structure Issues (s : State) (sid : StallId) (word : Word64) : Prop where
  isOpen : s.mod.state = 3
  notHeld : s.bell.held = false
  notFenced : s.fenced sid.num = false
  dieUp : s.heldDies.contains (dieOf sid.num) = false
  running : (s.stall sid.num).status = .running
  atNoSquare : (s.stall sid.num).ready = none
  inStock : (s.stall sid.num).pc < stockBytes
  fetched : (s.stall sid.num).wordAt (s.stall sid.num).pc = some word

/-- From `s` to `t` the stall `sid` issued one word: `b` is the module with the instruction's own effect outside the stalls, `u` the
stall with its own effect; besides these only the time, the PC, the cy of the next issue and the fetch unit's requests change, and
every other stall is as it was. -/
def Goes (s b t : State) (sid : StallId) (u : Stall) (pc next : Nat) : Prop :=
  t = { b with now := issueCy s sid, stalls := t.stalls } ∧
  (∀ j, j ≠ sid.num → t.stall j = s.stall j) ∧
  t.stall sid.num = { u with pc := pc, nextIssue := next, curLine := some ((s.stall sid.num).pc / 64),
                             fetchReq := (t.stall sid.num).fetchReq }

/-- The command answers a next state in which the stall has issued in program order, with stall effect `u` and nothing else. -/
def Runs (s : State) (sid : StallId) (c : Instr) (u : Stall) : Prop :=
  ∃ t, exec c s = .next t ∧ Goes s s t sid u ((s.stall sid.num).pc + 8) (issueCy s sid + 1)

/-- The same with an effect `b` outside the stalls. -/
def RunsWith (s b : State) (sid : StallId) (c : Instr) (u : Stall) : Prop :=
  ∃ t, exec c s = .next t ∧ Goes s b t sid u ((s.stall sid.num).pc + 8) (issueCy s sid + 1)

/-- The command stops the stall with a precise fault: one record with the stall, its context, its PC and these details is logged, the
stall is stopped where it stood, and no other stall, no byte of memory and no porter changes. -/
def StopsWith (s : State) (sid : StallId) (c : Instr) (code : Nat) (detail : List Nat) : Prop :=
  ∃ t, exec c s = .next t ∧
    t.stall sid.num = { s.stall sid.num with status := .stopped code (issueCy s sid) } ∧
    (∀ j, j ≠ sid.num → t.stall j = s.stall j) ∧
    t.inc.log = ⟨code, dieOf sid.num, (s.stall sid.num).occ, sid.num, (s.stall sid.num).pc, s.bell.count, detail⟩ :: s.inc.log ∧
    t.mem = s.mem ∧ t.ports = s.ports ∧ t.ctxs = s.ctxs ∧ t.units = s.units ∧ t.ledger = s.ledger

/-- A precise fault whose record has no details of its own. -/
def Stops (s : State) (sid : StallId) (c : Instr) (code : Nat) : Prop := StopsWith s sid c code []

end Sys2Proof.Claim
open Sys2Proof Sys2Proof.Machine Sys2Proof.Claim

/-! ## The queue and the step -/

/-- A step takes the command at the front of the queue and runs it on the state with the queue's rest. -/
def Sys2Proof.Claim.StepRunsFront : Prop :=
  ∀ (c : Instr) (r : List Instr) (s : State), step { s with pending := c :: r } = exec c { s with pending := r }

/-- On an empty queue a step lets one cy pass and changes nothing else (the model's choice, log entry 3). -/
def Sys2Proof.Claim.StepIdles : Prop :=
  ∀ s : State, s.pending = [] → step s = .next { s with now := s.now + 1 }

/-- No command reaches the queue of waiting commands, in any state: it answers a next state with the queue as it was. -/
def Sys2Proof.Claim.EveryCommandAnswersAndKeepsTheQueue : Prop :=
  ∀ (c : Instr) (s : State), ∃ t, exec c s = .next t ∧ t.pending = s.pending

/-- Every step keeps the memory's canonical form: addresses rise strictly, and no byte outside HBM is listed as zero. -/
def Sys2Proof.Claim.StepKeepsMemoryForm : Prop :=
  ∀ s t : State, Inv s → step s = .next t → Inv t

/-- The state after reset has the memory's canonical form, with nothing listed. -/
def Sys2Proof.Claim.ResetHasMemoryForm : Prop := Inv State.reset ∧ State.reset.mem = []

/-- A line written reads back, and every byte outside it reads as before, whatever was listed; the address space's top included. -/
def Sys2Proof.Claim.LineWrittenReadsBack : Prop :=
  ∀ (s : State) (a : Nat) (l : Line), Memory.wf s.mem = true →
    (s.putLine a l).line a = l ∧ ∀ b, b < a ∨ a + 64 ≤ b → (s.putLine a l).byte b = s.byte b

/-- The state after a power-on boot (R9, R29, R34, R62, R191, R359, R376, R465, Table BELL.8): the module is HELD with no bell counted,
no commit made and no session, every stall idle with its registers zero and its gate counts 1, every tally zero, every ring OFF, every
port OFF, every context FREE. That reset leaves the module after its boot is the model's choice (log entry 1). -/
def Sys2Proof.Claim.ResetValues : Prop :=
  let s := State.reset
  s.mod.state = 2 ∧ s.mod.configValid = false ∧ s.mod.session = false ∧ s.bell.held = true ∧ s.bell.count = 0 ∧ s.bell.lead = 3 ∧
  s.bell.locked = false ∧ s.period = 22500 ∧ s.hallMode = false ∧
  (∀ k i, (s.stall k).status = .idle ∧ (s.stall k).sreg i = 0#64 ∧ (s.stall k).gate i = 1 ∧ (s.stall k).isFull i = false) ∧
  (∀ k i, ((s.port k).tally i).value = 0 ∧ (tget (s.port k).slots Slot.idle i).state = .free) ∧
  (∀ i, (s.ring i).state = 0) ∧ (∀ p, (tget s.fab.ports WPort.off p).state = 0) ∧
  (∀ c, (s.ctx c).state = .free) ∧ s.pending = []

/-! ## Words -/

/-- A command that is an instruction of a stall is spelled by its word, with every operand at every value: the word read for some stall
(the one it names) gives the command, bit for bit. -/
def Sys2Proof.Claim.DecodeOfEncode : Prop :=
  ∀ (i : Instr) (w : Word64), encode i = some w → ∃ sid, decodeWord sid w = some i

/-- What a word is read as is spelled by that very word: no two words of one stall read as one command, and no bit is dropped. -/
def Sys2Proof.Claim.EncodeOfDecode : Prop :=
  ∀ (sid : StallId) (w : Word64) (i : Instr), decodeWord sid w = some i → encode i = some w

/-- The words that the spec works out: VLD v0, s1, N = 1, OFF = 0x17C's table form; MM.Q8F; ACC.RD; BELL.WAIT 32; PRT.GO; and a word
with an unlisted OP and one with an unlisted FN read as nothing. -/
def Sys2Proof.Claim.WorkedWords : Prop :=
  ∀ sid : StallId,
    decodeWord sid 0x0010000000000020#64 = some (.bellWait sid ⟨0#36, 0#1, 32#15⟩) ∧
    decodeWord sid 0x8005030000000000#64 = some (.prtGo sid ⟨40#7, 3#5, 0#40⟩) ∧
    decodeWord sid 0x4C087C0000000000#64 = some (.accRd sid ⟨16#5, 15#4, 1#1, 0#1, 0#4, 0#37⟩) ∧
    decodeWord sid 0x2048D288A0000000#64 = some (.mmQ8f sid ⟨2#4, 3#4, 4#4, 1#1, 1#2, 0#1, 0#1, 0#1, 1#1, 5#6, 0#1, 0#5, 0#5, 0#18⟩) ∧
    decodeWord sid 0x1000017C00000000#64 = some (.vld sid ⟨0#7, 1#5, 31#6, 0#16, 0#18⟩) ∧
    decodeWord sid 0xFC00000000000000#64 = none ∧ decodeWord sid 0x0030000000000000#64 = none

/-! ## Issue (02_stall.md R63 to R71) -/
namespace Sys2Proof.Claim

/-- The word a stall meets as it stands in the buffer, whatever it is: the stall may issue and its PC lies in stock. -/
def noneWaits (s : State) (sid : StallId) (regs : List Nat) : Prop := (s.stall sid.num).sReady regs = true

/-- Table STL.5's functions of two operands: command, FN, the result as a number (R71). -/
def aluRows : List ((StallId → AluForm → Instr) × BitVec 6 × (Word64 → Word64 → Word64)) :=
  [(.add, 0x00#6, fun a b => BitVec.ofNat 64 (a.toNat + b.toNat)),
   (.sub, 0x01#6, fun a b => BitVec.ofInt 64 ((a.toNat : Int) - b.toNat)),
   (.and, 0x02#6, fun a b => a &&& b),
   (.or, 0x03#6, fun a b => a ||| b),
   (.xor, 0x04#6, fun a b => a ^^^ b),
   (.sll, 0x05#6, fun a b => BitVec.ofNat 64 (a.toNat * 2 ^ (b.toNat % 64))),
   (.srl, 0x06#6, fun a b => BitVec.ofNat 64 (a.toNat / 2 ^ (b.toNat % 64))),
   (.sra, 0x07#6, fun a b => BitVec.ofInt 64 (a.toInt / (2 ^ (b.toNat % 64) : Nat))),
   (.mul, 0x08#6, fun a b => BitVec.ofNat 64 (a.toNat * b.toNat)),
   (.min, 0x09#6, fun a b => BitVec.ofInt 64 (Min.min a.toInt b.toInt)),
   (.max, 0x0A#6, fun a b => BitVec.ofInt 64 (Max.max a.toInt b.toInt)),
   (.minu, 0x0B#6, fun a b => BitVec.ofNat 64 (Min.min a.toNat b.toNat)),
   (.maxu, 0x0C#6, fun a b => BitVec.ofNat 64 (Max.max a.toNat b.toNat)),
   (.slt, 0x0D#6, fun a b => if a.toInt < b.toInt then 1#64 else 0#64),
   (.sltu, 0x0E#6, fun a b => if a.toNat < b.toNat then 1#64 else 0#64)]

/-- Table STL.4's conditional branches: command, FN, when it is taken. -/
def branchRows : List ((StallId → FmtB → Instr) × BitVec 6 × (Word64 → Word64 → Prop)) :=
  [(.brEq, 0x00#6, fun a b => a.toNat = b.toNat),
   (.brNe, 0x01#6, fun a b => a.toNat ≠ b.toNat),
   (.brLt, 0x02#6, fun a b => a.toInt < b.toInt),
   (.brGe, 0x03#6, fun a b => b.toInt ≤ a.toInt),
   (.brLtu, 0x04#6, fun a b => a.toNat < b.toNat),
   (.brGeu, 0x05#6, fun a b => b.toNat ≤ a.toNat)]

/-- A taken branch to `pc` with stall effect `u`: the next word issues 2 cy later where the buffer holds the target's line, else 4 (R66). -/
def Jumps (s : State) (sid : StallId) (c : Instr) (u : Stall) (pc : Nat) : Prop :=
  ∃ t, exec c s = .next t ∧
    Goes s s t sid u pc (issueCy s sid + (if (s.stall sid.num).holdsLine (pc / 64) then 2 else 4))

end Sys2Proof.Claim

/-- Table STL.5: each function of two operands writes its result to s[SD] (a write of s0 is discarded) and nothing else, in both operand
forms, once no earlier result is due to a register it names. -/
def Sys2Proof.Claim.ScalarFunctions : Prop :=
  ∀ row ∈ aluRows, ∀ (s : State) (sid : StallId) (f : AluForm),
    Issues s sid (f.word row.2.1) → noneWaits s sid (aluSd f :: aluSrcs f) → aluRsvZero f = true →
      Runs s sid (row.1 sid f)
        ((s.stall sid.num).setS (aluSd f) (row.2.2 (aluA (s.stall sid.num) f) (aluB (s.stall sid.num) f)))

/-- s0 reads 0 and discards writes; every other scalar register reads what was written to it and keeps it through writes of others (R62). -/
def Sys2Proof.Claim.ScalarRegisters : Prop :=
  ∀ (t : Stall) (i j : Nat) (v : Word64),
    t.sreg 0 = 0#64 ∧ t.setS 0 v = t ∧ (i ≠ 0 → (t.setS i v).sreg i = v) ∧ (i ≠ j → (t.setS i v).sreg j = t.sreg j)

/-- ORHI takes s[SA] OR IMM in the upper half; RDS takes the special value that IMM selects: stall ID, context, bell number, cy since
the stall's interval began, lead die (Table STL.5). -/
def Sys2Proof.Claim.OrhiAndRds : Prop :=
  (∀ (s : State) (sid : StallId) (f : FmtI), Issues s sid (f.word 0x03#6 0x10#6) →
    noneWaits s sid [f.sd.toNat, f.sa.toNat] → f.rsv = 0#10 →
      Runs s sid (.orhi sid f) ((s.stall sid.num).setS f.sd.toNat
        ((s.stall sid.num).sreg f.sa.toNat ||| BitVec.ofNat 64 (f.imm.toNat * 2 ^ 32)))) ∧
  (∀ (s : State) (sid : StallId) (f : FmtI) (v : Nat), Issues s sid (f.word 0x03#6 0x20#6) →
    noneWaits s sid [f.sd.toNat] → f.rsv = 0#10 → f.sa = 0#5 →
    (f.imm.toNat, v) ∈ [(0, sid.num), (1, (s.stall sid.num).occ.getD 0), (2, s.bell.count % 2 ^ 32),
      (3, issueCy s sid - (s.stall sid.num).segStart), (4, s.bell.lead)] →
      Runs s sid (.rds sid f) ((s.stall sid.num).setS f.sd.toNat (BitVec.ofNat 64 v))) ∧
  (∀ (s : State) (sid : StallId) (f : FmtI), Issues s sid (f.word 0x03#6 0x20#6) →
    noneWaits s sid [f.sd.toNat] → f.rsv = 0#10 → f.sa = 0#5 → 5 ≤ f.imm.toNat → Stops s sid (.rds sid f) 0x0210)

/-- Table STL.4: a conditional branch is taken exactly where its condition holds, to TARGET × 8; otherwise the next word follows. No
register changes. -/
def Sys2Proof.Claim.ConditionalBranches : Prop :=
  ∀ row ∈ branchRows, ∀ (s : State) (sid : StallId) (f : FmtB),
    Issues s sid (f.word 0x01#6 row.2.1) → noneWaits s sid [f.sa.toNat, f.sb.toNat] → f.rsv = 0#27 →
      (row.2.2 ((s.stall sid.num).sreg f.sa.toNat) ((s.stall sid.num).sreg f.sb.toNat) →
        Jumps s sid (row.1 sid f) (s.stall sid.num) (f.target.toNat * 8)) ∧
      (¬ row.2.2 ((s.stall sid.num).sreg f.sa.toNat) ((s.stall sid.num).sreg f.sb.toNat) →
        Runs s sid (row.1 sid f) (s.stall sid.num))

/-- LOOP writes s[SA] less 1 and branches where the difference is not 0, wrapping at 0; JR goes to s[SA][17:0] where it is a multiple
of 8 and stops the stall with 0x0205 where it is not (Table STL.4). -/
def Sys2Proof.Claim.LoopAndJr : Prop :=
  (∀ (s : State) (sid : StallId) (f : FmtB), Issues s sid (f.word 0x01#6 0x08#6) → noneWaits s sid [f.sa.toNat] →
    f.rsv = 0#27 → f.sb = 0#5 →
      ((s.stall sid.num).sreg f.sa.toNat ≠ 1#64 →
        Jumps s sid (.loop sid f) ((s.stall sid.num).setS f.sa.toNat ((s.stall sid.num).sreg f.sa.toNat - 1#64))
          (f.target.toNat * 8)) ∧
      ((s.stall sid.num).sreg f.sa.toNat = 1#64 →
        Runs s sid (.loop sid f) ((s.stall sid.num).setS f.sa.toNat 0#64))) ∧
  (∀ (s : State) (sid : StallId) (f : FmtB), Issues s sid (f.word 0x01#6 0x07#6) → noneWaits s sid [f.sa.toNat] →
    f.rsv = 0#27 → f.target = 0#15 →
      (((s.stall sid.num).sreg f.sa.toNat).toNat % 8 = 0 →
        Jumps s sid (.jr sid f) (s.stall sid.num) (((s.stall sid.num).sreg f.sa.toNat).toNat % 2 ^ 18)) ∧
      (((s.stall sid.num).sreg f.sa.toNat).toNat % 8 ≠ 0 → Stops s sid (.jr sid f) 0x0205))

/-- J goes to TARGET × 8, drops the target's line from the buffer and requests it again, so that the next word issues 4 cy later (R66,
R76). -/
def Sys2Proof.Claim.JumpRefetches : Prop :=
  ∀ (s : State) (sid : StallId) (f : FmtB), Issues s sid (f.word 0x01#6 0x06#6) →
    f.rsv = 0#27 → f.sa = 0#5 → f.sb = 0#5 →
    ∃ t, exec (.j sid f) s = .next t ∧
      Goes s s t sid { s.stall sid.num with fetch := (s.stall sid.num).fetch.filter fun l => l.line ≠ f.target.toNat * 8 / 64 }
        (f.target.toNat * 8) (issueCy s sid + 4) ∧
      (t.stall sid.num).holdsLine (f.target.toNat * 8 / 64) = false ∧
      (f.target.toNat * 8 / 64 < 3072 → (f.target.toNat * 8 / 64, issueCy s sid + 3) ∈ (t.stall sid.num).fetchReq)

/-- NOP changes nothing; FENCE changes nothing and issues only when nothing issued earlier is in flight (until then the command leaves
the machine as it is); BELL.WAIT parks the stall at TARGET once nothing is in flight and fetches
the line of TARGET anew, held or not (R69, R70). -/
def Sys2Proof.Claim.ControlInstructions : Prop :=
  (∀ (s : State) (sid : StallId), Issues s sid 0#64 → Runs s sid (.nop sid ⟨0#36, 0#1, 0#15⟩) (s.stall sid.num)) ∧
  (∀ (s : State) (sid : StallId), Issues s sid 0x0020000000000000#64 →
    ((s.stall sid.num).ops = [] → Runs s sid (.fence sid ⟨0#36, 0#1, 0#15⟩) (s.stall sid.num)) ∧
    ((s.stall sid.num).ops ≠ [] → exec (.fence sid ⟨0#36, 0#1, 0#15⟩) s = .next s)) ∧
  (∀ (s : State) (sid : StallId) (target : BitVec 15), let f : FmtC := ⟨0#36, 0#1, target⟩
    Issues s sid (f.word 0x00#6 0x01#6) →
    ((s.stall sid.num).ops = [] → ∃ t, exec (.bellWait sid f) s = .next t ∧
      Goes s s t sid { s.stall sid.num with
          fetch := (s.stall sid.num).fetch.filter fun l => l.line ≠ target.toNat * 8 / 64
          status := .parked target.toNat false (issueCy s sid) }
        (target.toNat * 8) (issueCy s sid + 1) ∧
      (target.toNat * 8 / 64 < 3072 → (target.toNat * 8 / 64, issueCy s sid + 3) ∈ (t.stall sid.num).fetchReq)) ∧
    ((s.stall sid.num).ops ≠ [] → exec (.bellWait sid f) s = .next s))

/-- BELL.WAIT with E = 1 ends the plan: the stall parks with TARGET 0, and, all its porter slots being FREE, its dispatch waits for one
stall less; while a slot is not FREE the dispatch waits on (R70, R168). -/
def Sys2Proof.Claim.BellWaitEndsPlan : Prop :=
  ∀ (s : State) (sid : StallId), Issues s sid 0x0010000000008000#64 → (s.stall sid.num).ops = [] →
    ∃ t u, exec (.bellWait sid ⟨0#36, 1#1, 0#15⟩) s = .next u ∧
      Goes s s t sid { s.stall sid.num with
          fetch := (s.stall sid.num).fetch.filter fun l => l.line ≠ 0, status := .parked 0 true (issueCy s sid) } 0 (issueCy s sid + 1) ∧
      ((s.port sid.num).allFree = false → u = t) ∧
      ((s.port sid.num).allFree = true → s.dispatches.all (fun d => !(d.running && d.waits.contains sid.num)) = true → u = t) ∧
      ((s.port sid.num).allFree = true → ∀ d, s.dispatches = [d] → d.running = true → d.waits.contains sid.num = true →
        (d.waits.filter (· ≠ sid.num) ≠ [] → u = { t with dispatches := [{ d with waits := d.waits.filter (· ≠ sid.num) }] }) ∧
        (d.waits.filter (· ≠ sid.num) = [] → u.dispatches = []))

/-- A word with an unlisted OP or FN stops the stall with precise 0x0201 (R68). A word that a command spells is not one: the command
leaves the machine as it is. -/
def Sys2Proof.Claim.IllegalWord : Prop :=
  ∀ (s : State) (sid : StallId) (w : Word64), Issues s sid w →
    (decodeWord sid w = none → Stops s sid (.illegalOpcode sid w) 0x0201) ∧
    (decodeWord sid w ≠ none → exec (.illegalOpcode sid w) s = .next s)

/-- A reserved bit set stops the stall with precise 0x0202 and writes nothing (R67): shown for NOP, FENCE, J, ADD, BR.EQ, VLD, REL, TC.GET. -/
def Sys2Proof.Claim.ReservedBitsStop : Prop :=
  ∀ (s : State) (sid : StallId),
    (∀ f : FmtC, f.rsv ≠ 0#36 ∨ f.e ≠ 0#1 ∨ f.target ≠ 0#15 →
      (Issues s sid (f.word 0x00#6 0x00#6) → Stops s sid (.nop sid f) 0x0202) ∧
      (Issues s sid (f.word 0x00#6 0x02#6) → Stops s sid (.fence sid f) 0x0202)) ∧
    (∀ f : FmtB, f.rsv ≠ 0#27 ∨ f.sa ≠ 0#5 ∨ f.sb ≠ 0#5 → Issues s sid (f.word 0x01#6 0x06#6) → Stops s sid (.j sid f) 0x0202) ∧
    (∀ f : AluForm, aluRsvZero f = false → noneWaits s sid (aluSd f :: aluSrcs f) → Issues s sid (f.word 0x00#6) →
      Stops s sid (.add sid f) 0x0202) ∧
    (∀ f : FmtB, f.rsv ≠ 0#27 → noneWaits s sid [f.sa.toNat, f.sb.toNat] → Issues s sid (f.word 0x01#6 0x00#6) →
      Stops s sid (.brEq sid f) 0x0202) ∧
    (∀ f : FmtL, f.rsv ≠ 0#16 → noneWaits s sid [f.sa.toNat] → Issues s sid (f.word 0x04#6 0x00#6) →
      Stops s sid (.vld sid f) 0x0202) ∧
    (∀ f : FmtL, f.rsv ≠ 0#16 ∨ f.sa ≠ 0#5 ∨ f.off ≠ 0#18 → Issues s sid (f.word 0x06#6 0x00#6) →
      Stops s sid (.rel sid f) 0x0202) ∧
    (∀ f : FmtTcGet, f.rsv ≠ 0#42 → noneWaits s sid [f.sd.toNat] → Issues s sid (f.word 0x18#6 0x01#6) →
      Stops s sid (.tcGet sid f) 0x0202)

/-- A stall that may not issue takes no word: with the module not OPEN, held, its die held, its domain fenced, parked or stopped, every
instruction of it leaves the machine as it is (R42, R55). -/
def Sys2Proof.Claim.NoIssueWhileHeld : Prop :=
  ∀ (s : State) (sid : StallId) (i : Instr) (w : Word64), encode i = some w → decodeWord sid w = some i →
    (s.mod.state ≠ 3 ∨ s.bell.held = true ∨ s.fenced sid.num = true ∨ s.heldDies.contains (dieOf sid.num) = true ∨
      (∃ c n, (s.stall sid.num).status = .stopped c n) ∨ (∃ r e n, (s.stall sid.num).status = .parked r e n) ∨
      (s.stall sid.num).status = .idle) →
    exec i s = .next s

/-- A PC past the stock stops the stall with precise 0x0205; a PC whose line the buffer lacks requests that line (R63, R65). -/
def Sys2Proof.Claim.FetchOfTheNextWord : Prop :=
  ∀ (s : State) (sid : StallId) (f : FmtC), s.mayIssue sid.num = true →
    (stockBytes ≤ (s.stall sid.num).pc → Stops s sid (.nop sid f) 0x0205) ∧
    ((s.stall sid.num).pc < stockBytes → (s.stall sid.num).holdsLine ((s.stall sid.num).pc / 64) = false →
      ∃ t, exec (.nop sid f) s = .next t ∧ t.now = issueCy s sid ∧ t.mem = s.mem ∧
        (∀ j, j ≠ sid.num → t.stall j = s.stall j) ∧ (t.stall sid.num).pc = (s.stall sid.num).pc ∧
        (t.stall sid.num).fetchReq.any (fun r => r.1 = (s.stall sid.num).pc / 64) = true)

/-! ## Loads, stores, registers (02_stall.md R72 to R76, R100) -/

/-- VLD and VST issue where their registers and stock lines exist: the access is in flight, its first line due 3 cy (VLD) or 1 cy (VST)
later; LD.S and ST.S likewise after 3 and 2 cy. REL marks its registers EMPTY at once. An offset past stock, or one that is not a
multiple of the access's size, stops the stall with 0x0204, a register past v127 with 0x0203 (Table STL.6, R74, R75). -/
def Sys2Proof.Claim.LoadsAndStoresIssue : Prop :=
  ∀ (s : State) (sid : StallId),
    (∀ f : FmtL, noneWaits s sid [f.sa.toNat] → f.rsv = 0#16 →
      let t := s.stall sid.num
      let off := (t.sreg f.sa.toNat).toNat % 2 ^ 18 + f.off.toNat
      let n := f.n.toNat + 1
      (f.vd.toNat + n ≤ 128 → off % 64 = 0 → off + 64 * n ≤ 196608 →
        (Issues s sid (f.word 0x04#6 0x00#6) → t.vFree (upFrom f.vd.toNat n) = true →
          Runs s sid (.vld sid f) (t.pushOp (issueCy s sid + 3) (.vld f.vd.toNat off n 0))) ∧
        (Issues s sid (f.word 0x04#6 0x01#6) → t.vReady (upFrom f.vd.toNat n) = true →
          Runs s sid (.vst sid f) (t.pushOp (issueCy s sid + 1) (.vst f.vd.toNat off n 0)))) ∧
      (128 < f.vd.toNat + n →
        (Issues s sid (f.word 0x04#6 0x00#6) → Stops s sid (.vld sid f) 0x0203) ∧
        (Issues s sid (f.word 0x04#6 0x01#6) → Stops s sid (.vst sid f) 0x0203)) ∧
      (f.vd.toNat + n ≤ 128 → (off % 64 ≠ 0 ∨ 196608 < off + 64 * n) →
        (Issues s sid (f.word 0x04#6 0x00#6) → Stops s sid (.vld sid f) 0x0204) ∧
        (Issues s sid (f.word 0x04#6 0x01#6) → Stops s sid (.vst sid f) 0x0204))) ∧
    (∀ f : FmtI, noneWaits s sid [f.sa.toNat, f.sd.toNat] → f.rsv = 0#10 →
      let t := s.stall sid.num
      let off := (t.sreg f.sa.toNat + f.imm.signExtend 64).toNat
      (off % 8 = 0 → off < 196608 →
        (Issues s sid (f.word 0x04#6 0x02#6) →
          Runs s sid (.ldS sid f) (t.pushOp (issueCy s sid + 3) (.lds f.sd.toNat off))) ∧
        (Issues s sid (f.word 0x04#6 0x03#6) →
          Runs s sid (.stS sid f) (t.pushOp (issueCy s sid + 2) (.sts off (t.sreg f.sd.toNat))))) ∧
      ((off % 8 ≠ 0 ∨ 196608 ≤ off) →
        (Issues s sid (f.word 0x04#6 0x02#6) → Stops s sid (.ldS sid f) 0x0204) ∧
        (Issues s sid (f.word 0x04#6 0x03#6) → Stops s sid (.stS sid f) 0x0204)))

/-- REL marks v[VD] to v[VD + N] EMPTY and no other register, once nothing in flight reads or writes them (Table STL.6). -/
def Sys2Proof.Claim.RelEmptiesRegisters : Prop :=
  ∀ (s : State) (sid : StallId) (f : FmtL), Issues s sid (f.word 0x06#6 0x00#6) →
    f.rsv = 0#16 → f.sa = 0#5 → f.off = 0#18 → f.vd.toNat + f.n.toNat < 128 →
    (s.stall sid.num).vFree (upFrom f.vd.toNat (f.n.toNat + 1)) = true →
    ∃ u, Runs s sid (.rel sid f) u ∧
      u = { s.stall sid.num with v := u.v, full := u.full } ∧
      (∀ i, f.vd.toNat ≤ i → i ≤ f.vd.toNat + f.n.toNat → u.isFull i = false) ∧
      (∀ i, i < f.vd.toNat ∨ f.vd.toNat + f.n.toNat < i →
        u.isFull i = (s.stall sid.num).isFull i ∧ u.vreg i = (s.stall sid.num).vreg i)

/-- One line of a load: with nothing older in flight on the line and no error, the register takes the stock's line and is FULL; every
other register, and all of memory, is as it was (R72, Table STL.6). -/
def Sys2Proof.Claim.LoadedLineReachesItsRegister : Prop :=
  ∀ (s : State) (sid : StallId) (older : List Op) (seq due pc vd off n j : Nat),
    splitOp (s.stall sid.num).ops seq = some (older, ⟨seq, due, pc, .vld vd off n j⟩) →
    lineClear older (off / 64 + j) false = true → vd + j < 128 →
    ∃ t, exec (.loadStoreComplete sid seq .none) s = .next t ∧
      t = { s with now := max s.now due, stalls := t.stalls } ∧ (∀ i, i ≠ sid.num → t.stall i = s.stall i) ∧
      (t.stall sid.num).vreg (vd + j) = s.line (stockAddr sid.num (64 * (off / 64 + j))) ∧
      (t.stall sid.num).isFull (vd + j) = true ∧
      (∀ i, i ≠ vd + j → (t.stall sid.num).vreg i = (s.stall sid.num).vreg i ∧
        (t.stall sid.num).isFull i = (s.stall sid.num).isFull i) ∧
      (∀ i, (t.stall sid.num).sreg i = (s.stall sid.num).sreg i) ∧
      (t.stall sid.num).status = (s.stall sid.num).status ∧ (t.stall sid.num).pc = (s.stall sid.num).pc ∧
      (n ≤ j + 1 → ∀ o ∈ (t.stall sid.num).ops, o.seq ≠ seq)

/-- One line of a store: the stock's line takes the register, and every byte outside it, and every register, is as it was; ST.S stores
the 8 bytes of the value read at its issue, little-endian; LD.S loads 8 bytes (R75, Table STL.6). -/
def Sys2Proof.Claim.StoresAndScalarAccesses : Prop :=
  ∀ (s : State) (sid : StallId) (older : List Op) (seq due pc : Nat), Memory.wf s.mem = true →
    (∀ vd off n j, splitOp (s.stall sid.num).ops seq = some (older, ⟨seq, due, pc, .vst vd off n j⟩) →
      lineClear older (off / 64 + j) true = true →
      ∃ t, exec (.loadStoreComplete sid seq .none) s = .next t ∧
        t.line (stockAddr sid.num (64 * (off / 64 + j))) = (s.stall sid.num).vreg (vd + j) ∧
        (∀ a, a < stockAddr sid.num (64 * (off / 64 + j)) ∨ stockAddr sid.num (64 * (off / 64 + j)) + 64 ≤ a → t.byte a = s.byte a) ∧
        (∀ i, (t.stall sid.num).vreg i = (s.stall sid.num).vreg i ∧ (t.stall sid.num).isFull i = (s.stall sid.num).isFull i) ∧
        (∀ i, i ≠ sid.num → t.stall i = s.stall i)) ∧
    (∀ off v, splitOp (s.stall sid.num).ops seq = some (older, ⟨seq, due, pc, .sts off v⟩) →
      lineClear older (off / 64) true = true →
      ∃ t, exec (.loadStoreComplete sid seq .none) s = .next t ∧
        t.bytes (stockAddr sid.num off) 8 = leBytes 8 v.toNat ∧
        (∀ a, a < stockAddr sid.num off ∨ stockAddr sid.num off + 8 ≤ a → t.byte a = s.byte a) ∧
        (∀ i, (t.stall sid.num).sreg i = (s.stall sid.num).sreg i) ∧ (∀ i, i ≠ sid.num → t.stall i = s.stall i)) ∧
    (∀ sd off, splitOp (s.stall sid.num).ops seq = some (older, ⟨seq, due, pc, .lds sd off⟩) →
      lineClear older (off / 64) false = true →
      ∃ t, exec (.loadStoreComplete sid seq .none) s = .next t ∧ t.mem = s.mem ∧
        (sd ≠ 0 → (t.stall sid.num).sreg sd = BitVec.ofNat 64 (leNat (s.bytes (stockAddr sid.num off) 8))) ∧
        (∀ i, i ≠ sd → (t.stall sid.num).sreg i = (s.stall sid.num).sreg i) ∧ (t.stall sid.num).sreg 0 = 0#64 ∧
        (∀ i, i ≠ sid.num → t.stall i = s.stall i))

/-- A double-bit stock error delivers nothing and stops the running stall in the cy after with 0x0206; the first single-bit error of a
bell is corrected and reported with 0x0207, a later one only counted (R100), shown for the arrival of an instruction line, which joins
the fetch buffer unless it is uncorrectable (R63). -/
def Sys2Proof.Claim.FetchedLineAndStockErrors : Prop :=
  ∀ (s : State) (sid : StallId) (l due : Nat) (rest : List (Nat × Nat)),
    (s.stall sid.num).fetchReq = (l, due) :: rest →
    (∃ t, exec (.fetchLineArrival sid .none) s = .next t ∧ t = { s with now := max s.now due, stalls := t.stalls } ∧
      (∀ i, i ≠ sid.num → t.stall i = s.stall i) ∧
      t.stall sid.num = { s.stall sid.num with fetchReq := rest, fetch := (t.stall sid.num).fetch } ∧
      ⟨l, s.line (stockAddr sid.num (64 * l))⟩ ∈ (t.stall sid.num).fetch ∧
      ((s.stall sid.num).fetch.length ≤ 8 → (t.stall sid.num).fetch.length ≤ 8)) ∧
    (∃ t, exec (.fetchLineArrival sid .double) s = .next t ∧
      (t.stall sid.num).fetch = (s.stall sid.num).fetch ∧ (t.stall sid.num).fetchReq = rest ∧
      ((s.stall sid.num).status = .running → (t.stall sid.num).status = .stopped 0x0206 (max s.now due + 1)) ∧
      t.inc.log = ⟨0x0206, dieOf sid.num, (s.stall sid.num).occ, sid.num, (s.stall sid.num).pc, s.bell.count, []⟩ :: s.inc.log ∧
      t.mem = s.mem) ∧
    (∃ t, exec (.fetchLineArrival sid .single) s = .next t ∧
      (t.stall sid.num).eccBell = true ∧ (t.stall sid.num).eccCount = (s.stall sid.num).eccCount + 1 ∧
      (t.stall sid.num).status = (s.stall sid.num).status ∧
      ((s.stall sid.num).eccBell = true → t.inc.log = s.inc.log) ∧
      ((s.stall sid.num).eccBell = false → t.inc.log =
        ⟨0x0207, dieOf sid.num, (s.stall sid.num).occ, sid.num, (s.stall sid.num).pc, s.bell.count, []⟩ :: s.inc.log))

/-! ## Turn buffers and tile configuration (R87 to R89, R136 to R138) -/

/-- TRN.LD and TRN.RD issue where their rows lie in stock, or their elements in a row and their output in the registers; outside that
they stop the stall with 0x0204 and 0x0209 (R89, Table STL.9). -/
def Sys2Proof.Claim.TurnBuffersIssue : Prop :=
  ∀ (s : State) (sid : StallId),
    (∀ f : FmtTLd, Issues s sid (f.word 0x05#6 0x00#6) → noneWaits s sid [f.sa.toNat] → f.rsv = 0#17 →
      let t := s.stall sid.num
      let off := (t.sreg f.sa.toNat).toNat % 2 ^ 18
      let rows := f.rows.toNat + 1
      let len := 8 * (f.len.toNat + 1)
      (off % 8 = 0 → f.stride.toNat % 8 = 0 → off + f.rows.toNat * f.stride.toNat + len ≤ 196608 → t.turnFree f.tb.toNat = true →
        Runs s sid (.trnLd sid f) (t.pushOp (issueCy s sid + ceilDiv (rows * len) 128 + 3)
          (.trnLd f.tb.toNat off rows len f.stride.toNat))) ∧
      (off % 8 ≠ 0 ∨ f.stride.toNat % 8 ≠ 0 ∨ 196608 < off + f.rows.toNat * f.stride.toNat + len →
        Stops s sid (.trnLd sid f) 0x0204)) ∧
    (∀ f : FmtTRd, Issues s sid (f.word 0x05#6 0x01#6) → f.rsv = 0#27 →
      let t := s.stall sid.num
      let rows := f.rows.toNat + 1
      let cols := f.cols.toNat + 1
      let w := 4 * 2 ^ f.w.toNat
      let n := ceilDiv (rows * cols * w) 512
      (cols * w ≤ 1024 → f.vd.toNat + n ≤ 128 → t.turnFree f.tb.toNat = true → t.vFree (upFrom f.vd.toNat n) = true →
        Runs s sid (.trnRd sid f) (t.pushOp (issueCy s sid + 4 + ceilDiv (rows * cols * w) 1024)
          (.trnRd f.tb.toNat f.vd.toNat w rows cols))) ∧
      (1024 < cols * w ∨ 128 < f.vd.toNat + n → Stops s sid (.trnRd sid f) 0x0209))

/-- A turn buffer's transfer ends: a TRN.LD has put the stock's bytes at the start of each row and kept the rest of the row; a TRN.RD
writes the transposed elements, element (r, c) at position c × rows + r of the output (R87, R88). -/
def Sys2Proof.Claim.TurnBufferTransposes : Prop :=
  ∀ (s : State) (sid : StallId) (older : List Op) (seq due pc : Nat),
    (∀ tb off rows len stride, splitOp (s.stall sid.num).ops seq = some (older, ⟨seq, due, pc, .trnLd tb off rows len stride⟩) →
      tb < 2 → rows ≤ 128 →
      (OpKind.lineReads (.trnLd tb off rows len stride)).all (fun l => lineClear older l false) = true →
      ∃ t, exec (.turnBufferComplete sid seq .none) s = .next t ∧ t.mem = s.mem ∧
        (∀ r, r < rows → (t.stall sid.num).turnRow tb r =
          leNat (s.bytes (stockAddr sid.num (off + r * stride)) len) +
            2 ^ (8 * len) * ((s.stall sid.num).turnRow tb r / 2 ^ (8 * len))) ∧
        (∀ r, rows ≤ r → r < 128 → (t.stall sid.num).turnRow tb r = (s.stall sid.num).turnRow tb r) ∧
        (∀ i, (t.stall sid.num).vreg i = (s.stall sid.num).vreg i)) ∧
    (∀ tb vd w rows cols, splitOp (s.stall sid.num).ops seq = some (older, ⟨seq, due, pc, .trnRd tb vd w rows cols⟩) →
      0 < w → vd + ceilDiv (rows * cols * w) 512 ≤ 128 →
      ∃ t, exec (.turnBufferComplete sid seq .none) s = .next t ∧ t.mem = s.mem ∧
        (∀ r c, r < rows → c < cols →
          bitsAt ((t.stall sid.num).regsNat vd (ceilDiv (rows * cols * w) 512)) (w * (c * rows + r)) w
            = bitsAt ((s.stall sid.num).turnRow tb r) (w * c) w) ∧
        (∀ i, vd ≤ i → i < vd + ceilDiv (rows * cols * w) 512 → (t.stall sid.num).isFull i = true) ∧
        (∀ i, i < vd ∨ vd + ceilDiv (rows * cols * w) 512 ≤ i → (t.stall sid.num).vreg i = (s.stall sid.num).vreg i))

/-- TC.SET writes the entry from s[SB] (upper half) and s[SA] once no matrix instruction in flight uses it, and stops the stall with
0x0301 for a value with a reserved bit or a format code above 8; TC.GET reads the half that H selects (Table TILE.2, R137, R138). -/
def Sys2Proof.Claim.TileConfiguration : Prop :=
  ∀ (s : State) (sid : StallId),
    (∀ f : FmtTcSet, Issues s sid (f.word 0x18#6 0x00#6) → noneWaits s sid [f.sa.toNat, f.sb.toNat] → f.rsv = 0#38 →
      let t := s.stall sid.num
      let v := (t.sreg f.sa.toNat).toNat + 2 ^ 64 * (t.sreg f.sb.toNat).toNat
      (v / 64 % 4 = 0 → v < 2 ^ 49 → v / 2 % 16 ≤ 8 → (t.ops.all fun o => !o.kind.usesTc f.t.toNat) = true →
        Runs s sid (.tcSet sid f) { t with tc := tput t.tc f.t.toNat (BitVec.ofNat 128 v) }) ∧
      (v / 64 % 4 ≠ 0 ∨ 2 ^ 49 ≤ v ∨ 8 < v / 2 % 16 → Stops s sid (.tcSet sid f) 0x0301)) ∧
    (∀ f : FmtTcGet, Issues s sid (f.word 0x18#6 0x01#6) → noneWaits s sid [f.sd.toNat] → f.rsv = 0#42 →
      let t := s.stall sid.num
      Runs s sid (.tcGet sid f) (t.setS f.sd.toNat (BitVec.ofNat 64
        (if f.h = 0#1 then (t.tcReg f.t.toNat).toNat else (t.tcReg f.t.toNat).toNat / 2 ^ 64))))

/-! ## Matrix instructions and accumulators (02_stall.md R77 to R86, 04_tile_ops.md R139 to R161) -/
namespace Sys2Proof.Claim

/-- Table STL.8: the eight matrix instructions and their FMT values. -/
def matrixRows : List ((StallId → FmtM → Instr) × Nat) :=
  [(.mmH16, 0), (.mmQ8f, 1), (.mmQ8g, 2), (.mmQ8fg, 3), (.mmQ8gf, 4), (.mmI8, 5), (.mmQ4, 6), (.mmI4, 7)]

/-- The first cy of array work of a matrix instruction issued in cy `i` on a lone stall: 5 cy later, 1 where the latch that served the
previous pass is reused, and not before the array is free (R82, R83). -/
def matrixStart (i arrEnd : Nat) (reuse : Bool) : Nat := max (i + 1 + if reuse then 0 else 4) arrEnd

end Sys2Proof.Claim

/-- Each matrix instruction on a stall outside every bound square: where its entries, shape and registers pass the checks of Table
TILE.3, its operands are FULL, its gate is open (the tally at the gate count, or saturated) and no accumulator move touches its bank, it issues; it then is in flight until its last
accumulator write, its latches hold the last weight blocks, and its gate count has gone up by 1 where GEN = 1. Where a check fails the
stall stops with the lowest code among those that fail (R106). -/
def Sys2Proof.Claim.MatrixInstructionsIssue : Prop :=
  ∀ row ∈ matrixRows, ∀ (s : State) (sid : StallId) (f : FmtM), s.squareOf sid.num = none →
    Issues s sid (f.word (BitVec.ofNat 4 row.2)) →
    let t := s.stall sid.num
    let x := matOf row.2 f t
    let causes := matCauses row.2 f false ((s.port sid.num).tally f.gate.toNat).orph x
    (lowestCode causes = none →
      t.vReady (x.aRegs ++ x.wRegs ++ x.aScaleRegs ++ x.wScaleRegs) = true →
      (f.gen = 1#1 → ((s.port sid.num).tally f.gate.toNat).sat = true ∨
        t.gate f.gate.toNat ≤ ((s.port sid.num).tally f.gate.toNat).value) → t.banksFree f.bank.toNat x.a.na = true →
      ∃ u, Runs s sid (row.1 sid f) u ∧
        (∃ o, u.ops = t.ops ++ [o] ∧ o.kind.isMm = true ∧ o.seq = t.opSeq ∧
          o.due = matrixStart (issueCy s sid) t.arrEnd (t.reuses f x) + 16 * x.p + 17 ∧
          o.kind.vReads = x.aRegs ++ x.wRegs ++ x.aScaleRegs ++ x.wScaleRegs) ∧
        u.arrEnd = matrixStart (issueCy s sid) t.arrEnd (t.reuses f x) + 16 * x.p ∧
        (∀ i, u.gate i = if f.gen = 1#1 ∧ i = f.gate.toNat then (t.gate i + 1) % 2 ^ 32 else t.gate i) ∧
        u = { t with ops := u.ops, opSeq := t.opSeq + 1, arrEnd := u.arrEnd, latch := u.latch, gates := u.gates }) ∧
    (∀ c, lowestCode causes = some c → Stops s sid (row.1 sid f) c)

/-- The oldest matrix instruction in flight retires: in the bank it names, and in no other, every element of its extent is the sum over
its positions in ascending k, from the element it held, or from 0 under MODE 01 or in an EMPTY bank; elements outside the extent keep
their value; no register changes (R83, R85, R119, R142). -/
def Sys2Proof.Claim.MatrixRetires : Prop :=
  ∀ (s : State) (sid : StallId) (o : Op) (fmt bank mode na m n K d b0 p : Nat) (tp sga sgw : Bool) (tcs regs : List Nat)
      (act wt : List (List Line)) (aS wS : List Line),
    (s.stall sid.num).ops.find? (fun o => o.kind.isMm) = some o →
    o.kind = .mm fmt bank mode na m n K d b0 p tp sga sgw tcs regs act wt aS wS → bank < 2 → 0 < m → 0 < n →
    ∃ t, exec (.matrixRetire sid) s = .next t ∧ t = { s with now := max s.now o.due, stalls := t.stalls } ∧
      (∀ j, j ≠ sid.num → t.stall j = s.stall j) ∧
      t.stall sid.num = { s.stall sid.num with acc := (t.stall sid.num).acc, ops := (s.stall sid.num).ops.filter fun x => x.seq ≠ o.seq } ∧
      (∀ a, a ≤ na → ((t.stall sid.num).bank a bank).held = true ∧
        (∀ r c, r < min m 16 → c < min n 16 → ((t.stall sid.num).bank a bank).elem (16 * r + c) =
          mmElem fmt sga sgw tp K d b0 p act wt aS wS a r c
            (if mode = 1 then 0#32 else ((s.stall sid.num).bank a bank).elem (16 * r + c))) ∧
        (mode ≠ 1 → ∀ r c, r < 16 → c < 16 → (min m 16 ≤ r ∨ min n 16 ≤ c) →
          ((t.stall sid.num).bank a bank).elem (16 * r + c) = ((s.stall sid.num).bank a bank).elem (16 * r + c)) ∧
        (mode = 1 → ∀ r c, r < 16 → c < 16 → (min m 16 ≤ r ∨ min n 16 ≤ c) →
          ((t.stall sid.num).bank a bank).elem (16 * r + c) = 0#32)) ∧
      (∀ a b, b < 2 → (b ≠ bank ∨ na < a) → (t.stall sid.num).bank a b = (s.stall sid.num).bank a b)

/-- ACC.RD and ACC.WR issue for the arrays that AM names, once no earlier matrix instruction on their bank and no accumulator move is in
flight; AM = 0 or registers past v127 stop the stall with 0x0203, an unknown format code of ACC.RD with 0x0210 (R80, R84). -/
def Sys2Proof.Claim.AccumulatorMovesIssue : Prop :=
  ∀ (s : State) (sid : StallId) (f : FmtA),
    let t := s.stall sid.num
    let arrays := arraysOf f.am.toNat
    (Issues s sid (f.word 0x13#6 0x00#6) → f.rsv = 0#37 →
      (∀ g, Fmt.ofCode f.cf.toNat = some g →
        (arrays ≠ [] → 4 * f.qd.toNat + accOutRegs g * arrays.length ≤ 128 →
          t.accReady f.bank.toNat arrays = true → t.vFree (upFrom (4 * f.qd.toNat) (accOutRegs g * arrays.length)) = true →
          Runs s sid (.accRd sid f) (t.pushOp (issueCy s sid + 4 * arrays.length + 2)
            (.accRd f.qd.toNat arrays f.bank.toNat (f.clr = 1#1) g))) ∧
        (arrays = [] ∨ 128 < 4 * f.qd.toNat + accOutRegs g * arrays.length → Stops s sid (.accRd sid f) 0x0203)) ∧
      (Fmt.ofCode f.cf.toNat = none → arrays ≠ [] → Stops s sid (.accRd sid f) 0x0210)) ∧
    (Issues s sid (f.word 0x13#6 0x01#6) → f.rsv = 0#37 → f.cf = 0#4 → f.clr = 0#1 →
      (arrays ≠ [] → 4 * f.qd.toNat + 16 * arrays.length ≤ 128 → t.accReady f.bank.toNat arrays = true →
        t.vReady (upFrom (4 * f.qd.toNat) (16 * arrays.length)) = true →
        Runs s sid (.accWr sid f) (t.pushOp (issueCy s sid + 4 * arrays.length + 1) (.accWr f.qd.toNat arrays f.bank.toNat))) ∧
      (arrays = [] ∨ 128 < 4 * f.qd.toNat + 16 * arrays.length → Stops s sid (.accWr sid f) 0x0203))

/-- An accumulator move retires: ACC.WR fills the bank of each array it names, HELD, with the 256 values of 16 registers and changes no
register; ACC.RD of one array writes the bank's image in the format, makes those registers FULL and changes no other, and leaves every
bank as it was with CLR = 0, its own bank EMPTY with CLR = 1 (Table STL.7, R84, R85). -/
def Sys2Proof.Claim.AccumulatorMovesRetire : Prop :=
  ∀ (s : State) (sid : StallId) (seq due pc a bank qd : Nat), a < 4 → bank < 2 →
    (4 * qd + 16 ≤ 128 → (s.stall sid.num).ops = [⟨seq, due, pc, .accWr qd [a] bank⟩] →
      ∃ t, exec (.accMoveRetire sid) s = .next t ∧ t = { s with now := max s.now due, stalls := t.stalls } ∧
        (∀ j, j ≠ sid.num → t.stall j = s.stall j) ∧ (t.stall sid.num).ops = [] ∧
        ((t.stall sid.num).bank a bank).held = true ∧
        (∀ i, i < 256 → ((t.stall sid.num).bank a bank).elem i =
          BitVec.ofNat 32 (bitsAt ((s.stall sid.num).vreg (4 * qd + i / 16)).toNat (32 * (i % 16)) 32)) ∧
        (∀ i, (t.stall sid.num).vreg i = (s.stall sid.num).vreg i) ∧
        (∀ a' b, b < 2 → (a' ≠ a ∨ b ≠ bank) → (t.stall sid.num).bank a' b = (s.stall sid.num).bank a' b)) ∧
    (∀ clr g, 4 * qd + accOutRegs g ≤ 128 → (s.stall sid.num).ops = [⟨seq, due, pc, .accRd qd [a] bank clr g⟩] →
      ∃ t, exec (.accMoveRetire sid) s = .next t ∧ t = { s with now := max s.now due, stalls := t.stalls } ∧
        (∀ j, j ≠ sid.num → t.stall j = s.stall j) ∧ (t.stall sid.num).ops = [] ∧
        (∀ i, i < accOutRegs g → (t.stall sid.num).isFull (4 * qd + i) = true ∧
          (accImage g ((upFrom 0 256).map ((s.stall sid.num).bank a bank).elem))[i]? = some ((t.stall sid.num).vreg (4 * qd + i))) ∧
        (∀ i, i < 4 * qd ∨ 4 * qd + accOutRegs g ≤ i → (t.stall sid.num).vreg i = (s.stall sid.num).vreg i ∧
          (t.stall sid.num).isFull i = (s.stall sid.num).isFull i) ∧
        (clr = false → ∀ a' b, b < 2 → (t.stall sid.num).bank a' b = (s.stall sid.num).bank a' b) ∧
        (clr = true → ((t.stall sid.num).bank a bank).held = false ∧
          ∀ a' b, b < 2 → (a' ≠ a ∨ b ≠ bank) → (t.stall sid.num).bank a' b = (s.stall sid.num).bank a' b))

/-- The square's decision (R155 to R158): with every stall of the square running and READY, no stop, and no HOLD of the module or hold of
the die that latches by the cy of issue, GO issues the matrix
instruction in every stall where all hold one word and one set of entries; where two differ GO is withheld, 0x0309 names a differing
stall, and every stall of the square that is not stopped stops with it. -/
def Sys2Proof.Claim.SquareDecides : Prop :=
  ∀ (s : State) (die : Fin 16) (q : Square) (w last fmt : Nat) (f : FmtM), s.bell.held = false →
    s.heldDies.contains q.die = false → (∀ x ∈ s.bell.symbols, x.kind = .hold → last + 11 < x.latch) →
    s.squareAt die.val q.x0 q.y0 = some q → q.die = die.val → isOrigin q.x0 q.y0 = true → q.stop = none →
    (∀ k ∈ q.stalls, (s.stall k).status = .running ∧ (s.stall k).ready = some (w, last)) →
    fmt < 8 → f.word (BitVec.ofNat 4 fmt) = BitVec.ofNat 64 w →
    let entries := fun k => [(s.stall k).tcReg f.tca.toNat, (s.stall k).tcReg f.tcw.toNat, (s.stall k).tcReg f.tcd.toNat]
    ((∀ k ∈ q.stalls, entries k = entries (q.at_ 0 0)) →
      ∃ t, exec (.squareGo die q.x0 q.y0) s = .next t ∧ t.now = max s.now (last + 11) ∧ t.mem = s.mem ∧ t.inc = s.inc ∧
        (∀ k ∈ q.stalls, (t.stall k).ready = none ∧ (t.stall k).status = .running ∧
          (t.stall k).pc = (s.stall k).pc + 8 ∧ (t.stall k).nextIssue = max s.now (last + 11) + 1 ∧
          (t.stall k).ops.length = (s.stall k).ops.length + 1 ∧ (t.stall k).v = (s.stall k).v ∧ (t.stall k).acc = (s.stall k).acc) ∧
        (∀ k, k ∉ q.stalls → t.stall k = s.stall k)) ∧
    ((∃ k ∈ q.stalls, entries k ≠ entries (q.at_ 0 0)) →
      ∃ t, exec (.squareGo die q.x0 q.y0) s = .next t ∧
        (∀ k ∈ q.stalls, (t.stall k).status = .stopped 0x0309 (max s.now (last + 11)) ∧ (t.stall k).ready = none ∧
          (t.stall k).pc = (s.stall k).pc) ∧
        (∃ i r, t.inc.log = i :: r ∧ i.code = 0x0309 ∧ i.whre ∈ q.stalls ∧ r = s.inc.log))

/-- STOP on the square's tree (R157): a stall of the square has stopped, the square has not, and no GO has been decided: every other stall of it stops 12 cy
later, the stopped one keeps its cause, and 0x030A names it. -/
def Sys2Proof.Claim.SquareStops : Prop :=
  ∀ (s : State) (die : Fin 16) (q : Square) (k0 c cy : Nat), s.squareAt die.val q.x0 q.y0 = some q →
    isOrigin q.x0 q.y0 = true → q.stop = none → s.squareGoCy q = none → k0 ∈ q.stalls → (s.stall k0).status = .stopped c cy →
    (∀ k ∈ q.stalls, k ≠ k0 → (s.stall k).status = .running) →
    ∃ t, exec (.squareMemberStop die q.x0 q.y0) s = .next t ∧ t.mem = s.mem ∧
      (t.stall k0) = s.stall k0 ∧
      (∀ k ∈ q.stalls, k ≠ k0 → (t.stall k).status = .stopped 0x030A (max s.now (cy + 12)) ∧ (t.stall k).ready = none) ∧
      (∀ k, k ∉ q.stalls → t.stall k = s.stall k) ∧
      (∃ i, t.inc.log = i :: s.inc.log ∧ i.code = 0x030A ∧ i.whre = k0)

/-! ## The vector unit, the price board and the scales (R90 to R98, 03_formats.md R116 to R134) -/
namespace Sys2Proof.Claim

/-- Functions of lanes a and b: command, FN, latency in cy, the function of one lane (Table STL.10). -/
def vector2Rows : List ((StallId → FmtV → Instr) × BitVec 6 × Nat × (Word32 → Word32 → Word32)) :=
  [(.vadd, 0x00#6, 4, fAdd), (.vsub, 0x01#6, 4, fSub), (.vmul, 0x02#6, 4, fMul), (.vmax, 0x05#6, 2, fMax),
   (.vmin, 0x06#6, 2, fMin), (.vcmplt, 0x0A#6, 2, fLt), (.vcmpeq, 0x0B#6, 2, fEq)]

/-- Functions of lanes a, b and c. -/
def vector3Rows : List ((StallId → FmtV → Instr) × BitVec 6 × Nat × (Word32 → Word32 → Word32 → Word32)) :=
  [(.vfma, 0x03#6, 4, fFma), (.vfnma, 0x04#6, 4, fun a b c => fFma (fNeg a) b c),
   (.vsel, 0x09#6, 2, fun a b c => canon (if isZero32 c then b else a))]

/-- Functions of lane a alone; VRSUM puts the sum of the fixed tree in lane 0 and zeros in the others. -/
def vector1Rows : List ((StallId → FmtV → Instr) × BitVec 6 × Nat × (List Word32 → List Word32)) :=
  [(.vabs, 0x07#6, 2, List.map fAbs), (.vneg, 0x08#6, 2, List.map fNeg),
   (.vrsum, 0x0C#6, 8, fun l => treeSum l :: List.replicate 63 0#32)]

/-- The instruction in flight that will write 64 lanes to a quad. -/
def quadOp (qd : Nat) (lanes : List Word32) : OpKind :=
  .vec (zipW (fun i l => (i, l)) (quadRegs qd) (linesOfLanes lanes)) none (some qd) lanes

end Sys2Proof.Claim

/-- Each function of the vector unit issues once its source quads are FULL and nothing in flight uses its destination; the result of its
lanes is then in flight to quad QD, due after the function's latency (Table STL.10, R90). -/
def Sys2Proof.Claim.VectorFunctionsIssue : Prop :=
  ∀ (s : State) (sid : StallId) (f : FmtV), let t := s.stall sid.num
    t.vFree (quadRegs f.qd.toNat) = true → t.vReady (quadRegs f.qa.toNat) = true →
    (t.vReady (operandBRegs f) = true → noneWaits s sid (operandBS f) →
      (∀ row ∈ vector2Rows, Issues s sid (f.word 0x10#6 row.2.1) → vUnused f true true false true false false = false →
        Runs s sid (row.1 sid f) (t.pushOp (issueCy s sid + row.2.2.1)
          (quadOp f.qd.toNat (zipW row.2.2.2 (t.lanes f.qa.toNat) (operandB t f))))) ∧
      (t.vReady (quadRegs f.qc.toNat) = true → ∀ row ∈ vector3Rows, Issues s sid (f.word 0x10#6 row.2.1) →
        vUnused f true true true true false false = false →
        Runs s sid (row.1 sid f) (t.pushOp (issueCy s sid + row.2.2.1)
          (quadOp f.qd.toNat (zipW3 row.2.2.2 (t.lanes f.qa.toNat) (operandB t f) (t.lanes f.qc.toNat)))))) ∧
    (∀ row ∈ vector1Rows, Issues s sid (f.word 0x10#6 row.2.1) → vUnused f true false false false false false = false →
      Runs s sid (row.1 sid f) (t.pushOp (issueCy s sid + row.2.2.1) (quadOp f.qd.toNat (row.2.2.2 (t.lanes f.qa.toNat)))))

/-- What IEEE 754 leaves open (R117): VABS and VNEG change bit 31 alone, in every code; a comparison gives 1.0 or 0.0, and 0.0 where an
operand is a NaN; zeros of either sign are equal; VMAX and VMIN give the other operand where one is a NaN and the canonical NaN where
both are; a sum, product or fused operation with a NaN operand is the canonical NaN (R116). -/
def Sys2Proof.Claim.LaneArithmetic : Prop :=
  ∀ a b c : Word32,
    (∀ i, i < 31 → (fAbs a).getLsbD i = a.getLsbD i ∧ (fNeg a).getLsbD i = a.getLsbD i) ∧
    (fAbs a).getLsbD 31 = false ∧ (fNeg a).getLsbD 31 = !a.getLsbD 31 ∧
    (fLt a b = 0x3F800000#32 ∨ fLt a b = 0#32) ∧ (fEq a b = 0x3F800000#32 ∨ fEq a b = 0#32) ∧
    fEq 0#32 0x80000000#32 = 0x3F800000#32 ∧ fLt 0x80000000#32 0#32 = 0#32 ∧
    (isNaN32 a = true → fLt a b = 0#32 ∧ fLt b a = 0#32 ∧ fEq a b = 0#32 ∧ fEq b a = 0#32 ∧
      fAdd a b = 0x7FC00000#32 ∧ fAdd b a = 0x7FC00000#32 ∧ fSub a b = 0x7FC00000#32 ∧ fSub b a = 0x7FC00000#32 ∧
      fMul a b = 0x7FC00000#32 ∧ fMul b a = 0x7FC00000#32 ∧
      fFma a b c = 0x7FC00000#32 ∧ fFma b a c = 0x7FC00000#32 ∧ fFma b c a = 0x7FC00000#32 ∧
      (isNaN32 b = false → fMax a b = b ∧ fMax b a = b ∧ fMin a b = b ∧ fMin b a = b) ∧
      (isNaN32 b = true → fMax a b = 0x7FC00000#32 ∧ fMin a b = 0x7FC00000#32))

/-- VEXT takes one lane of a quad, zero-extended, to a scalar register 2 cy later; VINS rewrites one lane of a quad from the low half of
a scalar register and keeps the other 15 lanes of that register; the two conversions take 64 lanes to and from a format after 4 cy; an
unknown format or rounding, or a scale of 32 or more, stops the stall with 0x0210 (Table STL.10, R92, R93). -/
def Sys2Proof.Claim.LaneMovesAndConversionsIssue : Prop :=
  ∀ (s : State) (sid : StallId) (f : FmtV), let t := s.stall sid.num
    (Issues s sid (f.word 0x10#6 0x0E#6) → noneWaits s sid [f.qd.toNat] → vUnused f true false false false false true = false →
      t.vReady [4 * f.qa.toNat + f.lane.toNat / 16] = true →
      Runs s sid (.vext sid f) (t.pushOp (issueCy s sid + 2)
        (.vec [] (some (f.qd.toNat, ((t.lanes f.qa.toNat).getD f.lane.toNat 0#32).setWidth 64)) none []))) ∧
    (Issues s sid (f.word 0x10#6 0x0F#6) → noneWaits s sid [f.qb.toNat] → vUnused f false true false false false true = false →
      let r := 4 * f.qd.toNat + f.lane.toNat / 16
      t.vReady [r] = true → t.vFree [r] = true →
      ∃ l : Line, (∀ i, i < 16 → bitsAt l.toNat (32 * i) 32 =
          if i = f.lane.toNat % 16 then (t.sreg f.qb.toNat).toNat % 2 ^ 32 else bitsAt (t.vreg r).toNat (32 * i) 32) ∧
        Runs s sid (.vins sid f) (t.pushOp (issueCy s sid + 2)
          (.vec [(r, l)] none (some f.qd.toNat) [(t.sreg f.qb.toNat).setWidth 32]))) ∧
    (∀ g r, Fmt.ofCode f.qc.toNat = some g → Rnd.ofRM f.rm.toNat = some r → vUnused f true false true false true true = false →
      (f.sen = 1#1 → f.lane.toNat < 32) → (f.sen = 0#1 → f.lane = 0#6) →
      (Issues s sid (f.word 0x10#6 0x10#6) → t.vReady (quadRegs f.qa.toNat) = true →
        t.vFree (upFrom (4 * f.qd.toNat) (packRegs g)) = true →
        Runs s sid (.vcvtTo sid f) (t.pushOp (issueCy s sid + 4)
          (.vec (zipW (fun i l => (i, l)) (upFrom (4 * f.qd.toNat) (packRegs g)) (cvtImage g r (cvtExp t f g) (t.lanes f.qa.toNat)))
            none (some f.qd.toNat) (t.lanes f.qa.toNat)))) ∧
      (Issues s sid (f.word 0x10#6 0x11#6) → t.vReady (upFrom (4 * f.qa.toNat) (packRegs g)) = true →
        t.vFree (quadRegs f.qd.toNat) = true →
        Runs s sid (.vcvtFrom sid f) (t.pushOp (issueCy s sid + 4)
          (quadOp f.qd.toNat (cvtLanes g r (cvtExp t f g) (t.regsNat (4 * f.qa.toNat) (packRegs g))))))) ∧
    (vUnused f true false true false true true = false → (f.sen = 0#1 → f.lane = 0#6) →
      (Fmt.ofCode f.qc.toNat = none ∨ f.rm = 3#2 ∨ (f.sen = 1#1 ∧ 32 ≤ f.lane.toNat)) →
      (Issues s sid (f.word 0x10#6 0x10#6) → Stops s sid (.vcvtTo sid f) 0x0210) ∧
      (Issues s sid (f.word 0x10#6 0x11#6) → Stops s sid (.vcvtFrom sid f) 0x0210))

/-- The next result of a vector unit or of a price board is written: the quad reads the 64 lanes and is FULL, every other register is as
it was; a scale attached to the quad sees the lanes and no other scale changes (R90, R94, R97). -/
def Sys2Proof.Claim.QuadResultsAreWritten : Prop :=
  ∀ (s : State) (sid : StallId) (seq due pc qd : Nat) (lanes : List Word32), lanes.length = 64 → qd < 32 →
    let regs := zipW (fun i l => (i, l)) (quadRegs qd) (linesOfLanes lanes)
    let written := fun (t : State) =>
      t = { s with now := max s.now due, stalls := t.stalls } ∧ (∀ j, j ≠ sid.num → t.stall j = s.stall j) ∧
      (t.stall sid.num).lanes qd = lanes ∧ (∀ i ∈ quadRegs qd, (t.stall sid.num).isFull i = true) ∧
      (∀ i, i ∉ quadRegs qd → (t.stall sid.num).vreg i = (s.stall sid.num).vreg i ∧
        (t.stall sid.num).isFull i = (s.stall sid.num).isFull i) ∧
      (∀ i, (t.stall sid.num).sreg i = (s.stall sid.num).sreg i) ∧
      (∀ i c, tfind (s.stall sid.num).scales i = some c → tfind (t.stall sid.num).scales i =
        some (if c.watchesQuad qd then { c with amax := (lanes.map unpack32).foldl scaleSee c.amax } else c)) ∧
      (t.stall sid.num).ops = (s.stall sid.num).ops.filter fun o => o.seq ≠ seq
    (firstDue (fun k => match k with
        | .vec .. => true
        | _ => false) (s.stall sid.num).ops = some ⟨seq, due, pc, .vec regs none (some qd) lanes⟩ →
      ∃ t, exec (.vectorWriteback sid) s = .next t ∧ written t) ∧
    (firstDue (fun k => match k with
        | .pb .. => true
        | _ => false) (s.stall sid.num).ops = some ⟨seq, due, pc, .pb regs qd lanes⟩ →
      ∃ t, exec (.priceBoardResult sid) s = .next t ∧ written t)

/-- PB.F and PB.D issue once their quads are ready and the board has taken the last quad 2 cy before; their result, the slot's function
of each of the 64 lanes, is due 12 cy later: PB.F of a loaded user slot takes the slot's table; PB.F of a user slot that nothing has
loaded, and PB.D of any user slot, stop the stall with 0x0208. PB.LD of a user slot issues where its image is sound, with nothing in
flight storing to it (R94 to R96). -/
def Sys2Proof.Claim.PriceBoardIssues : Prop :=
  ∀ (s : State) (sid : StallId) (f : FmtV), f.lane.toNat < 16 → let t := s.stall sid.num
    let enters := fun lanes => { t with pbNext := issueCy s sid + 2 }.pushOp (issueCy s sid + 12)
      (.pb (zipW (fun i l => (i, l)) (quadRegs f.qd.toNat) (linesOfLanes lanes)) f.qd.toNat lanes)
    (vUnused f true false false false false true = false →
      (t.vReady (quadRegs f.qa.toNat) = true → t.vFree (quadRegs f.qd.toNat) = true → t.pbNext ≤ issueCy s sid →
        (f.lane.toNat < 12 →
          (t.slotLoading f.lane.toNat = false → Issues s sid (f.word 0x12#6 0x00#6) →
            Runs s sid (.pbF sid f) (enters ((t.lanes f.qa.toNat).map (priceF f.lane.toNat)))) ∧
          (Issues s sid (f.word 0x12#6 0x01#6) →
            Runs s sid (.pbD sid f) (enters ((t.lanes f.qa.toNat).map (priceD f.lane.toNat))))) ∧
        (12 ≤ f.lane.toNat → t.slotLoading f.lane.toNat = false → ∀ u, tfind t.user f.lane.toNat = some u →
          Issues s sid (f.word 0x12#6 0x00#6) → Runs s sid (.pbF sid f) (enters ((t.lanes f.qa.toNat).map (userVal u))))) ∧
      (12 ≤ f.lane.toNat → (Issues s sid (f.word 0x12#6 0x01#6) → Stops s sid (.pbD sid f) 0x0208) ∧
        (tfind t.user f.lane.toNat = none → t.slotLoading f.lane.toNat = false → Issues s sid (f.word 0x12#6 0x00#6) →
          Stops s sid (.pbF sid f) 0x0208))) ∧
    (Issues s sid (f.word 0x12#6 0x02#6) → noneWaits s sid [f.qa.toNat] →
      vUnused f true false false false false true = false → f.qd = 0#5 →
      let off := (t.sreg f.qa.toNat).toNat % 2 ^ 18
      (12 ≤ f.lane.toNat → off % 64 = 0 → off + 3136 ≤ 196608 → t.ops = [] →
        (userSlotOf (s.bytes (stockAddr sid.num off) 3136)).isSome = true →
        Runs s sid (.pbLd sid f) (t.pushOp (issueCy s sid + 49) (.pbld f.lane.toNat off))) ∧
      (off % 64 ≠ 0 ∨ 196608 < off + 3136 → Stops s sid (.pbLd sid f) 0x0204) ∧
      (f.lane.toNat < 12 → off % 64 = 0 → off + 3136 ≤ 196608 → Stops s sid (.pbLd sid f) 0x0208))

/-- A price board's value of a finite operand is the model's free value only where that lies within the bound of R95 and R133: whatever
the free value, the result of a built-in function is within 2 ulp of the exact value, or the nearest code, or the overflow or underflow
the rules give; a NaN gives the canonical NaN. The free value itself is the model's, one for each slot and input (log entry 10). -/
def Sys2Proof.Claim.PriceBoardBounds : Prop :=
  (∀ slot x, isNaN32 x = true → priceF slot x = 0x7FC00000#32 ∧ priceD slot x = 0x7FC00000#32) ∧
  (∀ k v below zneg free, let r := boundedResult k v below zneg free
    (fxMaxFin.natAbs < v.natAbs → r = if v < 0 then 0xFF800000#32 else 0x7F800000#32) ∧
    (v.natAbs ≤ fxMaxFin.natAbs → 2 ^ (fxBits - 150) ≤ v.natAbs →
      withinUlps k v below r = true ∨ r = round32 .rne ⟨decide (v < 0), v.natAbs, -(fxBits : Int)⟩))

/-- A PB.LD ends: its slot takes the image in stock, and no other slot and no register changes; with an uncorrectable line nothing is
loaded (R96, R100). -/
def Sys2Proof.Claim.PriceTableIsLoaded : Prop :=
  ∀ (s : State) (sid : StallId) (seq due pc slot off : Nat) (u : UserSlot),
    (s.stall sid.num).ops = [⟨seq, due, pc, .pbld slot off⟩] → userSlotOf (s.bytes (stockAddr sid.num off) 3136) = some u →
    (∃ t, exec (.pbLdComplete sid .none) s = .next t ∧ t = { s with now := max s.now due, stalls := t.stalls } ∧
      (∀ j, j ≠ sid.num → t.stall j = s.stall j) ∧
      t.stall sid.num = { s.stall sid.num with ops := [], user := tput (s.stall sid.num).user slot u }) ∧
    (∃ t, exec (.pbLdComplete sid .double) s = .next t ∧ (t.stall sid.num).user = (s.stall sid.num).user ∧ (t.stall sid.num).ops = [])

/-- SCL.ATT attaches a scale, SCL.RD and SCL.PROP read it, SCL.ROLL and SCL.CLR change it, each once nothing the scale watches is in
flight; no other scale and no vector register changes; an unknown kind stops the stall with 0x0210 (Table STL.12, R97, R98). -/
def Sys2Proof.Claim.ScaleInstructions : Prop :=
  ∀ (s : State) (sid : StallId) (f : FmtV), let t := s.stall sid.num
    let c := t.scale f.qd.toNat
    t.scaleQuiet c = true →
    (Issues s sid (f.word 0x14#6 0x00#6) → vRsv f = false → f.bs = 0#1 → f.sen = 0#1 → f.rm = 0#2 →
      (f.qa = 0#5 → f.lane = 0#6 → f.qb = 0#5 → f.qc = 0#5 →
        Runs s sid (.sclAtt sid f) { t with scales := tput t.scales f.qd.toNat ⟨c.amax, c.prev, 0, 0, 0⟩ }) ∧
      (f.qa = 1#5 → f.lane = 0#6 → f.qb.toNat ≤ f.qc.toNat →
        Runs s sid (.sclAtt sid f) { t with scales := tput t.scales f.qd.toNat ⟨c.amax, c.prev, 1, f.qb.toNat, f.qc.toNat⟩ }) ∧
      (f.qa = 2#5 → f.lane = 0#6 → f.qc = 0#5 → f.qb.toNat < 16 →
        Runs s sid (.sclAtt sid f) { t with scales := tput t.scales f.qd.toNat ⟨c.amax, c.prev, 2, f.qb.toNat, 0⟩ }) ∧
      (f.qa = 3#5 → f.qb = 0#5 → f.qc = 0#5 →
        Runs s sid (.sclAtt sid f) { t with scales := tput t.scales f.qd.toNat ⟨c.amax, c.prev, 3, f.lane.toNat, 0⟩ }) ∧
      (3 < f.qa.toNat → f.lane = 0#6 → f.qb = 0#5 → f.qc = 0#5 → Stops s sid (.sclAtt sid f) 0x0210)) ∧
    (Issues s sid (f.word 0x14#6 0x01#6) → noneWaits s sid [f.qa.toNat] → vUnused f true false false false false false = false →
      Runs s sid (.sclRd sid f) (t.setS f.qa.toNat (BitVec.ofNat 64 (c.prev.toNat * 2 ^ 32 + c.amax.toNat)))) ∧
    (vUnused f false false false false false false = false →
      (Issues s sid (f.word 0x14#6 0x02#6) →
        Runs s sid (.sclRoll sid f) { t with scales := tput t.scales f.qd.toNat { c with prev := c.amax, amax := 0#32 } }) ∧
      (Issues s sid (f.word 0x14#6 0x03#6) →
        Runs s sid (.sclClr sid f) { t with scales := tput t.scales f.qd.toNat { c with prev := 0#32, amax := 0#32 } })) ∧
    (Issues s sid (f.word 0x14#6 0x04#6) → noneWaits s sid [f.qa.toNat] → vUnused f true false true false false false = false →
      (∀ g, Fmt.ofCode f.qc.toNat = some g → Runs s sid (.sclProp sid f) (t.setS f.qa.toNat (BitVec.ofInt 64
        (scaleExp (if c.amax.toNat ≤ c.prev.toNat then c.prev else c.amax) g)))) ∧
      (Fmt.ofCode f.qc.toNat = none → Stops s sid (.sclProp sid f) 0x0210))

/-! ## Porter (05_porter.md) and mesh -/
namespace Sys2Proof.Claim

/-- Everything but the check units, which may follow the porter's streams (15_check_unit_queues.md R479), is as the effect `b` says. -/
def butUnits (b t : State) : Prop := t = { b with cus := t.cus }

end Sys2Proof.Claim

/-- PRT.GO takes the lowest FREE slot, copies its descriptor into it, captures the freed tally's value, puts the slot number in s[SD] and
raises nothing; the other seven slots are as they were. With no slot FREE it waits; a descriptor that fails a check of Table PRT.3 stops
the stall with the lowest code, its record names the stream ID, and it takes no slot (R164, R190). -/
def Sys2Proof.Claim.PrtGoStartsAStream : Prop :=
  ∀ (s : State) (sid : StallId) (f : FmtPrtGo), Issues s sid (f.word 0x20#6 0x00#6) → f.rsv = 0#40 →
    noneWaits s sid [f.sd.toNat] → (s.stall sid.num).vReady [f.va.toNat] = true →
    let d := descOf ((s.stall sid.num).vreg f.va.toNat)
    ((s.port sid.num).freeSlot = none → exec (.prtGo sid f) s = .next s) ∧
    (∀ i, (s.port sid.num).freeSlot = some i →
      (lowestCode (descCauses s sid.num d) = none →
        ∃ b, RunsWith s b sid (.prtGo sid f) ((s.stall sid.num).setS f.sd.toNat (BitVec.ofNat 64 i)) ∧
          butUnits { s with ports := b.ports } b ∧
          ((b.port sid.num).slot i).state = .running ∧ ((b.port sid.num).slot i).desc = some d ∧
          ((b.port sid.num).slot i).goSeq = (s.port sid.num).goSeq ∧ (b.port sid.num).goSeq = (s.port sid.num).goSeq + 1 ∧
          ((b.port sid.num).slot i).chunks = 0 ∧ ((b.port sid.num).slot i).faulted = false ∧
          ((b.port sid.num).slot i).streamId = d.id ∧
          ((b.port sid.num).slot i).f0 = (if d.freeden then ((s.port sid.num).tally d.freed).value else 0) ∧
          (∀ j, j ≠ i → (b.port sid.num).slot j = (s.port sid.num).slot j) ∧
          (b.port sid.num).tallies = (s.port sid.num).tallies ∧ (∀ k, k ≠ sid.num → b.port k = s.port k)) ∧
      (∀ c, lowestCode (descCauses s sid.num d) = some c → StopsWith s sid (.prtGo sid f) c [d.id]))

/-- The lowest FREE slot is FREE and every slot below it is not (R164). -/
def Sys2Proof.Claim.LowestFreeSlot : Prop :=
  ∀ (p : StallPort) (i : Nat), p.freeSlot = some i →
    i < 8 ∧ (p.slot i).state = .free ∧ ∀ j, j < i → (p.slot j).state ≠ .free

/-- PRT.KILL of a RUNNING slot leaves it DRAINING, or FREE where nothing of the stream is outstanding; of another slot it changes nothing.
PRT.STAT reads the slot's state, whether it waits on its freed tally or a line of its stream waits at a receiver, FAULTED, stream ID and
CHUNKS. PRT.DRAIN issues only while every slot is FREE and changes nothing
(Table PRT.1, R163, R166, R167). -/
def Sys2Proof.Claim.PrtKillStatDrain : Prop :=
  ∀ (s : State) (sid : StallId),
    (∀ f : FmtPrtKill, Issues s sid (f.word 0x20#6 0x01#6) → f.rsv = 0#49 →
      let q := (s.port sid.num).slot f.slot.toNat
      (q.state ≠ .running → Runs s sid (.prtKill sid f) (s.stall sid.num)) ∧
      (q.state = .running → ∃ b, RunsWith s b sid (.prtKill sid f) (s.stall sid.num) ∧
        butUnits { s with ports := b.ports } b ∧
        ((b.port sid.num).slot f.slot.toNat).state = (if q.outstanding = 0 ∧ q.inFlight = 0 then .free else .draining) ∧
        ((b.port sid.num).slot f.slot.toNat).chunks = q.chunks ∧
        (∀ j, j ≠ f.slot.toNat → (b.port sid.num).slot j = (s.port sid.num).slot j) ∧
        (∀ k, k ≠ sid.num → b.port k = s.port k))) ∧
    (∀ f : FmtPrtStat, Issues s sid (f.word 0x20#6 0x02#6) → f.rsv4 = 0#4 → f.rsv = 0#40 → noneWaits s sid [f.sd.toNat] →
      let q := (s.port sid.num).slot f.slot.toNat
      ∃ v, Runs s sid (.prtStat sid f) ((s.stall sid.num).setS f.sd.toNat (BitVec.ofNat 64 v)) ∧
        v % 4 = (match q.state with | .free => 0 | .running => 1 | .draining => 2) ∧
        bitAt v 2 = Slot.flowWait (s.port sid.num) q ∧ bitAt v 3 = s.regWait sid.num f.slot.toNat ∧ bitAt v 4 = q.faulted ∧
        (q.streamId < 2 ^ 16 → bitsAt v 8 16 = q.streamId) ∧ (q.streamId < 2 ^ 16 → v / 2 ^ 32 = q.chunks)) ∧
    (∀ f : FmtPrtDrain, Issues s sid (f.word 0x20#6 0x03#6) → f.rsv = 0#52 →
      ((s.port sid.num).allFree = true → Runs s sid (.prtDrain sid f) (s.stall sid.num)) ∧
      ((s.port sid.num).allFree = false → exec (.prtDrain sid f) s = .next s))

/-- The porter issues one request, in the first cy in which an eligible slot is due, that of the first such slot after the one served last;
the request is outstanding, its converter credit is taken, and no stall, no byte of memory and no other porter changes; with no slot
eligible, or the porter held, the command leaves the machine as it is (R180, R181, R185). -/
def Sys2Proof.Claim.PorterIssuesARequest : Prop :=
  ∀ (s : State) (sid : StallId), let p := s.port sid.num
    let due := fun j => max (max s.now p.reqNext) (p.slot j).due
    (s.porterRuns sid.num = false → exec (.porterRequest sid) s = .next s) ∧
    (s.porterRuns sid.num = true → (∀ i, i < 8 → s.orphanFlow sid.num i = false) →
      ((∀ i, i < 8 → s.eligible sid.num i = none) → exec (.porterRequest sid) s = .next s) ∧
      (∀ (i n : Nat) (d : Desc) (c : Piece) (a : Nat), n < 8 → i = (p.last + 1 + n) % 8 → s.eligible sid.num i = some (d, c, a) →
        (∀ j, j < 8 → (s.eligible sid.num j).isSome = true → due i ≤ due j) →
        (∀ m, m < n → (s.eligible sid.num ((p.last + 1 + m) % 8)).isSome = true → due i < due ((p.last + 1 + m) % 8)) →
        ∃ t r, exec (.porterRequest sid) s = .next t ∧ t.now = due i ∧ t.reqs = s.reqs ++ [r] ∧
          r.seq = s.idSeq ∧ r.sid = sid.num ∧ r.slot = i ∧ r.addr = a ∧ r.idx = c.first ∧ r.count = c.n ∧ r.wdata = none ∧
          r.stage = (if s.ownStock sid.num a then .own else .spine) ∧
          t = { s with now := t.now, reqs := t.reqs, idSeq := s.idSeq + 1, ports := t.ports } ∧
          (t.port sid.num).last = i ∧ (t.port sid.num).credit = p.credit - d.cost c ∧
          ((t.port sid.num).slot i).outstanding = (p.slot i).outstanding + 1 ∧
          (∀ j, j ≠ i → (t.port sid.num).slot j = p.slot j) ∧ (∀ k, k ≠ sid.num → t.port k = s.port k)))

/-- A whole line of a raw copy to the stall's own stock reaches the porter: the line is written, unchanged, at its place in the ring, and
no other byte; the request is gone (R170, R172, R175). -/
def Sys2Proof.Claim.RawCopiedLineArrives : Prop :=
  ∀ (s : State) (sid : StallId) (id : Nat) (r : Req) (d : Desc) (l : Line) (x : Nat), Memory.wf s.mem = true →
    s.findReq sid.num id = some r → r.wdata = none → r.stage = .data l → r.goSeq = ((s.port sid.num).slot r.slot).goSeq →
    ((s.port sid.num).slot r.slot).desc = some d → ((s.port sid.num).slot r.slot).state = .running →
    (s.port sid.num).deliv.length < 16 → d.dkind = 0 → d.dspace = 0 → d.rawCopy = true → d.tagen = false →
    r.byteOff = 0 → r.count * d.sbits = 512 → r.idx = r.count * x → ((s.port sid.num).slot r.slot).skipTo ≤ r.idx →
    ∃ t, exec (.porterLineArrival sid id .none .none) s = .next t ∧
      t.line (stockAddr sid.num (d.place x)) = l ∧
      (∀ a, a < stockAddr sid.num (d.place x) ∨ stockAddr sid.num (d.place x) + 64 ≤ a → t.byte a = s.byte a) ∧
      (∀ y ∈ t.reqs, y ∈ s.reqs ∧ y.seq ≠ r.seq)

/-- An error response to a request of a live stream leaves the slot FAULTED and not RUNNING, stops the stall with 0x0409, and the request
is gone; of a stream that is gone it changes nothing but the request's credit (R186). -/
def Sys2Proof.Claim.ErrorResponseStopsTheStream : Prop :=
  ∀ (s : State) (sid : StallId) (id code : Nat) (r : Req), s.findReq sid.num id = some r → r.stage = .err code →
    let c : Instr := if r.wdata.isSome then .porterWriteAck sid id .none else .porterLineArrival sid id .none .none
    (r.wdata.isNone = true → s.arriveRoom r = true) →
    r.goSeq = ((s.port sid.num).slot r.slot).goSeq → ((s.port sid.num).slot r.slot).state = .running →
    (s.stall sid.num).status = .running →
    ∃ t, exec c s = .next t ∧ (∀ y ∈ t.reqs, y.seq ≠ r.seq) ∧
      ((t.port sid.num).slot r.slot).faulted = true ∧ ((t.port sid.num).slot r.slot).state ≠ .running ∧
      (t.stall sid.num).status = .stopped 0x0409 s.now ∧ t.mem = s.mem ∧
      (∃ i, t.inc.log = i :: s.inc.log ∧ i.code = 0x0409 ∧ i.whre = sid.num)

/-- A write of a stream is acknowledged: the request is gone, one line fewer is in flight, CHUNKS goes up only over whole chunks and, with
FILLEN, each whole chunk adds 1 to the stall's FILLED tally; memory and stalls are as they were (R177, R179). -/
def Sys2Proof.Claim.WriteIsAcknowledged : Prop :=
  ∀ (s : State) (sid : StallId) (id : Nat) (r : Req) (d : Desc) (l : Line), s.findReq sid.num id = some r →
    r.stage = .ack → r.wdata = some l → ((s.port sid.num).slot r.slot).desc = some d →
    r.goSeq = ((s.port sid.num).slot r.slot).goSeq → ((s.port sid.num).slot r.slot).state = .running →
    1 < ((s.port sid.num).slot r.slot).inFlight →
    ∃ t, exec (.porterWriteAck sid id .none) s = .next t ∧ t.mem = s.mem ∧ t.stalls = s.stalls ∧
      (∀ y ∈ t.reqs, y ∈ s.reqs ∧ y.seq ≠ r.seq) ∧
      ((t.port sid.num).slot r.slot).inFlight = ((s.port sid.num).slot r.slot).inFlight - 1 ∧
      (t.port sid.num).pend = (s.port sid.num).pend ++ (if d.fillen then
        List.replicate (((t.port sid.num).slot r.slot).chunks - ((s.port sid.num).slot r.slot).chunks) (s.now, Change.add d.filled 1) else [])

/-- The first line of the delivery buffer is written to its register, which is then FULL, once no instruction in flight uses the
register; no other register changes; until then the command leaves the machine as it is (R178). -/
def Sys2Proof.Claim.RegisterLineIsDelivered : Prop :=
  ∀ (s : State) (sid : StallId) (d : Deliv) (rest : List Deliv), (s.port sid.num).deliv = d :: rest → d.reg < 128 →
    ((s.stall sid.num).regBusy d.reg = true → exec (.registerDelivery sid) s = .next s) ∧
    ((s.stall sid.num).regBusy d.reg = false → ∃ t, exec (.registerDelivery sid) s = .next t ∧ t.mem = s.mem ∧
      (t.port sid.num).deliv = rest ∧ (t.stall sid.num).vreg d.reg = d.data ∧ (t.stall sid.num).isFull d.reg = true ∧
      (∀ i, i ≠ d.reg → (t.stall sid.num).vreg i = (s.stall sid.num).vreg i ∧
        (t.stall sid.num).isFull i = (s.stall sid.num).isFull i) ∧
      (∀ i, (t.stall sid.num).sreg i = (s.stall sid.num).sreg i) ∧ (∀ k, k ≠ sid.num → t.stall k = s.stall k))

/-- One flit crosses one hop: a signal has then arrived; a line of a live stream for a neighbour's stock is written at its place in the
neighbour's ring and nowhere else; a line that is uncorrectable is recorded by its receiver with 0x0206, stops the stream at its root with
0x0409 and writes nothing; a neighbour whose delivery buffer is full takes no line (R176, R178, R186, R223). -/
def Sys2Proof.Claim.MeshFlitCrosses : Prop :=
  ∀ (s : State) (sid : StallId) (dir : Fin 4) (f : Flit) (n : Nat), s.nextFlit sid.num dir.val = some f →
    neighbour sid.num dir.val = some n →
    (∀ id, f.load = .sig id → ∃ t, exec (.meshFlit sid dir .none) s = .next t ∧ t.flits = eraseFlit f s.flits ∧
      t.sigs = s.sigs.map (fun g => if g.id = id then { g with arrived := true } else g) ∧ t.mem = s.mem ∧ t.stalls = s.stalls ∧
      tget (t.port sid.num).meshLast 4 dir.val = f.input) ∧
    (∀ root i g idx d l, f.load = .line root i g idx d l → 16 ≤ (s.port n).deliv.length →
      ∀ e, exec (.meshFlit sid dir e) s = .next s) ∧
    (∀ root i g idx d l, f.load = .line root i g idx d l → (s.port n).deliv.length < 16 → d.dkind = 1 → d.dspace = 0 → Memory.wf s.mem = true →
      ((s.port root).slot i).goSeq = g → ((s.port root).slot i).state = .running →
      (s.fenced n = false → ∃ t, exec (.meshFlit sid dir .none) s = .next t ∧ t.flits = eraseFlit f s.flits ∧
        t.line (stockAddr n (d.place idx)) = l ∧
        (∀ a, a < stockAddr n (d.place idx) ∨ stockAddr n (d.place idx) + 64 ≤ a → t.byte a = s.byte a) ∧
        t.stalls = s.stalls) ∧
      (s.fenced n = false → (s.stall root).status = .running → ∃ t, exec (.meshFlit sid dir .double) s = .next t ∧ t.mem = s.mem ∧
        (t.stall root).status = .stopped 0x0409 s.now ∧ ((t.port root).slot i).faulted = true ∧
        t.inc.log.map (·.code) = 0x0409 :: 0x0206 :: s.inc.log.map (·.code)))

/-! ## Tallies (06_tallies.md R191 to R207) -/

/-- Table TLY.3: TLY.SET, TLY.ADD, TLY.TAKE and TLY.CFG leave a change that is applied in the next cy; TLY.SET of a gate count acts at
once; TLY.WAIT, TLY.WAITV and TLY.TAKE wait until the tally is high enough or saturated (R205); each writes its scalar register, 1 where the tally is
orphaned; TLY.RD reads the tally's word. -/
def Sys2Proof.Claim.TallyInstructions : Prop :=
  ∀ (s : State) (sid : StallId), let t := s.stall sid.num
    let change := fun (c : Change) => s.setPort sid.num { s.port sid.num with pend := (s.port sid.num).pend ++ [(issueCy s sid, c)] }
    (∀ f : FmtTSet, Issues s sid (f.word 0x21#6 0x00#6) → noneWaits s sid [f.sa.toNat] → f.rsv = 0#40 →
      let v := (t.sreg f.sa.toNat).toNat % 2 ^ 32
      (f.gc = 1#1 → Runs s sid (.tlySet sid f) { t with gates := tput t.gates f.t.toNat v }) ∧
      (f.gc = 0#1 → RunsWith s (change (.set f.t.toNat v (t.occ.getD 0))) sid (.tlySet sid f) t)) ∧
    (∀ f : FmtTAdd, Issues s sid (f.word 0x21#6 0x01#6) → f.rsv = 0#30 →
      RunsWith s (change (.add f.t.toNat f.amt.toInt)) sid (.tlyAdd sid f) t) ∧
    (∀ f : FmtTWait, Issues s sid (f.word 0x21#6 0x03#6) → noneWaits s sid [f.sd.toNat] → f.rsv = 0#25 →
      let a := (s.port sid.num).tally f.t.toNat
      (a.orph = true → Runs s sid (.tlyWait sid f) (t.setS f.sd.toNat 1#64)) ∧
      (a.orph = false → (a.sat = true ∨ t.gate f.t.toNat ≤ a.value) → Runs s sid (.tlyWait sid f)
        ({ t with gates := tput t.gates f.t.toNat ((t.gate f.t.toNat + f.inc.toNat) % 2 ^ 32) }.setS f.sd.toNat 0#64)) ∧
      (a.orph = false → a.sat = false → a.value < t.gate f.t.toNat → exec (.tlyWait sid f) s = .next s)) ∧
    (∀ f : FmtTWaitV, Issues s sid (f.word 0x21#6 0x04#6) → noneWaits s sid [f.sd.toNat, f.sb.toNat] → f.rsv = 0#36 →
      let a := (s.port sid.num).tally f.t.toNat
      let v := (t.sreg f.sb.toNat).toNat % 2 ^ 32
      (a.ra = true → Stops s sid (.tlyWaitv sid f) 0x0506) ∧
      (a.ra = false → (a.orph = true ∨ a.sat = true ∨ v ≤ a.value) →
        Runs s sid (.tlyWaitv sid f) (t.setS f.sd.toNat (if a.orph then 1#64 else 0#64))) ∧
      (a.ra = false → a.orph = false → a.sat = false → a.value < v → exec (.tlyWaitv sid f) s = .next s)) ∧
    (∀ f : FmtTTake, Issues s sid (f.word 0x21#6 0x05#6) → noneWaits s sid [f.sd.toNat] → f.rsv = 0#25 →
      let a := (s.port sid.num).tally f.t.toNat
      (f.amt = 0#16 → Stops s sid (.tlyTake sid f) 0x0501) ∧
      (f.amt ≠ 0#16 → a.mode = false → Stops s sid (.tlyTake sid f) 0x0506) ∧
      (f.amt ≠ 0#16 → a.mode = true → a.orph = false → (a.sat = true ∨ f.amt.toNat ≤ a.value) →
        RunsWith s (change (.add f.t.toNat (-(f.amt.toNat : Int)))) sid (.tlyTake sid f) (t.setS f.sd.toNat 0#64)) ∧
      (f.amt ≠ 0#16 → a.mode = true → a.orph = true → Runs s sid (.tlyTake sid f) (t.setS f.sd.toNat 1#64)) ∧
      (f.amt ≠ 0#16 → a.mode = true → a.orph = false → a.sat = false → a.value < f.amt.toNat → exec (.tlyTake sid f) s = .next s)) ∧
    (∀ f : FmtTReg, noneWaits s sid [f.s.toNat] → f.rsv = 0#41 →
      (Issues s sid (f.word 0x21#6 0x06#6) → Runs s sid (.tlyRd sid f) (t.setS f.s.toNat
        (BitVec.ofNat 64 (((s.port sid.num).tally f.t.toNat).word (t.occ.getD 0))))) ∧
      (Issues s sid (f.word 0x21#6 0x07#6) → let v := (t.sreg f.s.toNat).toNat
        (v < 1024 → v % 4 ≠ 3 → (s.ctx (v / 4 % 64)).state ≠ .free →
          RunsWith s (change (.cfg f.t.toNat v)) sid (.tlyCfg sid f) t) ∧
        (1024 ≤ v → Stops s sid (.tlyCfg sid f) 0x0501) ∧ (v < 1024 → v % 4 = 3 → Stops s sid (.tlyCfg sid f) 0x0506)))

/-- A tally's word (Table TLY.1): VALUE in [31:0], OWNER in [37:32], then MODE, RA, SAT, UNDER and ORPH one bit each. -/
def Sys2Proof.Claim.TallyWord : Prop :=
  ∀ (t : Tally) (c : Nat), t.value < 2 ^ 32 → t.ownerIn c < 64 →
    bitsAt (t.word c) 0 32 = t.value ∧ bitsAt (t.word c) 32 6 = t.ownerIn c ∧ bitAt (t.word c) 38 = t.mode ∧
    bitAt (t.word c) 39 = t.ra ∧ bitAt (t.word c) 40 = t.sat ∧ bitAt (t.word c) 41 = t.under ∧ bitAt (t.word c) 42 = t.orph ∧
    t.word c < 2 ^ 43

/-- TLY.SIG sends its amount to the tally that s[SA] names: to a tally of this module that is no mesh neighbour's, one signal sets out
that has arrived at the signal network; a bad ID stops the stall with 0x0501; ORD = 1 waits for lines in flight (R197, R200, R203). -/
def Sys2Proof.Claim.SignalIsSent : Prop :=
  ∀ (s : State) (sid : StallId) (f : FmtTSig), Issues s sid (f.word 0x21#6 0x02#6) → noneWaits s sid [f.sa.toNat] → f.rsv = 0#30 →
    let id := ((s.stall sid.num).sreg f.sa.toNat).toNat
    let drained := ((s.port sid.num).slots.all fun q => decide (q.2.inFlight = 0)) = true
    (tallyIdBad id = true → Stops s sid (.tlySig sid f) 0x0501) ∧
    (tallyIdBad id = false → f.ord = 1#1 → ¬ drained → exec (.tlySig sid f) s = .next s) ∧
    (tallyIdBad id = false → (f.ord = 0#1 ∨ drained) → bitAt id 41 = true →
      neighbourDir sid.num (bitsAt id 6 17) = none →
      RunsWith s { s with idSeq := s.idSeq + 1, sigs := s.sigs ++
        [⟨s.idSeq, sid.num, bitsAt id 0 6, bitsAt id 6 17, bitsAt id 42 6, f.amt.toInt, true⟩] } sid (.tlySig sid f) (s.stall sid.num))

/-- The amounts of one cy (R193): a tally with MODE = 0 takes the sum of the amounts that are not negative and stops at 2^32 - 1 with SAT;
with MODE = 1 it takes the sum of all, and a sum below 0 changes nothing but UNDER; every flag not named stays. -/
def Sys2Proof.Claim.AmountsOfOneCy : Prop :=
  ∀ (t : Tally) (l : List Int), t.value < 2 ^ 32 →
    let net := if t.mode then l.foldl (· + ·) 0 else (l.filter (0 ≤ ·)).foldl (· + ·) 0
    let a := t.apply l
    (t.mode = true → (t.value : Int) + net < 0 → a.tally = { t with under := true }) ∧
    (0 ≤ (t.value : Int) + net → (t.value : Int) + net < 2 ^ 32 → a.tally = { t with value := ((t.value : Int) + net).toNat }) ∧
    (2 ^ 32 ≤ (t.value : Int) + net → a.tally = { t with value := 2 ^ 32 - 1, sat := true } ∧ (a.saturated = true ↔ t.sat = false)) ∧
    (t.mode = false → 0 ≤ net) ∧ a.tally.value < 2 ^ 32

/-- A signal that has arrived at a stall of its context is applied to the tally it names, and no other tally of the stall, no register
and no byte of memory changes; one that names a stall its context does not hold is dropped, counted and recorded (R192, R197). -/
def Sys2Proof.Claim.SignalIsApplied : Prop :=
  ∀ (s : State) (sid : StallId) (g : Sig), s.sigs = [g] → (s.port sid.num).pend = [] → s.forwarded g = sid.num → g.arrived = true →
    (s.sigLands sid.num g = true → g.tally ≠ 63 → ∃ t, exec (.tallySignalApply sid [g.id]) s = .next t ∧ t.sigs = [] ∧
      t.mem = s.mem ∧ t.stalls = s.stalls ∧
      (t.port sid.num).tally g.tally = (((s.port sid.num).tally g.tally).apply [g.amt]).tally ∧
      (∀ i, i ≠ g.tally → (t.port sid.num).tally i = (s.port sid.num).tally i) ∧
      (∀ k, k ≠ sid.num → t.port k = s.port k)) ∧
    (s.sigLands sid.num g = false → s.sigSaved sid.num g = false → ∃ t, exec (.tallySignalApply sid [g.id]) s = .next t ∧
      t.sigs = [] ∧ t.ports = s.ports ∧ t.tlyRejects = satInc s.tlyRejects ∧
      (∃ i, t.inc.log = i :: s.inc.log ∧ i.code = 0x0504))

/-! ## Reckoning units (06_tallies.md R208 to R218) and the ledger's instructions (08_ledger_dray.md R269 to R277) -/
namespace Sys2Proof.Claim

/-- The state at the cy in which the stall's next word issues. -/
def atIssue (s : State) (sid : StallId) : State := { s with now := issueCy s sid }

/-- A binding after a broadcast of unit `u` of module `m` (R212, R216): one that names the unit takes the released generation's successor
as its completion view, or is orphaned; every other stays. -/
def heard (own : Nat) (b : Broadcast) (y : Binding) : Binding :=
  if y.valid = true ∧ (if bitAt y.id 26 then own else bitsAt y.id 8 18) = b.module ∧ bitsAt y.id 0 8 = b.unit then
    (if b.orphan then { y with orph := true } else { y with cpl := (b.gen + 1) % 4 })
  else y

/-- A message for this module stands at the head of the class queue `cls` of port `p`. -/
structure Gets (s : State) (p cls : Nat) (m : Msg) : Prop where
  head : s.headMsg p cls = some m
  mine : m.dest = s.mod.id ∨ m.cls = 3

/-- A binding's wait is over: (CPL - g) mod 4 is 1 or 2 for g = LGEN - 1 mod 4 (Table TLY.6). -/
def genDone (x : Binding) : Prop := ((x.cpl : Int) - ((x.lgen : Int) - 1)) % 4 = 1 ∨ ((x.cpl : Int) - ((x.lgen : Int) - 1)) % 4 = 2

end Sys2Proof.Claim

/-- Table TLY.6: RCK.BIND binds an ID, valid or stopped with 0x050B; RCK.ARR sends one arrival with tag LGEN, puts LGEN in s[SD] and
counts LGEN up; RCK.WAIT issues when the generation before LGEN is complete or the binding orphaned, with 0 or 1 in s[SD]; RCK.AW does
the one in its first issue slot, with the PC where it was, and the other in its second; an invalid binding stops the stall with 0x050B.
For units of this module. -/
def Sys2Proof.Claim.ReckonInstructions : Prop :=
  ∀ (s : State) (sid : StallId) (f : FmtRck), f.rsv = 0#44 → noneWaits s sid [f.s.toNat] →
    let t := s.stall sid.num
    let p := s.port sid.num
    let x := p.binding f.b.toNat
    let arrived := fun (aw : Option Nat) => { s.setPort sid.num { p with rb := tput p.rb f.b.toNat { x with lgen := (x.lgen + 1) % 4 }, aw := aw } with
      idSeq := s.idSeq + 1
      arrivals := s.arrivals ++ [⟨s.idSeq, rckUnit x.id, x.lgen, rckCtx x.id, sid.num, t.occ.getD 0, none, s.mod.id⟩] }
    (Issues s sid (f.word 0x22#6 0x00#6) → let id := (t.sreg f.s.toNat).toNat
      (rckIdBad id = true → Stops s sid (.rckBind sid f) 0x050B) ∧
      (rckIdBad id = false → RunsWith s (s.setPort sid.num { p with
        rb := tput p.rb f.b.toNat ⟨id, bitsAt id 33 2, bitsAt id 33 2, false, true⟩ }) sid (.rckBind sid f) t)) ∧
    (Issues s sid (f.word 0x22#6 0x01#6) →
      (x.valid = false → Stops s sid (.rckArr sid f) 0x050B) ∧
      (x.valid = true → s.rckModule x.id = s.mod.id →
        RunsWith s (arrived p.aw) sid (.rckArr sid f) (t.setS f.s.toNat (BitVec.ofNat 64 x.lgen)))) ∧
    (Issues s sid (f.word 0x22#6 0x02#6) →
      (x.valid = false → Stops s sid (.rckWait sid f) 0x050B) ∧
      (x.valid = true → (genDone x ∨ x.orph = true) → x.cpl < 4 → x.lgen < 4 → RunsWith s (s.setPort sid.num { p with aw := none }) sid
        (.rckWait sid f) (t.setS f.s.toNat (if x.orph then 1#64 else 0#64))) ∧
      (x.valid = true → ¬ genDone x → x.orph = false → x.cpl < 4 → x.lgen < 4 → exec (.rckWait sid f) s = .next s)) ∧
    (Issues s sid (f.word 0x22#6 0x03#6) → x.valid = true → x.cpl < 4 → x.lgen < 4 →
      (p.aw ≠ some t.pc → s.rckModule x.id = s.mod.id → ∃ u, exec (.rckAw sid f) s = .next u ∧
        Goes s (arrived (some t.pc)) u sid (t.setS f.s.toNat (BitVec.ofNat 64 x.lgen)) t.pc (issueCy s sid + 1)) ∧
      (p.aw = some t.pc → (genDone x ∨ x.orph = true) → RunsWith s (s.setPort sid.num { p with aw := none }) sid (.rckAw sid f)
        (t.setS f.s.toNat (if x.orph then 1#64 else 0#64))) ∧
      (p.aw = some t.pc → ¬ genDone x → x.orph = false → exec (.rckAw sid f) s = .next s))

/-- RCK.CFG (R209): its status is 0 exactly where the ID names a present unit of this module that the stall's context owns, nothing has
arrived or is parked there, the participant count is not 0, the reserved bits are 0 and a parent, where one is named, can be reached; then
the unit takes N, BELLM, PEN and the parent and starts at generation 0; on any other status no unit changes. s[SD] takes the status. -/
def Sys2Proof.Claim.ReckonConfiguration : Prop :=
  ∀ (s : State) (sid : StallId) (f : FmtRckCfg), f.rsv = 0#32 → noneWaits s sid [f.sa.toNat, f.sb.toNat, f.sc.toNat, f.sd.toNat] →
    Issues s sid (f.word 0x22#6 0x04#6) →
    let t := s.stall sid.num
    let c := t.occ.getD 0
    let id := (t.sreg f.sa.toNat).toNat
    let cfg := (t.sreg f.sb.toNat).toNat
    let parent := (t.sreg f.sc.toNat).toNat
    let u := rckUnit id
    let x := s.unit u
    let st := s.rckCfgStatus c id cfg parent
    (rckIdBad id = true → Stops s sid (.rckCfg sid f) 0x050B) ∧
    (rckIdBad id = false → RunsWith s (if st = 0 then s.setUnit u { x with
        n := cfg % 2 ^ 24, bellm := bitAt cfg 24, pen := bitAt cfg 25, parent := if bitAt cfg 25 then parent else x.parent
        gen := 0, kids := [], kidsNext := [], mods := [] } else s) sid (.rckCfg sid f) (t.setS f.sd.toNat (BitVec.ofNat 64 st))) ∧
    (st = 0 ↔ s.rckModule id = s.mod.id ∧ s.unitHere u = true ∧ x.assigned = true ∧ x.owner = c ∧ rckCtx id = c ∧ x.arrived = 0 ∧
      x.parked = 0 ∧ cfg % 2 ^ 24 ≠ 0 ∧ cfg / 2 ^ 26 = 0 ∧ (bitAt cfg 25 = true → rckIdBad parent = false ∧
        (s.rckModule parent = s.mod.id ∨ s.inHall (s.rckModule parent) = true)))

/-- Arrivals of one cy at a unit are taken in the order of the arriving stall's ID (R211): the list the unit takes is sorted and holds
each named arrival once. -/
def Sys2Proof.Claim.ArrivalOrder : Prop :=
  ∀ l : List Arrival, (l.foldl (fun r a => insArrival a r) []).Pairwise (fun a b => a.stall ≤ b.stall) ∧
    (l.foldl (fun r a => insArrival a r) []).Perm l

/-- R211 for one arrival of a stall of this module at a unit its context owns: in the present generation it is counted, and the last
one completes the unit: it is released at once, or waits for the bell, or arrives at its parent; in the next generation it is parked;
with the parked count full, or two generations ahead, it is dropped with 0x0509; one generation behind with 0x050A; TLY_REJECTS counts
neither (Table TLY.10). -/
def Sys2Proof.Claim.UnitCountsArrivals : Prop :=
  ∀ (s : State) (a : Arrival), s.arrivals = [a] → let u := a.unit
    let x := s.unit u
    s.unitHere u = true → x.assigned = true → x.orph = false → a.ctxField = x.owner → a.child = none → a.fromModule = s.mod.id →
    a.tag < 4 → x.gen < 4 → x.n ≠ 0 → x.pending = false → x.arrived < x.n → x.kids = [] → x.kidsNext = [] → x.mods = [] →
    let one : State := { s with arrivals := [] }
    let got := exec (.rckArrival u [a.id]) s
    (a.tag = x.gen → x.arrived + 1 < x.n → got = .next (one.setUnit u { x with arrived := x.arrived + 1 })) ∧
    (a.tag = x.gen → x.arrived + 1 = x.n → x.pen = false → x.bellm = false → x.parked < x.n →
      let released : Broadcast := ⟨s.idSeq, u, x.gen, false, s.mod.id⟩
      got = .next ({ one with idSeq := s.idSeq + 1, casts := s.casts ++ [released] }.setUnit u
        { x with gen := (x.gen + 1) % 4, arrived := x.parked, parked := 0 })) ∧
    (a.tag = x.gen → x.arrived + 1 = x.n → x.pen = false → x.bellm = true →
      got = .next (one.setUnit u { x with arrived := x.n, pending := true })) ∧
    (a.tag = x.gen → x.arrived + 1 = x.n → x.pen = true → s.rckModule x.parent = s.mod.id →
      let up : Arrival := ⟨s.idSeq, rckUnit x.parent, x.gen, rckCtx x.parent, 0, x.owner, some (s.mod.id * 256 + u), s.mod.id⟩
      got = .next ({ one with idSeq := s.idSeq + 1, arrivals := [up] }.setUnit u { x with arrived := x.n, pending := true })) ∧
    (a.tag = (x.gen + 1) % 4 → x.parked < x.n → got = .next (one.setUnit u { x with parked := x.parked + 1 })) ∧
    ((a.tag = (x.gen + 1) % 4 ∧ x.n ≤ x.parked) ∨ a.tag = (x.gen + 2) % 4 → ∃ t i, got = .next t ∧ t.units = s.units ∧
      t.tlyRejects = s.tlyRejects ∧ t.inc.log = i :: s.inc.log ∧ i.code = 0x0509) ∧
    (a.tag = (x.gen + 3) % 4 → ∃ t i, got = .next t ∧ t.units = s.units ∧ t.tlyRejects = s.tlyRejects ∧
      t.inc.log = i :: s.inc.log ∧ i.code = 0x050A)

/-- An arrival at a unit that is absent, unassigned, orphaned or of another context is dropped, counted and recorded as 0x0504, and no
unit changes (R211). -/
def Sys2Proof.Claim.StrayArrivalIsDropped : Prop :=
  ∀ (s : State) (a : Arrival), s.arrivals = [a] →
    (s.unitHere a.unit = false ∨ (s.unit a.unit).assigned = false ∨ (s.unit a.unit).orph = true ∨
      a.ctxField ≠ (s.unit a.unit).owner) →
    ∃ t i, exec (.rckArrival a.unit [a.id]) s = .next t ∧ t.arrivals = [] ∧ t.units = s.units ∧ t.mem = s.mem ∧ t.stalls = s.stalls ∧
      t.tlyRejects = satInc s.tlyRejects ∧ t.inc.log = i :: s.inc.log ∧ i.code = 0x0504

/-- A broadcast reaches every binding of the module, those of saved images included, and changes nothing else (R212, R215, R216). -/
def Sys2Proof.Claim.BroadcastReachesBindings : Prop :=
  ∀ (s : State) (b : Broadcast), s.casts = [b] → ∃ t, exec (.rckCompletion b.id) s = .next t ∧
    t = { s with casts := [], ports := t.ports, ctxs := t.ctxs } ∧
    (∀ k, t.port k = { s.port k with rb := (t.port k).rb } ∧
      ∀ j, (t.port k).binding j = heard s.mod.id b ((s.port k).binding j)) ∧
    (∀ c, t.ctx c = { s.ctx c with images := (t.ctx c).images } ∧ (t.ctx c).images.length = (s.ctx c).images.length ∧
      ∀ (i : Nat) (x y : Image), (s.ctx c).images[i]? = some x → (t.ctx c).images[i]? = some y → y = { x with port := y.port } ∧
        y.port = { x.port with rb := y.port.rb } ∧ ∀ j, y.port.binding j = heard s.mod.id b (x.port.binding j))

/-- A parent's answer releases a child unit that waits for it in that generation, and no other (R213). -/
def Sys2Proof.Claim.ParentAnswerReleases : Prop :=
  ∀ (s : State) (a : Answer), s.answers = [a] → let x := s.unit a.child
    let one : State := { s with answers := [] }
    ((x.pending = false ∨ x.pen = false ∨ x.gen ≠ a.gen) → exec (.rckParentAnswer a.id) s = .next one) ∧
    (x.pending = true → x.pen = true → x.gen = a.gen → x.kids = [] → x.mods = [] → x.parked < x.n →
      let released : Broadcast := ⟨s.idSeq, a.child, x.gen, false, s.mod.id⟩
      exec (.rckParentAnswer a.id) s = .next ({ one with idSeq := s.idSeq + 1, casts := s.casts ++ [released] }.setUnit a.child
        { x with gen := (x.gen + 1) % 4, arrived := x.parked, parked := 0, pending := false, kids := x.kidsNext, kidsNext := [] }))

/-- TSIG, RARR and RCPL from a module of the hall join the signals, arrivals and broadcasts in flight; a TSIG or RARR from outside the
hall, and a TSIG to no stall, are refused, counted and recorded, and a RCPL from outside joins nothing (R197, 10_weago.md R339, R345, R346). -/
def Sys2Proof.Claim.RemoteSynchronisation : Prop :=
  ∀ (s : State) (p : Fin 16) (m : Msg), Gets s p.val 0 m → let s1 := s.takeMsg p.val 0
    (m.ty = 6 → s.inHall m.src = true → namesStall (bitsAt m.addr 6 17) = true →
      exec (.tsig p) s = .next { s1 with idSeq := s.idSeq + 1, sigs := s.sigs ++
        [⟨s.idSeq, bitsAt m.addr 6 17, bitsAt m.addr 0 6, bitsAt m.addr 6 17, m.ctx, (BitVec.ofNat 16 (bitsAt m.addr 23 16)).toInt, true⟩] }) ∧
    (m.ty = 6 → (s.inHall m.src = false ∨ namesStall (bitsAt m.addr 6 17) = false) → ∃ t i, exec (.tsig p) s = .next t ∧
      t.sigs = s.sigs ∧ t.fab = s1.fab ∧ t.tlyRejects = satInc s.tlyRejects ∧ t.inc.log = i :: s.inc.log ∧ i.code = 0x0504) ∧
    (m.ty = 7 → s.inHall m.src = true → exec (.rarr p) s = .next { s1 with idSeq := s.idSeq + 1, arrivals := s.arrivals ++
      [⟨s.idSeq, bitsAt m.addr 0 8, bitsAt m.addr 8 2, m.ctx, 0, m.ctx,
        if bitAt m.addr 10 then some (m.src * 256 + bitsAt m.addr 11 8) else none, m.src⟩] }) ∧
    (m.ty = 7 → s.inHall m.src = false → ∃ t i, exec (.rarr p) s = .next t ∧ t.arrivals = s.arrivals ∧ t.fab = s1.fab ∧
      t.tlyRejects = satInc s.tlyRejects ∧ t.inc.log = i :: s.inc.log ∧ i.code = 0x0504) ∧
    (m.ty = 8 → s.inHall m.src = false → ∃ t, exec (.rcpl p) s = .next t ∧ t.casts = s.casts ∧ t.answers = s.answers) ∧
    (m.ty = 8 → s.inHall m.src = true → ∃ t, exec (.rcpl p) s = .next t ∧
      t.casts = s.casts ++ [⟨s.idSeq, bitsAt m.addr 0 8, bitsAt m.addr 8 2, bitAt m.addr 10, m.src⟩] ∧ t.fab = s1.fab ∧
      t = { s1 with casts := t.casts, answers := t.answers, idSeq := t.idSeq } ∧ (bitAt m.addr 10 = true → t.answers = s.answers))

/-- ALLOC, FREE and HINT issue and put the status of Table LDG.7 in s[SD]; what they leave in the ledger is that of their function. -/
def Sys2Proof.Claim.LedgerInstructionsIssue : Prop :=
  ∀ (s : State) (sid : StallId), let t := s.stall sid.num
    let at_ := atIssue s sid
    (∀ f : FmtAlloc, Issues s sid (f.word 0x24#6 0x00#6) → f.rsv = 0#25 → noneWaits s sid [f.sd.toNat, f.sa.toNat, f.sb.toNat] →
      let r := at_.allocFn ⟨t.occ.getD 0, (t.sreg f.sa.toNat).toNat, (t.sreg f.sb.toNat).toNat, f.sz = 1#1, f.tier.toNat, f.pol.toNat,
        f.w = 1#1, f.die.toNat, f.now = 1#1, false, false⟩
      RunsWith s r.1 sid (.alloc sid f) (t.setS f.sd.toNat (BitVec.ofNat 64 r.2))) ∧
    (∀ f : FmtFree, Issues s sid (f.word 0x24#6 0x01#6) → f.rsv = 0#36 → noneWaits s sid [f.sd.toNat, f.sa.toNat, f.sb.toNat] →
      let r := at_.freeFn ⟨t.occ.getD 0, (t.sreg f.sa.toNat).toNat, (t.sreg f.sb.toNat).toNat, f.sz = 1#1, 0, 0, false, 0, false, false, false⟩
      RunsWith s r.1 sid (.free sid f) (t.setS f.sd.toNat (BitVec.ofNat 64 r.2))) ∧
    (∀ f : FmtHint, Issues s sid (f.word 0x24#6 0x02#6) → f.rsv = 0#26 → noneWaits s sid [f.sd.toNat, f.sa.toNat, f.sb.toNat] →
      let r := at_.hintFn ⟨t.occ.getD 0, (t.sreg f.sa.toNat).toNat, (t.sreg f.sb.toNat).toNat, f.sz = 1#1, f.tier.toNat, f.pol.toNat,
        false, f.die.toNat, false, f.setpol = 1#1, false⟩
      RunsWith s r.1 sid (.hint sid f) (t.setS f.sd.toNat (BitVec.ofNat 64 r.2)))

/-- The three functions of Table LDG.7: a misaligned, empty or too long range gives 2, an overlap in ALLOC 1, an unmapped crate in FREE
or HINT 1, and any status but 0 leaves the module as it was. With 0, ALLOC maps every crate of the range, FREE hands every crate to the
next page commit and HINT hands it the changes of policy; memory, stalls and contexts do not change. -/
def Sys2Proof.Claim.LedgerFunctions : Prop :=
  ∀ (s : State) (a : LdgArgs), a.order = false →
    let bad := a.va % crateBytes a.big ≠ 0 ∨ a.count = 0 ∨ 65536 ≤ a.count ∨ 2 ^ 56 < a.va + a.count * crateBytes a.big
    (bad → s.allocFn a = (s, 2) ∧ s.freeFn a = (s, 2) ∧ s.hintFn a = (s, 2)) ∧
    ((s.allocFn a).2 ≠ 0 → (s.allocFn a).1 = s) ∧ ((s.freeFn a).2 ≠ 0 → (s.freeFn a).1 = s) ∧ ((s.hintFn a).2 ≠ 0 → (s.hintFn a).1 = s) ∧
    (∀ c ∈ a.crates, ¬ bad → ((s.leafOf c).isNone = true → (s.freeFn a).2 = 1) ∧
      (s.overlaps c = true → (s.allocFn a).2 ≠ 0)) ∧
    ((s.allocFn a).2 = 0 → (∀ c ∈ a.crates, c ∈ (s.allocFn a).1.ledger.crates ∧ s.overlaps c = false ∧
        (a.now = true → (c, a.die) ∈ (s.allocFn a).1.ledger.demands)) ∧
      (s.allocFn a).1 = { s with ledger := (s.allocFn a).1.ledger, freeCtr := (s.allocFn a).1.freeCtr }) ∧
    ((s.freeFn a).2 = 0 → (s.freeFn a).1 = { s with ledger := { s.ledger with pendFree := (s.freeFn a).1.ledger.pendFree } } ∧
      (∀ c ∈ a.crates, ∃ n, (c, n) ∈ (s.freeFn a).1.ledger.pendFree) ∧ (∀ p ∈ s.ledger.pendFree, p ∈ (s.freeFn a).1.ledger.pendFree)) ∧
    ((s.hintFn a).2 = 0 → (s.hintFn a).1.ledger.pendPol = s.ledger.pendPol ++
        (if a.setpol then a.crates.map (fun c => ⟨c, some a.pol, none, s.now⟩) else []) ∧
      (s.hintFn a).1 = { s with ledger := (s.hintFn a).1.ledger })
/-! ## Memory (07_depot_memory.md R224 to R251), translation and the dray (08_ledger_dray.md R262 to R283) -/
namespace Sys2Proof.Claim

/-- From `s` to `t` the request `r` was served at its place: a write has put its line there and is acknowledged, a read is answered with
the line that stands there; no other byte and no other request changes, and nothing else does. -/
def Served (s t : State) (r : Req) : Prop :=
  let a := r.addr % 2 ^ 46 / 64 * 64
  let ans : Stage := match r.wdata with
    | some _ => .ack
    | none => .data (s.line a)
  t = { s with mem := t.mem, reqs := s.reqs.map fun x => if x.seq = r.seq then { r with stage := ans } else x } ∧
  (∀ l, r.wdata = some l → t.line a = l) ∧ (r.wdata = none → t.mem = s.mem) ∧
  (∀ b, b < a ∨ a + 64 ≤ b → t.byte b = s.byte b)

/-- From `s` to `t` the request `r` was answered with the error `code`: one record of that code, no byte of memory and no stall changes. -/
def ErrorAnswer (s t : State) (r : Req) (code : Nat) : Prop :=
  t.mem = s.mem ∧ t.stalls = s.stalls ∧ t.ports = s.ports ∧
  t.reqs = s.reqs.map (fun x => if x.seq = r.seq then { r with stage := .err code } else x) ∧
  ∃ i, t.inc.log = i :: s.inc.log ∧ i.code = code

end Sys2Proof.Claim

/-- translate of R262: an error of a table read, a broken entry and an unmapped address are refused with their codes, a write needs W, a
TIER 0 or TIER 4 crate waits for its placement or import, a crate whose lender is lost or unreachable is refused, a write waits for the end of a move; otherwise the address is that of the
crate's storage plus the offset, with A set, and D set by a write only. -/
def Sys2Proof.Claim.Translation : Prop :=
  ∀ (s : State) (ctx va : Nat) (w : Bool),
    s.translate ctx va w true = .refuse 0x0705 ∧
    (s.walk ctx va = .unmapped → s.translate ctx va w false = .refuse 0x0701) ∧
    (∀ tb lv, s.walk ctx va = .bad tb lv → s.translate ctx va w false = .refuse 0x0705) ∧
    (∀ ea e big, s.walk ctx va = .leaf ea e big → let tr := s.translate ctx va w false
      (w = true → eW e = false → tr = .refuse 0x0702) ∧
      ((w = false ∨ eW e = true) →
        (eTier e = 0 → tr = .place (crateAt ctx va big) false) ∧
        (eTier e = 4 → tr = .place (crateAt ctx va big) true) ∧
        (eTier e = 6 → (s.lostStores.contains (eStore e) = true ∨ s.unreachable (eModule e) = true) → tr = .refuse 0x0709) ∧
        (eTier e ≠ 0 → eTier e ≠ 4 → (eTier e = 6 → s.lostStores.contains (eStore e) = false ∧ s.unreachable (eModule e) = false) →
          (w = true → eMove e = true → tr = .move) ∧
          ((w = false ∨ eMove e = false) → ∃ a e', tr = .ok a ea e' ∧ eA e' = true ∧ (eD e' = (eD e || w)) ∧
            eTier e' = eTier e ∧ eAddr e' = eAddr e ∧ ePol e' = ePol e ∧ eW e' = eW e ∧
            (eTier e ≠ 3 → a = eModule e * 2 ^ 46 + eAddr e + va % crateBytes big)))))

/-- The ledger answers a slot's read (R186, R261, R262): an accessible crate changes only its entry and the translation caches; a
refusal stops the stream with 0x0408 after the ledger's own record; a wait leaves the porter as it was. -/
def Sys2Proof.Claim.TranslationOfARead : Prop :=
  ∀ (s : State) (sid : StallId) (i : Fin 8) (d : Desc), (∀ r ∈ s.reqs, r.sid ≠ sid.num) →
    let q := (s.port sid.num).slot i.val
    q.state = .running → q.allIssued = false → q.desc = some d → (s.stall sid.num).status = .running →
    let ctx := (s.stall sid.num).occ.getD 0
    let va := (d.piece q.run q.line).va
    let tr := s.translate ctx va false false
    (∀ a ea e, tr = .ok a ea e → ∃ t, exec (.translate sid i .none) s = .next t ∧
      t = { s with
        ledger := { s.ledger with tabs := t.ledger.tabs, dieCache := t.ledger.dieCache, upper := t.ledger.upper }, ports := t.ports } ∧
      t.tabWord ea = e ∧ (∀ x, x ≠ ea → t.tabWord x = s.tabWord x) ∧
      (∀ k, t.port k = { s.port k with xcache := (t.port k).xcache }) ∧ xhit (t.port sid.num).xcache ctx va = true) ∧
    (∀ code, tr = .refuse code → ∃ t, exec (.translate sid i .none) s = .next t ∧ t.mem = s.mem ∧
      (t.stall sid.num).status = .stopped 0x0408 s.now ∧ ((t.port sid.num).slot i.val).faulted = true ∧
      t.ledger.faultVa = va ∧ t.ledger.faultCtx = ctx ∧ (∃ x y, t.inc.log = y :: x :: s.inc.log ∧ x.code = code ∧ y.code = 0x0408)) ∧
    (∀ c sealed, tr = .place c sealed → ∃ t, exec (.translate sid i .none) s = .next t ∧ t.ports = s.ports ∧ t.mem = s.mem ∧
      t.stalls = s.stalls ∧ t.ledger.tabs = s.ledger.tabs ∧ t.ledger.demands.any (fun x => x.1 = c) = true)

/-- A row spine accepts one request of its 32 stalls, round-robin from the stall after the one accepted last, while its port has a free
entry and a free response slot; the request then stands in the row port's buffer, and nothing else changes (R224, R225). -/
def Sys2Proof.Claim.SpineAcceptsRoundRobin : Prop :=
  ∀ (s : State) (die : Fin 16) (row : Nat),
    let mine := fun (r : Req) => decide (dieOf r.sid = die.val) && decide (rowOf r.sid = row)
    let last := tget s.spine 31 (die.val * 160 + row)
    ((32 ≤ (s.reqs.filter fun r => mine r && r.inPort).length ∨ 32 ≤ (s.reqs.filter fun r => mine r && r.inSlot).length) →
      exec (.spineAccept die row) s = .next s) ∧
    (∀ (n : Nat) (r : Req), (s.reqs.filter fun r => mine r && r.inPort).length < 32 →
      (s.reqs.filter fun r => mine r && r.inSlot).length < 32 → n < 32 →
      (∀ m, m < n → ∀ x ∈ s.reqs, ¬ (mine x = true ∧ x.stage = .spine ∧ xOf x.sid % 32 = (last + 1 + m) % 32)) →
      s.reqs.find? (fun x => mine x && x.atSpine && decide (xOf x.sid % 32 = (last + 1 + n) % 32)) = some r →
      exec (.spineAccept die row) s = .next { s with
        spine := tput s.spine (die.val * 160 + row) ((last + 1 + n) % 32)
        reqs := (s.reqs.filter fun x => x.seq ≠ r.seq) ++ [{ r with stage := .port }] })

/-- A request alone at the inputs of its die's slice enters the queue that serves its address, the edge queue with the route that it keeps; one to an address that is reserved or not
populated gets an error response with 0x0706 (0x0607 where no route is left), and none enters a queue (R16, R229, R246, R264). -/
def Sys2Proof.Claim.DepotAdmission : Prop :=
  ∀ (s : State) (die : Fin 16) (slice : Fin 32) (r : Req), s.reqs = [r] → r.stage = .port → dieOf r.sid = die.val →
    rowOf r.sid < 160 →
    (s.physBad r.addr = true → ∃ t, exec (.depotAdmit die slice) s = .next t ∧ ErrorAnswer s t r 0x0706) ∧
    (s.physBad r.addr = false → ∀ d, s.target r.addr = .die d → s.way r = none → ∃ t, exec (.depotAdmit die slice) s = .next t ∧
      ErrorAnswer s t r 0x0607) ∧
    (∀ q w, s.physBad r.addr = false → s.way r = some w → s.queueAt r die.val = (slice.val, q) → q < 19 →
      ∃ t, exec (.depotAdmit die slice) s = .next t ∧ t.reqs = [{ r with
          detour := if q = 17 then w.1 else r.detour, route := if q = 17 then w.2 else r.route
          stage := .queue die.val slice.val q }] ∧
        t = { s with reqs := t.reqs, slices := t.slices, dieMem := t.dieMem } ∧
        (t.slicePtr (die.val * 32 + slice.val)).lastQ = q)

/-- A depot bank serves the oldest request of its queue and no other; a single-bit error is corrected and counted, and recorded once a
bell; a double-bit error answers with 0x0602, is counted with its address, and the line is neither read nor written (R227, R234). -/
def Sys2Proof.Claim.DepotBankServes : Prop :=
  ∀ (s : State) (die : Fin 16) (slice : Fin 32) (bank : Fin 16), Memory.wf s.mem = true →
    (s.inQueue die.val slice.val bank.val = [] → ∀ e, exec (.depotBankAccess die slice bank e) s = .next s) ∧
    (∀ r rest, s.inQueue die.val slice.val bank.val = r :: rest →
      (∃ t, exec (.depotBankAccess die slice bank .none) s = .next t ∧ Served s t r) ∧
      (∃ t u, exec (.depotBankAccess die slice bank .single) s = .next t ∧ Served u t r ∧ u.mem = s.mem ∧ u.reqs = s.reqs ∧
        (u.dmem die.val).depotCe = satInc (s.dmem die.val).depotCe ∧ (u.dmem die.val).depotCeBell = true ∧
        ((s.dmem die.val).depotCeBell = true → u.inc = s.inc) ∧
        ((s.dmem die.val).depotCeBell = false → ∃ i, u.inc.log = i :: s.inc.log ∧ i.code = 0x0601)) ∧
      (∃ t, exec (.depotBankAccess die slice bank .double) s = .next t ∧ ErrorAnswer s t r 0x0602 ∧
        (t.dmem die.val).depotUe = satInc (s.dmem die.val).depotUe ∧ (t.dmem die.val).ueAddr = r.addr % 2 ^ 46 ∧
        (t.dmem die.val).ueSrc = 0))

/-- The HBM queue of a slice feeds its tracker while that has room; the controller may serve any request of the tracker but those behind an
older one to the same line; its double-bit errors answer with 0x0604 (R227, R229, R238, R241, R242). -/
def Sys2Proof.Claim.HbmServes : Prop :=
  ∀ (s : State) (die : Fin 16) (slice : Fin 32) (r : Req), Memory.wf s.mem = true →
    (s.inQueue die.val slice.val 16 = [r] → (s.inTracker die.val slice.val).length < 128 → (∀ x ∈ s.reqs, x.seq = r.seq → x = r) →
      ∀ (n : Nat) e, n ≠ r.seq → (∀ x ∈ s.inTracker die.val slice.val, x.seq ≠ n) → ∃ t, exec (.hbmAccess die slice n e) s = .next t ∧
        t.inQueue die.val slice.val 16 = [] ∧
        t.inTracker die.val slice.val = s.inTracker die.val slice.val ++ [{ r with stage := .tracker die.val slice.val }] ∧
        t = { s with reqs := t.reqs, dieMem := t.dieMem }) ∧
    (s.inQueue die.val slice.val 16 = [] → (s.inTracker die.val slice.val).find? (fun x => x.seq = r.seq) = some r →
    ∀ x, (s.inTracker die.val slice.val).find? (fun z => z.addr / 64 = r.addr / 64) = some x →
      (x.seq ≠ r.seq → ∀ e, exec (.hbmAccess die slice r.seq e) s = .next s) ∧
      (x.seq = r.seq →
        (∃ t, exec (.hbmAccess die slice r.seq .none) s = .next t ∧ Served s t r) ∧
        (∃ t u, exec (.hbmAccess die slice r.seq .single) s = .next t ∧ Served u t r ∧ u.mem = s.mem ∧ u.reqs = s.reqs ∧
          (u.dmem die.val).hbmCe = satInc (s.dmem die.val).hbmCe) ∧
        (∃ t, exec (.hbmAccess die slice r.seq .double) s = .next t ∧ ErrorAnswer s t r 0x0604 ∧
          (t.dmem die.val).hbmUe = satInc (s.dmem die.val).hbmUe ∧ (t.dmem die.val).ueAddr = r.addr % 2 ^ 46 ∧
          (t.dmem die.val).ueSrc = 1)))

/-- An access to a stock window is served at the target stall's stock; of a fenced stall it gets an error response with 0x0605; a
double-bit error stops the target stall with 0x0206 (R100, R235). -/
def Sys2Proof.Claim.StockWindowIsRelayed : Prop :=
  ∀ (s : State) (die : Fin 16) (slice : Fin 32) (r : Req) (rest : List Req), Memory.wf s.mem = true →
    s.inQueue die.val slice.val 18 = r :: rest → let k := (r.addr % 2 ^ 46 - stockWin) / 0x40000
    (s.fenced k = true → ∀ e, ∃ t, exec (.stockWindowRelay die slice e) s = .next t ∧ ErrorAnswer s t r 0x0605) ∧
    (s.fenced k = false → ∃ t, exec (.stockWindowRelay die slice .none) s = .next t ∧ Served s t r) ∧
    (s.fenced k = false → (s.stall k).status = .running → ∃ t, exec (.stockWindowRelay die slice .double) s = .next t ∧
      t.mem = s.mem ∧ (t.stall k).status = .stopped 0x0206 (s.now + 1) ∧
      t.reqs = s.reqs.map (fun x => if x.seq = r.seq then { r with stage := .err 0x0206 } else x))

/-- The fixed route between two dies goes along the ladder row of its source and then across (R245): it ends at the destination, each die
on it neighbours the one before, and the detour, which shares no link with it, does the same (R246). -/
def Sys2Proof.Claim.RoutesBetweenDies : Prop :=
  ∀ a b : Fin 16, a ≠ b →
    (∀ l ∈ [fixedRoute a.val b.val, detourRoute a.val b.val], l.getLast? = some b.val ∧ (∀ d ∈ l, d < 16) ∧
      ∀ p ∈ (a.val :: l).zip l, (p.1 / 8 = p.2 / 8 ∧ (p.1 + 1 = p.2 ∨ p.2 + 1 = p.1)) ∨ (p.1 % 8 = p.2 % 8 ∧ p.1 / 8 ≠ p.2 / 8)) ∧
    (∀ k ∈ routeLinks a.val (fixedRoute a.val b.val), k ∉ routeLinks a.val (detourRoute a.val b.val)) ∧
    (∀ d ∈ (fixedRoute a.val b.val).dropLast, d / 8 = a.val / 8)

/-- The oldest request of an edge queue goes one die on along the route it keeps, once the edge port there and its virtual channel have
room, or leaves for the host; a failed link ahead answers it with 0x0609, a fenced die ahead with 0x0607 (R225, R243, R245, R246, R248). -/
def Sys2Proof.Claim.EdgeForwards : Prop :=
  ∀ (s : State) (die : Fin 16) (slice : Fin 32) (r : Req) (rest : List Req), s.inQueue die.val slice.val 17 = r :: rest →
    let down := fun (k : Nat) => (s.failedLinks.contains k || s.failing.contains k)
    (∀ n l, r.route = n :: l → let link := min die.val n * 16 + max die.val n
      (down link = true → exec (.edgeForward die slice) s = .next { s with
        reqs := s.reqs.map fun x => if x.seq = r.seq then { r with stage := .err 0x0609 } else x }) ∧
      (down link = false → s.deadDies.contains n = true → ∃ t, exec (.edgeForward die slice) s = .next t ∧ ErrorAnswer s t r 0x0607) ∧
      (down link = false → s.deadDies.contains n = false →
        let e := if n / 8 ≠ die.val / 8 then 2 else if n % 8 > die.val % 8 then 1 else 0
        let sl := 4 * bitsAt (r.addr % 2 ^ 46) 6 3 + e
        (s.edgeRoom r n sl e r.detour = false → exec (.edgeForward die slice) s = .next s) ∧
        (s.edgeRoom r n sl e r.detour = true → ∃ t, exec (.edgeForward die slice) s = .next t ∧
          t.reqs = (s.reqs.filter fun x => x.seq ≠ r.seq) ++
            [{ r with left := some (r.left.getD s.now), route := l, path := (32 * n + sl) :: r.path, stage := .edge n sl }] ∧
          t = { s with reqs := t.reqs, queues := t.queues }))) ∧
    (r.route = [] → s.target r.addr = .host →
      (down (256 + die.val) = true → exec (.edgeForward die slice) s = .next { s with
        reqs := s.reqs.map fun x => if x.seq = r.seq then { r with stage := .err 0x0609 } else x }) ∧
      (down (256 + die.val) = false → exec (.edgeForward die slice) s = .next { s with reqs := s.reqs.map fun x =>
        if x.seq = r.seq then { r with left := some (r.left.getD s.now), stage := .host s.now } else x }))

/-- A link whose retraining fails is marked for the next bell with record 0x0609, and requests that cross it get error responses; in
STANDBY and OFF nothing happens. A DDR5 request unanswered 2^20 cy after it left its die gets an error response with 0x0608 and is
counted, wherever it is (R246, R251). A message between die controllers changes nothing that this model holds. -/
def Sys2Proof.Claim.LinksAndTimeouts : Prop :=
  ∀ s : State,
    (∀ link, s.mod.state < 2 → exec (.ucieLinkFailed link) s = .next s) ∧
    (∀ link, 2 ≤ s.mod.state → ∃ t, exec (.ucieLinkFailed link) s = .next t ∧ link ∈ t.failing ∧ (∀ x ∈ s.failing, x ∈ t.failing) ∧
      t.failedLinks = s.failedLinks ∧ t.mem = s.mem ∧ t.stalls = s.stalls ∧ t.reqs.length = s.reqs.length ∧
      (∃ i, t.inc.log = i :: s.inc.log ∧ i.code = 0x0609) ∧ (∀ x ∈ t.reqs, x ∈ s.reqs ∨ x.stage = .err 0x0609)) ∧
    (∀ (r : Req) (c : Nat), s.reqs.find? (fun x => x.seq = r.seq) = some r → s.target r.addr = .host →
      r.left = some c → r.answered = false →
      ∃ t, exec (.ddrTimeout r.seq) s = .next t ∧ ErrorAnswer s t r 0x0608 ∧ t.now = max s.now (c + 2 ^ 20) ∧
        (t.dmem (dieOf r.sid)).ddrTimeouts = satInc (s.dmem (dieOf r.sid)).ddrTimeouts) ∧
    (∀ a b, exec (.ctl a b) s = .next s)

/-- A write of CLR clears the four peak registers of a die and no other register of it; a fenced die ignores it (Table DEP.7,
11_host_rings.md R363). -/
def Sys2Proof.Claim.PeaksAreCleared : Prop :=
  ∀ (s : State) (die : Fin 16),
    (s.deadDies.contains die.val = true → exec (.dieMemPeakClr die) s = .next s) ∧
    (s.deadDies.contains die.val = false → ∃ t, exec (.dieMemPeakClr die) s = .next t ∧ t = { s with dieMem := t.dieMem } ∧
      t.dmem die.val = { s.dmem die.val with hbmPeak := 0, peakDepth := 0, peakSlice := 0, peakQueue := 0 } ∧
      ∀ d, d ≠ die.val → t.dmem d = s.dmem d)

/-- A crate that a translation waits for is placed (R274): storage of its placement tier is taken, filled with zeros, and named by its
leaf; the demand is met; no byte outside the storage changes. For depot crates. While the bell is held nothing is placed. -/
def Sys2Proof.Claim.CrateIsPlaced : Prop :=
  ∀ (s : State) (c : Crate) (die a e : Nat), Memory.wf s.mem = true → s.ledger.demands.find? (fun d => d.1.ctx = c.ctx && d.1.va = c.va) = some (c, die) →
    s.leafOf c = some (a, e) → eTier e = 0 →
    (s.bell.held = true → exec (.drayPlace c.ctx c.va) s = .next s) ∧
    (∀ (t0 : State) (u pd : Nat), s.bell.held = false → s.placeOf c = (2, pd) → s.takeUnits 2 pd (crateUnits c.big) = some (t0, u) →
      ∃ t, exec (.drayPlace c.ctx c.va) s = .next t ∧
        (∀ b, depotBase + u * 65536 ≤ b → b < depotBase + u * 65536 + crateBytes c.big → t.byte b = 0#8) ∧
        (∀ b, b < depotBase + u * 65536 ∨ depotBase + u * 65536 + crateBytes c.big ≤ b → t.byte b = s.byte b) ∧
        t.tabWord a = mkLeaf (ePol e) (eW e) (eShr e) (eMove e) (eA e) (eD e) ⟨2, depotBase + u * 65536, s.mod.id⟩ ∧
        (∀ x, x ≠ a → t.tabWord x = s.tabWord x) ∧ (∀ x ∈ t.ledger.demands, x.1 ≠ c) ∧
        t.ledger.depotUsed = s.ledger.depotUsed ++ [⟨u, crateUnits c.big⟩] ∧ t.stalls = s.stalls ∧ t.ports = s.ports)

/-- The storage that the allocator takes is free (R269): the units lie in the tier's range and meet no span in use; the caller's module
is otherwise as it was. -/
def Sys2Proof.Claim.TakenUnitsAreFree : Prop :=
  ∀ (s t : State) (tier die n i : Nat), 0 < n → s.takeUnits tier die n = some (t, i) →
    (s.unitRange tier die).1 ≤ i ∧ i + n ≤ (s.unitRange tier die).2 ∧
    (∀ x ∈ s.used tier, 0 < x.len → x.start + x.len ≤ i ∨ i + n ≤ x.start) ∧
    t = { s with ledger := t.ledger, freeCtr := s.freeCtr + 1 }

/-- make_room (R275): the dray asks for at most one more move down of a crate of the tier, from where its leaf puts it, and changes
nothing but its own bookkeeping; held it does nothing; below LOW_PCT it does ask where a candidate and a place below exist. -/
def Sys2Proof.Claim.DrayMakesRoom : Prop :=
  ∀ (s : State) (tier : Nat),
    (s.bell.held = true → exec (.drayEvict tier) s = .next s) ∧
    (∃ t, exec (.drayEvict tier) s = .next t ∧ t = { s with ledger := { s.ledger with
        moves := t.ledger.moves, evicting := t.ledger.evicting, sweepHbm := t.ledger.sweepHbm, sweepDepot := t.ledger.sweepDepot } } ∧
      (t.ledger.moves = s.ledger.moves ∨ ∃ m, t.ledger.moves = s.ledger.moves ++ [m] ∧ m.phase = .asked ∧ m.isExport = false ∧
        m.src.tier = tier ∧ s.leafOf m.crate ≠ none ∧ s.lowerTier tier m.crate.big = some m.dst.tier ∧
        (s.ledger.moves.all fun x => decide (x.crate ≠ m.crate)) = true)) ∧
    (∀ c a l, (tier = 2 ∨ tier = 3) → s.bell.held = false →
      (s.tierRoom tier).2 * 100 < bitsAt s.ldgPolicy 0 8 * (s.tierRoom tier).1 →
      ((s.tierRoom tier).2 + s.freeingUnits tier) * 100 < bitsAt s.ldgPolicy 8 8 * (s.tierRoom tier).1 →
      s.candidate tier 16 = some (c, a) → s.lowerTier tier c.big = some l →
      ∃ t, exec (.drayEvict tier) s = .next t ∧ t.ledger.moves.length = s.ledger.moves.length + 1)

/-- A sealed crate is imported on demand (R283): an image that opens is written to new HBM, its leaf names it and its waiters go on; one
that does not is refused with its code, counted, and no byte of memory changes; nor does one where host memory does not answer (R264). -/
def Sys2Proof.Claim.DrayImports : Prop :=
  ∀ (s : State) (c : Crate) (die a e u : Nat) (t0 : State) (h b : List Byte), s.bell.held = false →
    s.ledger.demands.find? (fun d => d.1.ctx = c.ctx && d.1.va = c.va) = some (c, die) →
    s.leafOf c = some (a, e) → eTier e = 4 → h.length = 64 → b.length = crateBytes c.big →
    s.takeUnits 3 0 (crateUnits c.big) = some (t0, u) →
    (∀ v l, s.openImage c c.ctx s.mod.id (s.shadow c) true h b = .body v l →
      ∃ t, exec (.drayImport c.ctx c.va (.bytes h) (.bytes b)) s = .next t ∧
        t.tabWord a = mkLeaf (ePol e) (eW e) (eShr e) (eMove e) (eA e) (eD e) ⟨3, s.hbmUnitAddr u, s.mod.id⟩ ∧
        (∀ x, x ≠ a → t.tabWord x = s.tabWord x) ∧ (∀ x ∈ t.ledger.demands, x.1 ≠ c) ∧ t.stalls = s.stalls ∧ t.ports = s.ports) ∧
    (∀ x y : HostMem, x.data = none ∨ y.data = none → ∃ t, exec (.drayImport c.ctx c.va x y) s = .next t ∧ t.mem = s.mem ∧
      t.ledger.tabs = s.ledger.tabs ∧ ∀ d ∈ t.ledger.demands, d.1 ≠ c) ∧
    (∀ code detail, s.openImage c c.ctx s.mod.id (s.shadow c) true h b = .refuse code detail →
      ∃ t, exec (.drayImport c.ctx c.va (.bytes h) (.bytes b)) s = .next t ∧ t.mem = s.mem ∧ t.ledger.tabs = s.ledger.tabs ∧
        t.ledger.importRefused = satInc s.ledger.importRefused)

/-- What an image must have to open (R283): the header of its crate, context and home, the version that the shadow asks for, and a tag
that verifies over header and body. -/
def Sys2Proof.Claim.ImageOpensOnlyWhole : Prop :=
  ∀ (s : State) (c : Crate) (ctx home shadow v : Nat) (check : Bool) (h b l : List Byte),
    s.openImage c ctx home shadow check h b = .body v l →
      v = leNat (h.take 8) ∧ h.take 48 = sealHeader v home c ctx ∧
      (∃ m, gcmOpen s.trust.crateKey (sealIv (h.take 48)) (h.take 48) b ((h.drop 48).take 16) = some m ∧ l = fitBytes b.length m) ∧
      (check = true → home = 0x3FFFF → shadow < v) ∧ (check = true → home ≠ 0x3FFFF → v = shadow)

/-- A move copies once the writes translated before its start have drained (R276): the body read at the source stands at a depot target,
no other byte changes, and the move is copied; an error response leaves it failed; while held, or with writes out, nothing happens. -/
def Sys2Proof.Claim.MoveCopies : Prop :=
  ∀ (s : State) (m : Move), Memory.wf s.mem = true →
    s.ledger.moves.find? (fun x => x.crate.ctx = m.crate.ctx && x.crate.va = m.crate.va && x.phase = .moving) = some m →
    m.isExport = false → (m.src.tier = 2 ∨ m.src.tier = 3) → m.dst.tier = 2 →
    let turned := fun (p : MovePhase) => s.ledger.moves.map fun x =>
      if x.crate = m.crate ∧ x.isExport = false then { m with phase := p, since := s.now } else x
    (s.bell.held = true → ∀ h e, exec (.moveCopy m.crate.ctx m.crate.va h e) s = .next s) ∧
    ((s.reqs.any fun r => m.fence.contains r.seq) = true → ∀ h e, exec (.moveCopy m.crate.ctx m.crate.va h e) s = .next s) ∧
    (s.bell.held = false → (s.reqs.any fun r => m.fence.contains r.seq) = false → ∀ h,
      (∀ met, (s.meetCrate m.engine (engineId m.engine) (some m.crate.ctx) m.src m.crate.big met).2 ≠ 0 →
        ∃ t, exec (.moveCopy m.crate.ctx m.crate.va h met) s = .next t ∧ t.mem = s.mem ∧ t.ledger = { s.ledger with moves := turned .failed }) ∧
      ((∀ b ∈ s.crateBlocks m.src m.crate.big, s.lineCode m.engine (m.src.module * 2 ^ 46 + b) = 0) →
        ∃ t, exec (.moveCopy m.crate.ctx m.crate.va h []) s = .next t ∧
          t = { s with mem := t.mem, ledger := { s.ledger with moves := turned .copied } } ∧
          (∀ i, i < crateBytes m.crate.big → some (t.byte (m.dst.addr + i)) = (s.crateRead m.src m.crate.big)[i]?) ∧
          (∀ b, b < m.dst.addr ∨ m.dst.addr + crateBytes m.crate.big ≤ b → t.byte b = s.byte b)))

/-- Storage given up returns to its free list when every request translated to it before the commit has been answered, and not before
(R268). -/
def Sys2Proof.Claim.StorageDrains : Prop :=
  ∀ (s : State) (i : Nat) (d : Drain), s.ledger.drains[i]? = some d →
    ((s.reqs.any fun r => d.fence.contains r.seq) = true → exec (.storageDrain i) s = .next s) ∧
    ((s.reqs.any fun r => d.fence.contains r.seq) = false → d.store.tier = 2 →
      exec (.storageDrain i) s = .next { s with ledger := { s.ledger with
        drains := s.ledger.drains.eraseIdx i
        depotUsed := s.ledger.depotUsed.filter fun x => x.start ≠ (d.store.addr - depotBase) / 65536 } })
/-! ## Weago messages (10_weago.md R331 to R350) -/

/-- Taking a message frees its cells as credit for its class and leaves every other queue, port and part of the module as it was (R324);
sending one puts it last in its class queue of the port its route names, or drops it with 0x0907 (R336). -/
def Sys2Proof.Claim.MessagesMove : Prop :=
  (∀ (s : State) (p cls : Nat) (m : Msg), s.headMsg p cls = some m → let t := s.takeMsg p cls
    t = { s with fab := { s.fab with ports := t.fab.ports } } ∧ (∀ q, q ≠ p → t.wport q = s.wport q) ∧
    t.wport p = { s.wport p with rx := (t.wport p).rx, ret := (t.wport p).ret } ∧
    tget (s.wport p).rx [] cls = m :: tget (t.wport p).rx [] cls ∧
    tget (t.wport p).ret 0 cls = tget (s.wport p).ret 0 cls + m.cells ∧
    (∀ c, c ≠ cls → tget (t.wport p).rx [] c = tget (s.wport p).rx [] c ∧ tget (t.wport p).ret 0 c = tget (s.wport p).ret 0 c)) ∧
  (∀ (s : State) (m : Msg),
    (∀ p, s.egress m = some p → s.portTakes p = true ∧ routePort (s.route m.dest) m.psel = some p ∧
      let t := s.sendMsg m
      t = { s with fab := { s.fab with ports := t.fab.ports } } ∧ (∀ q, q ≠ p → t.wport q = s.wport q) ∧
      t.wport p = { s.wport p with tx := (t.wport p).tx } ∧
      tget (t.wport p).tx [] m.cls = tget (s.wport p).tx [] m.cls ++ [m] ∧
      (∀ c, c ≠ m.cls → tget (t.wport p).tx [] c = tget (s.wport p).tx [] c)) ∧
    (s.egress m = none → (s.sendMsg m).fab = s.fab ∧ ∃ i, (s.sendMsg m).inc.log = i :: s.inc.log ∧ i.code = 0x0907))

/-- The fields of a message that is made and of one that is forwarded: every field keeps its bits, HOPS goes up by one (Table WGO.6,
R336). -/
def Sys2Proof.Claim.MessageFields : Prop :=
  (∀ (ty cls lines psel dest src ctx tag addr : Nat) (e : Option Nat) (d : List Line), ty < 16 → cls < 4 → lines < 32 → psel < 2 →
    dest < 2 ^ 18 → src < 2 ^ 18 → ctx < 64 → tag < 2 ^ 14 → addr < 2 ^ 46 → let m := mkMsg ty cls lines psel dest src ctx tag addr e d
    m.ty = ty ∧ m.cls = cls ∧ m.lines = lines ∧ m.hasExt = e.isSome ∧ m.psel = psel ∧ m.hops = 0 ∧ m.dest = dest ∧ m.src = src ∧
    m.ctx = ctx ∧ m.tag = tag ∧ m.addr = addr ∧ m.data = d ∧ m.hdr.toNat / 2 ^ 119 = 0) ∧
  (∀ m : Msg, m.hops < 15 → m.hop.hops = m.hops + 1 ∧ m.hop.ty = m.ty ∧ m.hop.cls = m.cls ∧ m.hop.lines = m.lines ∧
    m.hop.psel = m.psel ∧ m.hop.dest = m.dest ∧ m.hop.src = m.src ∧ m.hop.ctx = m.ctx ∧ m.hop.tag = m.tag ∧ m.hop.addr = m.addr ∧
    m.hop.ext = m.ext ∧ m.hop.data = m.data)

/-- RD and WR from a module of the hall to storage that this module lends it: the lines are answered, or written and acknowledged; from
outside the hall the answer is ERR 3, to other storage ERR 1, where a line meets an error ERR 2, and nothing is written (R339, R341). -/
def Sys2Proof.Claim.RemoteAccess : Prop :=
  ∀ (s : State) (p : Fin 16) (m : Msg) (met : List Met), Gets s p.val 0 m → Memory.wf s.mem = true →
    let s1 := s.takeMsg p.val 0
    let ans := fun (ty lines addr : Nat) (d : List Line) => mkMsg ty 1 lines 0 m.src s.mod.id m.ctx m.tag addr none d
    let lent := ∀ i, i < m.lines → s.lent m.src (m.addr + 64 * i) = true
    let sound := ∀ i, i < m.lines → s1.lineCode p.val (s.mod.id * 2 ^ 46 + (m.addr + 64 * i)) = 0
    let meets := s1.meetRemote p.val m met
    (m.ty = 1 →
      (s.inHall m.src = true → lent → sound → exec (.wgoRd p []) s =
        .next (s1.sendMsg (ans 3 m.lines m.addr ((upFrom 0 m.lines).map fun i => s.line (m.addr + 64 * i))))) ∧
      (s.inHall m.src = true → lent → meets.2 = true → meets.1.mem = s.mem ∧ exec (.wgoRd p met) s = .next (meets.1.sendMsg (ans 5 0 2 []))) ∧
      (s.inHall m.src = true → ¬ lent → exec (.wgoRd p met) s = .next (s1.sendMsg (ans 5 0 1 []))) ∧
      (s.inHall m.src = false → exec (.wgoRd p met) s = .next (s1.sendMsg (ans 5 0 3 [])))) ∧
    (m.ty = 2 →
      (s.inHall m.src = true → lent → sound → ∃ u : State, exec (.wgoWr p []) s = .next (u.sendMsg (ans 4 0 m.addr [])) ∧
        u = { s1 with mem := u.mem } ∧
        (∀ (i : Nat) (l : Line), m.data[i]? = some l → u.line (m.addr + 64 * i) = l) ∧
        (∀ b, b < m.addr ∨ m.addr + 64 * m.data.length ≤ b → u.byte b = s.byte b)) ∧
      (s.inHall m.src = true → lent → meets.2 = true → meets.1.mem = s.mem ∧ exec (.wgoWr p met) s = .next (meets.1.sendMsg (ans 5 0 2 []))) ∧
      (s.inHall m.src = true → ¬ lent → exec (.wgoWr p met) s = .next (s1.sendMsg (ans 5 0 1 []))) ∧
      (s.inHall m.src = false → exec (.wgoWr p met) s = .next (s1.sendMsg (ans 5 0 3 []))))

/-- A response answers the requests of the message with its tag and sender: read data line by line, an acknowledgement each, an error
each (ERR 1 also says that the crates that lie at the lender now are lost; an error of a write that no porter waits for is kept); the
message is then no longer open; one that answers nothing is dropped, and an ERR that answers a FETCH fails its move (R340, R341, R342,
R348, R349). -/
def Sys2Proof.Claim.RemoteAnswers : Prop :=
  ∀ (s : State) (p : Fin 16) (m : Msg), Gets s p.val 1 m → s.fab.held = [] →
    let s1 := s.takeMsg p.val 1
    let cause := m.addr % 256
    let ended := fun (r : Remote) (fw : Tbl Nat) (ans : Nat → Stage) => ({ s1 with
      fab := { s1.fab with remotes := s.fab.remotes.filter (fun x => x.tag ≠ r.tag), failedWrites := fw }
      reqs := s.reqs.map fun q => if q.stage = .remote r.tag then
        { q with stage := ans ((r.reqs.findIdx? fun n => n = q.seq).getD 0) } else q } : State)
    (∀ r, s.remoteOf m = some r →
      (m.ty = 3 → exec (.wgoRdr p) s = .next (ended r s.fab.failedWrites fun i => .data (m.data.getD i 0#512))) ∧
      (m.ty = 4 → exec (.wgoWra p) s = .next (ended r s.fab.failedWrites fun _ => .ack)) ∧
      (m.ty = 5 → exec (.wgoErr p) s = .next {
        ended r (if r.reqs.isEmpty then tput s.fab.failedWrites r.tag cause else s.fab.failedWrites) (fun _ => .err cause) with
        lostStores := if cause = 1 then s.lostStores ++ (s.storesAt m.src).filter (fun x => !s.lostStores.contains x) else s.lostStores })) ∧
    (s.remoteOf m = none → (m.ty = 3 → exec (.wgoRdr p) s = .next s1) ∧ (m.ty = 4 → exec (.wgoWra p) s = .next s1) ∧
      (m.ty = 5 → s.sentOf m.tag = none → exec (.wgoErr p) s = .next s1) ∧
      (m.ty = 5 → ∀ x y, s.sentOf m.tag = some x → x.msg.dest = m.src → x.msg.ty = 9 → x.msg.crateOp = 8 → cause ≠ 1 →
        s.ledger.moves.find? (fun z => z.crate = x.msg.crate && z.phase = .moving && z.src.tier = 6) = some y →
        exec (.wgoErr p) s = .next { s1 with
          fab := { s1.fab with sent := s.fab.sent.filter fun z => z.tag ≠ m.tag }
          ledger := { s.ledger with moves := s.ledger.moves.map fun z => if z.same y then { y with phase := .failed, since := s.now } else z } }))

/-- A remote request unanswered 2^20 cy after it left its port gets error responses, a count and record 0x0909; one that has not left
does not time out (R342). -/
def Sys2Proof.Claim.RemoteTimeouts : Prop :=
  ∀ (s : State) (r : Remote), s.fab.remotes.find? (fun x => x.tag = r.tag) = some r → s.fab.held = [] →
    (r.sent = none → exec (.remoteTimeout r.tag) s = .next s) ∧
    (∀ c, r.sent = some c → ∃ t i, exec (.remoteTimeout r.tag) s = .next t ∧ t.now = max s.now (c + 2 ^ 20) ∧
      t.fab = { s.fab with
        remotes := s.fab.remotes.filter (fun x => x.tag ≠ r.tag), timeouts := satInc s.fab.timeouts
        failedWrites := if r.reqs.isEmpty then tput s.fab.failedWrites r.tag 0x0909 else s.fab.failedWrites } ∧
      t.reqs = s.reqs.map (fun q => if q.stage = .remote r.tag then { q with stage := .err 0x0909 } else q) ∧
      t.mem = s.mem ∧ t.stalls = s.stalls ∧ t.inc.log = i :: s.inc.log ∧ i.code = 0x0909)

/-- A message for another module goes on with HOPS one higher over the port its route names; after 15 modules it is dropped with 0x0908;
with no route it is dropped with 0x0907, and another module's REQ or ORD message is answered NOROUTE where that can be sent (R336). -/
def Sys2Proof.Claim.Forwarding : Prop :=
  ∀ (s : State) (p : Fin 16) (cls : Fin 4) (m : Msg), s.headMsg p.val cls.val = some m →
    let s1 := s.takeMsg p.val cls.val
    ((m.dest = s.mod.id ∨ m.cls = 3) → exec (.forward p cls) s = .next s) ∧
    (m.dest ≠ s.mod.id → m.cls ≠ 3 →
      (m.hops = 15 → ∃ t i, exec (.forward p cls) s = .next t ∧ t.fab = s1.fab ∧ t.inc.log = i :: s.inc.log ∧ i.code = 0x0908) ∧
      (m.hops ≠ 15 → ∀ q, s1.egress m.hop = some q → exec (.forward p cls) s = .next (s1.queueMsg q m.hop)) ∧
      (m.hops ≠ 15 → s1.egress m.hop = none →
        ((m.cls = 1) → ∃ t i, exec (.forward p cls) s = .next t ∧ t.fab = s1.fab ∧ t.inc.log = i :: s.inc.log ∧ i.code = 0x0907) ∧
        ((m.cls = 0 ∨ m.cls = 2) → m.src ≠ s.mod.id → ∀ q, s1.egress (mkMsg 10 1 0 0 m.src s.mod.id m.ctx m.tag m.dest none []) = some q →
          ∃ t i, exec (.forward p cls) s = .next t ∧
            t.fab = (({ s1 with fab := { s1.fab with noroutes := satInc s.fab.noroutes } } : State).queueMsg q
              (mkMsg 10 1 0 0 m.src s.mod.id m.ctx m.tag m.dest none [])).fab ∧
            t.inc.log = i :: s.inc.log ∧ i.code = 0x0907)))

/-- A NOROUTE marks the path that its message took unusable and is counted; a request gets error responses, a signal is refused and
recorded for the stall that sent it, and one that answers neither marks the primary path and does no more (R197, R337). -/
def Sys2Proof.Claim.NorouteMarksThePath : Prop :=
  ∀ (s : State) (p : Fin 16) (m : Msg), Gets s p.val 1 m → m.ty = 10 → s.fab.held = [] → s.sets = [] →
    let dest := m.addr % 2 ^ 18
    let rem := s.fab.remotes.find? fun r => r.tag = m.tag && r.dest = dest
    ∃ t, exec (.noroute p) s = .next t ∧ t.fab.noroutes = satInc s.fab.noroutes ∧ t.mem = s.mem ∧ t.stalls = s.stalls ∧
      (∀ r, rem = some r → (dest, r.psel) ∈ t.fab.badPaths ∧ t.tlyRejects = s.tlyRejects ∧
        t.fab.remotes = s.fab.remotes.filter (fun x => x.tag ≠ r.tag) ∧
        t.reqs = s.reqs.map (fun q => if q.stage = .remote r.tag then { q with stage := .err 0x0907 } else q)) ∧
      (rem = none → ∀ x, s.sentOf m.tag = some x → x.msg.dest = dest → x.msg.ty = 6 → (dest, x.msg.psel) ∈ t.fab.badPaths ∧
        t.reqs = s.reqs ∧ t.tlyRejects = satInc s.tlyRejects ∧
        ∃ i, t.inc.log = i :: s.inc.log ∧ i.code = 0x0504 ∧ i.whre = x.whre ∧ i.ctx = x.ctx) ∧
      (rem = none → s.sentOf m.tag = none → (dest, 0) ∈ t.fab.badPaths ∧ t.reqs = s.reqs ∧ t.tlyRejects = s.tlyRejects ∧ t.inc = s.inc)

/-- ROOM_REQ from a module of the hall is granted while WGO_LEND and the HBM free list allow it, with the storage's address; otherwise it
is denied; ROOM_FREE lets the storage drain back; either from outside the hall is answered ERR 3 (R268, R339, R348). -/
def Sys2Proof.Claim.RoomIsLent : Prop :=
  ∀ (s : State) (p : Fin 16) (m : Msg), Gets s p.val 0 m → m.ty = 9 →
    let s1 := s.takeMsg p.val 0
    let c := m.crate
    (s.inHall m.src = false → let err := s1.sendMsg (mkMsg 5 1 0 0 m.src s.mod.id m.ctx m.tag 3 none [])
      (m.crateOp = 1 → exec (.roomReq p) s = .next err) ∧ (m.crateOp = 11 → exec (.roomFree p) s = .next err)) ∧
    (m.crateOp = 1 → s.inHall m.src = true →
      (s.liveReg 0 0x13024 < s.lentUnits + crateUnits c.big →
        exec (.roomReq p) s = .next (s1.sendReq (crateMsg 3 m.src s.mod.id m.ctx c 0)).1) ∧
      (s.lentUnits + crateUnits c.big ≤ s.liveReg 0 0x13024 → s1.takeUnits 3 0 (crateUnits c.big) = none →
        exec (.roomReq p) s = .next (s1.sendReq (crateMsg 3 m.src s.mod.id m.ctx c 0)).1) ∧
      (s.lentUnits + crateUnits c.big ≤ s.liveReg 0 0x13024 → ∀ t0 i, s1.takeUnits 3 0 (crateUnits c.big) = some (t0, i) →
        ∃ u : State, exec (.roomReq p) s = .next (u.sendReq (crateMsg 2 m.src s.mod.id m.ctx c (s.hbmUnitAddr i))).1 ∧
          u.fab = { s1.fab with grants := s.fab.grants ++ [⟨m.src, c.ctx, c.va, c.big, s.hbmUnitAddr i, false⟩] } ∧
          u.ledger.hbmUsed = s.ledger.hbmUsed ++ [⟨i, crateUnits c.big⟩] ∧ u.mem = s.mem)) ∧
    (m.crateOp = 11 → s.inHall m.src = true → ∀ x, s.fab.grants.find? (fun g => g.home = m.src && g.addr = m.arg) = some x →
      exec (.roomFree p) s = .next { s1 with
        fab := { s1.fab with grants := s.fab.grants.filter fun y => y ≠ x }
        ledger := { s.ledger with drains := s.ledger.drains ++ [⟨⟨3, x.addr, s.mod.id⟩, crateUnits x.big, s.inFlightReqs⟩] } })

/-- Image lines that PUT, and RETURN from the hall, bring are kept by their place in the image until it is whole, and nothing else changes (R347). -/
def Sys2Proof.Claim.ImageLinesArrive : Prop :=
  ∀ (s : State) (p : Fin 16) (m : Msg) (c : Instr), Gets s p.val 0 m → m.ty = 9 → s.fab.inbox = [] →
    ((m.crateOp = 4 ∧ c = .put p) ∨ (m.crateOp = 9 ∧ s.inHall m.src = true ∧ c = .returnImage p)) →
    ∃ t b, exec c s = .next t ∧ t.fab = { (s.takeMsg p.val 0).fab with inbox := [b] } ∧ t = { s with fab := t.fab } ∧
      b.src = m.src ∧ b.ctx = m.ctx ∧ b.va = m.crate.va ∧ b.big = m.crate.big ∧
      (∀ (i : Nat) (l : Line), m.data[i]? = some l → tfind b.lines (m.addr / 64 + i) = some l) ∧
      (∀ k, k < m.addr / 64 ∨ m.addr / 64 + m.data.length ≤ k → tfind b.lines k = none)

/-- PUT_DONE at a lender opens the whole image in place without a version check, and answers OPENED; an image that is not whole or does not
open is REFUSED with its code, and nothing is written (R348). -/
def Sys2Proof.Claim.LenderOpensImages : Prop :=
  ∀ (s : State) (p : Fin 16) (m : Msg) (g : Grant), Gets s p.val 0 m → m.ty = 9 → m.crateOp = 5 →
    let s1 := s.takeMsg p.val 0
    let c := m.crate
    s.fab.grants.find? (fun x => x.home = m.src && x.ctx = c.ctx && x.va = c.va && !x.opened) = some g →
    ((s1.gotImage m).2 = none → exec (.putDone p) s = .next ((s1.gotImage m).1.sendReq (crateMsg 7 m.src s.mod.id m.ctx c 0x0704)).1) ∧
    (∀ h b, (s1.gotImage m).2 = some (h, b) →
      (∀ v l, s.openImage c c.ctx m.src 0 false h b = .body v l → ∃ u : State,
        exec (.putDone p) s = .next (u.sendReq (crateMsg 6 m.src s.mod.id m.ctx c 0)).1 ∧
        u.fab.grants = s.fab.grants.map (fun y => if y = g then { y with opened := true } else y) ∧
        u.mem = (s.crateWrite ⟨3, g.addr, s.mod.id⟩ c.big l).mem ∧ u.ledger = s.ledger) ∧
      (∀ code det, s.openImage c c.ctx m.src 0 false h b = .refuse code det → ∃ u i,
        exec (.putDone p) s = .next (State.sendReq u (crateMsg 7 m.src s.mod.id m.ctx c code)).1 ∧ u.mem = s.mem ∧
        u.fab.grants = s.fab.grants ∧ u.ledger.importRefused = satInc s.ledger.importRefused ∧
        u.inc.log = i :: s.inc.log ∧ i.code = code))

/-- FETCH of storage that this module lends and has opened returns the crate sealed with the version granted; of other storage it is
answered ERR 1, where a line meets an error ERR 2, from outside the hall ERR 3 (R285, R339, R341, R348). -/
def Sys2Proof.Claim.LenderReturnsCrates : Prop :=
  ∀ (s : State) (p : Fin 16) (m : Msg) (met : List Met), Gets s p.val 0 m → m.ty = 9 → m.crateOp = 8 →
    let s1 := s.takeMsg p.val 0
    let c := m.crate
    let ans := fun (n : Nat) => mkMsg 5 1 0 0 m.src s.mod.id m.ctx m.tag n none []
    let own := s.fab.grants.find? fun x => x.home = m.src && x.ctx = c.ctx && x.va = c.va && x.opened
    (s.inHall m.src = false → exec (.fetch p met) s = .next (s1.sendMsg (ans 3))) ∧
    (s.inHall m.src = true → own = none → exec (.fetch p met) s = .next (s1.sendMsg (ans 1))) ∧
    (s.inHall m.src = true → ∀ g, own = some g → let st : Store := ⟨3, g.addr, s.mod.id⟩
      let img := s.sealImage m.arg m.src c (s.crateRead st c.big)
      let meets := s1.meetCrate p.val (engineId p.val) none st c.big met
      ((∀ b ∈ s1.crateBlocks st c.big, s1.lineCode p.val (s.mod.id * 2 ^ 46 + b) = 0) →
        exec (.fetch p []) s = .next (s1.sendReqs (imageMsgs 9 m.src s.mod.id m.ctx c img ++ [crateMsg 10 m.src s.mod.id m.ctx c 0]))) ∧
      (meets.2 ≠ 0 → exec (.fetch p met) s = .next (meets.1.sendMsg (ans 2))))

/-- The home module's side of lending (R285, R348) for a crate that has storage: a grant is noted with its address; a denial ends the
exchange, and the denier is asked no more before the next page commit; OPENED leaves its move copied, to be ended by the next page commit;
a refusal ends the exchange and fails the move. -/
def Sys2Proof.Claim.HomeFollowsTheExchange : Prop :=
  ∀ (s : State) (p : Fin 16) (m : Msg) (x : Exchange), Gets s p.val 0 m → m.ty = 9 →
    let s1 := s.takeMsg p.val 0
    let c := m.crate
    x.peer = m.src → x.order = none → x.crate = c →
    let without := { s1.fab with exchanges := s.fab.exchanges.filter fun y => !(y.crate = c && y.order.isNone) }
    let with_ := fun (z : Exchange) => { s1.fab with
      exchanges := s.fab.exchanges.map fun y => if y.crate = c && y.order = none then z else y }
    let moved := fun (y : Move) (ph : MovePhase) => { s.ledger with
      moves := s.ledger.moves.map fun z => if z.same y then { y with phase := ph, since := s.now } else z }
    (s.inHall m.src = true → s.exchange c = some x → ∀ a e, s.leafOf c = some (a, e) → eTier e ≠ 0 →
      (m.crateOp = 2 → x.phase = 0 → exec (.roomGrant p) s = .next { s1 with
        fab := with_ { x with phase := 1, addr := m.arg }, lostStores := s.lostStores.filter (· ≠ (⟨6, m.arg, m.src⟩ : Store)) }) ∧
      (m.crateOp = 3 → s.ledger.moves.find? (fun y => y.crate = c && y.evict && y.phase = .asked) = none →
        exec (.roomDeny p) s = .next { s1 with
          fab := without
          ledger := { s.ledger with denied :=
            if s.ledger.denied.contains m.src then s.ledger.denied else m.src :: s.ledger.denied } })) ∧
    (s.imageSent c m.src = some x → ∀ y, s.ledger.moves.find? (fun y => y.crate = c && !y.isExport && y.phase = .moving) = some y →
      (m.crateOp = 6 → exec (.opened p) s = .next { s1 with fab := with_ { x with phase := 3 }, ledger := moved y .copied }) ∧
      (m.crateOp = 7 → exec (.refused p) s = .next { s1 with fab := without, ledger := moved y .failed }))

/-- A RETURN from the crate's lender whose image opens with the version that home granted is written to the move's target, which is then
copied; one that does not open fails the move, is counted and recorded, and writes nothing (R283, R285, R348). -/
def Sys2Proof.Claim.ReturnIsImported : Prop :=
  ∀ (s : State) (p : Fin 16) (m : Msg) (y : Move) (h b : List Byte), Gets s p.val 0 m → m.ty = 9 → m.crateOp = 10 →
    let s1 := s.takeMsg p.val 0
    let c := m.crate
    let moved := fun (ph : MovePhase) => s.ledger.moves.map fun z => if z.same y then { y with phase := ph, since := s.now } else z
    s.inHall m.src = true →
    s.ledger.moves.find? (fun y => y.crate = c && y.phase = .moving && y.src.tier = 6 && y.src.module = m.src) = some y →
    (s1.gotImage m).2 = some (h, b) → y.isExport = false → y.dst.tier ≠ 4 →
    (∀ v l, s.openImage c c.ctx s.mod.id y.version true h b = .body v l → ∃ t, exec (.returnDone p) s = .next t ∧
      t.mem = (s.crateWrite y.dst c.big l).mem ∧ t.ledger = { s.ledger with moves := moved .copied }) ∧
    (∀ code det, s.openImage c c.ctx s.mod.id y.version true h b = .refuse code det → ∃ t i, exec (.returnDone p) s = .next t ∧
      t.mem = s.mem ∧ t.ledger = { s.ledger with moves := moved .failed, importRefused := satInc s.ledger.importRefused } ∧
      t.inc.log = i :: s.inc.log ∧ i.code = code)

/-! ## The Weago link (10_weago.md R315 to R330, R351 to R355; 13_trust.md R433 to R435) -/
namespace Sys2Proof.Claim

/-- From `s` to `t` nothing but port `p` changes. -/
def OnlyPort (s t : State) (p : Nat) : Prop :=
  t = { s with fab := { s.fab with ports := t.fab.ports } } ∧ ∀ q, q ≠ p → t.wport q = s.wport q

/-- From `s` to `t` port `p` changes and one record of `code` is made; memory, stalls, requests, sets and the other ports stay. -/
def PortRecords (s t : State) (p code : Nat) : Prop :=
  t.fab = { s.fab with ports := t.fab.ports } ∧ (∀ q, q ≠ p → t.wport q = s.wport q) ∧ t.mem = s.mem ∧ t.stalls = s.stalls ∧
  t.reqs = s.reqs ∧ t.sets = s.sets ∧ ∃ i, t.inc.log = i :: s.inc.log ∧ i.code = code

/-- The command fails port `p` with one record of `code` and leaves it as `P` says; then the reduction sets whose ring neighbours that cuts
off fault (R312). -/
def PortFails (s : State) (c : Instr) (p code : Nat) (P : WPort → Prop) : Prop :=
  ∃ t, exec c s = .next t.loseMembers ∧ PortRecords s t p code ∧ P (t.wport p)

/-- Cells of a list of messages. -/
def cellSum (l : List Msg) : Nat := (l.map Msg.cells).sum

end Sys2Proof.Claim

/-- Training (R326, R329): an enabled OFF port begins step 1; lanes that give no pair take it DOWN with 0x0903, others end step 1; step 2
numbers the blocks of epoch 0 from 0 and sends HELLO, with fresh credit where the port starts afresh; with the keys agreed and its LINK
messages gone step 4 ends and the port is UP in epoch 1, owned by nobody yet, where it resumes the numbers and the replay buffer that a
full retraining kept. -/
def Sys2Proof.Claim.TrainingSteps : Prop :=
  ∀ (s : State) (p : Fin 16) (lanes : BitVec 8) (flight : Nat), let w := s.wport p.val
    let got := exec (.portTraining p lanes flight) s
    (w.state = 0 → s.portEnabled p.val = false → got = .next s) ∧
    (w.state = 0 → s.portEnabled p.val = true → ∃ t, got = .next t ∧ OnlyPort s t p.val ∧ (t.wport p.val).state = 1 ∧
      (t.wport p.val).step = 1 ∧ (t.wport p.val).fresh = true ∧ (t.wport p.val).epoch = 0 ∧ (t.wport p.val).since = s.now ∧
      (t.wport p.val).kept = none) ∧
    (w.state = 1 → w.step = 1 → widthOf lanes.toNat = 0 →
      PortFails s (.portTraining p lanes flight) p.val 0x0903 fun v => v.state = 4 ∧ v.since = s.now) ∧
    (w.state = 1 → w.step = 1 → widthOf lanes.toNat ≠ 0 → got = .next (s.setWport p.val { w with lanesOk := lanes.toNat, step := 2 })) ∧
    (w.state = 1 → w.step = 2 → ∃ t, got = .next t ∧ OnlyPort s t p.val ∧ let v := t.wport p.val
      v.step = 3 ∧ v.flight = flight ∧ (v.long = true ↔ 300 < flight) ∧ tget v.tx [] 3 = tget w.tx [] 3 ++ [s.linkMsg p.val v.hello] ∧
      v.replay = [] ∧ v.base = 0 ∧ v.top = 0 ∧ v.next = 0 ∧ v.expect = 0 ∧ v.kept = w.kept ∧ v.fresh = false ∧
      (w.fresh = true → v.credit = [(0, 8192), (1, 8192), (2, 8192), (3, 256)] ∧ v.rx = []) ∧
      (w.fresh = false → v.credit = w.credit ∧ v.rx = w.rx)) ∧
    (w.state = 1 → w.step = 4 → w.keyed = true → (∀ m ∈ tget w.tx [] 3, m.ty ≠ 12) → ∃ t, got = .next t ∧ OnlyPort s t p.val ∧
      let v := t.wport p.val
      v.state = 2 ∧ v.epoch = 1 ∧ v.owned = false ∧ v.prior = w.prior ∧ v.btx = 0 ∧ v.brx = 0 ∧ v.kept = none ∧ v.rx = w.rx ∧
      (s.mod.session = false → v.tx = w.tx) ∧
      (∀ k, w.kept = some k → v.base = k.base ∧ v.top = k.top ∧ v.next = k.base ∧ v.replay = k.replay ∧ v.expect = k.expect) ∧
      (w.kept = none → v.base = w.base ∧ v.top = w.top ∧ v.next = w.base ∧ v.replay = w.replay ∧ v.expect = w.expect)) ∧
    (1 < w.state → got = .next s)

/-- Width of a set of good lanes (R315, R327): 8 of all, 4 of a good half, 2 of a good pair, else none; the group chosen lies in the good
lanes, and of good pairs it is the lowest. -/
def Sys2Proof.Claim.WidthOfLanes : Prop :=
  ∀ l : BitVec 8, (widthOf l.toNat = 8 ↔ l = 255#8) ∧
    (widthOf l.toNat = 4 ↔ l ≠ 255#8 ∧ (l &&& 0x0F#8 = 0x0F#8 ∨ l &&& 0xF0#8 = 0xF0#8)) ∧
    (widthOf l.toNat = 0 ↔ l &&& 3#8 ≠ 3#8 ∧ l &&& 12#8 ≠ 12#8 ∧ l &&& 48#8 ≠ 48#8 ∧ l &&& 192#8 ≠ 192#8) ∧
    widthOf l.toNat ∈ [0, 2, 4, 8] ∧ Nat.land (groupOf l.toNat) l.toNat = groupOf l.toNat ∧
    (widthOf l.toNat = 4 → groupOf l.toNat = 15 ∨ groupOf l.toNat = 240) ∧
    (widthOf l.toNat = 2 → ∃ i, i < 4 ∧ groupOf l.toNat = 3 * 4 ^ i ∧ ∀ j, j < i → Nat.land (3 * 4 ^ j) l.toNat ≠ 3 * 4 ^ j)

/-- Retraining, DOWN and reset (R326 to R330): a port not UP 2^29 cy after its training began is DOWN with 0x0903; a DOWN enabled port
trains afresh 2^28 cy later; RETRAIN of an UP port starts a training that keeps SEQ, replay and queues, with 0x0902; RESET of an enabled
port that is not OFF discards the link's state and trains afresh, with 0x0903. No set faults whose ring neighbours are still reached. -/
def Sys2Proof.Claim.PortsRetrainAndReset : Prop :=
  ∀ (s : State) (p : Fin 16), let w := s.wport p.val
    (w.state = 1 → ∃ t : State, exec (.trainingTimeout p) s = .next t.loseMembers ∧ PortRecords s t p.val 0x0903 ∧ (t.wport p.val).state = 4 ∧
      t.now = max s.now (w.since + 2 ^ 29)) ∧
    (w.state ≠ 1 → exec (.trainingTimeout p) s = .next s) ∧
    (w.state = 4 → s.portEnabled p.val = true → ∃ t, exec (.downRetry p) s = .next t ∧ (t.wport p.val).state = 1 ∧
      (t.wport p.val).step = 1 ∧ (t.wport p.val).fresh = true ∧ t.now = max s.now (w.since + 2 ^ 28) ∧
      t = { s with now := t.now, fab := { s.fab with ports := t.fab.ports } } ∧ ∀ q, q ≠ p.val → t.wport q = s.wport q) ∧
    ((w.state ≠ 4 ∨ s.portEnabled p.val = false) → exec (.downRetry p) s = .next s) ∧
    ((w.state = 2 ∨ w.state = 3) → ∃ t, exec (.retrain p) s = .next t ∧ PortRecords s t p.val 0x0902 ∧ let v := t.wport p.val
      v.state = 1 ∧ v.fresh = false ∧ v.owned = false ∧ v.prior = (w.owned || w.prior) ∧ v.tx = w.tx ∧ v.rx = w.rx ∧
      v.retrains = satInc w.retrains ∧ (w.kept = none → v.kept = some ⟨w.base, w.top, w.rewinds, w.replay, w.expect⟩) ∧
      (∀ k, w.kept = some k → v.kept = some k)) ∧
    (w.state ≠ 2 → w.state ≠ 3 → exec (.retrain p) s = .next s) ∧
    (w.state = 0 → exec (.portReset p) s = .next s) ∧
    (w.state ≠ 0 → s.portEnabled p.val = true → PortFails s (.portReset p) p.val 0x0903 fun v =>
      v.state = 1 ∧ v.fresh = true ∧ v.replay = [] ∧ v.kept = none ∧ v.tx = [] ∧ v.rx = [] ∧ v.resends = w.resends ∧
      v.badBlocks = w.badBlocks ∧ v.authErr = w.authErr ∧ v.retrains = w.retrains) ∧
    ((∀ x ∈ s.sets, ∀ i ∈ x.neighbours, i = x.self ∨ s.pathUsable (x.members.getD i (0, 0)).1 0 false = true) → s.loseMembers = s)

/-- Each block slot sends one block, whose header returns ACK, NAK and credits (R318, R323, R324): behind NEXT the replayed block with its
old messages; else a new data block of at most 480 cells that joins the replay buffer under the next sequence number, in epoch 0 of LINK
messages alone, or an idle block that changes neither; with 64 blocks in the buffer only an idle one. What the lanes carry is the block
sealed, scrambled and coded (R319 to R321). -/
def Sys2Proof.Claim.BlockSlots : Prop :=
  ∀ (s : State) (p : Fin 16) (sub : Fin 4), let w := s.wport p.val
    let stamp := localAt s.now + sub.val
    (w.live = false → exec (.blockSend p sub) s = .next s) ∧
    (w.live = true → ∃ t b, exec (.blockSend p sub) s = .next t ∧ let v := t.wport p.val
      t = { s with fab := { s.fab with ports := t.fab.ports, remotes := t.fab.remotes, sync := t.fab.sync } } ∧
      (∀ q, q ≠ p.val → t.wport q = s.wport q) ∧ t.fab.remotes = (s.markSent b.msgs).fab.remotes ∧
      ((∀ m ∈ b.msgs, m.ty ≠ 11) → t.fab.sync = s.fab.sync) ∧
      (∀ n m, s.fab.sync.open_ = some (n, p.val, none) → m ∈ b.msgs → m.ty = 11 → bitAt m.addr 8 = false → m.addr % 256 = n →
        t.fab.sync = { s.fab.sync with open_ := some (n, p.val, some stamp) }) ∧
      v.sent = b :: w.sent ∧ v.btx = w.btx + 1 ∧ v.slots = w.slots + 1 ∧ v.txStamp = stamp ∧ b.ack = w.expect ∧ b.nak = w.nak ∧
      v.rx = w.rx ∧ v.expect = w.expect ∧ (∀ c, c < 4 → b.credits[c]? = some (min 127 (tget w.ret 0 c / 4))) ∧
      (let x := scramble w.scram (bitsOfBytes (sealBlock w.key (blockIv w.epoch (s.dirOf p.val true) w.btx) b))
       v.scram = x.2 ∧ v.wire = laneSymbols w.active (lineSymbols x.1)) ∧
      (∀ old, w.next ≠ w.top → w.replay[seqDist w.base w.next]? = some old → b.kind = 0 ∧ b.seq = old.seq ∧ b.msgs = old.msgs ∧
        v.next = (w.next + 1) % 2 ^ 24 ∧ v.top = w.top ∧ v.replay = w.replay ∧ v.tx = w.tx) ∧
      (w.next = w.top → (b.kind = 0 ∧ b.seq = w.top ∧ b.msgs ≠ [] ∧ cellSum b.msgs ≤ 480 ∧ v.replay = w.replay ++ [b] ∧
          v.top = (w.top + 1) % 2 ^ 24 ∧ v.next = v.top ∧ w.replay.length < 64 ∧ (w.epoch = 0 → ∀ m ∈ b.msgs, m.ty = 12)) ∨
        (b.kind = 1 ∧ b.seq = w.top ∧ b.msgs = [] ∧ v.replay = w.replay ∧ v.top = w.top ∧ v.next = w.next ∧ v.tx = w.tx)))

/-- What a block slot is found to be (R317, R318, R320 to R322): bad where its FEC, its length, its CRC or its KIND is not right, else
forged where its tag is not right, else a block; a sealed block opens to itself with the same key and IV, header and messages alike. -/
def Sys2Proof.Claim.SealedBlocksOpen : Prop :=
  (∀ (key iv l : List Byte) (fec : Bool), let h := leNat (l.take 10)
    let fine := fec = true ∧ l.length = 7710 ∧ leNat ((l.drop 7690).take 4) = crc32c (l.take 7690) ∧ bitsAt h 0 2 ≤ 1
    (¬ fine → openBlock key iv fec l = .bad) ∧
    (fine → gcmOpen key iv (l.take 10) ((l.drop 10).take 7680) (l.drop 7694) = none → openBlock key iv fec l = .forged) ∧
    (∀ flits, fine → gcmOpen key iv (l.take 10) ((l.drop 10).take 7680) (l.drop 7694) = some flits →
      openBlock key iv fec l = .block (Block.ofHead h (if bitsAt h 0 2 = 0 then msgsOf 480 flits else [])))) ∧
  (∀ (key iv : List Byte) (b : Block) (c0 c1 c2 c3 : Nat), b.kind ≤ 1 → b.seq < 2 ^ 24 → b.ack < 2 ^ 24 → b.credits = [c0, c1, c2, c3] →
    c0 < 128 → c1 < 128 → c2 < 128 → c3 < 128 → (b.kind = 1 → b.msgs = []) → cellSum b.msgs ≤ 480 →
    (∀ m ∈ b.msgs, m.ty ≠ 0 ∧ m.data.length = m.dataLines ∧ (m.hasExt = false → m.ext = 0#128)) →
    (sealBlock key iv b).length = 7710 ∧ openBlock key iv true (sealBlock key iv b) = .block b)

/-- A received slot that is bad sets NAK and is counted; a forged one too, with record 0x0904, and at AUTH_MAX in 2^20 slots the port
retrains; the expected data block clears NAK, moves EXPECT on and queues its messages; a block with another SEQ sets NAK and brings
nothing (R322, R328). -/
def Sys2Proof.Claim.BlocksAreReceived : Prop :=
  ∀ (s : State) (p : Fin 16) (sub : Fin 4) (fec : Bool) (fixed : List (Nat × Nat)) (l : List Byte), let w := s.wport p.val
    let got := exec (.blockReceive p sub fec fixed l) s
    let found := openBlock w.key (blockIv w.epoch (s.dirOf p.val false) w.brx) fec l
    let recent := (w.authSlots.filter fun x => decide (w.rslots + 1 < x + 2 ^ 20)).length + 1
    (w.live = false → got = .next s) ∧
    (w.live = true → found = .bad → ∃ t, got = .next t ∧ OnlyPort s t p.val ∧
      t.wport p.val = { w.received s.now sub fixed with nak := true, badBlocks := satInc w.badBlocks }) ∧
    (w.live = true → found = .forged → recent < s.authMax → ∃ t, got = .next t ∧ PortRecords s t p.val 0x0904 ∧
      t.wport p.val = { w.received s.now sub fixed with
        nak := true, authErr := satInc w.authErr
        authSlots := (w.rslots + 1) :: w.authSlots.filter fun x => decide (w.rslots + 1 < x + 2 ^ 20) }) ∧
    (w.live = true → found = .forged → s.authMax ≤ recent → ∃ t i j, got = .next t ∧ (t.wport p.val).state = 1 ∧
      (t.wport p.val).fresh = false ∧ t.inc.log = j :: i :: s.inc.log ∧ i.code = 0x0904 ∧ j.code = 0x0902) ∧
    (∀ b, w.live = true → found = .block b → b.nak = false → b.seq ≠ w.expect → ∃ t, got = .next t ∧ OnlyPort s t p.val ∧
      (t.wport p.val).nak = true ∧ (t.wport p.val).expect = w.expect ∧ (t.wport p.val).rx = w.rx) ∧
    (∀ b m, w.live = true → found = .block b → w.epoch ≠ 0 → (w.owned = true ∨ w.prior = true ∨ s.ownerless m = true) → b.nak = false →
      b.kind = 0 → b.seq = w.expect → b.msgs = [m] → m.ok = true → ∃ t, got = .next t ∧
        t = { s with fab := { s.fab with ports := t.fab.ports }, queues := t.queues } ∧
        (t.wport p.val).expect = (w.expect + 1) % 2 ^ 24 ∧ (t.wport p.val).nak = false ∧
        tget (t.wport p.val).rx [] m.cls = tget w.rx [] m.cls ++ [m] ∧ (∀ q, q ≠ p.val → t.wport q = s.wport q)) ∧
    (∀ b m, w.live = true → found = .block b → w.epoch = 0 → b.nak = false → b.kind = 0 → b.seq = w.expect → b.msgs = [m] → m.ok = true →
      ∃ t, got = .next t ∧ (t.wport p.val).expect = (w.expect + 1) % 2 ^ 24 ∧
        tget (t.wport p.val).rx [] m.cls = tget w.rx [] m.cls ++ (if m.ty = 12 then [m] else []))

/-- A received slot is counted and stamped with the local time (R321, R352); a lane more than 1,024 of whose symbols the last 2^16 slots
corrected is worn (R328). -/
def Sys2Proof.Claim.LanesWear : Prop :=
  ∀ (w : WPort) (now : Nat) (sub : Fin 4) (i n : Nat), i < 8 → let v := w.received now sub [(i, n)]
    v.brx = w.brx + 1 ∧ v.rslots = w.rslots + 1 ∧ v.rxStamp = 32 * (now : Int) / 9 + sub.val ∧
    (bitAt v.worn i = true ↔ bitAt w.worn i = true ∨
      1024 < (((tget w.fixes [] i).filter fun y => decide (w.rslots < y.1 + 65536)).map (·.2)).sum + n)

/-- An acknowledgement within the blocks out frees them from the replay buffer, moves BASE on and returns the credits of the header,
4 cells a unit; a NAK there goes back to it and counts a rewind (R323, R324). -/
def Sys2Proof.Claim.AcknowledgementsFreeBlocks : Prop :=
  ∀ (s : State) (p : Fin 16) (sub : Fin 4) (fec : Bool) (fixed : List (Nat × Nat)) (l : List Byte) (b : Block) (c0 c1 c2 c3 : Nat),
    let w := s.wport p.val
    let got := exec (.blockReceive p sub fec fixed l) s
    let d := seqDist w.base b.ack
    w.live = true → openBlock w.key (blockIv w.epoch (s.dirOf p.val false) w.brx) fec l = .block b → b.kind = 1 → b.seq = w.expect →
    d ≤ seqDist w.base w.top → b.credits = [c0, c1, c2, c3] →
    (b.nak = false → ∃ t, got = .next t ∧ OnlyPort s t p.val ∧ let v := t.wport p.val
      v.replay = w.replay.drop d ∧ v.base = b.ack ∧ v.top = w.top ∧ v.brx = w.brx + 1 ∧ v.rx = w.rx ∧ v.tx = w.tx ∧
      tget v.credit 0 0 = tget w.credit 0 0 + 4 * c0 ∧ tget v.credit 0 1 = tget w.credit 0 1 + 4 * c1 ∧
      tget v.credit 0 2 = tget w.credit 0 2 + 4 * c2 ∧ tget v.credit 0 3 = tget w.credit 0 3 + 4 * c3) ∧
    (b.nak = true → w.rewind = none → w.rewinds = [] → 1 < s.resendMax → ∃ t, got = .next t ∧
      OnlyPort s t p.val ∧ (t.wport p.val).next = b.ack ∧ (t.wport p.val).rewind = some b.ack ∧ (t.wport p.val).base = b.ack ∧
      (t.wport p.val).resends = satInc w.resends)

/-- Replay without progress for 4,096 cy goes back to BASE and counts a rewind; at RESEND_MAX rewinds of one block the port retrains, with
0x0905 and 0x0902 (R323). -/
def Sys2Proof.Claim.ResendLimit : Prop :=
  ∀ (s : State) (p : Fin 16), let w := s.wport p.val
    let n := tget w.rewinds 0 w.base + 1
    ((w.replay = [] ∨ w.live = false) → exec (.resendTimer p) s = .next s) ∧
    (w.replay ≠ [] → w.live = true → n < s.resendMax → ∃ t, exec (.resendTimer p) s = .next t ∧ t.now = max s.now (w.lastMove + 4096) ∧
      (t.wport p.val).next = w.base ∧ (t.wport p.val).state = w.state ∧ (t.wport p.val).resends = satInc w.resends ∧
      tget (t.wport p.val).rewinds 0 w.base = n ∧ t.inc = s.inc) ∧
    (w.replay ≠ [] → w.live = true → s.resendMax ≤ n → ∃ t i j, exec (.resendTimer p) s = .next t ∧ (t.wport p.val).state = 1 ∧
      (t.wport p.val).replay = w.replay ∧ t.inc.log = j :: i :: s.inc.log ∧ i.code = 0x0905 ∧ j.code = 0x0902)

/-- Lost lanes, those worn among them (R328): with a pair left the port is NARROWING, names a switch slot at least 32 blocks ahead to its
peer and makes record 0x0901; the peer takes the slot; at the slot the port is UP at the new width in a new epoch that nobody owns yet;
with no pair left it retrains. -/
def Sys2Proof.Claim.LaneLoss : Prop :=
  ∀ (s : State) (p : Fin 16), let w := s.wport p.val
    (∀ (lanes : BitVec 8) (ahead : Nat), let lost := Nat.lor lanes.toNat w.worn
      let good := Nat.land w.going (255 - lost)
      ((w.state ≠ 2 ∧ w.state ≠ 3) ∨ lost = 0 → exec (.laneLost p lanes ahead) s = .next s) ∧
      ((w.state = 2 ∨ w.state = 3) → lost ≠ 0 → widthOf good ≠ 0 → ∃ t slot, exec (.laneLost p lanes ahead) s = .next t ∧
        PortRecords s t p.val 0x0901 ∧ (t.wport p.val).state = 3 ∧ (t.wport p.val).switch = some (slot, good) ∧ w.btx + 32 ≤ slot ∧
        (t.wport p.val).worn = 0 ∧
        tget (t.wport p.val).tx [] 3 = tget w.tx [] 3 ++ [s.linkMsg p.val (2 + lost * 16 + slot % 2 ^ 48 * 2 ^ 16)]) ∧
      ((w.state = 2 ∨ w.state = 3) → lost ≠ 0 → widthOf good = 0 → ∃ t, exec (.laneLost p lanes ahead) s = .next t ∧
        PortRecords s t p.val 0x0902 ∧ (t.wport p.val).state = 1 ∧ (t.wport p.val).fresh = false)) ∧
    (∀ m, Gets s p.val 3 m → m.ty = 12 → m.ext.toNat % 16 = 2 → let good := Nat.land w.going (255 - bitsAt m.ext.toNat 4 8)
      (w.state ≠ 2 → w.state ≠ 3 → exec (.lanes p) s = .next (s.takeMsg p.val 3)) ∧
      ((w.state = 2 ∨ w.state = 3) → widthOf good ≠ 0 → ∃ t, exec (.lanes p) s = .next t ∧ OnlyPort s t p.val ∧ (t.wport p.val).state = 3 ∧
        (t.wport p.val).switch = some (bitsAt m.ext.toNat 16 48, good)) ∧
      ((w.state = 2 ∨ w.state = 3) → widthOf good = 0 → ∃ t, exec (.lanes p) s = .next t ∧ PortRecords s t p.val 0x0902 ∧
        (t.wport p.val).state = 1)) ∧
    (∀ slot good, w.switch = some (slot, good) → w.state = 3 →
      (w.btx < slot → exec (.widthSwitch p) s = .next s) ∧
      (slot ≤ w.btx → ∃ t, exec (.widthSwitch p) s = .next t ∧ OnlyPort s t p.val ∧ let v := t.wport p.val
        v.state = 2 ∧ v.width = widthOf good ∧ v.active = groupOf good ∧ v.lanesOk = good ∧ v.epoch = w.epoch + 1 ∧ v.btx = 0 ∧
        v.brx = 0 ∧ v.owned = false ∧ v.prior = (w.owned || w.prior) ∧ v.switch = none ∧ v.replay = w.replay ∧ v.expect = w.expect ∧
        v.retrains = satInc w.retrains)) ∧
    ((w.switch = none ∨ w.state ≠ 3) → exec (.widthSwitch p) s = .next s)

/-- HELLO (R327): the lanes in use and the width are those of the lanes good at both ends, the peer is noted and step 4 begins; the
module's own ID bars the port with 0x0906, and no common pair takes it DOWN with 0x0903. The lower end needs a random value there: where
the health test of its source fails, the port is DOWN, with 0x0C04 and 0x0903 (13_trust.md R417). -/
def Sys2Proof.Claim.HelloChoosesTheWidth : Prop :=
  ∀ (s : State) (p : Fin 16) (m : Msg), Gets s p.val 3 m → m.ty = 12 → m.ext.toNat % 16 = 1 → let w := s.wport p.val
    let x := m.ext.toNat
    let id := bitsAt x 4 18
    let good := Nat.land w.lanesOk (bitsAt x 58 8)
    ((w.state ≠ 1 ∨ w.step ≠ 3) → ∀ e, exec (.hello p e) s = .next (s.takeMsg p.val 3)) ∧
    (w.state = 1 → w.step = 3 → id = s.mod.id → ∀ e, PortFails s (.hello p e) p.val 0x0906 fun v => v.state = 4 ∧ v.barred = true) ∧
    (w.state = 1 → w.step = 3 → id ≠ s.mod.id → widthOf good = 0 → ∀ e, PortFails s (.hello p e) p.val 0x0903 fun v => v.state = 4) ∧
    (w.state = 1 → w.step = 3 → id ≠ s.mod.id → widthOf good ≠ 0 → ∀ e, (e = true ∨ id < s.mod.id) → ∃ t, exec (.hello p e) s = .next t ∧
      t = { s with fab := { s.fab with ports := t.fab.ports }, freeCtr := t.freeCtr } ∧ (∀ q, q ≠ p.val → t.wport q = s.wport q) ∧
      (t.wport p.val).step = 4 ∧ (t.wport p.val).peerId = id ∧ (t.wport p.val).peerPort = bitsAt x 54 4 ∧
      (t.wport p.val).lanesOk = good ∧ (t.wport p.val).active = groupOf good ∧ (t.wport p.val).width = widthOf good ∧
      tget w.tx [] 3 <+: tget (t.wport p.val).tx [] 3 ∧ tget w.tx [] 3 ≠ tget (t.wport p.val).tx [] 3) ∧
    (w.state = 1 → w.step = 3 → s.mod.id < id → widthOf good ≠ 0 → ∃ (t : State) (i j : Incident), exec (.hello p false) s = .next t.loseMembers ∧
      (t.wport p.val).state = 4 ∧ t.inc.log = j :: i :: s.inc.log ∧ i.code = 0x0C04 ∧ j.code = 0x0903)

/-- The key agreement of R433: fragments of an item are kept until it is whole; a CERT whose vendor signature verifies is taken; the upper
end that finds EK_link rightly signed has its key and answers CT_link, and the lower end that finds CT_link rightly signed has its key; a
signature that does not verify takes the port DOWN with 0x0C0B, and a random value that could not be had with 0x0C04 and 0x0903. -/
def Sys2Proof.Claim.LinkKeysAgree : Prop :=
  ∀ (s : State) (p : Fin 16) (m : Msg), Gets s p.val 3 m → m.ty = 12 → m.ext.toNat % 16 = 3 → let w := s.wport p.val
    w.state = 1 → w.step = 4 →
    let s1 := s.takeMsg p.val 3
    let got := (s1.wport p.val).takeItem m
    let item := bitsAt m.ext.toNat 4 4
    (got.2 = none → (item = 1 → exec (.cert p) s = .next (s1.setWport p.val got.1)) ∧
      (item = 2 → s.lower p.val = false → exec (.ekLink p true) s = .next (s1.setWport p.val got.1)) ∧
      (item = 3 → s.lower p.val = true → exec (.ctLink p) s = .next (s1.setWport p.val got.1))) ∧
    (∀ l, got.2 = some l →
      (item = 1 → (Config.falconOk Config.vendorKey (l.take 1824) ((l.drop 1824).take 1280) = true →
          ∃ t, exec (.cert p) s = .next t ∧ OnlyPort s t p.val ∧ (t.wport p.val).certSeen = true ∧
            (t.wport p.val).peerPub = (l.drop 16).take 1793 ∧ (t.wport p.val).state = 1) ∧
        (Config.falconOk Config.vendorKey (l.take 1824) ((l.drop 1824).take 1280) = false →
          PortFails s (.cert p) p.val 0x0C0B fun v => v.state = 4)) ∧
      (item = 2 → s.lower p.val = false → let t1 := s.linkT1 p.val (l.take 1568)
        let ok := w.certSeen && Config.falconOk w.peerPub t1 ((l.drop 1568).take 1280)
        (ok = true → ∃ t, exec (.ekLink p true) s = .next t ∧ t.mem = s.mem ∧ t.stalls = s.stalls ∧ (t.wport p.val).keyed = true ∧
          (t.wport p.val).lk = linkKey (Config.kemEncap s.freeCtr (l.take 1568)).2
            (Config.shake 64 (t1 ++ (Config.kemEncap s.freeCtr (l.take 1568)).1)) ∧ t.freeCtr = s.freeCtr + 2) ∧
        (ok = false → ∀ e, PortFails s (.ekLink p e) p.val 0x0C0B fun v => v.state = 4) ∧
        (ok = true → ∃ (t : State) (i j : Incident), exec (.ekLink p false) s = .next t.loseMembers ∧ (t.wport p.val).state = 4 ∧
          t.inc.log = j :: i :: s.inc.log ∧ i.code = 0x0C04 ∧ j.code = 0x0903)) ∧
      (item = 3 → s.lower p.val = true → let t2 := Config.shake 64 (s.linkT1 p.val w.ek ++ l.take 1568)
        let ok := w.certSeen && Config.falconOk w.peerPub t2 ((l.drop 1568).take 1280)
        (ok = true → ∃ t, exec (.ctLink p) s = .next t ∧ OnlyPort s t p.val ∧ (t.wport p.val).keyed = true ∧
          (t.wport p.val).lk = linkKey (Config.kemDecap w.kem.2 (l.take 1568)) t2) ∧
        (ok = false → PortFails s (.ctLink p) p.val 0x0C0B fun v => v.state = 4)))

/-- An owner check that is the one required of the peer makes the port owned for its epoch; another makes it unowned, with 0x0C0C, and what
waits there that such a port may not carry finds no route (R435). It counts only in a session and outside training. -/
def Sys2Proof.Claim.OwnerChecks : Prop :=
  ∀ (s : State) (p : Fin 16) (m : Msg), Gets s p.val 3 m → m.ty = 12 → m.ext.toNat % 16 = 3 → bitsAt m.ext.toNat 4 4 = 5 →
    let w := s.wport p.val
    let right := leBytes 12 (bitsAt m.ext.toNat 32 96) = s.ocBytes p.val (if s.lower p.val then 1 else 0)
    ((s.mod.session = false ∨ w.state = 1) → exec (.oc p) s = .next (s.takeMsg p.val 3)) ∧
    (s.mod.session = true → w.state ≠ 1 → right → ∃ t, exec (.oc p) s = .next t ∧ OnlyPort s t p.val ∧
      (t.wport p.val).owned = true ∧ (t.wport p.val).prior = false ∧ (t.wport p.val).tx = w.tx) ∧
    (s.mod.session = true → w.state ≠ 1 → ¬ right → (∀ q ∈ w.tx, ∀ x ∈ q.2, s.ownerless x = true) →
      PortFails s (.oc p) p.val 0x0C0C fun v => v.owned = false ∧ v.prior = false ∧ v.tx = w.tx ∧ v.state = w.state) ∧
    (∀ x, s.mod.session = true → w.state ≠ 1 → ¬ right → w.tx = [(0, [x])] → s.ownerless x = false → x.cls = 0 → x.src ≠ s.mod.id →
      ∃ (t : State) (i : Incident), exec (.oc p) s = .next t.loseMembers ∧ t.fab.noroutes = satInc s.fab.noroutes ∧ tget (t.wport p.val).tx [] 0 = [] ∧
        (t.wport p.val).owned = false ∧ t.inc.log.head? = some i ∧ i.code = 0x0C0C)

/-- Time sync (R352 to R355): a child in hall mode opens an exchange on its parent port every 256 block slots; the parent answers a module
of its hall with its hall times of receipt and sending; the answer to the exchange in flight on its port ends it and gives offset and
delay of the samples within 1 ns of the least delay; after 64 bells without an answer the phase counts as lost, with 0x090B, and 0x0107
where it was locked. -/
def Sys2Proof.Claim.TimeSync : Prop :=
  ∀ s : State, let y := s.fab.sync
    ((s.hallMode = false ∨ s.syncRoot = true) → exec .syncExchange s = .next s) ∧
    (s.hallMode = true → s.syncRoot = false → s.syncParent = none →
      exec .syncExchange s = .next { s with fab := { s.fab with sync := { y with holdover := true, altUsed := false } } }) ∧
    (∀ p alt, s.hallMode = true → s.syncRoot = false → s.syncParent = some (p, alt) →
      (∀ n, y.started = some (p, n) → (s.wport p).slots < n + 256 → exec .syncExchange s = .next s) ∧
      ((∀ n, y.started = some (p, n) → n + 256 ≤ (s.wport p).slots) → ∃ t, exec .syncExchange s = .next t ∧
        t = { s with fab := { s.fab with ports := t.fab.ports, sync := t.fab.sync } } ∧
        t.fab.sync = { y with
          holdover := false, altUsed := alt, open_ := some (y.exch % 256, p, none), exch := y.exch + 1
          started := some (p, (s.wport p).slots) } ∧
        tget (t.wport p).tx [] 3 = tget (s.wport p).tx [] 3 ++ [mkMsg 11 3 0 0 (s.wport p).peerId s.mod.id 0 0 (y.exch % 256) (some 0) []])) ∧
    (∀ (p : Fin 16) (m : Msg), Gets s p.val 3 m → m.ty = 11 → bitAt m.addr 8 = false → let t2 := (s.wport p.val).stampsIn.headD 0
      ((s.hallMode = false ∨ s.inHall m.src = false) → ∃ t, exec (.tsyncRequest p) s = .next t ∧ OnlyPort s t p.val ∧
        (t.wport p.val).tx = (s.wport p.val).tx ∧ (t.wport p.val).stampsIn = (s.wport p.val).stampsIn.drop 1) ∧
      (s.hallMode = true → s.inHall m.src = true → ∃ t a, exec (.tsyncRequest p) s = .next t ∧ OnlyPort s t p.val ∧
        a % 512 = 256 + m.addr % 256 ∧ (bitAt a 9 = true ↔ s.syncRoot = true ∨ s.bell.locked = true) ∧
        (t.wport p.val).stampsIn = (s.wport p.val).stampsIn.drop 1 ∧
        tget (t.wport p.val).tx [] 3 = tget (s.wport p.val).tx [] 3 ++
          [mkMsg 11 3 0 0 m.src s.mod.id 0 0 a (some (toBits 64 (t2 + y.offsetAt t2))) []])) ∧
    (∀ (stamp : Int) (m : Msg), m.ty = 11 → bitAt m.addr 8 = true → (s.stampAnswer stamp m).hdr = m.hdr ∧
      (s.stampAnswer stamp m).ext.toNat = m.ext.toNat % 2 ^ 64 + toBits 64 (stamp + y.offsetAt stamp) * 2 ^ 64) ∧
    (∀ (p : Fin 16) (m : Msg), Gets s p.val 3 m → m.ty = 11 → bitAt m.addr 8 = true → let t4 := (s.wport p.val).stampsIn.headD 0
      ((∀ t1, y.open_ ≠ some (m.addr % 256, p.val, some t1)) → ∃ t, exec (.tsyncAnswer p) s = .next t ∧
        OnlyPort s t p.val ∧ (t.wport p.val).stampsIn = (s.wport p.val).stampsIn.drop 1) ∧
      (∀ t1, y.open_ = some (m.addr % 256, p.val, some t1) → let got := syncSample t1 (sgn 64 (m.ext.toNat % 2 ^ 64)) (sgn 64 (m.ext.toNat / 2 ^ 64)) t4
        let l := (got :: y.samples).take 8
        ∃ t, exec (.tsyncAnswer p) s = .next t ∧ t = { s with fab := { s.fab with ports := t.fab.ports, sync := t.fab.sync } } ∧
          t.fab.sync.open_ = none ∧ t.fab.sync.quiet = 0 ∧ t.fab.sync.said = false ∧ t.fab.sync.since = t4 ∧ t.fab.sync.samples = l ∧
          t.fab.sync.offset = meanInt ((syncKept l).map (·.1)) ∧ t.fab.sync.lockedParent = bitAt m.addr 9 ∧
          (y.samples = [] → t.fab.sync.offset = got.1 ∧ t.fab.sync.rate = 0))) ∧
    ((s.hallMode = true ∧ s.syncRoot = false ∧ 64 ≤ y.quiet ∧ y.said = false) → ∃ t, exec .syncHoldover s = .next t ∧
      t.fab.sync = { y with said := true } ∧ t.bell.locked = false ∧ t.mem = s.mem ∧ t.stalls = s.stalls ∧
      (s.bell.locked = true → ∃ i j, t.inc.log = j :: i :: s.inc.log ∧ i.code = 0x090B ∧ j.code = 0x0107) ∧
      (s.bell.locked = false → ∃ i, t.inc.log = i :: s.inc.log ∧ i.code = 0x090B)) ∧
    ((s.hallMode = false ∨ s.syncRoot = true ∨ y.quiet < 64 ∨ y.said = true) → exec .syncHoldover s = .next s)

/-- Offset and delay of one exchange by its four stamps, and the samples that count: those within 1 ns, 8 units, of the least delay
(R353). -/
def Sys2Proof.Claim.SyncFilters : Prop :=
  (∀ t1 t2 t3 t4 : Int, syncSample t1 t2 t3 t4 = (((t2 - t1) + (t3 - t4)) / 2, ((t4 - t1) - (t3 - t2)) / 2)) ∧
  ∀ (l : List (Int × Int)) (x : Int × Int), x ∈ syncKept l ↔ x ∈ l ∧ ∀ y ∈ l, x.2 ≤ y.2 + 8
/-! ## Orders, contexts and plans (12_clerk_firmware.md R395 to R410, 11_host_rings.md R377, R385) -/
namespace Sys2Proof.Claim

/-- The next order of the ring is `o`, has this OP and may start (R377, Table CLK.10, 14_power_ageing_resets.md R465). -/
structure Starts (s : State) (ring op : Nat) (o : Order) (rest : List Order) : Prop where
  next : (s.ring ring).intake = o :: rest
  opIs : o.op = op
  aBellSince : o.taken + 90 < s.bell.lastLatch
  fence : o.fence = true → (s.ring ring).started = []
  notHeld : s.bell.held = false
  scheduler : (s.core s.bell.lead 1).state = 1
  notLate : (s.mod.state ≠ 4 ∧ s.mod.state ≠ 5) ∨ op ∉ [0x06, 0x08, 0x10, 0x11, 0x30, 0x31]

/-- The state in which the next order of the ring has started: it moved from the intake to the started orders, its ring is the one served
last, its start is registered in this cy (R18), and nothing else changed. -/
def begun (s : State) (ring : Nat) (o : Order) (rest : List Order) : State :=
  { s with served := ring, asks := s.asks ++ [(Ask.order o.id, s.now)] }.setRing ring { s.ring ring with intake := rest, started := (s.ring ring).started ++ [o] }

/-- The order rows with their OP codes (11_host_rings.md Table HST.9). -/
def orderRows (host : HostMem) (lines : List (Nat × Line)) : List ((Nat → Instr) × Nat) :=
  [(.nopOrder, 0x00), (.ctxCreate, 0x01), (.ctxKill, 0x02), (.ctxReset, 0x03), (.regionAssign, 0x04), (.regionRelease, 0x05),
   (.planDispatch, 0x06), (.ctxSave, 0x07), (.ctxRestore, 0x08), (.ctxPolicy, 0x09), (.rckAssign, 0x0A), (.rckRelease, 0x0B),
   (.ctxQuery, 0x0C), (.sqBind, 0x10), (.sqBindAny, 0x11), (.sqUnbind, 0x12), (.sqQuery, 0x13), (.allocOrder, 0x20), (.freeOrder, 0x21),
   (.lendStock, 0x22), (.publicMap, 0x23), (.share, 0x24), (.exportOrder, 0x25), ((.importOrder · host), 0x26),
   ((.campusCopy · host), 0x27), (.gather, 0x30), ((.reduceBind · lines), 0x31), (.reduceRelease, 0x32)]

end Sys2Proof.Claim

/-- An order that may not start waits: with the ring's intake empty, another OP in front, no bell decided since it was taken, a hold, the
scheduler core not running, or its fence unmet, the command leaves the machine as it is (R377, Table CLK.10). -/
def Sys2Proof.Claim.OrdersWait : Prop :=
  ∀ (s : State) (ring : Nat) (host : HostMem) (lines : List (Nat × Line)), ∀ row ∈ orderRows host lines,
    ((s.ring ring).intake = [] → exec (row.1 ring) s = .next s) ∧
    (∀ o rest, (s.ring ring).intake = o :: rest →
      (o.op ≠ row.2 ∨ s.bell.lastLatch ≤ o.taken + 90 ∨ s.bell.held = true ∨ (s.core s.bell.lead 1).state ≠ 1 ∨
        (o.fence = true ∧ (s.ring ring).started ≠ []) ∨
        ((s.mod.state = 4 ∨ s.mod.state = 5) ∧ row.2 ∈ [0x06, 0x08, 0x10, 0x11, 0x30, 0x31])) →
      exec (row.1 ring) s = .next s)

/-- An order ends (R385): it leaves its ring, one 64 B record with its status, incident, result and bell goes to the next place of the
completion ring, CTAIL and CIDX go up by one, and memory, stalls, contexts and the ledger stay. A record that a failed completion ring
loses is counted; the session's last completion index stops the ring, with 0x0A0A (R378, R382). -/
def Sys2Proof.Claim.CompletionRecord : Prop :=
  ∀ (s : State) (o : Order) (status inc result detail : Nat), s.findOrder o.id = some o →
    let r := s.ring o.ring
    let t := s.complete o.id status inc result detail
    (r.broken = true → (t.ring o.ring).lost = r.lost + 1 ∧ (t.ring o.ring).ctail = r.ctail ∧ t.out = s.out ∧ t.outWait = s.outWait) ∧
    (r.broken = false → s.mod.session = true → r.cplSpent = false → r.cidx = 4294967295 → r.spent = false →
      (t.ring o.ring).cplSpent = true ∧ (t.ring o.ring).spent = true ∧ (t.ring o.ring).state = 3 ∧
      ∃ i, t.inc.log = i :: s.inc.log ∧ i.code = 0x0A0A) ∧
    (r.broken = false → (s.mod.session = true → r.cplSpent = false) → r.cidx < 4294967295 → (s.ringUp 0 = true ∨ s.ringUp 8 = true) →
    (∀ x ∈ (t.ring o.ring).started ++ (t.ring o.ring).intake, x.id ≠ o.id) ∧
    (∀ x ∈ r.started, x.id ≠ o.id → x ∈ (t.ring o.ring).started) ∧
    (t.ring o.ring).ctail = (r.ctail + 1) % 4294967296 ∧ (t.ring o.ring).cidx = r.cidx + 1 ∧
    (∃ tag, HostWrite.bytes (s.cplBase o.ring + 64 * (r.ctail % s.ringSize o.ring))
      (cplBytes o status inc r.cidx result s.bell.count detail ++ leBytes 16 tag) ∈ t.out ++ t.outWait) ∧
    t = { s with rings := t.rings, out := t.out, outWait := t.outWait, intLast := t.intLast, intHeld := t.intHeld })

/-- Where the fields of a completion record stand (Table HST.11). -/
def Sys2Proof.Claim.CompletionFields : Prop :=
  ∀ (o : Order) (status inc cidx result bell detail : Nat), o.op < 256 → status < 256 → inc < 65536 → o.seq < 2 ^ 32 → cidx < 2 ^ 32 →
    result < 2 ^ 64 → bell < 2 ^ 64 → let b := cplBytes o status inc cidx result bell detail
    b.length = 48 ∧ leNat (b.take 1) = o.op ∧ leNat ((b.drop 1).take 1) = status ∧ leNat ((b.drop 2).take 2) = inc ∧
    leNat ((b.drop 4).take 4) = o.seq ∧ leNat ((b.drop 12).take 4) = cidx ∧ leNat ((b.drop 24).take 8) = result ∧
    leNat ((b.drop 32).take 8) = bell

/-- NOP completes DONE; CTX_CREATE makes a FREE context CREATED with a table of its own, and is rejected with 1 otherwise and with 4 where
HBM has no table; CTX_KILL and CTX_RESET wait for the bell's step 1; CTX_POLICY sets PRIO, QUANTUM and MINRUN; CTX_QUERY gives state and
stalls; each is rejected with 1 where the state does not allow it (Table CLK.4). -/
def Sys2Proof.Claim.ContextOrders : Prop :=
  ∀ (s : State) (ring op : Nat) (o : Order) (rest : List Order), Starts s ring op o rest →
    let b := begun s ring o rest
    let x := s.ctx o.ctx
    let no := .next (b.complete o.id stRejected 0 1 0)
    (op = 0x00 → exec (.nopOrder ring) s = .next (b.complete o.id stDone 0 0 0)) ∧
    (op = 0x01 → (x.state ≠ .free → exec (.ctxCreate ring) s = no) ∧
      (x.state = .free → b.newTable o.ctx 4096 = none → exec (.ctxCreate ring) s = .next (b.complete o.id stRejected 0 4 0)) ∧
      (x.state = .free → ∀ u root, b.newTable o.ctx 4096 = some (u, root) → exec (.ctxCreate ring) s = .next ((u.setCtx o.ctx
        { Ctx.none with state := .created, prio := o.byte 36 % 8, ovrFault := o.ovr, root := some root }).complete o.id stDone 0 0 0))) ∧
    (op = 0x02 → (x.state = .free → exec (.ctxKill ring) s = no) ∧
      (x.state ≠ .free → x.ending = none → exec (.ctxKill ring) s = .next (b.setCtx o.ctx { x with ending := some (true, o.id) }))) ∧
    (op = 0x03 → ((x.state = .free ∨ x.state = .saved) → exec (.ctxReset ring) s = no) ∧
      (x.state ≠ .free → x.state ≠ .saved → x.ending = none →
        exec (.ctxReset ring) s = .next (b.setCtx o.ctx { x with ending := some (false, o.id) }))) ∧
    (op = 0x09 → (x.state = .free → exec (.ctxPolicy ring) s = no) ∧
      (x.state ≠ .free → exec (.ctxPolicy ring) s = .next ((b.setCtx o.ctx
        { x with prio := o.byte 36 % 8, quantum := o.inline 38 2, minrun := o.inline 40 2 }).complete o.id stDone 0 0 0))) ∧
    (op = 0x0C → exec (.ctxQuery ring) s = .next (b.complete o.id stDone 0 (x.state.code + 256 * x.assign.length) 0))

/-- REGION_ASSIGN of a CREATED or RUNNING context gives it the stalls named that it did not occupy, which hold nothing, and a save area for
all it then has; other stalls stay; each failing check is rejected with its code. REGION_RELEASE of a CREATED context frees its stalls and its area (R401,
R402). -/
def Sys2Proof.Claim.RegionOrders : Prop :=
  ∀ (s : State) (ring op : Nat) (o : Order) (rest : List Order), Starts s ring op o rest →
    let b := begun s ring o rest
    let x := s.ctx o.ctx
    (op = 0x04 →
      (x.state ≠ .created → x.state ≠ .running → exec (.regionAssign ring) s = .next (b.complete o.id stRejected 0 1 0)) ∧
      ((x.state = .created ∨ x.state = .running) →
        (∀ code, b.regionStalls o = .inl code → exec (.regionAssign ring) s = .next (b.complete o.id stRejected 0 code 0)) ∧
        (∀ l, b.regionStalls o = .inr l → let new := l.filter fun k => !x.assign.contains k
          let n := x.assign.length + new.length
          let take := l.filter fun k => (s.stall k).occ ≠ some o.ctx
          (new = [] → take = [] → exec (.regionAssign ring) s = .next (b.complete o.id stDone 0 n 0)) ∧
          (new ≠ [] → b.takeCrates (saveCrates n) [] = none →
            exec (.regionAssign ring) s = .next (b.complete o.id stRejected 0 4 0)) ∧
          (new ≠ [] → ∀ u area, b.takeCrates (saveCrates n) [] = some (u, area) →
            ∃ v : State, exec (.regionAssign ring) s = .next (v.complete o.id stDone 0 n 0) ∧
              v.ctx o.ctx = { x with assign := x.assign ++ new, saveArea := area } ∧ (∀ c, c ≠ o.ctx → v.ctx c = s.ctx c) ∧
              (∀ k ∈ take, (v.stall k).occ = some o.ctx ∧ (v.stall k).started = false ∧ (v.stall k).status = .idle) ∧
              (∀ k, k ∉ take → v.stall k = s.stall k) ∧ v.mem = s.mem)))) ∧
    (op = 0x05 →
      (x.state ≠ .created → exec (.regionRelease ring) s = .next (b.complete o.id stRejected 0 1 0)) ∧
      (x.state = .created → ∃ v : State, exec (.regionRelease ring) s = .next (v.complete o.id stDone 0 0 0) ∧
        v.ctx o.ctx = { x with assign := [], saveArea := [] } ∧ (∀ k ∈ s.stallsOf o.ctx, (v.stall k).occ = none) ∧
        (∀ k, k ∉ s.stallsOf o.ctx → v.stall k = s.stall k) ∧ v.mem = s.mem ∧
        (∀ q ∈ v.squares, q.ctx = o.ctx → q.unbind = true)))

/-- A chosen rectangle (R403) takes free stalls of one die in its shape, none twice, and a chosen list names no stall that a context
holds. -/
def Sys2Proof.Claim.ChosenStallsAreFree : Prop :=
  ∀ (s : State) (taken l : List Nat) (q : RectReq), s.chooseRect taken q = some l →
    (∀ k ∈ l, (s.stall k).occ = none ∧ s.fenced k = false ∧ k ∉ taken) ∧
    ∃ d x y, d < 16 ∧ l = rectStalls d x y (x + (q.x1 - q.x0)) (y + (q.y1 - q.y0)) ∧ x + (q.x1 - q.x0) < 64 ∧ y + (q.y1 - q.y0) < 80

/-- PLAN_DISPATCH (R404): state, argument, barred stalls and busy stalls are checked in this order, with codes 1, 7, 3 and 2 (the order is the
model's choice, log entry 143); then the dispatch waits for its images. A loader's image that is read is written into every stall of
its entry at LOAD, and nowhere else; one that is refused ends the order with 0x0B07. -/
def Sys2Proof.Claim.PlanDispatches : Prop :=
  (∀ (s : State) (ring : Nat) (o : Order) (rest : List Order), Starts s ring 0x06 o rest →
    let b := begun s ring o rest
    let x := s.ctx o.ctx
    let entries := (upFrom 0 (o.arg 0 2)).map (planEntry o)
    let stalls := entries.flatMap PlanEntry.stalls
    let good := o.arg 0 2 ≠ 0 ∧ o.arg 0 2 ≤ 16 ∧ o.arg 2 6 = 0 ∧ o.arg 16 48 = 0 ∧
      (∀ e, e < o.arg 0 2 → o.arg (64 + 32 * e + 5) 3 = 0) ∧ (∀ p ∈ entries, p.ok = true) ∧ stalls.Nodup
    (x.state ≠ .created → x.state ≠ .running → exec (.planDispatch ring) s = .next (b.complete o.id stRejected 0 1 0)) ∧
    ((x.state = .created ∨ x.state = .running) →
      (¬ good → exec (.planDispatch ring) s = .next (b.complete o.id stRejected 0 7 0)) ∧
      (good → (∃ k ∈ stalls, s.barred k = true) → exec (.planDispatch ring) s = .next (b.complete o.id stRejected 0 3 0)) ∧
      (good → (∀ k ∈ stalls, s.barred k = false) → (∃ k ∈ stalls, (s.stall k).occ ≠ some o.ctx ∨ s.planBusy k = true) →
        exec (.planDispatch ring) s = .next (b.complete o.id stRejected 0 2 0)) ∧
      (good → (∀ k ∈ stalls, s.barred k = false ∧ (s.stall k).occ = some o.ctx ∧ s.planBusy k = false) →
        exec (.planDispatch ring) s = .next { b with
          dispatches := s.dispatches ++ [⟨o.id, o.ctx, entries, o.arg 8 8, [], s.now, false, []⟩] }))) ∧
  (∀ (s : State) (d : Dispatch) (e : Nat) (p : PlanEntry) (met : List Met) (host : HostMem), Memory.wf s.mem = true →
    s.dispatches.find? (fun x => x.order = d.order && !x.running) = some d → d.entries[e]? = some p → s.bell.held = false →
    d.loaded.contains e = false → (∀ i q, i < e → d.entries[i]? = some q → q.die = p.die → d.loaded.contains i = true) →
    (s.core p.die 0).state = 1 →
    let got := s.loadImage d.ctx p.die met host p.image (imagePieces p.image (p.len / 4096 + 2) p.len) []
    (∀ t l, got = .ok t l → p.load + l.length ≤ stockBytes → t.mem = s.mem ∧ ∃ u, exec (.planLoaderWrite d.order e met host) s = .next u ∧
      (∀ k ∈ p.stalls, ∀ i, i < l.length → some (u.byte (stockAddr k (p.load + i))) = l[i]?) ∧
      (∀ a, (∀ k ∈ p.stalls, a < stockAddr k p.load ∨ stockAddr k p.load + l.length ≤ a) → u.byte a = s.byte a) ∧
      u.stalls = t.stalls ∧ (met = [] → t.stalls = s.stalls) ∧ ∀ y ∈ u.dispatches, y.order = d.order → y = { d with loaded := d.loaded ++ [e], lastWrite := s.now }) ∧
    (∀ t, got = .wait t → exec (.planLoaderWrite d.order e met host) s = .next t ∧ t.mem = s.mem ∧ t.dispatches = s.dispatches ∧
      (met = [] → t.stalls = s.stalls)) ∧
    (∀ t va, got = .refused t va → ∃ u i, exec (.planLoaderWrite d.order e met host) s = .next (State.complete u d.order stFailed 0x0B07 0 0) ∧
      u.mem = s.mem ∧ (∀ y ∈ u.dispatches, y.order ≠ d.order) ∧ u.inc.log = i :: t.inc.log ∧ i.code = 0x0B07 ∧ i.ctx = some d.ctx))

/-- CTX_SAVE of a CREATED or RUNNING context and CTX_RESTORE of a SAVED one wait for their bells; each is rejected with 1 in another state,
and a restore with 3 where a stall saved outside a square is barred (R406, R408). -/
def Sys2Proof.Claim.SaveAndRestoreOrders : Prop :=
  ∀ (s : State) (ring op : Nat) (o : Order) (rest : List Order), Starts s ring op o rest →
    let b := begun s ring o rest
    let x := s.ctx o.ctx
    (op = 0x07 → (x.state ≠ .created → x.state ≠ .running → exec (.ctxSave ring) s = .next (b.complete o.id stRejected 0 1 0)) ∧
      ((x.state = .created ∨ x.state = .running) → exec (.ctxSave ring) s = .next (b.setCtx o.ctx { x with save := some (some o.id) }))) ∧
    (op = 0x08 → (x.state ≠ .saved → exec (.ctxRestore ring) s = .next (b.complete o.id stRejected 0 1 0)) ∧
      (x.state = .saved → (∃ i ∈ x.images, i.sqX = 0xFF ∧ s.barred i.stall = true) →
        exec (.ctxRestore ring) s = .next (b.complete o.id stRejected 0 3 0)) ∧
      (x.state = .saved → (∀ i ∈ x.images, i.sqX = 0xFF → s.barred i.stall = false) →
        exec (.ctxRestore ring) s = .next (b.setCtx o.ctx { x with restore := some o.id })))

/-- A save that has drained leaves the context SAVED, one image for each of its stalls, with the stall's PC, scalar registers, FULL
registers and SKEEP stock, and the stalls unoccupied; until then, and while held, the command leaves the machine as it is. The last write
of a restore is noted for the bell at which the context resumes (R104, R406, R408). -/
def Sys2Proof.Claim.SavesAndRestoresComplete : Prop :=
  ∀ (s : State) (c : Fin 64), let x := s.ctx c.val
    let ks := s.stallsOf c.val
    ((x.state ≠ .saving ∨ s.bell.held = true ∨ (∃ k ∈ ks, s.drained k = false)) → exec (.saveComplete c) s = .next s) ∧
    (x.state = .saving → s.bell.held = false → (∀ k ∈ ks, s.drained k = true ∧ (s.core (dieOf k) 0).state = 1) →
      ∃ v : State, exec (.saveComplete c) s = .next (v.completeAll stDone 0 ((v.startedOf c.val).filter fun o => o.op = 0x07)) ∧
        (v.ctx c.val).state = .saved ∧ (v.ctx c.val).images.map (·.stall) = ks ∧ v.mem = s.mem ∧
        (∀ k ∈ ks, (v.stall k).occ = none) ∧ (∀ k, k ∉ ks → v.stall k = s.stall k) ∧
        (∀ i ∈ (v.ctx c.val).images, i.st.pc = (s.stall i.stall).pc ∧ i.st.s = (s.stall i.stall).s ∧ i.st.full = (s.stall i.stall).full ∧
          (∀ r, (s.stall i.stall).isFull r = true → i.st.vreg r = (s.stall i.stall).vreg r) ∧
          (i.kept.head? = some (0, (s.stall i.stall).skeep)))) ∧
    ((x.state ≠ .restoring ∨ s.bell.held = true ∨ x.restored = true) → exec (.restoreComplete c) s = .next s) ∧
    (x.state = .restoring → s.bell.held = false → x.restored = false → (∀ i ∈ x.images, (s.core (dieOf i.stall) 0).state = 1) →
      exec (.restoreComplete c) s = .next (s.setCtx c.val { x with restored := true }))

/-- RCK_ASSIGN gives the named unit, or the lowest free one, to the context, with everything of it 0; RCK_RELEASE orphans a unit of the
context; a context that does not exist is rejected with 1, another unit with 6 (R208, R216). -/
def Sys2Proof.Claim.UnitOrders : Prop :=
  ∀ (s : State) (ring op : Nat) (o : Order) (rest : List Order), Starts s ring op o rest →
    let b := begun s ring o rest
    let u := o.byte 36
    let free := fun (v : Nat) => s.unitHere v = true ∧ (s.unit v).assigned = false
    ((s.ctx o.ctx).state = .free →
      (op = 0x0A → exec (.rckAssign ring) s = .next (b.complete o.id stRejected 0 1 0)) ∧
      (op = 0x0B → exec (.rckRelease ring) s = .next (b.complete o.id stRejected 0 1 0))) ∧
    ((s.ctx o.ctx).state ≠ .free →
      (op = 0x0A → bitAt (o.byte 37) 0 = true → ∀ v, v < 256 → free v → (∀ w, w < v → ¬ free w) → exec (.rckAssign ring) s =
        .next ((b.setUnit v { Unit.free with assigned := true, owner := o.ctx }).complete o.id stDone 0 v 0)) ∧
      (op = 0x0A → bitAt (o.byte 37) 0 = true → (∀ w, w < 256 → ¬ free w) →
        exec (.rckAssign ring) s = .next (b.complete o.id stRejected 0 6 0)) ∧
      (op = 0x0A → bitAt (o.byte 37) 0 = false → free u → exec (.rckAssign ring) s =
        .next ((b.setUnit u { Unit.free with assigned := true, owner := o.ctx }).complete o.id stDone 0 u 0)) ∧
      (op = 0x0A → bitAt (o.byte 37) 0 = false → s.unitHere u = true → (s.unit u).assigned = true → (s.unit u).owner ≠ o.ctx →
        exec (.rckAssign ring) s = .next (b.complete o.id stRejected 0 6 0)) ∧
      (op = 0x0B → s.unitHere u = true → (s.unit u).assigned = true → (s.unit u).owner = o.ctx → (s.unit u).mods = [] →
        ∃ v : State, exec (.rckRelease ring) s = .next (v.complete o.id stDone 0 0 0) ∧ (v.unit u).orph = true ∧
          (v.unit u).assigned = false ∧ v.casts = s.casts ++ [⟨s.idSeq, u, (s.unit u).gen, true, s.mod.id⟩] ∧
          (∃ i, v.inc.log = i :: s.inc.log ∧ i.code = 0x0507)) ∧
      (op = 0x0B → ((s.unit u).assigned = false ∨ (s.unit u).owner ≠ o.ctx) →
        exec (.rckRelease ring) s = .next (b.complete o.id stRejected 0 6 0)))

/-- SQ_BIND, SQ_BIND_ANY and SQ_UNBIND wait for step 5 of a bell, an unbinding marking its square; SQ_QUERY gives one bit per bound
placement of the die; a wrong state is rejected with 1, a placement not bound to the context with 8 (R149, R151, R405). -/
def Sys2Proof.Claim.SquareOrders : Prop :=
  ∀ (s : State) (ring op : Nat) (o : Order) (rest : List Order), Starts s ring op o rest →
    let b := begun s ring o rest
    let st := (s.ctx o.ctx).state
    let ask := fun (any unbind : Bool) => (⟨o.id, o.ctx, any, unbind, o.byte 36, o.byte 37, o.byte 38⟩ : SqReq)
    (∀ c any, (op = 0x10 ∧ c = .sqBind ring ∧ any = false) ∨ (op = 0x11 ∧ c = .sqBindAny ring ∧ any = true) →
      (st ≠ .created → st ≠ .running → exec c s = .next (b.complete o.id stRejected 0 1 0)) ∧
      ((st = .created ∨ st = .running) → exec c s = .next { b with sqReqs := s.sqReqs ++ [ask any false] })) ∧
    (op = 0x12 → st ≠ .free →
      (∀ q, s.squareAt (o.byte 36) (o.byte 37) (o.byte 38) = some q → q.ctx = o.ctx → exec (.sqUnbind ring) s = .next
        { b with squares := s.squares.map (fun y => if y.same q then { q with unbind := true } else y), sqReqs := s.sqReqs ++ [ask false true] }) ∧
      ((∀ q, s.squareAt (o.byte 36) (o.byte 37) (o.byte 38) = some q → q.ctx ≠ o.ctx) →
        exec (.sqUnbind ring) s = .next (b.complete o.id stRejected 0 8 0))) ∧
    (op = 0x13 → st ≠ .free → exec (.sqQuery ring) s = .next (b.complete o.id stDone 0
      (((s.squares.filter fun q => q.ctx = o.ctx && q.die = o.byte 36).map fun q => 2 ^ (4 * (q.x0 / 16) + q.y0 / 16)).sum) 0)) ∧
    (st = .free → (op = 0x12 → exec (.sqUnbind ring) s = .next (b.complete o.id stRejected 0 1 0)) ∧
      (op = 0x13 → exec (.sqQuery ring) s = .next (b.complete o.id stRejected 0 1 0)))

/-- The report of a stopped stall leaves its first cause with its context (R399); the default policy asks for saves of CREATED and RUNNING
contexts only, asks for one of every context whose quantum has run out, and changes nothing else (R410). -/
def Sys2Proof.Claim.ReportsAndPolicy : Prop :=
  (∀ (s : State) (sid : StallId) (code cy c : Nat), (s.stall sid.num).status = .stopped code cy → (s.stall sid.num).occ = some c →
    ((s.core sid.die.val 0).state ≠ 1 → exec (.stopReport sid) s = .next s) ∧
    ((s.core sid.die.val 0).state = 1 → (s.ctx c).state ≠ .free → (s.ctx c).state ≠ .faulted → (s.ctx c).cause = none →
      exec (.stopReport sid) s = .next
        ({ s with asks := s.asks ++ [(Ask.fault c, s.now)] }.setCtx c { s.ctx c with cause := some (code, sid.num) })) ∧
    ((s.ctx c).cause.isSome = true → exec (.stopReport sid) s = .next s)) ∧
  (∀ s : State, ((s.core s.bell.lead 1).state ≠ 1 → exec .policy s = .next s) ∧
    ((s.core s.bell.lead 1).state = 1 → ∃ t, exec .policy s = .next t ∧ t = { s with ctxs := t.ctxs } ∧
      (∀ c, t.ctx c = s.ctx c ∨ (((s.ctx c).state = .running ∨ (s.ctx c).state = .created) ∧ (s.ctx c).save = none ∧
        t.ctx c = { s.ctx c with save := some none })) ∧
      ∀ c ∈ s.quantumOut, (t.ctx c).save.isSome = true))
/-! ## Ledger orders (08_ledger_dray.md R271, R284, 10_weago.md R350) and training (09_training.md R299 to R312) -/
namespace Sys2Proof.Claim

/-- Operands of a ledger order (11_host_rings.md Table HST.10), byte by byte. -/
def orderArgs (o : Order) : LdgArgs :=
  ⟨o.ctx, o.arg 0 8, o.arg 8 2, bitAt (o.arg 10 1) 0, o.arg 10 1 / 2 % 8, o.arg 10 1 / 16 % 4, bitAt (o.arg 10 1) 6, o.arg 11 1 % 16,
    bitAt (o.arg 10 1) 7, false, true⟩

/-- The range of an order is misaligned, empty, too long or past the end of the address space (status 2 of Table LDG.7). -/
def badRange (va count : Nat) (big : Bool) : Prop :=
  va % crateBytes big ≠ 0 ∨ count = 0 ∨ 65536 ≤ count ∨ 2 ^ 56 < va + count * crateBytes big

end Sys2Proof.Claim

/-- ALLOC and FREE as orders do what the functions of the instructions do, and end DONE, or REJECTED with the status of Table LDG.7 and
without effect (R271). -/
def Sys2Proof.Claim.AllocAndFreeOrders : Prop :=
  ∀ (s : State) (ring op : Nat) (o : Order) (rest : List Order), Starts s ring op o rest →
    let b := begun s ring o rest
    let a := orderArgs o
    (op = 0x20 → ((b.allocFn a).2 = 0 → exec (.allocOrder ring) s = .next ((b.allocFn a).1.complete o.id stDone 0 0 0)) ∧
      ((b.allocFn a).2 ≠ 0 → exec (.allocOrder ring) s = .next (b.complete o.id stRejected 0 (b.allocFn a).2 0)) ∧
      ((s.ctx o.ctx).state = .free → (b.allocFn a).2 = 6)) ∧
    (op = 0x21 → ((b.freeFn a).2 = 0 → exec (.freeOrder ring) s = .next ((b.freeFn a).1.complete o.id stDone 0 0 0)) ∧
      ((b.freeFn a).2 ≠ 0 → exec (.freeOrder ring) s = .next (b.complete o.id stRejected 0 (b.freeFn a).2 0)) ∧
      ((s.ctx o.ctx).state = .free → (b.freeFn a).2 = 6))

/-- LEND_STOCK maps one stock region of a stall of the context as a 64 KiB crate; PUBLIC_MAP maps a host buffer; SHARE notes the crates of
another context for the page commit; EXPORT asks for a sealed copy of each crate. The context must exist (6), the range be good (2), the
stall be the context's and its region not lent already (3; the latter is the model's choice, log entry 161), and the crates be free, or
mapped, as the order needs (1) (R269, R271, R284). -/
def Sys2Proof.Claim.MappingOrders : Prop :=
  ∀ (s : State) (ring op : Nat) (o : Order) (rest : List Order), Starts s ring op o rest →
    let b := begun s ring o rest
    let a := orderArgs o
    let k := o.arg 16 8 % 2 ^ 17
    let no := fun (n : Nat) => Host.Outcome.next (b.complete o.id stRejected 0 n 0)
    let rows : List (Instr × Nat) := [(.lendStock ring, 0x22), (.publicMap ring, 0x23), (.share ring, 0x24), (.exportOrder ring, 0x25)]
    (∀ row ∈ rows, op = row.2 → ((s.ctx o.ctx).state = .free → exec row.1 s = no 6) ∧
      ((s.ctx o.ctx).state ≠ .free → (op = 0x24 → (s.ctx (o.arg 12 1 % 64)).state ≠ .free) → badRange a.va a.count a.big → exec row.1 s = no 2)) ∧
    ((s.ctx o.ctx).state ≠ .free → ¬ badRange a.va a.count a.big →
      (op = 0x22 → a.count = 1 → a.big = false →
        ((namesStall k = false ∨ s.fenced k = true ∨ (s.stall k).occ ≠ some o.ctx) → exec (.lendStock ring) s = no 3) ∧
        (namesStall k = true → s.fenced k = false → (s.stall k).occ = some o.ctx →
          let addr := stockAddr k (if bitAt (o.arg 16 8) 17 then 65536 else 0)
          (addr ∈ s.lentStock → exec (.lendStock ring) s = no 3) ∧
          (addr ∉ s.lentStock → (∃ c ∈ a.crates, s.overlaps c = true) → exec (.lendStock ring) s = no 1) ∧
          (addr ∉ s.lentStock → (∀ c ∈ a.crates, s.overlaps c = false) →
            let made := b.mapCrates (mkLeaf a.pol a.w false false false false ⟨1, addr, s.mod.id⟩) a.crates
            (∀ u, made = some u → exec (.lendStock ring) s = .next (u.complete o.id stDone 0 0 0)) ∧
            (made = none → exec (.lendStock ring) s = no 4)))) ∧
      (op = 0x23 → o.arg 16 8 % crateBytes a.big = 0 → ddrBase ≤ o.arg 16 8 → o.arg 16 8 + a.count * crateBytes a.big ≤ cfgBase →
        ((∃ c ∈ a.crates, s.overlaps c = true) → exec (.publicMap ring) s = no 1) ∧
        ((∀ c ∈ a.crates, s.overlaps c = false) → ∃ v, exec (.publicMap ring) s = .next v ∧ v.mem = s.mem ∧ v.stalls = s.stalls ∧
          (a.count = 1 → ∀ u, b.mapCrate ⟨o.ctx, a.va, a.big⟩ (mkLeaf a.pol a.w false false false false ⟨5, o.arg 16 8, s.mod.id⟩) = some u →
            v = u.complete o.id stDone 0 0 0))) ∧
      (op = 0x24 → (s.ctx (o.arg 12 1 % 64)).state ≠ .free → ¬ badRange (o.arg 16 8) a.count a.big →
        let src := rangeCrates (o.arg 12 1 % 64) (o.arg 16 8) a.count a.big
        (((∃ c ∈ a.crates, s.overlaps c = true) ∨ (∃ c ∈ src, (s.leafOf c).isNone = true)) → exec (.share ring) s = no 1) ∧
        ((∀ c ∈ a.crates, s.overlaps c = false) → (∀ c ∈ src, (s.leafOf c).isNone = false) → ∀ u, b.leafSlots a.crates = some u →
          ∃ v : State, exec (.share ring) s = .next (v.complete o.id stDone 0 0 0) ∧ v.mem = s.mem ∧ v.stalls = s.stalls ∧
            v.ledger.pendShare = s.ledger.pendShare ++ (src.zip a.crates).map (fun p => ⟨p.1, p.2.ctx, p.2.va, a.w, none, s.now⟩))) ∧
      (op = 0x25 →
        ((∃ c ∈ a.crates, (s.leafOf c).isNone = true) → exec (.exportOrder ring) s = no 1) ∧
        ((∀ c ∈ a.crates, (s.leafOf c).isNone = false) → ∃ l, exec (.exportOrder ring) s =
            .next { b with ledger := { s.ledger with moves := s.ledger.moves ++ l } } ∧ l.map (·.crate) = a.crates ∧
          ∀ i m, l[i]? = some m → m.isExport = true ∧ m.phase = .asked ∧ m.order = some o.id ∧
            m.dst.addr = o.arg 16 8 + i * (64 + crateBytes a.big))))

/-- Where an opened owner image lands (R266, R284; the choice of HBM: log entry 45): in the storage of a crate that lies in stock, depot or
HBM; else in new HBM, which a public or remote crate takes with the page commit; without room for it nothing is written. -/
def Sys2Proof.Claim.OwnerImagesLand : Prop :=
  ∀ (s : State) (c : Crate) (pol : Nat) (w : Bool) (order : Option Nat) (l : List Byte), let got := s.importInto c pol w order l
    (∀ a e, s.leafOf c = some (a, e) → eTier e ∈ [1, 2, 3] → (∀ m ∈ s.ledger.moves, m.crate ≠ c) →
      got = some (s.crateWrite (eStore e) c.big l)) ∧
    (∀ a e t k, s.leafOf c = some (a, e) → (eTier e = 5 ∨ eTier e = 6) → s.takeUnits 3 0 (crateUnits c.big) = some (t, k) →
      let st : Store := ⟨3, t.unitAddr 3 k, t.mod.id⟩
      ∃ u, got = some u ∧ u.mem = (t.crateWrite st c.big l).mem ∧
        ∃ m ∈ u.ledger.moves, m.crate = c ∧ m.phase = .imported ∧ m.src = eStore e ∧ m.dst = st ∧ m.order = order) ∧
    ((∀ a e, s.leafOf c = some (a, e) → eTier e ∉ [1, 2, 3]) → s.takeUnits 3 0 (crateUnits c.big) = none → got = none)

/-- IMPORT opens owner images of host memory one after another into the context and fails with the code of the first that does not open;
it ends at once, or with the page commit that gives the crate its storage; CAMPUS_COPY sends the images unchanged; a host refusal fails
either with 0x0706, a late answer with 0x0608 (R251, R266, R283, R284, R350). -/
def Sys2Proof.Claim.ImportAndCopyOrders : Prop :=
  ∀ (s : State) (ring op : Nat) (o : Order) (rest : List Order) (img : List Byte), Starts s ring op o rest →
    let b := begun s ring o rest
    let a := orderArgs o
    (s.ctx o.ctx).state ≠ .free → a.count = 1 → ¬ badRange a.va a.count a.big → img.length = 64 + crateBytes a.big →
    let c : Crate := ⟨o.ctx, a.va, a.big⟩
    (op = 0x26 → let opened := b.openImage c o.ctx 0x3FFFF s.ledger.ownerFloor true (img.take 64) (img.drop 64)
      ((s.leafOf c).isNone = true → s.overlaps c = true →
        exec (.importOrder ring (.bytes img)) s = .next (b.complete o.id stRejected 0 1 0)) ∧
      (((s.leafOf c).isNone = false ∨ s.overlaps c = false) →
        (∀ v l u, opened = .body v l → b.importInto c a.pol a.w (some o.id) l = some u →
          ∃ t, t = ({ u with ledger := { u.ledger with ownerFloor := v } } : State).metDemand c ∧
            ((∀ m ∈ u.ledger.moves, m.order ≠ some o.id) →
              exec (.importOrder ring (.bytes img)) s = .next (State.complete t o.id stDone 0 0 0)) ∧
            ((∃ m ∈ u.ledger.moves, m.order = some o.id) → exec (.importOrder ring (.bytes img)) s = .next t)) ∧
        (∀ v l, opened = .body v l → b.importInto c a.pol a.w (some o.id) l = none → ∃ t : State, exec (.importOrder ring (.bytes img)) s =
          .next (t.complete o.id stFailed 0x0707 0 0) ∧ t.mem = s.mem) ∧
        (∀ code det, opened = .refuse code det → ∃ t : State, exec (.importOrder ring (.bytes img)) s =
          .next (t.complete o.id stFailed code 0 0) ∧ t.mem = s.mem ∧ t.ledger.importRefused = satInc s.ledger.importRefused) ∧
        (∃ (t : State) (i : Incident), exec (.importOrder ring .refused) s = .next (t.complete o.id stFailed 0x0706 0 0) ∧ t.mem = s.mem ∧
          t.inc.log = i :: s.inc.log ∧ i.code = 0x0706) ∧
        (∃ (t : State) (i : Incident), exec (.importOrder ring .late) s = .next (t.complete o.id stFailed 0x0608 0 0) ∧ t.mem = s.mem ∧
          t.inc.log = i :: s.inc.log ∧ i.code = 0x0608))) ∧
    (op = 0x27 → let m := o.arg 24 3 % 2 ^ 18
      (s.sending m (!s.inHall m) = .unreachable → ∃ (t : State) (i : Incident), exec (.campusCopy ring (.bytes img)) s =
          .next (t.complete o.id stFailed 0x0907 0 0) ∧ t.mem = s.mem ∧ t.inc.log = i :: s.inc.log ∧ i.code = 0x0907) ∧
      (s.sending m (!s.inHall m) ≠ .unreachable → ∃ t, exec (.campusCopy ring (.bytes img)) s = .next t ∧
        t.fab.exchanges = s.fab.exchanges ++ [⟨m, c, 2, 0, some o.id, 0⟩] ∧ t = { b with fab := t.fab }) ∧
      (s.sending m (!s.inHall m) ≠ .unreachable → ∃ (t : State) (i : Incident), exec (.campusCopy ring .refused) s =
          .next (t.complete o.id stFailed 0x0706 0 0) ∧ t.mem = s.mem ∧ t.inc.log = i :: s.inc.log ∧ i.code = 0x0706))

/-- The five checks of R300 in their order: GATHER with a good descriptor waits for its bell, another fails with 0x0802 and the number of the
check. A running gather is done when every line has been written and every write to another module acknowledged: DONE goes up by 1 and the
order completes; a line that waits leaves the lines from it on for later, a refused one fails the order with 0x0804; while held it does
nothing (R232, R300, R301). -/
def Sys2Proof.Claim.Gathers : Prop :=
  (∀ (s : State) (ring : Nat) (o : Order) (rest : List Order), Starts s ring 0x30 o rest →
    let b := begun s ring o rest
    let g : Gather := ⟨o.id, o.ctx, o.args, false, false, 0, []⟩
    (b.gatherCheck o.ctx g = none → exec (.gather ring) s = .next { b with gathers := s.gathers ++ [g] }) ∧
    (∀ n, b.gatherCheck o.ctx g = some n → 1 ≤ n ∧ n ≤ 5 ∧ ∃ t i, exec (.gather ring) s = .next (State.complete t o.id stFailed 0x0802 0 0) ∧
      t.gathers = s.gathers ∧ t.inc.log = i :: s.inc.log ∧ i.code = 0x0802 ∧ i.detail = [n])) ∧
  (∀ (s : State) (g : Gather) (host : List (Nat × Line)) (met : List Met) (written : List Nat),
    s.gathers.find? (fun x => x.order = g.order && x.running && !x.finished) = some g →
    ((s.bell.held = true ∨ ((s.ctx g.ctx).state ≠ .created ∧ (s.ctx g.ctx).state ≠ .running)) →
      exec (.gatherComplete g.order host met written) s = .next s) ∧
    (s.bell.held = false → ((s.ctx g.ctx).state = .created ∨ (s.ctx g.ctx).state = .running) →
      let n := g.length / 64
      let run := s.gatherLines g host met g.acks (upFrom g.next (n - g.next))
      (∀ t acks, run = .ok t acks → t.failedWrite acks = none → t.awaits acks = false →
        ∃ u : State, exec (.gatherComplete g.order host met written) s = .next (u.complete g.order stDone 0 0 0) ∧ u.mem = t.mem ∧
          (∀ x ∈ u.gathers, x.order = g.order → x.finished = true) ∧
          (g.doneen = true → u.sigs = t.sigs ++ [⟨t.idSeq, bitsAt g.done 6 17, bitsAt g.done 0 6, bitsAt g.done 6 17, bitsAt g.done 42 6, 1, true⟩]) ∧
          (g.doneen = false → u.sigs = t.sigs)) ∧
      (∀ t acks, run = .ok t acks → t.failedWrite acks = none → t.awaits acks = true →
        exec (.gatherComplete g.order host met written) s = .next { t with gathers := t.gathers.map fun x =>
          if x.order = g.order then { g with next := n, acks := acks } else x }) ∧
      (∀ t acks x, run = .ok t acks → t.failedWrite acks = some x → ∃ (u : State) (i : Incident), exec (.gatherComplete g.order host met written) s =
        .next (u.complete g.order stFailed 0x0804 0 0) ∧ u.mem = t.mem ∧ u.inc.log = i :: t.inc.log ∧ i.code = 0x0804) ∧
      (∀ t l acks, run = .wait t l acks → exec (.gatherComplete g.order host met written) s = .next { t with gathers := t.gathers.map fun x =>
          if x.order = g.order then { g with next := l, acks := acks } else x }) ∧
      (∀ t l slot code, run = .refuse t l slot code → ∃ (u : State) (i : Incident), exec (.gatherComplete g.order host met written) s =
        .next (u.complete g.order stFailed 0x0804 0 0) ∧ u.inc.log.head? = some i ∧ i.code = 0x0804 ∧ i.ctx = some g.ctx ∧
        ∀ x ∈ u.gathers, x.order = g.order → x.finished = true)))

/-- One gather line (R301): with two slots on the module's dies the line written at DST is the sum of the two, element by element, scaled
where SCALEN asks for it, and no other byte changes. -/
def Sys2Proof.Claim.GatherLineSums : Prop :=
  ∀ (s t u w : State) (g : Gather) (host : List (Nat × Line)) (l k d ea e : Nat) (x y : Line), Memory.wf s.mem = true → g.nslot = 2 →
    g.stalls.getD (l % g.stalls.length) 0 = k →
    s.readVa g.ctx k (g.slot0 + 64 * l) host [] = .ok t x → t.readVa g.ctx k (g.slot0 + g.sstride + 64 * l) host [] = .ok u y →
    u.engineTr g.ctx (g.dst + 64 * l) k (dieOf k % 16) true = (w, .ok d ea e) → u.onDies d = true → w.lineCode (dieOf k % 16) d = 0 →
    let sum := if g.scalen then mapLine (fun e => fMul e g.scale) (addLines x y) else addLines x y
    ∃ v, s.gatherLine g host [] l = (.done v, 2) ∧ v.line (d % 2 ^ 46) = sum ∧
      ∀ a, a < d % 2 ^ 46 ∨ d % 2 ^ 46 + 64 ≤ a → v.byte a = s.byte a

/-- REDUCE_BIND waits for step 6 of a bell; REDUCE_RELEASE of a set of the context waits until its started buckets have completed, and is
rejected with 1 where the context has no such set (R306, R312). -/
def Sys2Proof.Claim.ReductionOrders : Prop :=
  ∀ (s : State) (ring op : Nat) (o : Order) (rest : List Order) (host : List (Nat × Line)), Starts s ring op o rest →
    let b := begun s ring o rest
    let found := s.findSet (o.inline 36 2)
    (op = 0x31 → exec (.reduceBind ring host) s = .next { b with binds := s.binds ++ [⟨o.id, o.ctx, o.args, host⟩] }) ∧
    (op = 0x32 →
      (∀ x, found = some x → x.ctx = o.ctx → x.release = none → exec (.reduceRelease ring) s = .next { b with
        sets := s.sets.map fun y => if y.setid = x.setid then { x with release := some o.id } else y }) ∧
      ((found = none ∨ ∃ x, found = some x ∧ (x.ctx ≠ o.ctx ∨ x.release.isSome = true)) →
        exec (.reduceRelease ring) s = .next (b.complete o.id stRejected 0 1 0)))

/-- A bucket starts only when the fill tally has received its threshold, in the order of its number, and the gate count of the set's plan
moves on to the next threshold (R307); it completes only when every line of it has been written and every write acknowledged, and then
DONE goes up by 1 (R311); neither happens while a hold, a fault or a save keeps the set still. A write that another module refused faults
the set with 0x0809 (R312). -/
def Sys2Proof.Claim.BucketsStartAndComplete : Prop :=
  ∀ (s : State) (x : RSet), s.findSet x.setid = some x →
    (s.setRuns x = false → ∀ h m, exec (.bucketStart x.setid h m) s = .next s) ∧
    (x.fill < x.threshold x.nextStart → x.waiting = [] → x.outq = [] → ∀ h m, exec (.bucketStart x.setid h m) s = .next s) ∧
    (s.setRuns x = true → x.threshold x.nextStart ≤ x.fill → ∀ h m, ∃ t y, exec (.bucketStart x.setid h m) s = .next t ∧
      t.findSet x.setid = some y ∧ y.nextStart = x.nextStart + 1 ∧ y.fill = x.fill ∧ ∃ k ∈ y.buckets, k.num = x.nextStart) ∧
    (s.setRuns x = true → x.threshold x.nextStart ≤ x.fill → x.waiting = [] → x.outq = [] → x.starts x.nextStart = [] → ∀ h m,
      ∃ t, exec (.bucketStart x.setid h m) s = .next t ∧ t = { s with sets := t.sets, stalls := t.stalls } ∧
        t.sets = s.sets.map (fun y => if y.setid = x.setid then
          { x with nextStart := x.nextStart + 1, buckets := x.buckets ++ [⟨x.nextStart, [], [], []⟩] } else y) ∧
        (let k := x.reducers.getD 0 0
         (∀ j, j ≠ k → t.stall j = s.stall j) ∧
         tget (t.stall k).gates 1 63 =
          (tget (s.stall k).gates 1 63 + (x.threshold (x.nextStart + 1) - x.threshold x.nextStart)) % 2 ^ 32)) ∧
    (∀ k, x.bucket x.nextDone = some k →
      ((s.setRuns x = false ∨ (s.failedWrite k.acks = none ∧ (k.written.length < x.linesOf k.num ∨ s.awaits k.acks = true))) →
        exec (.bucketComplete x.setid) s = .next s) ∧
      (∀ l code, s.setRuns x = true → s.failedWrite k.acks = some (l, code) → ∃ t i y, exec (.bucketComplete x.setid) s = .next t ∧
        t.mem = s.mem ∧ t.findSet x.setid = some y ∧ y.faulted = true ∧ t.inc.log = i :: s.inc.log ∧ i.code = 0x0809 ∧
        i.detail = [x.lineVa k.num l, code]) ∧
      (s.setRuns x = true → s.failedWrite k.acks = none → x.linesOf k.num ≤ k.written.length → s.awaits k.acks = false →
        ∃ t, exec (.bucketComplete x.setid) s = .next t ∧ t.mem = s.mem ∧
        t.sets = s.sets.map (fun y => if y.setid = x.setid then { x with nextDone := x.nextDone + 1, buckets := x.buckets.filter fun z => z.num ≠ k.num } else y) ∧
        (x.doneen = false → t.sigs = s.sigs) ∧
        (x.doneen = true → t.sigs = s.sigs ++ [⟨s.idSeq, bitsAt x.done 6 17, bitsAt x.done 0 6, bitsAt x.done 6 17, bitsAt x.done 42 6, 1, true⟩])))

/-- The buckets of a step (R307): their lines add up to the region's, each threshold lies above the one before, and the last of a step is
the whole step's fill. -/
def Sys2Proof.Claim.BucketThresholds : Prop :=
  ∀ x : RSet, 0 < x.lk →
    (∀ j, x.threshold j < x.threshold (j + 1)) ∧ (∀ j, x.threshold (j + x.nbuckets) = x.threshold j + x.lk) ∧
    x.threshold (x.nbuckets - 1) = x.lk ∧ ((upFrom 0 x.nbuckets).map x.bucketLines).sum = x.lk * 16

/-- An ordered write for a reducer (R309, R312, R339): one from outside the hall is answered ERR 3; one to a stall that is no reducer is
dropped with 0x0805; an unexpected line of a set faults it at this member with 0x0805; a line for a faulted set is dropped; the expected
line enters the reducer's stock, a HOLD or none, and waits in the set where its bucket has not started. -/
def Sys2Proof.Claim.ReductionLinesArrive : Prop :=
  ∀ (s : State) (p : Fin 16) (m : Msg) (host : List (Nat × Line)) (met : List Met), s.headMsg p.val 2 = some m → m.dest = s.mod.id → m.ty = 2 →
    let k := (m.addr - stockWin) / 0x40000
    let tag := (m.data.getD 0 0#512).toNat
    let t := s.takeMsg p.val 2
    let found := s.sets.find? (fun x => x.reducers.contains k)
    (s.inHall m.src = false → exec (.reduceLine p host met) s =
      .next (t.sendMsg (mkMsg 5 1 0 0 m.src s.mod.id m.ctx m.tag 3 none []))) ∧
    (s.inHall m.src = true →
      (found = none → ∃ u i, exec (.reduceLine p host met) s = .next u ∧ u.fab = t.fab ∧
        u.mem = s.mem ∧ u.sets = s.sets ∧ u.inc.log = i :: s.inc.log ∧ i.code = 0x0805) ∧
      (∀ x, found = some x → x.faulted = true → exec (.reduceLine p host met) s = .next t) ∧
      (∀ x r j l kind, found = some x → x.faulted = false → kind = bitsAt tag 16 16 → l = bitsAt tag 64 64 →
        j = bitsAt tag 192 64 * x.nbuckets + bitsAt tag 128 64 → x.reducers[r]? = some k → (∀ i, i < r → x.reducers[i]? ≠ some k) →
        ((bitsAt tag 0 16 ≠ x.setid ∨ 3 < kind ∨ (∀ at_, x.expected kind r ≠ some ((j, at_), l))) →
          ∃ u i, exec (.reduceLine p host met) s = .next u ∧ u.mem = s.mem ∧
          u.sets = s.sets.map (fun y => if y.setid = x.setid then { x with faulted := true } else y) ∧
          (x.setid, x.self, 0x0805) ∈ u.aborts ∧ u.inc.log = i :: s.inc.log ∧ i.code = 0x0805) ∧
        (∀ at_, bitsAt tag 0 16 = x.setid → kind ≤ 3 → x.expected kind r = some ((j, at_), l) → s.findSet x.setid = some x →
          x.waiting = [] → x.outq = [] → x.bucket j = none →
          exec (.reduceLine p host met) s = .next { t.putLines (m.addr % 2 ^ 46) m.data with
            sets := s.sets.map fun y => if y.setid = x.setid then { x with
              seen := tput x.seen (4 * r + kind) (j, at_ + 1), waiting := [⟨kind, j, l, m.data.getD 1 0#512⟩] } else y })))

/-- An abort that comes round a ring faults the set with 0x0806 once: its reducers stop, its context's first cause is noted, and the abort
goes on with the member where it arose and its cause (R312). -/
def Sys2Proof.Claim.AbortsFaultTheSet : Prop :=
  ∀ (s : State) (x : RSet) (member cause : Nat), s.findSet x.setid = some x →
    (x.faulted = true → exec (.setAbort x.setid member cause) s = .next s) ∧
    (x.faulted = false → ∃ t i, exec (.setAbort x.setid member cause) s = .next t ∧ t.mem = s.mem ∧ t.stalls = s.stalls ∧
      t.sets = s.sets.map (fun y => if y.setid = x.setid then { x with faulted := true } else y) ∧
      t.aborts = (x.setid, member, cause) :: s.aborts ∧ t.inc.log = i :: s.inc.log ∧ i.code = 0x0806 ∧ i.detail = [member, cause] ∧
      ((s.ctx x.ctx).state = .running → (s.ctx x.ctx).cause = none → (t.ctx x.ctx).cause = some (0x0806, x.reducers.getD 0 0)))

/-! ## Bell and hold (01_bell.md R31 to R59, 14_power_ageing_resets.md R444 to R452) -/
namespace Sys2Proof.Claim

/-- Besides what a statement names, nothing a program can see changes: stalls, memory, porters, contexts, units, the ledger, the queue. -/
def Apart (s t : State) : Prop :=
  t.stalls = s.stalls ∧ t.mem = s.mem ∧ t.ports = s.ports ∧ t.ctxs = s.ctxs ∧ t.units = s.units ∧ t.ledger = s.ledger ∧ t.squares = s.squares ∧
    t.pending = s.pending

/-- A HOLD on the star: decided in cy `cy`, latched 90 cy later. -/
def holdSym (die cause cy : Nat) : Symbol := ⟨.hold, die, 0, cy, cy + 90, cause, [], Due.none⟩

/-- The bell unit after a die has decided a HOLD in cy `cy`: one symbol goes onto the star, and the decision is noted for a GO. -/
def withHold (b : Bell) (die cause cy : Nat) : Bell := { b with symbols := b.symbols ++ [holdSym die cause cy], holds := b.holds ++ [cy] }

/-- From `s` to `t` a die decides a HOLD `delay` cy later; nothing is held yet. -/
def Holds (s t : State) (die cause delay : Nat) : Prop :=
  t.bell = withHold s.bell die cause (s.now + delay) ∧ t.now = s.now ∧ Apart s t

/-- From `s` to `t` one incident of this code with these details is recorded first in the log. -/
def Records (s t : State) (code die : Nat) (detail : List Nat) : Prop :=
  t.inc.log = ⟨code, die, none, 0, 0xFFFFFFFF, s.bell.count, detail⟩ :: s.inc.log

/-- The symbol is the one in flight that latches first. -/
def Next (s : State) (x : Symbol) : Prop := s.nextSymbol = some x

/-- A bell with nothing asked for but perhaps a commit: no faults, orders, moves, fences, dispatches or restores; the module is OPEN and stays so. -/
structure PlainBell (s : State) (x : Symbol) : Prop where
  first : Next s x
  kind : x.kind = .bell
  parity : x.bp = (s.bell.count + 1) % 2
  counts : s.bell.dieCount = []
  faults : x.faults = []
  due : x.due = Due.none
  notHeld : s.bell.held = false
  isOpen : s.mod.state = 3
  target : s.targetMode = 3
  noExit : s.pow.exit = none
  noLinks : s.failing = []
  edge : s.ringUp s.conf.ringDie = true
  noSquares : s.squares = []
  noSets : s.sets = []
  noAsked : s.sqReqs = [] ∧ s.binds = [] ∧ s.gathers = [] ∧ s.dispatches = []
  noPages : s.ledger.pendFree = [] ∧ s.ledger.pendPol = [] ∧ s.ledger.pendShare = [] ∧ s.ledger.moves = [] ∧ s.ledger.crates = []
  noCtxWork : ∀ c, (s.ctx c).state ≠ .restoring ∧ ((s.ctx c).state = .free → (s.ctx c).root = none)
  noRealign : ∀ p ∈ s.ports, ∀ q ∈ p.2.tallies, q.2.ra = false

end Sys2Proof.Claim

/-- A comparator trip decides a HOLD with cause CURRENT 8 cy later and stays active for 2,250 cy; a thermal trip one with cause THERMAL,
8 cy later, its die counts as hot, and with the power core in service S_th goes to its maximum, for the next interval if no decision is
due in this cy (R38); a die that is fenced, and a module whose rails are off, source nothing (R53, R448). -/
def Sys2Proof.Claim.TripsDecideAHold : Prop :=
  ∀ (s : State) (die : Fin 16),
    (s.awake = true → s.deadDies.contains die.val = false →
      (∃ t, exec (.comparatorTrip die) s = .next t ∧ Holds s t die.val 1 8 ∧ t.pow = { s.pow with tripUntil := max s.pow.tripUntil (s.now + 2250) } ∧
        t.inc = s.inc) ∧
      (∃ t, exec (.thermalTrip die) s = .next t ∧ t.now = s.now ∧ Apart s t ∧ t.pow.hotDies.contains die.val = true ∧
        t.bell = withHold { s.bell with
          stretchNext := if s.powerRuns = true ∧ s.now < s.bell.nextD then max s.pow.s s.stretchMax else s.bell.stretchNext }
          die.val 2 (s.now + 8) ∧
        (s.powerRuns = true → t.pow.sth = s.stretchMax ∧ t.pow.s = max s.pow.s s.stretchMax))) ∧
    (s.awake = false ∨ s.deadDies.contains die.val = true → exec (.comparatorTrip die) s = .next s ∧ exec (.thermalTrip die) s = .next s)

/-- The HOLD_REQ land going high makes the lead die decide a HOLD 7 cy later with cause HOLD_REQ; a level that does not rise decides
nothing (R53, R500). -/
def Sys2Proof.Claim.HoldReqDecidesAHold : Prop :=
  ∀ (s : State) (high : Bool),
    (s.pkg.holdReq = false → high = true → s.awake = true → s.deadDies.contains s.bell.lead = false →
      ∃ t, exec (.holdReq high) s = .next t ∧ Holds s t s.bell.lead 4 7 ∧ t.pkg = { s.pkg with holdReq := true }) ∧
    ((s.pkg.holdReq = true ∨ high = false) → exec (.holdReq high) s = .next { s with pkg := { s.pkg with holdReq := high } })

/-- A symbol of even parity, a BELL or RELEASE whose source is not the lead die, and a symbol on a fenced die's lane are errors: incident
0x0104, and a HOLD with cause STAR decided 5 cy later at the receiving die. Any other symbol is none (R31). -/
def Sys2Proof.Claim.StarSymbolErrors : Prop :=
  ∀ (s : State) (die lane : Fin 16) (sym : BitVec 8), s.awake = true → s.deadDies.contains die.val = false →
    let ones := ((upFrom 0 8).filter (bitAt sym.toNat)).length
    let ty := bitsAt sym.toNat 6 2
    let bad := ones % 2 = 0 ∨ ((ty = 1 ∨ ty = 3) ∧ bitsAt sym.toNat 1 4 ≠ s.bell.lead) ∨ s.deadDies.contains lane.val = true
    (bad → ∃ t, exec (.starSymbol die lane sym) s = .next t ∧ Holds s t die.val 32 5 ∧ Records s t 0x0104 die.val [lane.val, sym.toNat]) ∧
    (¬ bad → exec (.starSymbol die lane sym) s = .next s)

/-- The word of a symbol (R30, Table BELL.2): the number of its ones is odd, and TYPE, BP and SRC stand at their places; a die that has
decided nothing in a cy sends the idle symbol 0x01. -/
def Sys2Proof.Claim.StarWords : Prop :=
  (∀ type bp src : Nat, type < 4 → bp < 2 → src < 16 → let w := starWord type bp src
    w < 256 ∧ ((upFrom 0 8).filter (bitAt w)).length % 2 = 1 ∧ bitsAt w 6 2 = type ∧ bitsAt w 5 1 = bp ∧ bitsAt w 1 4 = src) ∧
  (∀ (s : State) (d cy : Nat), (∀ x ∈ s.bell.symbols, x.src ≠ d ∨ x.decided ≠ cy ∨ x.kind = .slip) → s.starSends d cy = 1) ∧
  ∀ (s : State) (x : Symbol), s.bell.symbols = [x] → x.kind ≠ .slip → s.starSends x.src x.decided =
    starWord (if x.kind = .bell then 1 else if x.kind = .hold then 2 else 3) (if x.kind = .bell then x.bp else 0) x.src

/-- 1,024 cy after an expected latch, that of a BELL in flight or else of the next decision, at which nothing latched, the die records
0x0106 and decides a HOLD with cause WATCHDOG 5 cy later; not while the module is held (R35). -/
def Sys2Proof.Claim.BellWatchdogDecidesAHold : Prop :=
  ∀ (s : State) (die : Fin 16),
    (s.awake = true → s.deadDies.contains die.val = false → s.bell.held = false → s.bell.symbols = [] →
      ∃ t, exec (.bellWatchdog die) s = .next t ∧ Holds (s.at (s.bell.nextD + 90 + 1024)) t die.val 64 5 ∧
        Records s t 0x0106 die.val [s.bell.nextD + 90]) ∧
    (∀ x, s.awake = true → s.deadDies.contains die.val = false → s.bell.held = false → s.bell.symbols = [x] → x.kind = .bell →
      ∃ t, exec (.bellWatchdog die) s = .next t ∧ Holds (s.at (x.latch + 1024)) t die.val 64 5 ∧ Records s t 0x0106 die.val [x.latch]) ∧
    (s.bell.held = true → exec (.bellWatchdog die) s = .next s)

/-- An input below 46 V or above 58 V records 0x0D04 when it leaves its range, and the lead die decides a HOLD with cause POWER 4 cy
later; a stretch that has stood at its maximum for 16 decisions under its condition records 0x0D03 and does the same, with its run
started again (R444, R445, R451). -/
def Sys2Proof.Claim.PowerCoreRequestsHolds : Prop :=
  ∀ (s : State), s.awake = true → s.powerRuns = true → s.deadDies.contains s.bell.lead = false →
    (∀ vin, (vin < 4600 ∨ 5800 < vin) → s.pow.inputOut = false →
      ∃ t, exec (.inputRange vin) s = .next t ∧ Holds s t s.bell.lead 8 4 ∧ Records s t 0x0D04 0xFF [vin] ∧ t.pow.inputOut = true) ∧
    (∀ vin, 4600 ≤ vin → vin ≤ 5800 →
      exec (.inputRange vin) s = .next { s with pow := { s.pow with inputOut := false, vin := vin } }) ∧
    ((s.pow.runPow = 17 ∨ s.pow.runTh = 17) → ∃ t, exec .emergencyHold s = .next t ∧ Holds s t s.bell.lead 8 4 ∧
      Records s t 0x0D03 0xFF [if s.pow.runPow = 17 then 1 else 2, s.pow.s] ∧ t.pow.runPow = 0 ∧ t.pow.runTh = 0) ∧
    (s.pow.runPow ≠ 17 → s.pow.runTh ≠ 17 → exec .emergencyHold s = .next s)

/-- A HOLD latches in its own cy: the module is held, its cause bits are set and those before it kept, a
RELEASE of the same cy is discarded, an OPEN module is HELD; every stall keeps what it holds and no instruction, plan or mapping is
touched (R33, R55, R56). -/
def Sys2Proof.Claim.HoldLatches : Prop :=
  ∀ (s : State) (x : Symbol), Next s x → x.kind = .hold →
    ∃ t, exec .holdLatch s = .next t ∧ t.bell.held = true ∧ t.bell.go = s.bell.go ∧ t.bell.count = s.bell.count ∧ t.now = max s.now x.latch ∧
      (∀ i, bitAt t.bell.cause i = ((bitAt s.bell.cause i || bitAt x.cause i) && decide (i < 32))) ∧
      t.bell.symbols = ((s.bell.symbols.erase x).filter fun y => !(y.kind = .release && y.latch = x.latch)) ∧
      (s.mod.state = 3 → t.mod.state = 2) ∧ (s.mod.state ≠ 3 → t.mod.state = s.mod.state) ∧
      t.stalls = s.stalls ∧ t.mem = s.mem ∧ t.ports = s.ports ∧ t.ctxs = s.ctxs ∧ t.units = s.units ∧ t.ledger = s.ledger ∧ t.squares = s.squares

/-- RELEASE latches: the module is no longer held and a HELD module is OPEN; no bell action runs, the bell number stays, parked stalls
stay parked and every stall keeps its PC and registers (R59). -/
def Sys2Proof.Claim.ReleaseLatches : Prop :=
  ∀ (s : State) (x : Symbol), Next s x → x.kind = .release →
    (s.bell.held = false → exec .releaseLatch s = .next (s.latchSymbol x)) ∧
    (s.bell.held = true → ∃ t, exec .releaseLatch s = .next t ∧ t.bell.held = false ∧ t.bell.count = s.bell.count ∧ t.bell.cause = s.bell.cause ∧
      (s.mod.state = 2 → t.mod.state = 3) ∧ (s.mod.state ≠ 2 → t.mod.state = s.mod.state) ∧
      (∀ k, (t.stall k).status = (s.stall k).status ∧ (t.stall k).pc = (s.stall k).pc ∧ (t.stall k).s = (s.stall k).s ∧
        (t.stall k).v = (s.stall k).v ∧ (t.stall k).acc = (s.stall k).acc) ∧ t.mem = s.mem ∧ t.ports = s.ports ∧ t.ctxs = s.ctxs ∧ t.ledger = s.ledger)

/-- With a path from the host, a GO is taken only while a hold is in effect with every cause bit clear, and for a HELD module only once a version is accepted, a
commit has applied and TARGET is OPEN. A write of BELL_HOLD_CAUSE clears the bits it names but for ASSAYER, WATCHDOG and those whose
source is still active (R58, R464). -/
def Sys2Proof.Claim.GoAndCause : Prop :=
  ∀ (s : State) (v : BitVec 32),
    let may := s.hostPath = true ∧ s.bell.held = true ∧ s.bell.cause = 0 ∧ (s.mod.state = 2 → s.conf.hs = 1 ∧ s.mod.configValid = true ∧ s.targetMode = 3)
    (v.getLsbD 0 = true → may → exec (.bellReleaseGo v) s = .next { s with bell := { s.bell with go := some s.now, holds := s.bell.holds.filter (s.now ≤ ·) } }) ∧
    ((v.getLsbD 0 = false ∨ ¬ may) → exec (.bellReleaseGo v) s = .next s) ∧
    (s.hostPath = false → exec (.bellHoldCause v) s = .next s) ∧
    (s.hostPath = true → ∃ t, exec (.bellHoldCause v) s = .next t ∧ t.bell.held = s.bell.held ∧ t.bell.count = s.bell.count ∧ Apart s t ∧
      ∀ i, i < 7 → bitAt t.bell.cause i = (bitAt s.bell.cause i && (!v.getLsbD i || i = 4 || i = 6 || bitAt s.activeCauses i)))

/-- A decision in free-run mode, with no emergency and nothing in flight: the next decision comes P + S cy later, and at least 1 cy later,
with S the stretch that had reached the generator before, at most 2^31 − 1. Without an overrun of a slip-policy context one BELL is emitted, with the parity
of the next bell number, to latch 90 cy later and with the faults of fault-policy contexts, and the count of slips in a row begins anew.
With overruns of slip-policy contexts alone, nothing is emitted, the slip is counted and 0x0101 recorded, unless the slips in a row would
exceed SLIP_MAX: then the bell is emitted with a fault for each. The bell number stays, and
nothing that programs see changes (R36, R38, R39, R45, R47). -/
def Sys2Proof.Claim.DecisionsFallDue : Prop :=
  ∀ (s : State) (tel : Telemetry), s.awake = true → s.bell.symbols = [] → s.bell.held = false → s.hallMode = false →
    s.trust.act = none → s.bell.cause = 0 → s.powerRuns = false → s.pow.s = 0 → s.pow.level = 0 →
    let st := min s.bell.stretchNext 2147483647
    s.period + st ≤ 4294967295 →
    ∃ t, exec (.bellDecision tel) s = .next t ∧ t.now = max s.now s.bell.nextD ∧ t.bell.stretch = st ∧
      t.bell.nextD = s.bell.nextD + max 1 (s.period + st) ∧ t.bell.lastD = s.bell.nextD ∧ t.bell.count = s.bell.count ∧ Apart s t ∧
      ((∀ p ∈ s.overruns s.bell.nextD, (s.ctx p.1).ovrFault = true) → t.bell.slipRun = 0 ∧ t.bell.slips = s.bell.slips ∧
        ∃ due, t.bell.symbols = [⟨.bell, s.bell.lead, (s.bell.count + 1) % 2, s.bell.nextD, s.bell.nextD + 90, 0,
          (s.overruns s.bell.nextD).map (fun p => ⟨p.1, 0x0102, p.2⟩), due⟩]) ∧
      (s.overruns s.bell.nextD ≠ [] → (∀ p ∈ s.overruns s.bell.nextD, (s.ctx p.1).ovrFault = false) → s.slipMax < s.bell.slipRun + 1 →
        t.bell.slipRun = 0 ∧ t.bell.slips = s.bell.slips ∧
        ∃ due, t.bell.symbols = [⟨.bell, s.bell.lead, (s.bell.count + 1) % 2, s.bell.nextD, s.bell.nextD + 90, 0,
          (s.overruns s.bell.nextD).map (fun p => ⟨p.1, 0x0103, p.2⟩), due⟩]) ∧
      (s.overruns s.bell.nextD ≠ [] → (∀ p ∈ s.overruns s.bell.nextD, (s.ctx p.1).ovrFault = false) → s.bell.slipRun + 1 ≤ s.slipMax →
        t.bell.symbols = [] ∧ t.bell.slipRun = s.bell.slipRun + 1 ∧ t.bell.slips = satInc s.bell.slips ∧ t.bell.slipped = true ∧
        ∃ l, t.inc.log = l ++ s.inc.log ∧ l.length = (s.overruns s.bell.nextD).length ∧ ∀ i ∈ l, i.code = 0x0101)

/-- While the module is held a decision emits no BELL and keeps its schedule: RELEASE where a GO stands with every cause clear and no HOLD
decided from its cy on and before this decision, nothing otherwise (R57, R58). -/
def Sys2Proof.Claim.DecisionsWhileHeld : Prop :=
  ∀ (s : State) (tel : Telemetry), s.awake = true → s.bell.symbols = [] → s.bell.held = true → s.hallMode = false →
    let st := min s.bell.stretchNext 2147483647
    s.period + st ≤ 4294967295 →
    ∃ t, exec (.bellDecision tel) s = .next t ∧ t.bell.nextD = s.bell.nextD + max 1 (s.period + st) ∧
      t.bell.count = s.bell.count ∧ t.bell.held = true ∧ t.bell.slips = s.bell.slips ∧ Apart s t ∧
      (∀ g, s.bell.go = some g → s.hostPath = true → s.bell.cause = 0 → (∀ c ∈ s.bell.holds, c < g ∨ s.bell.nextD ≤ c) →
        t.bell.symbols = [⟨.release, s.bell.lead, 0, s.bell.nextD, s.bell.nextD + 90, 0, [], Due.none⟩]) ∧
      ((s.bell.go = none ∨ s.hostPath = false ∨ s.bell.cause ≠ 0 ∨
        ∃ g, s.bell.go = some g ∧ ∃ c ∈ s.bell.holds, g ≤ c ∧ c < s.bell.nextD) → t.bell.symbols = [] ∧ t.bell.go = none)

/-- A bell that latches while the module is held is discarded (R57). One that latches on an OPEN module with nothing asked for advances the
bell number, and in its latch cy starts the next segment of every stall of a RUNNING context that had parked at a segment's end; a stall
parked at its plan's end with every porter slot FREE runs no plan any more (R41, R48, R70). -/
def Sys2Proof.Claim.BellsLatch : Prop :=
  ∀ (s : State) (x : Symbol),
    (Next s x → x.kind = .bell → s.bell.held = true → exec .bellLatch s = .next (s.latchSymbol x)) ∧
    (PlainBell s x → s.conf.status ≠ 2 → ∃ t, exec .bellLatch s = .next t ∧ t.now = max s.now x.latch ∧ t.bell.count = s.bell.count + 1 ∧
      t.bell.lastLatch = max s.now x.latch ∧ t.bell.held = false ∧ t.mem = s.mem ∧ t.ports = s.ports ∧
      ∀ k c n cy, (s.stall k).occ = some c → s.fenced k = false → s.heldDies.contains (dieOf k) = false →
        ((s.stall k).status = .parked n false cy → (s.ctx c).state = .running →
          t.stall k = { s.stall k with eccBell := false, status := .running, nextIssue := max s.now x.latch, segStart := max s.now x.latch }) ∧
        ((s.stall k).status = .parked n false cy → (s.ctx c).state ≠ .running → t.stall k = { s.stall k with eccBell := false }) ∧
        ((s.stall k).status = .parked n true cy → (s.port k).allFree = true → t.stall k = { s.stall k with eccBell := false, status := .idle }))

/-! ## Configuration space, commits, doorbells and orders (11_host_rings.md R361 to R389) -/
namespace Sys2Proof.Claim

/-- The host can reach the module: the lead die's generator runs, and one of the two host edges can be used. -/
def HostReaches (s : State) : Prop := s.awake = true ∧ (s.edgeUp 0 = true ∨ s.edgeUp 8 = true)

/-- The die that serves an offset of configuration space can be reached from the host edge, or is fenced and reads 0. -/
def Routed (s : State) (off : Nat) : Prop := s.deadDies.contains (s.servedBy off) = true ∨ (s.routeHost (s.servedBy off)).isSome = true

/-- `s` with one answer sent to the host. -/
def answered (s : State) (w : HostWrite) : State := { s with out := w :: s.out }

/-- The order taken at the head of ring `i` before it is checked: it has its place in the ring, and OHEAD has moved past it. -/
def taken (s : State) (i : Nat) (o : Order) : State :=
  let r := s.ring i
  s.tick.setRing i { r with ohead := (r.ohead + 1) % 2 ^ 32, toFetch := r.toFetch - 1, intake := r.intake ++ [o] }

/-- Ring `i` runs, more of its orders have been sampled than this one, and the next one is spelt by the 64 bytes `d` and no argument
block. -/
structure Fetches (s : State) (i : Nat) (d : List Byte) : Prop where
  running : (s.ring i).state = 1
  sends : s.sends = true
  indexLeft : (s.ring i).cidx < 4294967295
  sampled : 2 ≤ (s.ring i).toFetch
  len : d.length = 64
  noArgs : fieldAt d 24 8 = 0 ∧ fieldAt d 32 4 = 0

end Sys2Proof.Claim

/-- A write of an ST register changes its staged value in its ST bits and no live value, other staged value or state of a program; a read
gives the staged value back. The host gets an answer to each (R363, R364). -/
def Sys2Proof.Claim.StagedRegisters : Prop :=
  ∀ (s : State) (r : StReg) (v : BitVec 32), HostReaches s → r ∈ stRegs →
    Routed s r.off → (∃ t, exec (.registerWrite (.write (cfgBase + r.off) v)) s = .next (answered t (.ackReg (cfgBase + r.off))) ∧
      t = { s with regs := t.regs } ∧ t.staged r = v.toNat &&& r.mask ∧ ∀ q ∈ stRegs, q.off ≠ r.off → t.staged q = s.staged q) ∧
    (r.off ≠ 0xA0 → exec (.registerWrite (.read (cfgBase + r.off))) s =
      .next (answered s (.reg (cfgBase + r.off) (s.staged r))))

/-- What read-only registers of the module, the bell and a ring read, that offsets not listed and the block of a fenced die read 0, and
that a write of any of them changes nothing (R363, R365, Tables HST.3, BELL.8). -/
def Sys2Proof.Claim.ReadOnlyRegisters : Prop :=
  ∀ (s : State), HostReaches s → Routed s 0 →
    let rows : List (Nat × Nat) := [(0x00, 0x00805248), (0x04, 0xB0), (0x14, s.conf.hs),
      (0x18, s.mod.state + 8 * b2n s.mod.configValid + 16 * b2n s.mod.session), (0x60, s.conf.capGen), (0x4C, s.inc.lost),
      (0x10014, bitsAt s.bell.count 0 32), (0x10018, bitsAt s.bell.count 32 32), (0x1001C, s.bell.slips), (0x1101C, s.unitsHere),
      (0x5C, 0), (0xFF0, 0), (0x10028, 0), (0x400000, 0)]
    (∀ p ∈ rows, exec (.registerWrite (.read (cfgBase + p.1))) s = .next (answered s (.reg (cfgBase + p.1) p.2)) ∧
      ∀ v, exec (.registerWrite (.write (cfgBase + p.1) v)) s = .next (answered s (.ackReg (cfgBase + p.1)))) ∧
    exec (.registerWrite (.read (cfgBase + 0x10020))) s = .next (answered s (.reg (cfgBase + 0x10020) s.bell.cause)) ∧
    (∀ i, i < 64 → exec (.registerWrite (.read (cfgBase + 0x118 + 32 * i))) s =
      .next (answered s (.reg (cfgBase + 0x118 + 32 * i) (s.ring i).eseq))) ∧
    (∀ d k, d < 16 → k < 65536 → k % 4 = 0 → s.deadDies.contains d = true → ∀ v,
      exec (.registerWrite (.read (cfgBase + 0x100000 + 65536 * d + k))) s = .next (answered s (.reg (cfgBase + 0x100000 + 65536 * d + k) 0)) ∧
      exec (.registerWrite (.write (cfgBase + 0x100000 + 65536 * d + k) v)) s =
        .next (answered s (.ackReg (cfgBase + 0x100000 + 65536 * d + k))))

/-- An access outside configuration space is answered with ERR cause 1, one at an address that is not a multiple of 4 with ERR cause 3,
each recorded as 0x0A09; one at a die that no route reaches with ERR cause 2 and 0x0607; each changes nothing else. In OFF and STANDBY,
and with both paths lost, there is no answer (R361 to R363, 07_depot_memory.md R246). -/
def Sys2Proof.Claim.BadHostMessages : Prop :=
  ∀ (s : State) (addr : Nat) (v : BitVec 32),
    (HostReaches s →
      let errs := fun (a : HostAccess) (code cause : Nat) => ∃ t i, exec (.registerWrite a) s = .next (answered t (.err cause)) ∧
        t.inc.log = i :: s.inc.log ∧ i.code = code ∧ t.regs = s.regs ∧ t.live = s.live ∧ t.bell = s.bell ∧ Apart s t
      ((addr < 0x3F0000000000 ∨ 0x400000000000 ≤ addr) → errs (.write addr v) 0x0A09 1 ∧ errs (.read addr) 0x0A09 1) ∧
      (0x3F0000000000 ≤ addr → addr < 0x400000000000 → addr % 4 ≠ 0 → errs (.write addr v) 0x0A09 3 ∧ errs (.read addr) 0x0A09 3) ∧
      (0x3F0000000000 ≤ addr → addr < 0x400000000000 → addr % 4 = 0 → ¬ Routed s (addr - 0x3F0000000000) →
        errs (.write addr v) 0x0607 2 ∧ errs (.read addr) 0x0607 2)) ∧
    ((s.awake = false ∨ s.hostPath = false) → ∀ a, exec (.registerWrite a) s = .next s)

/-- The header cell (R360, Table HST.1): its fields stand at their places, and a cell is malformed where one of them is outside its legal
values or lines follow a 4 B access. -/
def Sys2Proof.Claim.HeaderCells : Prop :=
  ∀ h : PkgHead, h.type < 16 → h.vc < 4 → h.lines < 32 → h.sdie < 32 → h.ddie < 32 → h.tag < 2 ^ 14 → h.ctx < 64 → h.addr < 2 ^ 46 →
    h.data < 2 ^ 32 → h.rsv < 256 → PkgHead.ofCell h.cell = h ∧ h.cell < 2 ^ 128 ∧
    (h.malformed = true ↔ 12 ≤ h.type ∨ h.vc = 3 ∨ 17 ≤ h.lines ∨ 17 ≤ h.sdie ∨ 17 ≤ h.ddie ∨ (h.w4 = true ∧ h.lines ≠ 0) ∨ h.rsv ≠ 0)

/-- A message of the host die by its header cell (R360, R361): an empty cell and one over a lost edge are none; a 4 B access does what the
access at its address does; an access of another size is answered with ERR cause 3 in configuration space and 1 outside; a malformed one,
a type that the host may not send, and an answer that nothing waits for are dropped; each of these with 0x0A09, and nothing else
changes. -/
def Sys2Proof.Claim.HostMessages : Prop :=
  ∀ (s : State) (edge : Nat) (cell : BitVec 128), HostReaches s → let h := PkgHead.ofCell cell.toNat
    let got := exec (.registerWrite (.message edge cell)) s
    let dropped := ∃ t i, got = .next t ∧ t.inc.log = i :: s.inc.log ∧ i.code = 0x0A09 ∧
      i.detail = [edge, cell.toNat % 2 ^ 64, cell.toNat / 2 ^ 64] ∧ t.regs = s.regs ∧ t.live = s.live ∧ t.bell = s.bell ∧ Apart s t
    ((s.edgeUp edge = false ∨ h.type = 0) → got = .next s) ∧
    (s.edgeUp edge = true → h.type ≠ 0 → (h.malformed = true ∨ 6 ≤ h.type ∨ (3 ≤ h.type ∧ s.awaitsHost = false)) → dropped) ∧
    (s.edgeUp edge = true → h.malformed = false → (h.type = 1 ∨ h.type = 2) → h.w4 = false →
      ∃ t i, got = .next (answered t (.err (if h.addr < 0x3F0000000000 then 1 else 3))) ∧ t.inc.log = i :: s.inc.log ∧ i.code = 0x0A09 ∧
        t.regs = s.regs ∧ t.live = s.live ∧ t.bell = s.bell ∧ Apart s t) ∧
    (s.edgeUp edge = true → h.malformed = false → h.w4 = true → 0x3F0000000000 ≤ h.addr → h.addr % 4 = 0 →
      (h.type = 1 → got = exec (.registerWrite (.read h.addr)) s) ∧
      (h.type = 2 → got = exec (.registerWrite (.write h.addr (BitVec.ofNat 32 h.data))) s))

/-- Host memory refuses the write of a completion: the entry of its address and those after it are lost, and the ring is STOPPED, with
0x0A07 (R378; the TAG that names the ring: log entry 62). -/
def Sys2Proof.Claim.RefusedCompletions : Prop :=
  ∀ (s : State) (edge : Nat) (cell : BitVec 128), HostReaches s → s.edgeUp edge = true → s.awaitsHost = true →
    let h := PkgHead.ofCell cell.toNat
    h.malformed = false → h.type = 5 → h.tag < 64 → let r := s.ring h.tag
    let e := entryAt r.ctail (s.ringSize h.tag) ((h.addr - s.cplBase h.tag) / 64)
    let n := (r.ctail + 2 ^ 32 - e) % 2 ^ 32
    ((r.state = 0 ∨ r.broken = true ∨ n = 0 ∨ s.ringSize h.tag < n) → exec (.registerWrite (.message edge cell)) s = .next s) ∧
    (r.state ≠ 0 → r.broken = false → n ≠ 0 → n ≤ s.ringSize h.tag → ∃ t i, exec (.registerWrite (.message edge cell)) s = .next t ∧
      t.ring h.tag = { r with broken := true, toFetch := 0, lost := r.lost + n, state := 3, cause := 0x07 } ∧
      t.inc.log = i :: s.inc.log ∧ i.code = 0x0A07 ∧ i.detail = [s.cplBase h.tag + 64 * (e % s.ringSize h.tag)] ∧ Apart s t)

/-- A driver's version starts the comparison afresh until one has been accepted; a version in the image's range is ACCEPTED, another is
VERSION_REFUSED with incident 0x0A01 (R367). -/
def Sys2Proof.Claim.VersionHandshake : Prop :=
  ∀ (s : State) (v : BitVec 32),
    ((s.awake = false ∨ s.hostPath = false) → exec (.modDrvIf v) s = .next s) ∧
    (s.awake = true → s.hostPath = true → s.conf.hs ≠ 1 → exec (.modDrvIf v) s =
      .next { s with conf := { s.conf with drvIf := v.toNat % 65536, hsRun := some (v.toNat % 65536) } }) ∧
    (s.conf.hs = 1 → exec (.modDrvIf v) s = .next s) ∧
    (s.conf.hsRun = none → exec .handshake s = .next s) ∧
    (∀ n, s.conf.hsRun = some n →
      (s.trust.image.ifMin ≤ n → n ≤ s.trust.image.ifMax → ∃ t, exec .handshake s = .next t ∧ t.conf = { s.conf with hsRun := none, hs := 1 } ∧
        t.inc = s.inc ∧ t.bell = s.bell ∧ Apart s t) ∧
      ((n < s.trust.image.ifMin ∨ s.trust.image.ifMax < n) → ∃ t, exec .handshake s = .next t ∧
        t.conf = { s.conf with hsRun := none, hs := 2 } ∧ Records s t 0x0A01 0xFF [n, s.trust.image.ifMin, s.trust.image.ifMax] ∧
        t.bell = s.bell ∧ Apart s t))

/-- A write of MOD_COMMIT copies the staging image and sets CHECKING, or only OVERRUN while a commit is CHECKING or PENDING. The check
ends at the lowest rule that the copy breaks: REFUSED with its number and 0x0A02, with the live configuration as it was; with none broken
it is PENDING, or applied one cy later while CONFIG_VALID is 0 (R369, R370, R372). -/
def Sys2Proof.Claim.CommitsAreChecked : Prop :=
  ∀ (s : State) (v : BitVec 32) (route : HostMem),
    ((s.awake = false ∨ s.hostPath = false) → exec (.modCommit v) s = .next s) ∧
    (s.awake = true → s.hostPath = true → (s.conf.status = 1 ∨ s.conf.status = 2) → exec (.modCommit v) s = .next { s with conf := { s.conf with overrun := true } }) ∧
    (s.awake = true → s.hostPath = true → s.conf.status ≠ 1 → s.conf.status ≠ 2 → ∃ c, exec (.modCommit v) s = .next { s with conf := c } ∧ c.status = 1 ∧
      c.crc = v.toNat ∧ c.overrun = s.conf.overrun ∧ c.applied = s.conf.applied ∧ ∀ r ∈ stRegs, tget c.copy 0 r.off = s.staged r) ∧
    (s.conf.status ≠ 1 → exec (.commitCheck route) s = .next s) ∧
    (s.conf.status = 1 → (s.core s.bell.lead 1).state = 1 →
      (∀ n, firstStatus (s.commitRules route) = n → n ≠ 0 → ∃ t, exec (.commitCheck route) s = .next t ∧ t.conf.status = 4 ∧ t.conf.rule = n ∧
        t.live = s.live ∧ t.mod = s.mod ∧ t.conf.applied = s.conf.applied ∧ Apart s t ∧ (route ≠ .late → Records s t 0x0A02 0xFF [n, 0]) ∧
        (route = .late → ∃ i j, t.inc.log = j :: i :: s.inc.log ∧ i.code = 0x0608 ∧ j.code = 0x0A02)) ∧
      (s.conf.hs ≠ 1 → firstStatus (s.commitRules route) = 1) ∧
      (s.conf.hs = 1 → crc32c (imageBytes s.conf.copy) ≠ s.conf.crc → firstStatus (s.commitRules route) = 2) ∧
      (s.conf.hs = 1 → crc32c (imageBytes s.conf.copy) = s.conf.crc → s.copied 0x10000 < 2250 → firstStatus (s.commitRules route) = 3) ∧
      (firstStatus (s.commitRules route) = 0 → s.mod.configValid = true → ∃ r, exec (.commitCheck route) s =
        .next { s with conf := { s.conf with status := 2, checked := s.now, routes := r } }) ∧
      (firstStatus (s.commitRules route) = 0 → s.mod.configValid = false → ∃ t, exec (.commitCheck route) s = .next t ∧ t.conf.status = 3 ∧
        t.live = s.conf.copy ∧ t.mod.configValid = true ∧ t.mod.id = s.copied 0x13000 ∧ t.now = s.now + 1 ∧
        t.conf.applied = (s.conf.applied + 1) % 65536))

/-- At a latching bell whose decision came after the check, a PENDING commit is applied whole, or refused by the lowest marked rule that it
now breaks, with stage 1; a check that ended no earlier than the decision waits (R371). -/
def Sys2Proof.Claim.CommitsApplyAtTheBell : Prop :=
  ∀ (s : State) (x : Symbol), PlainBell s x → s.conf.status = 2 →
    ∃ t, exec .bellLatch s = .next t ∧ t.bell.count = s.bell.count + 1 ∧
      (s.conf.checked < x.decided → (∀ p ∈ s.markedRules, p.1 = false) →
        t.live = s.conf.copy ∧ t.conf.status = 3 ∧ t.conf.rule = 0 ∧ t.conf.applied = (s.conf.applied + 1) % 65536) ∧
      (s.conf.checked < x.decided → ∀ n, firstStatus s.markedRules = n → n ≠ 0 → t.live = s.live ∧ t.conf.status = 4 ∧ t.conf.rule = n ∧
        Records { s with bell := t.bell } t 0x0A02 0xFF [n, 1]) ∧
      (x.decided ≤ s.conf.checked → t.live = s.live ∧ t.conf.status = 2)

/-- The doorbell page samples each RUNNING ring: with more new orders or unread completions than entries the ring is STOPPED with 0x0A06;
else it fetches what the intake of 16 and the room for completions allow. Other rings are untouched. A page that host memory refuses
samples nothing, and a run of refusals is recorded once (R376). Nothing is sampled while the ring engine cannot send (R362). -/
def Sys2Proof.Claim.DoorbellSamples : Prop :=
  ∀ (s : State), ((s.conf.dbOut = false ∨ s.sends = false) → ∀ h l n, exec (.doorbellRead h l n) s = .next s) ∧
    (s.conf.dbOut = true → s.sends = true → (∀ l, ∃ t, exec (.doorbellRead (.bytes l) [] none) s = .next t ∧ t.conf.dbOut = false ∧ Apart s t ∧
      ∀ i, i < 64 →
        let r := s.ring i
        let n := (fieldAt l (8 * i) 4 + 2 ^ 32 - r.ohead % 2 ^ 32) % 2 ^ 32
        let c := (r.ctail + 2 ^ 32 - fieldAt l (8 * i + 4) 4) % 2 ^ 32
        (r.state ≠ 1 → t.ring i = r) ∧
        (r.state = 1 → (s.ringSize i < n ∨ s.ringSize i < c) →
          t.ring i = { r with chead := fieldAt l (8 * i + 4) 4, toFetch := 0, state := 3, cause := 0x06 }) ∧
        (r.state = 1 → n ≤ s.ringSize i → c ≤ s.ringSize i →
          let k := min n (min (16 - r.intake.length) (s.ringSize i - c - (r.intake.length + r.started.length)))
          t.ring i = { r with chead := fieldAt l (8 * i + 4) 4, toFetch := k })) ∧
    (∃ t, exec (.doorbellRead .refused [] none) s = .next t ∧ t.conf.dbOut = false ∧ t.conf.dbRefused = true ∧ t.rings = s.rings ∧ Apart s t ∧
      (s.conf.dbRefused = true → t.inc = s.inc) ∧
      (s.conf.dbRefused = false → ∃ i, t.inc.log = i :: s.inc.log ∧ i.code = 0x0A07 ∧ i.whre = 0xFE)) ∧
    (∃ t, exec (.doorbellRead .late [] none) s = .next t ∧ t.conf.dbOut = false ∧ t.rings = s.rings ∧ Apart s t ∧
      ∃ i ∈ t.inc.log, i.code = 0x0608))

/-- The checks of an order at its fetch, in their order. In a session: T = 0 is AUTH, a SEQ other than the next expected is SEQUENCE with
0x0A04, a tag that does not verify is AUTH with 0x0A03, a format failure is FORMAT with 0x0A05. With no session: T = 1 is NO_SESSION, as
is an order that needs a session. An order that passes stays in the intake, and in a session the expected SEQ goes on. An entry that host
memory refuses stops its ring with 0x0A07 (R376, R378, R381, R382, R384). -/
def Sys2Proof.Claim.OrdersAreChecked : Prop :=
  ∀ (s : State) (ring : Fin 64) (d : List Byte) (args : HostMem), Fetches s ring.val d →
    let i := ring.val
    let o := orderOf s.idSeq i s.now d []
    let t := taken s i o
    let T := bitAt (d.getD 1 0#8).toNat 0
    let out := fun (st : State) => exec (.orderFetch ring (.bytes d) args) s = .next st
    let good := fieldAt d 48 16 = (recordTag s.mod.orderKey o.seq i 0 (d.take 48)).toNat
    (s.mod.session = true →
      (T = false → out (t.complete s.idSeq stAuth 0 0 0)) ∧
      (T = true → o.seq ≠ (s.ring i).eseq → out ((t.raise 0x0A04 0xFF none i 0xFFFFFFFF [o.seq, (s.ring i).eseq]).complete s.idSeq stSequence 0x0A04 0 0)) ∧
      (T = true → o.seq = (s.ring i).eseq → ¬ good → out ((t.raise 0x0A03 0xFF none i 0xFFFFFFFF [o.seq]).complete s.idSeq stAuth 0x0A03 0 0)) ∧
      (T = true → o.seq = (s.ring i).eseq → good → o.seq < 4294967295 →
        let u := t.setRing i { t.ring i with eseq := o.seq + 1 }
        (∀ off, formatBad d [] = some off → out ((u.raise 0x0A05 0xFF none i 0xFFFFFFFF [o.seq, off]).complete s.idSeq stFormat 0x0A05 0 0)) ∧
        (formatBad d [] = none → (s.core s.bell.lead 1).state ≠ 3 → out u)) ∧
      (T = true → o.seq = 4294967295 → (s.ring i).eseq = 4294967295 → (s.ring i).spent = false → good → formatBad d [] = none →
        (s.core s.bell.lead 1).state ≠ 3 → ∃ u j, out u ∧ (u.ring i).state = 3 ∧ (u.ring i).spent = true ∧
          u.inc.log = j :: s.inc.log ∧ j.code = 0x0A0A)) ∧
    (s.mod.session = false →
      (T = true → out (t.complete s.idSeq stNoSession 0 0 0)) ∧
      (T = false → o.seq = 0 → fieldAt d 48 16 = 0 →
        (∀ off, formatBad d [] = some off → out ((t.raise 0x0A05 0xFF none i 0xFFFFFFFF [0, off]).complete s.idSeq stFormat 0x0A05 0 0)) ∧
        (formatBad d [] = none → sessionless o.op = false → out (t.complete s.idSeq stNoSession 0 0 0)) ∧
        (formatBad d [] = none → sessionless o.op = true → (s.core s.bell.lead 1).state ≠ 3 → out t))) ∧
    (opKnown o.op = false → ∃ off, formatBad d [] = some off) ∧
    (∃ u, exec (.orderFetch ring .refused args) s = .next u ∧ (u.ring i).state = 3 ∧ (u.ring i).cause = 0x07 ∧ (u.ring i).ohead = (s.ring i).ohead ∧
      Apart s u)

/-- An interrupt held back by the gap of its vector is sent when the gap ends and the ring engine can send (R389). -/
def Sys2Proof.Claim.HeldInterruptsAreSent : Prop :=
  ∀ (s : State) (v : Fin 66),
    (s.intHeld.contains v.val = false → exec (.interruptGap v) s = .next s) ∧
    (s.intHeld.contains v.val = true → (s.mod.configValid = false ∨ s.sends = false) → ∃ t, exec (.interruptGap v) s = .next t ∧
      t = { s with now := t.now }) ∧
    (s.intHeld.contains v.val = true → s.mod.configValid = true → s.sends = true → ∀ c, tfind s.intLast v.val = some c →
      ∃ t, exec (.interruptGap v) s = .next t ∧ t.now = max s.now (c + s.liveReg 2250 0x50) ∧ t.intHeld.contains v.val = false ∧
        tfind t.intLast v.val = some t.now ∧ Apart s t ∧
        ((s.ringUp 0 = true ∨ s.ringUp 8 = true) → t.out = .int v.val :: s.out))

/-! ## Trust (13_trust.md R424 to R441) and cores (12_clerk_firmware.md R411 to R413) -/
namespace Sys2Proof.Claim

/-- Every order stands in the ring it names, and no two orders share a number. -/
structure OrdersNumbered (s : State) : Prop where
  keys : ∀ p ∈ s.rings, tfind s.rings p.1 = some p.2
  home : ∀ p ∈ s.rings, ∀ o ∈ p.2.started ++ p.2.intake, o.ring = p.1
  unique : ((s.rings.flatMap fun p => p.2.started ++ p.2.intake).map (·.id)).Nodup

end Sys2Proof.Claim

/-- ATTEST writes 4,096 bytes of signed evidence to its buffer: "TBEV", layout 1, the lead die, the bell number, the serial number, the
caller's nonce, and with KEM = 1 a fresh encapsulation key, whose pending key replaces an earlier one. A failed health test fails the order
with 0x0C04. GET_IDENTITY writes the identity record of a die, of the lead die for 0xFF (R417, R427, R429, Table TRU.4). -/
def Sys2Proof.Claim.EvidenceIsWritten : Prop :=
  ∀ (s : State) (ring : Nat) (o : Order) (rest : List Order),
    (Starts s ring 0x70 o rest → let b := begun s ring o rest
      (∃ body tail, body.length = 2304 ∧ tail.length = 1792 ∧ (∃ u, exec (.attest ring true) s = .next (State.complete u o.id stDone 0 0 0) ∧
          u = { (b.useFree 2).emit [.bytes (o.arg 64 8) (body ++ tail)] with trust := u.trust } ∧
          (bitAt (o.byte 36) 0 = false → u.trust = s.trust) ∧
          (bitAt (o.byte 36) 0 = true → u.trust = { s.trust with kem := some (s.freeCtr, body) })) ∧
        body.take 4 = ascii "TBEV" ∧ fieldAt body 4 2 = 1 ∧ fieldAt body 6 1 = s.bell.lead % 256 ∧ fieldAt body 8 8 = s.bell.count % 2 ^ 64 ∧
        fieldAt body 16 8 = serial ∧ (body.drop 32).take 64 = fitBytes 64 (o.args.take 64) ∧
        (bitAt (o.byte 36) 0 = true → (body.drop 676).take 1568 = fitBytes 1568 (Config.kemGen s.freeCtr).1)) ∧
      exec (.attest ring false) s = .next ((b.entropyFail 1).complete o.id stFailed 0x0C04 0 0)) ∧
    (Starts s ring 0x71 o rest → let b := begun s ring o rest
      let n := if o.byte 36 = 255 then s.bell.lead else o.byte 36
      exec (.getIdentity ring) s =
        .next ((b.emit [.bytes (o.arg 0 8) (identityRecord n)]).complete o.id stDone 0 0 0)) ∧
    (∀ n, (identityRecord n).length = 8192 ∧ (identityRecord n).take 4 = ascii "TBID" ∧ fieldAt (identityRecord n) 4 1 = n % 256 ∧
      fieldAt (identityRecord n) 8 8 = serial ∧ ((identityRecord n).drop 1040).take 1793 = fitBytes 1793 (Config.pubKey n))

/-- SESSION_OPEN with a session open is REJECTED 1, with no pending key 2; the keys come from the decapsulated secret, the evidence and the
ciphertext, and a WRAP that does not open fails the order with 0x0C05 and erases the pending key. One that opens sets the order key, the
crate key, the owner, a seal counter of 1 and an owner floor of 0, counts the session, and begins every ring's order and completion
numbers and the incident index anew; a ring that had stopped for want of numbers runs again (R430, Tables TRU.7, TRU.8, TRU.10,
11_host_rings.md R382). -/
def Sys2Proof.Claim.SessionsOpen : Prop :=
  ∀ (s : State) (ring : Nat) (o : Order) (rest : List Order), Starts s ring 0x72 o rest → let b := begun s ring o rest
    (s.mod.session = true → exec (.sessionOpen ring) s = .next (b.complete o.id stRejected 0 1 0)) ∧
    (s.mod.session = false → s.trust.kem = none → exec (.sessionOpen ring) s = .next (b.complete o.id stRejected 0 2 0)) ∧
    (∀ n evid, s.mod.session = false → s.trust.kem = some (n, evid) →
      let ct := o.args.take 1568
      let keys := Config.shake 64 (Config.kemDecap (Config.kemGen n).2 ct ++ Config.shake 64 evid ++ ct ++ ascii "TB80 session")
      let opened := gcmOpen (keys.take 32) (leBytes 12 0) ct ((o.args.drop 1568).take 96) ((o.args.drop 1664).take 16)
      (opened = none → ∃ t : State, exec (.sessionOpen ring) s = .next (t.complete o.id stFailed 0x0C05 0 0) ∧ t.trust.kem = none ∧
        t.mod = s.mod ∧ t.inc.log = ⟨0x0C05, s.bell.lead, none, ring, 0xFFFFFFFF, s.bell.count, [o.seq]⟩ :: s.inc.log ∧ Apart s t) ∧
      (∀ wrap, opened = some wrap → ∃ t : State, exec (.sessionOpen ring) s = .next (t.complete o.id stDone 0 0 0) ∧ t.mod.session = true ∧
        t.mod.orderKey = leNat ((keys.drop 32).take 32) ∧ t.trust.crateKey = wrap.take 32 ∧ t.trust.ownerId = (wrap.drop 32).take 64 ∧
        t.trust.kem = none ∧ t.trust.sessions = satInc s.trust.sessions ∧ t.ledger.sealCount = 1 ∧ t.ledger.ownerFloor = 0 ∧
        t.inc.index = 0 ∧ t.mem = s.mem ∧ t.stalls = s.stalls ∧ t.ctxs = s.ctxs ∧
        ∀ i, (s.ring i).eseq ≠ 0 ∨ (s.ring i).cidx ≠ 0 → (t.ring i).eseq = 0 ∧ (t.ring i).cidx = 0 ∧
          ((s.ring i).state = 3 → (s.ring i).cause = 0x0A → (t.ring i).state = 1)))

/-- SESSION_CLOSE ends nothing when it starts: it waits for the first emitted bell after it (R432). -/
def Sys2Proof.Claim.SessionsClose : Prop :=
  ∀ (s : State) (ring : Nat) (o : Order) (rest : List Order), Starts s ring 0x73 o rest → let b := begun s ring o rest
    exec (.sessionClose ring) s = .next { b with trust := { s.trust with close := some o.id } }

/-- FW_STAGE, FW_ACTIVATE and FW_DISCARD are REJECTED 3 while an activation is pending, FW_ACTIVATE 4 with nothing staged. An image passes
the checks in their order or is refused with 0x0C06 and the number of the first that fails, with an earlier staged image kept; one that
passes goes to the slot that is not running and is staged, or is refused with check 8 and unstaged where the flash fails; an image that host
memory refuses, or gives too late, fails the order with that incident. FW_ACTIVATE
waits for a quiescent bell; FW_DISCARD unstages and leaves the flash (R424, R438, R439, Table TRU.5). -/
def Sys2Proof.Claim.FirmwareOrders : Prop :=
  ∀ (s : State) (ring : Nat) (o : Order) (rest : List Order) (l : List Byte) (flashOk : Bool),
    (∀ (c : Instr) (op : Nat), (c, op) ∈ [(Instr.fwStage ring (.bytes l) flashOk, 0x74), (.fwActivate ring, 0x75), (.fwDiscard ring, 0x76)] →
      Starts s ring op o rest → s.trust.act.isSome = true → exec c s = .next ((begun s ring o rest).complete o.id stRejected 0 3 0)) ∧
    (s.trust.act = none → let b := begun s ring o rest
      (Starts s ring 0x74 o rest →
        let i := imageOfBytes (l.take (o.arg 8 4))
        let stage := exec (.fwStage ring (.bytes l) flashOk) s
        let failed := fun (t : State) (n : Nat) => stage = .next (State.complete t o.id stFailed 0x0C06 0 n) ∧
          t.inc.log = ⟨0x0C06, s.bell.lead, none, 0, 0xFFFFFFFF, s.bell.count, [n]⟩ :: s.inc.log ∧ Apart s t
        (i.check ≠ 0 → ∃ t, failed t i.check ∧ t.trust = s.trust ∧ t.flash = s.flash) ∧
        (i.check = 0 → flashOk = true → stage = .next (State.complete { b with
          trust := { s.trust with staged := some i }
          flash := if s.trust.slot = 0 then { s.flash with slotB := i } else { s.flash with slotA := i } } o.id stDone 0 0 0)) ∧
        (i.check = 0 → flashOk = false → ∃ t, failed t 8 ∧ t.trust.staged = none ∧ (s.trust.slot = 0 → t.flash.slotA = s.flash.slotA) ∧
          (s.trust.slot ≠ 0 → t.flash.slotB = s.flash.slotB)) ∧
        (l.take (o.arg 8 4) = [] → i.check = 1) ∧
        (∃ t, exec (.fwStage ring .refused flashOk) s = .next (State.complete t o.id stFailed 0x0706 0 0) ∧ t.trust = s.trust ∧ t.flash = s.flash) ∧
        (∃ t, exec (.fwStage ring .late flashOk) s = .next (State.complete t o.id stFailed 0x0608 0 0) ∧ t.trust = s.trust ∧ t.flash = s.flash)) ∧
      (Starts s ring 0x75 o rest →
        (s.trust.staged = none → exec (.fwActivate ring) s = .next (b.complete o.id stRejected 0 4 0)) ∧
        (s.trust.staged.isSome = true → exec (.fwActivate ring) s =
          .next { b with trust := { s.trust with act := some o.id, deferred := false, deferLogged := false } })) ∧
      (Starts s ring 0x76 o rest → exec (.fwDiscard ring) s =
        .next (State.complete { b with trust := { s.trust with staged := none } } o.id stDone 0 0 0)))

/-- A HOLD of any cause cancels a pending activation that no bell has begun: the image stays staged, 0x0C08 is recorded with the cause, and
the order completes CANCELLED (R440). -/
def Sys2Proof.Claim.HoldCancelsActivation : Prop :=
  ∀ (s : State) (x : Symbol) (id : Nat), Next s x → x.kind = .hold → s.trust.act = some id → s.trust.reloading = none →
    ∃ t, exec .holdLatch s = .next t ∧ t.trust.act = none ∧ t.trust.deferred = false ∧ t.trust.staged = s.trust.staged ∧
      (∃ i ∈ t.inc.log, i.code = 0x0C08 ∧ i.detail = [x.cause]) ∧ t.flash = s.flash ∧
      (∀ o, OrdersNumbered s → s.findOrder id = some o → (∀ p ∈ t.rings, ∀ y ∈ p.2.started ++ p.2.intake, y.id ≠ id) ∧
        ((s.ring o.ring).broken = false → (s.mod.session = true → (s.ring o.ring).cplSpent = false) → (s.ringUp 0 = true ∨ s.ringUp 8 = true) → ∃ a tag,
          HostWrite.bytes a (cplBytes o stCancelled 0x0C08 (s.ring o.ring).cidx 0 s.bell.count 0 ++ leBytes 16 tag) ∈ t.out ++ t.outWait))

/-- With every core in service an activation completes: the staged image runs from the other slot, the flash selector names it, nothing is
staged, 0x0C0A gives the versions, and an open session is closed. A core out of service at the latch of the eighth decision since reverts
it: 0x0C09, the order FAILED, and the image still staged. Before either, nothing changes. A slot selector rewritten names its slot and
leaves the other copy and both slots alone (R422, R441). -/
def Sys2Proof.Claim.ActivationEnds : Prop :=
  ∀ (s : State) (id d : Nat) (i : FwImage), s.trust.act = some id → s.trust.reloading = some d → s.trust.staged = some i →
    (s.coreOut = none → ∃ t, exec .activationComplete s = .next t ∧ t.trust.image = i ∧ t.trust.slot = 1 - s.trust.slot ∧
      t.trust.staged = none ∧ t.trust.act = none ∧ t.trust.reloading = none ∧ t.flash = selectSlot s.flash (1 - s.trust.slot) ∧
      t.mod.session = false ∧ (∃ r ∈ t.inc.log, r.code = 0x0C0A ∧ r.detail = [s.trust.image.version, i.version]) ∧
      t.stalls = s.stalls ∧ exec .activationReverted s = .next s) ∧
    (∀ k, s.coreOut = some k → exec .activationComplete s = .next s ∧
      (s.eighthLatch d = false → exec .activationReverted s = .next s) ∧
      (s.eighthLatch d = true → ∃ t : State, exec .activationReverted s = .next (t.complete id stFailed 0x0C09 0 0) ∧ t.trust.act = none ∧
        t.trust.reloading = none ∧ t.trust.staged = some i ∧ t.trust.image = s.trust.image ∧ t.flash = s.flash ∧
        Records s t 0x0C09 (k / 4) [k % 4] ∧ Apart s t)) ∧
    (∀ (f : Flash) (n : Nat), n ≤ 1 → (∀ x ∈ selectorOf f.sel0, x.1 < 2 ^ 32 - 1) → (∀ x ∈ selectorOf f.sel1, x.1 < 2 ^ 32 - 1) →
      let g := selectSlot f n
      (g.slotA = f.slotA ∧ g.slotB = f.slotB) ∧ (g.sel0 = f.sel0 ∨ g.sel1 = f.sel1) ∧ flashSelected g = n) ∧
    (∀ n, (s.eighthLatch n = true ↔ n + 8 < s.decisions ∨ (n + 8 = s.decisions ∧ s.bell.lastD + 90 ≤ s.now)))

/-- A running core's watchdog resets and reloads it: 0x0B01 with its cause, and its restart counts up to 255. A crash of an assayer holds
the module instead: 0x0B05, and a HOLD with cause ASSAYER 4 cy later. Neither touches a stall, a context or a mapping (R411, R412,
Table CLK.10). -/
def Sys2Proof.Claim.CoresRestart : Prop :=
  ∀ (s : State) (die : Fin 16) (core : Fin 4) (cause : Fin 4), s.awake = true → cause.val ≠ 0 → (s.core die.val core.val).state = 1 →
    let c := s.core die.val core.val
    (core.val ≠ 3 → ∃ t, exec (.coreWatchdog die core cause) s = .next t ∧ t.core die.val core.val =
        { c with state := 2, restarts := min 255 (c.restarts + 1), cause := cause.val, fired := s.decisions } ∧
      (∀ n k, k < 4 → (n, k) ≠ (die.val, core.val) → t.core n k = s.core n k) ∧ t.bell = s.bell ∧
      Records s t 0x0B01 die.val [core.val, cause.val] ∧ Apart s t) ∧
    (core.val = 3 → s.deadDies.contains s.bell.lead = false → ∃ t, exec (.coreWatchdog die core cause) s = .next t ∧
      t.core die.val 3 = { c with state := 3, cause := cause.val } ∧ Records s t 0x0B05 die.val [cause.val] ∧ Holds s t s.bell.lead 16 4)

/-- A restarted core's first kick puts it back in service, and what waited in the module goes out once the ring engine's core runs again,
with the interrupts whose gap is over (R412, Table CLK.10, 11_host_rings.md R389). -/
def Sys2Proof.Claim.CoresAreKicked : Prop :=
  ∀ (s : State) (die : Fin 16) (core : Fin 4),
    ((s.core die.val core.val).state ≠ 2 → exec (.coreKick die core) s = .next s) ∧
    ((s.core die.val core.val).state = 2 → ∃ t, exec (.coreKick die core) s = .next t ∧
      t.core die.val core.val = { s.core die.val core.val with state := 1 } ∧ t.bell = s.bell ∧ t.inc = s.inc ∧ Apart s t ∧
      (die.val = s.conf.ringDie → core.val = 0 → s.ringUp s.conf.ringDie = true → t.outWait = [] ∧
        ((s.intHeld = [] ∨ s.mod.configValid = false) → t.out = s.outWait ++ s.out) ∧
        (s.mod.configValid = true → s.intHeld.Nodup → s.conf.ringDie = 0 ∨ s.conf.ringDie = 8 → (∀ v ∈ s.intHeld, s.gapOver v = true → .int v ∈ t.out ∧ v ∉ t.intHeld) ∧
          ∀ v ∈ s.intHeld, s.gapOver v = false → v ∈ t.intHeld)) ∧
      ((s.core s.conf.ringDie 0).state ≠ 1 → (die.val ≠ s.conf.ringDie ∨ core.val ≠ 0) → die.val < 16 → s.conf.ringDie < 16 →
        t.out = s.out ∧ t.outWait = s.outWait))

/-- A core not in service at the latch of the eighth decision after its fire has failed. Without its control core a die is held: 0x0B02, its
stalls issue no more, the capability table changes, its moves are handed over, and each context with a stall on it that has no cause yet
gets this one. Without the scheduler core 0x0B03 is recorded and every order not yet started is CANCELLED; without the power core 0x0B04 is
recorded. Earlier, nothing changes (R412, R413, Table CLK.10). -/
def Sys2Proof.Claim.CoresFail : Prop :=
  ∀ (s : State) (die : Fin 16) (core : Fin 3),
    let c := s.core die.val core.val
    let go := fun (f : State → Prop) => ∃ t, exec (.coreRestartFailed die core) s = .next t ∧ t.core die.val core.val = { c with state := 3 } ∧ f t
    ((c.state ≠ 2 ∨ s.eighthLatch c.fired = false) → exec (.coreRestartFailed die core) s = .next s) ∧
    (c.state = 2 → s.eighthLatch c.fired = true → s.trust.reloading = none → s.pow.dieResetting.contains die.val = false →
      (core.val = 0 → go fun t => t.heldDies = s.heldDies ++ [die.val] ∧ Records s t 0x0B02 die.val [] ∧
        t.conf.capGen = (s.conf.capGen + 1) % 4294967296 ∧ t.stalls = s.stalls ∧ t.mem = s.mem ∧
        (∀ m ∈ t.ledger.moves, m.engine = die.val → m.phase ≠ .moving) ∧
        (∀ m ∈ s.ledger.moves, m.engine = die.val → m.phase = .moving → { m with phase := .handover, since := s.now } ∈ t.ledger.moves) ∧
        (∀ k y x, x < 64 → tfind s.stalls k = some y → y.occ = some x → dieOf k = die.val → (s.ctx x).state = .running →
          (s.ctx x).cause = none → ((t.ctx x).cause.map (·.1)) = some 0x0B02)) ∧
      (core.val = 1 → OrdersNumbered s → go fun t => (∀ p ∈ s.rings, ∀ o ∈ p.2.intake, ∀ q ∈ t.rings, ∀ o' ∈ q.2.intake, o'.id ≠ o.id) ∧
        (∃ i ∈ t.inc.log, i.code = 0x0B03 ∧ i.detail = [c.cause]) ∧ t.stalls = s.stalls ∧ t.mem = s.mem ∧ t.ctxs = s.ctxs ∧ t.ledger = s.ledger) ∧
      (core.val = 2 → go fun t => Records s t 0x0B04 die.val [c.cause, s.pow.s] ∧ t.bell = s.bell ∧ Apart s t))

/-! ## Power, boot and resets (13_trust.md R425, 14_power_ageing_resets.md R444 to R469, 01_bell.md R34) -/
namespace Sys2Proof.Claim

/-- The module is off the main rails in this mode (0 OFF, 1 STANDBY): no stall, plan, context, mapping, order, session or setting is left,
the flash is kept, and the commands that wait still wait. -/
def PoweredDown (s t : State) (mode : Nat) : Prop :=
  t.mod.state = mode ∧ t.mod.configValid = false ∧ t.mod.session = false ∧ t.trust.kem = none ∧ t.trust.crateKey = [] ∧ t.trust.staged = none ∧
  t.stalls = [] ∧ t.ports = [] ∧ t.ctxs = [] ∧ t.units = [] ∧ t.rings = [] ∧ t.squares = [] ∧ t.mem = [] ∧ t.live = [] ∧ t.regs = [] ∧
  t.bell.count = 0 ∧ t.bell.symbols = [] ∧ t.cores = [] ∧ t.ledger = State.reset.ledger ∧ t.flash = s.flash ∧ t.pkg.rails = false ∧
  t.pending = s.pending ∧ t.now = s.now

/-- From `s` to `t` one record of this KIND is appended to the ageing log: 4,096 bytes, "TBAG", its sequence number, its KIND
(14_power_ageing_resets.md R460, R461, Table PWR.4). -/
def LogRecord (s t : State) (kind : Nat) : Prop :=
  t.flash.log.records = s.flash.log.records + 1 ∧ ∃ r l, t.flash.log.recs = r :: l ∧ r.length = 4096 ∧ r.take 4 = ascii "TBAG" ∧
    fieldAt r 4 4 = (s.flash.log.records + 1) % 2 ^ 32 ∧ fieldAt r 25 1 = kind ∧ (s.flash.log.recs.length < 4080 → l = s.flash.log.recs)

/-- The die that leads: the first in the order of R34 that passed its self-test and its identity check. -/
def firstSound (r : BootReport) : Option Nat :=
  electionOrder.find? fun d => !r.selfTestFail.contains d && !r.identityFail.contains d

end Sys2Proof.Claim

/-- The supervisor turns every rail off from any state; the input returning brings OFF to STANDBY and samples the address lands; RESET_N low
and a stopped REFCLK bring every state but OFF to STANDBY, as MOD_RESET KIND 2 does with its key. The flash alone is kept (R444, R464, R466,
R469, R499). -/
def Sys2Proof.Claim.RailsGoOff : Prop :=
  ∀ (s : State) (pins : BitVec 2) (key : BitVec 16),
    (∃ t, exec .supervisorTrip s = .next t ∧ PoweredDown s t 0 ∧ t.pkg.dynAddr = none) ∧
    (s.mod.state = 0 → ∃ t, exec (.standbyEntry pins) s = .next t ∧ PoweredDown s t 1 ∧ t.pkg.addrPins = pins.toNat ∧ t.pkg.ir = 1 ∧ t.pkg.dr = 0x10080A75) ∧
    (s.mod.state ≠ 0 → exec (.standbyEntry pins) s = .next s ∧
      (∃ t, exec .resetNLow s = .next t ∧ PoweredDown s t 1 ∧ t.pkg.resetN = false) ∧
      (∃ t, exec .refclkLost s = .next t ∧ PoweredDown s t 1 ∧ t.pkg.refclk = false)) ∧
    (s.mod.state = 0 → exec .resetNLow s = .next { s with pkg := { s.pkg with resetN := false } } ∧
      exec .refclkLost s = .next { s with pkg := { s.pkg with refclk := false } }) ∧
    (s.awake = true → key = 0xC1EA → ∃ t, exec (.moduleReset key) s = .next t ∧ PoweredDown s t 1) ∧
    (s.awake = true → key ≠ 0xC1EA → ∃ t, exec (.moduleReset key) s = .next t ∧ Records s t 0x0D0A 0xFF [0xC8, key.toNat * 65536 + 2] ∧
      t.bell = s.bell ∧ t.mod = s.mod ∧ Apart s t)

/-- A boot elects the first sound die of R34's order and runs the image of the slot that the flash selector names, else the other one as
a fallback with 0x0C02 and 0x0C03; the module is then HELD with nothing committed, its memory and registers as power-on leaves them, and
its first decision one period away. With no sound die it stays in STANDBY at stage 13, with no valid image at stage 15, with FLASH_SEL_N low
at 14; only STANDBY boots, and after stage 13 only a module reset or power-on lets it boot again. Each star lane's pad is 43 less its
flight; a lone lane whose pad lies outside 0 to 63 fences its higher-numbered end with 0x010A (R29, R34, R425, R464, R502). -/
def Sys2Proof.Claim.Boots : Prop :=
  ∀ (s : State) (r : BootReport),
    ((s.mod.state ≠ 1 ∨ s.pkg.bootStage = 13) → exec (.boot r) s = .next s) ∧
    (s.mod.state = 1 → s.pkg.bootStage ≠ 13 → s.pkg.flashSelN = false → exec (.boot r) s = .next { s with pkg := { s.pkg with bootStage := 14 } }) ∧
    (∀ a b, s.mod.state = 1 → s.pkg.bootStage ≠ 13 → s.pkg.flashSelN = true → badLanes r ((upFrom 0 16).filter r.selfTestFail.contains) = [(a, b)] →
      ∃ t, exec (.boot r) s = .next t ∧ t.deadDies.contains (max a b) = true ∧ ∃ i ∈ t.inc.log, i.code = 0x010A ∧ i.die = max a b ∧ i.detail = [b]) ∧
    (s.mod.state = 1 → s.pkg.bootStage ≠ 13 → s.pkg.flashSelN = true → badLanes r ((upFrom 0 16).filter r.selfTestFail.contains) = [] →
      (firstSound r = none → ∃ t, exec (.boot r) s = .next t ∧ t.mod.state = 1 ∧ t.pkg.bootStage = 13) ∧
      (∀ lead, firstSound r = some lead →
        let a := flashSelected s.flash
        let ok := fun (n : Nat) => (flashImage s.flash n).check = 0
        let up := fun (slot : Nat) (fallback : Bool) => ∃ t, exec (.boot r) s = .next t ∧ t.mod.state = 2 ∧ t.mod.configValid = false ∧
          t.mod.session = false ∧ t.bell.lead = lead ∧ t.bell.count = 0 ∧ t.bell.nextD = s.now + 22500 ∧ t.trust.slot = slot ∧
          t.trust.fallback = fallback ∧ t.trust.image = flashImage s.flash slot ∧ t.pkg.bootStage = 5 ∧ t.pkg.rails = true ∧ t.mem = [] ∧
          t.rings = [] ∧ t.live = [] ∧ t.pending = s.pending ∧ (∀ d, d < 16 → t.deadDies.contains d = r.selfTestFail.contains d) ∧
          (∀ d, d < 16 → (t.core d 0).state = if r.selfTestFail.contains d then 0 else 1) ∧
          (∀ x y, x < 16 → y < 16 → r.selfTestFail.contains x = false → r.selfTestFail.contains y = false →
            (tfind t.bell.pads (16 * x + y)).map Int.ofNat = some (43 - laneFlight r x y)) ∧
          (fallback = true → ∃ i ∈ t.inc.log, ∃ j ∈ t.inc.log, i.code = 0x0C02 ∧ j.code = 0x0C03)
        (ok a → up a false) ∧ (¬ ok a → ok (1 - a) → up (1 - a) true) ∧
        (¬ ok a → ¬ ok (1 - a) → ∃ t, exec (.boot r) s = .next t ∧ t.mod.state = 1 ∧ t.pkg.bootStage = 15 ∧
          ∃ i ∈ t.inc.log, i.code = 0x0C02)))

/-- A warm clear with its key ends every context and order and holds the module: the rings are OFF with their counters, the staging block
equals the live configuration with every ring disabled, the driver connection begins anew; the bell number, the session and the flash
stay. Another key is ignored with 0x0D0A (R466, R467, R469). -/
def Sys2Proof.Claim.WarmClears : Prop :=
  ∀ (s : State) (key : BitVec 16), s.awake = true →
    (key ≠ 0xC1EA → ∃ t, exec (.warmClear key) s = .next t ∧ Records s t 0x0D0A 0xFF [0xC8, key.toNat * 65536 + 1] ∧ t.bell = s.bell ∧
      t.mod = s.mod ∧ Apart s t) ∧
    (key = 0xC1EA → ∃ t, exec (.warmClear key) s = .next t ∧ t.mod.state = 2 ∧ t.bell.held = true ∧ t.bell.count = s.bell.count ∧
      t.ctxs = [] ∧ t.stalls = [] ∧ t.ports = [] ∧ t.squares = [] ∧ t.units = [] ∧ t.sets = [] ∧ t.dispatches = [] ∧ t.regs = [] ∧
      t.live = tput (tput s.live 0x54 0) 0x58 0 ∧ t.conf.hs = 0 ∧ t.conf.status = 0 ∧ t.mod.session = s.mod.session ∧
      t.mod.configValid = s.mod.configValid ∧ t.flash = s.flash ∧
      ∀ i, (t.ring i).state = 0 ∧ (t.ring i).intake = [] ∧ (t.ring i).started = [] ∧ ((s.ring i).ohead ≠ 0 → (t.ring i).ohead = (s.ring i).ohead))

/-- DIE_RESET with its key is kept for step 1 of the next bell; another key is ignored with 0x0D0A; a fenced die ignores it. There it is
refused with 0x0D0C while a context occupies a stall of the die (1), on the lead die or the ring engine's die (2), or on a held die (3);
else the die's stock is zeroed, its control core is reloaded, and no other die's stock changes. It completes with 0x0D0D, the control core
in service, and a log record of KIND 4, before which one of KIND 3 says which fences became due; the caches of the die's translations are empty
(R461, R466, R468). -/
def Sys2Proof.Claim.DieResets : Prop :=
  ∀ (s : State) (die : Fin 16) (v : BitVec 32),
    let n := die.val
    (s.deadDies.contains n = true → exec (.dieReset die v) s = .next s) ∧
    (s.deadDies.contains n = false → bitsAt v.toNat 16 16 ≠ 0xC1EA → ∃ t, exec (.dieReset die v) s = .next t ∧
      Records s t 0x0D0A 0xFF [0x100414 + n * 0x10000, v.toNat] ∧ t.pow = s.pow ∧ Apart s t) ∧
    (s.deadDies.contains n = false → bitsAt v.toNat 16 16 = 0xC1EA → bitAt v.toNat 0 = true → s.pow.dieResetAsked.contains n = false →
      exec (.dieReset die v) s = .next { s with
        pow := { s.pow with dieResetAsked := s.pow.dieResetAsked ++ [n] }
        asks := s.asks ++ [(.die n, s.now)] }) ∧
    (s.deadDies.contains n = false → bitsAt v.toNat 16 16 = 0xC1EA → (bitAt v.toNat 0 = false ∨ s.pow.dieResetAsked.contains n = true) →
      exec (.dieReset die v) s = .next s) ∧
    (let busy := s.stalls.any fun p => dieOf p.1 = n && p.2.occ.isSome
      let reason := if busy then 1 else if n = s.bell.lead ∨ n = s.conf.ringDie then 2 else if s.heldDies.contains n then 3 else 0
      (reason ≠ 0 → Records s (s.resetDie n) 0x0D0C n [reason] ∧ Apart s (s.resetDie n)) ∧
      (reason = 0 → s.pow.dieResetting.contains n = false → let t := s.resetDie n
        (∀ c, c ∈ t.mem ↔ c ∈ s.mem ∧ (c.1 < dieStock n ∨ dieStock (n + 1) ≤ c.1)) ∧ (t.core n 0).state = 2 ∧
        t.pow.dieResetting = s.pow.dieResetting ++ [n] ∧ tfind t.ledger.dieCache n = none ∧ tfind t.ledger.upper n = none ∧
        (∀ k, dieOf k = n → (t.port k).xcache = []) ∧ t.stalls = s.stalls ∧ t.ctxs = s.ctxs ∧ t.bell = s.bell)) ∧
    (∀ trims, s.pow.dieResetting.contains n = false → exec (.dieResetDone die trims true) s = .next s) ∧
    (∀ trims, s.pow.dieResetting.contains n = true → ∃ t, exec (.dieResetDone die trims true) s = .next t ∧ (t.core n 0).state = 1 ∧
      t.pow.dieResetting.contains n = false ∧ t.pow.logDue = s.pow.logDue ∧
      (let new := (upFrom 0 320).any fun i => (t.dom i).due.isSome && (s.dom i).due.isNone;
        (new = false → LogRecord s t 4) ∧ (new = true → t.flash.log.records = s.flash.log.records + 2 ∧ ∃ u, LogRecord s u 3 ∧ LogRecord u t 4)) ∧
      (∃ i, t.inc.log = i :: s.inc.log ∧ i.code = 0x0D0D ∧ i.die = n) ∧ t.mem = s.mem ∧ t.stalls = s.stalls ∧ t.ctxs = s.ctxs)

/-- A canary below code 200 raises its domain's code and floor by 1, with 0x0D06 once per domain and bell; at code 200 it makes the fence
due, once, and writes a record of KIND 3, which where it fails is retried with 0x0D09. A power core out of service changes no code; a fenced domain has no canary (R456, R461). -/
def Sys2Proof.Claim.CanariesFire : Prop :=
  ∀ (s : State) (die : Fin 16) (domain : Fin 20),
    let i := 20 * die.val + domain.val
    let d := s.dom i
    let c := exec (.canary die domain true) s
    ((s.awake = false ∨ s.domFenced die.val domain.val = true) → c = .next s) ∧
    (s.awake = true → s.domFenced die.val domain.val = false →
      (s.powerRuns = false → ∃ t, c = .next t ∧ t.dom i = d ∧ t.inc = s.inc ∧ t.flash = s.flash ∧ Apart s t) ∧
      (s.powerRuns = true → d.vcode < 200 → ∃ t, c = .next t ∧
        t.dom i = { d with vcode := d.vcode + 1, floor := d.vcode + 1, canaryBell := some s.bell.count } ∧ (∀ j, j ≠ i → t.dom j = s.dom j) ∧
        (d.canaryBell = some s.bell.count → t.inc = s.inc) ∧
        (d.canaryBell ≠ some s.bell.count → Records s t 0x0D06 die.val [domain.val, d.vcode + 1]) ∧ Apart s t) ∧
      (s.powerRuns = true → 200 ≤ d.vcode → d.due = none → ∃ t, c = .next t ∧ t.dom i = { d with due := some 2, vcode := 200 } ∧
        (∀ j, j ≠ i → t.dom j = s.dom j) ∧ LogRecord s t 3 ∧ t.inc = s.inc ∧ Apart s t) ∧
      (s.powerRuns = true → 200 ≤ d.vcode → d.due = none → ∃ t, exec (.canary die domain false) s = .next t ∧
        t.dom i = { d with due := some 2, vcode := 200 } ∧ t.flash = s.flash ∧ t.pow.logDue = s.pow.logDue ++ [3] ∧
        Records s t 0x0D09 0xFF [0x3010000 + 4096 * (s.flash.log.records % 4080)] ∧ Apart s t) ∧
      (s.powerRuns = true → 200 ≤ d.vcode → d.due.isSome = true → ∃ t, c = .next t ∧ (∀ j, t.dom j = s.dom j) ∧ t.flash = s.flash ∧ Apart s t))

/-- A re-plan that is due gives every domain that is not fenced the code of plan(): VPASS + GUARD + ceil((RATIO0 − RATIO) / 64), and no less
than FLOOR; where that passes 200, or there is no VPASS, the fence becomes due. It writes the ageing records whose write has failed, one of
KIND 3 where fences became due and one of KIND 2 where it changed a code, with 0x0D07 for either; a write that fails is kept for the next
re-plan with 0x0D09 (R455, R457, R461). -/
def Sys2Proof.Claim.Replans : Prop :=
  ∀ (s : State) (logged : Bool), s.awake = true → s.powerRuns = true →
    (s.pow.replanDue = false → exec (.replan [] logged) s = .next s) ∧
    (s.pow.replanDue = true → ∃ t, exec (.replan [] logged) s = .next t ∧ t.pow.replanDue = false ∧ t.pow.replans = satInc s.pow.replans ∧
      Apart s t ∧ (∀ i, i < 320 →
        let d := s.dom i
        ((s.domFenced (i / 20) (i % 20) = true ∨ d.due.isSome = true) → t.dom i = d) ∧
        (s.domFenced (i / 20) (i % 20) = false → d.due = none →
          (d.vpass = none → t.dom i = { d with due := some 1, vcode := 200 }) ∧
          (∀ p, d.vpass = some p → let v := max (p + s.guardCodes + ceilDiv (d.ratio0 - d.ratio) 64) d.floor
            (v ≤ 200 → t.dom i = { d with vcode := v }) ∧ (200 < v → t.dom i = { d with due := some 1, vcode := 200 })))) ∧
      (let due := (upFrom 0 320).any fun i => (t.dom i).due.isSome && (s.dom i).due.isNone;
        let changed := (upFrom 0 320).any fun i => (t.dom i).vcode ≠ (s.dom i).vcode;
        let kinds := s.pow.logDue ++ (if due then [3] else []) ++ (if changed then [2] else []);
        (kinds = [] → t.inc = s.inc ∧ t.flash = s.flash ∧ t.pow.logDue = []) ∧
        (logged = true → t.flash.log.records = s.flash.log.records + kinds.length ∧ t.pow.logDue = [] ∧
          ((due || changed) = true → ∃ j, t.inc.log = j :: s.inc.log ∧ j.code = 0x0D07) ∧
          (∀ k, kinds = [k] → k < 256 → LogRecord s t k)) ∧
        (logged = false → t.flash = s.flash ∧ t.pow.logDue = kinds ∧ (∀ k, kinds = [k] → ∃ j, j.code = 0x0D09 ∧ t.inc.log.head? = some j))))

/-- A fenced domain that no context occupies is powered off. In an exit from DARK the domains are powered one after another, domain k
2,250 × k cy after the exit began, and each one's stock, on every die, reads as zero while no other byte changes (R458, R464,
Table PWR.6). -/
def Sys2Proof.Claim.DomainsArePowered : Prop :=
  ∀ (s : State) (die : Fin 16) (domain : Fin 20),
    let i := 20 * die.val + domain.val
    let off := s.domFenced die.val domain.val = true ∧ s.domOccupied i = []
    (off → ∃ t, exec (.domainPowerOff die domain) s = .next t ∧ t.dom i = { s.dom i with powered := false } ∧
      (∀ j, j ≠ i → t.dom j = s.dom j) ∧ Apart s t) ∧
    (¬ off → exec (.domainPowerOff die domain) s = .next s) ∧
    (s.pow.exit = none → exec (.domainPowerUp domain) s = .next s) ∧
    (∀ c, s.pow.exit = some c → s.pow.powered.length ≠ domain.val → exec (.domainPowerUp domain) s = .next s) ∧
    (∀ c, s.pow.exit = some c → s.pow.powered.length = domain.val → ∃ t, exec (.domainPowerUp domain) s = .next t ∧
      t.now = max s.now (c + 2250 * domain.val) ∧ t.pow.powered = s.pow.powered ++ [domain.val] ∧
      (∀ x, x ∈ t.mem ↔ x ∈ s.mem ∧ ∀ d, d < 16 → x.1 < stockAddr (stallNum d 0 (4 * domain.val)) 0 ∨
        stockAddr (stallNum d 0 (4 * domain.val)) 0 + 256 * 0x40000 ≤ x.1) ∧
      t.stalls = s.stalls ∧ t.ctxs = s.ctxs ∧ t.mod = s.mod)

/-! ## Check units and queues (15_check_unit_queues.md R473 to R487) -/
namespace Sys2Proof.Claim

/-- The unit's die is in service. -/
def UnitUp (s : State) (die : Fin 16) : Prop := s.awake = true ∧ s.deadDies.contains die.val = false

/-- From `s` to `t` only this check unit changes, besides what an incident and a free value take. -/
def OnlyUnit (s t : State) (die : Fin 16) (unit : Fin 4) (c : CheckUnit) : Prop :=
  t.cu die.val unit.val = c ∧ (∀ n k, k < 4 → (n, k) ≠ (die.val, unit.val) → t.cu n k = s.cu n k) ∧ t.bell = s.bell ∧ t.queues = s.queues ∧
    t.regs = s.regs ∧ Apart s t

/-- MISUSE: the bit is set, the incident names the unit and the failing field, and nothing is fed or attached. -/
def Misuse (s : State) (die : Fin 16) (unit : Fin 4) (cmd : Instr) (code field : Nat) : Prop :=
  ∃ t i, exec cmd s = .next t ∧
    OnlyUnit s t die unit { s.cu die.val unit.val with status := (s.cu die.val unit.val).status ||| 64 } ∧
    t.inc.log = i :: s.inc.log ∧ i.code = code ∧ i.die = die.val ∧ i.whre = unit.val ∧ i.detail = [field]

/-- Check values over "123456789" of Table CHK.1: width, polynomial, initial value, reflections, final XOR, result. -/
def checkValues : List (Nat × Nat × Nat × Bool × Nat × Nat) :=
  [(8, 0x07, 0, false, 0, 0xF4), (16, 0x1021, 0xFFFF, false, 0, 0x29B1), (32, 0x04C11DB7, 0xFFFFFFFF, true, 0xFFFFFFFF, 0xCBF43926),
   (32, 0x1EDC6F41, 0xFFFFFFFF, true, 0xFFFFFFFF, 0xE3069283), (64, 0x42F0E1EBA9EA3693, 0, false, 0, 0x6C40DF5F0B497347),
   (64, 0x42F0E1EBA9EA3693, 0xFFFFFFFFFFFFFFFF, true, 0xFFFFFFFFFFFFFFFF, 0x995DC9BBDF1939FA)]

end Sys2Proof.Claim

/-- The engine gives the check values of Table CHK.1 (R473). -/
def Sys2Proof.Claim.CheckValues : Prop :=
  ∀ row ∈ checkValues, let (w, poly, init, refl, xorout, result) := row
    crcResult w xorout refl (crcFeeds w poly refl init (ascii "123456789")) = result

/-- START with legal parameters sets STATE to INIT and FED to 0; a width outside 8 to 64, or a parameter with a bit at or above the width,
is MISUSE with 0x0E06 and changes nothing else (R473, R474). -/
def Sys2Proof.Claim.CheckUnitsStart : Prop :=
  ∀ (s : State) (die : Fin 16) (unit : Fin 4), UnitUp s die →
    let c := s.cu die.val unit.val
    let legal := 8 ≤ c.width ∧ c.width ≤ 64 ∧ c.poly < 2 ^ c.width ∧ c.init < 2 ^ c.width ∧ c.xorout < 2 ^ c.width
    (legal → ∃ t, exec (.start die unit) s = .next t ∧ OnlyUnit s t die unit { c with state := c.init, fed := 0 } ∧ t.inc = s.inc) ∧
    (¬ legal → ∃ n, Misuse s die unit (.start die unit) 0x0E06 n)

/-- In mode 1 a feed write feeds its low 1, 2 or 4 bytes, the lowest first, and FED counts them; in any other mode it feeds nothing and is
MISUSE with 0x0E02 and the register (R473, R475, R477). -/
def Sys2Proof.Claim.FeedWrites : Prop :=
  ∀ (s : State) (die : Fin 16) (unit : Fin 4) (v : BitVec 32), UnitUp s die →
    let c := s.cu die.val unit.val
    let one := fun (st i : Nat) => crcFeed c.width c.poly c.refin st (bitsAt v.toNat (8 * i) 8)
    let fed := fun (cmd : Instr) (n st : Nat) => ∃ t, exec cmd s = .next t ∧
      OnlyUnit s t die unit { c with state := st, fed := (c.fed + n) % 2 ^ 64 } ∧ t.inc = s.inc
    (c.mode = 1 → 8 ≤ c.width → c.width ≤ 64 → fed (.feedB die unit v) 1 (one c.state 0) ∧
      fed (.feedH die unit v) 2 (one (one c.state 0) 1) ∧ fed (.feedW die unit v) 4 (one (one (one (one c.state 0) 1) 2) 3)) ∧
    (c.mode ≠ 1 → Misuse s die unit (.feedB die unit v) 0x0E02 0x20 ∧ Misuse s die unit (.feedH die unit v) 0x0E02 0x24 ∧
      Misuse s die unit (.feedW die unit v) 0x0E02 0x28)

/-- In mode 2 ARM attaches the unit to the stream of that ID that the slot runs, or waits for the next PRT.GO; RESUME attaches it to the
running stream from output byte FED on, which must be a multiple of 64. A stall that no die has, and such a FED, is MISUSE with 0x0E06.
In another mode ARM attaches nothing (R479, R483). -/
def Sys2Proof.Claim.SnoopsAttach : Prop :=
  ∀ (s : State) (die : Fin 16) (unit : Fin 4), UnitUp s die →
    let c := s.cu die.val unit.val
    let attach := fun (cmd : Instr) (g : Option Nat) (n : Nat) => ∃ t, exec cmd s = .next t ∧
      OnlyUnit s t die unit { c with attached := true, goSeq := g, nextLine := n, window := [], marks := [] } ∧ t.inc = s.inc
    (5120 ≤ c.stall → ∃ n, Misuse s die unit (.arm die unit) 0x0E06 n) ∧
    (c.stall < 5120 → c.mode ≠ 2 → exec (.arm die unit) s = .next s) ∧
    (c.stall < 5120 → c.mode = 2 →
      (s.snooped die.val c = none → attach (.arm die unit) none 0) ∧
      (∀ q d, s.snooped die.val c = some (q, d) → ∃ n, attach (.arm die unit) (some q.goSeq) n)) ∧
    ((c.fed % 64 ≠ 0 ∨ 5120 ≤ c.stall) → ∃ n, Misuse s die unit (.resume die unit) 0x0E06 n) ∧
    (c.fed % 64 = 0 → c.stall < 5120 → c.mode = 2 → ∀ q d, s.snooped die.val c = some (q, d) →
      attach (.resume die unit) (some q.goSeq) (c.fed / 64))

/-- An attached unit feeds the line that is next in its window, all 64 bytes in order, where every source element was public; else it feeds
nothing, sets HIDDEN, detaches and records 0x0E05. After the last line of a stream that has ended it is DONE and detached
(R480 to R482). -/
def Sys2Proof.Claim.SnoopedLinesAreFed : Prop :=
  ∀ (s : State) (die : Fin 16) (unit : Fin 4) (l : Line),
    let c := s.cu die.val unit.val
    let cmd := Instr.snoopLine die unit
    ((c.attached = false ∨ tfind c.window c.nextLine = none) → exec cmd s = .next s) ∧
    (c.attached = true → tfind c.window c.nextLine = some (l, false) → ∃ t, exec cmd s = .next t ∧ OnlyUnit s t die unit (c.detach 5) ∧
      t.inc.log = ⟨0x0E05, die.val, none, die.val * 8192 + c.stall, 0xFFFFFFFF, s.bell.count, [unit.val, c.id]⟩ :: s.inc.log) ∧
    (c.attached = true → tfind c.window c.nextLine = some (l, true) → 8 ≤ c.width → c.width ≤ 64 → ∃ t d, exec cmd s = .next t ∧
      OnlyUnit s t die unit d ∧ t.inc = s.inc ∧ d.state = crcFeeds c.width c.poly c.refin c.state (bytesOfLine l) ∧
      d.fed = (c.fed + 64) % 2 ^ 64 ∧
      (let q := (s.port (die.val * 8192 + c.stall)).slot c.slot
        let done := tdel c.window c.nextLine = [] ∧ (q.state = .free ∨ some q.goSeq ≠ c.goSeq)
        (done → d.attached = false ∧ bitAt d.status 2 = true) ∧
        (¬ done → d.attached = true ∧ d.nextLine = c.nextLine + 1 ∧ d.window = tdel c.window c.nextLine ∧ d.status = c.status)))

/-- A read of an EMPTY queue sets UNDERRUN with 0x0E03, a write to a FULL one OVERRUN with 0x0E04. A pointer mismatch counts a reset with
0x0E01: requests over an edge get errors, the port is reset, a check unit sets QRESET and its STATE has no meaning (R486, R487,
Table CHK.4). -/
def Sys2Proof.Claim.QueueErrors : Prop :=
  ∀ (s : State) (die : Fin 16) (q : Fin 17) (occ : Nat), UnitUp s die → HostReaches s →
    let c := s.cq die.val q.val
    (∃ t, exec (.registerWrite (.underrun die.val q.val)) s = .next t ∧ t.cq die.val q.val = { c with underrun := true } ∧
      Records s t 0x0E03 die.val [q.val] ∧ Apart s t) ∧
    (∃ t, exec (.registerWrite (.overrun die.val q.val)) s = .next t ∧ t.cq die.val q.val = { c with overrun := true } ∧
      Records s t 0x0E04 die.val [q.val] ∧ Apart s t) ∧
    (∃ t, exec (.queueMismatch die q occ) s = .next t ∧ t.cq die.val q.val = { c with resets := satInc c.resets, armed := true } ∧
      (∃ i ∈ t.inc.log, i.code = 0x0E01 ∧ i.detail = [q.val, occ]) ∧ t.mem = s.mem ∧
      (9 ≤ q.val → q.val < 13 → (s.wport die.val).state ≠ 0 → ∃ i ∈ t.inc.log, i.code = 0x0903 ∧ i.die = die.val) ∧
      (∀ k, k < 4 → q.val = 13 + k → ∃ st, t.cu die.val k = { (s.cu die.val k).mark 7 with state := st }))

/-! ## The module sideband (16_package_test.md R501 to R507) -/
namespace Sys2Proof.Claim

/-- The TAP runs: the standby rail is on and TRST_N is high. -/
def TapRuns (s : State) : Prop := s.mod.state ≠ 0 ∧ s.pkg.trstN = true

/-- `s` with the TAP instruction `ir` current, its data register holding `dr`, and the lands at their functions. -/
def tapAt (s : State) (ir dr : Nat) : State := { s with pkg := { s.pkg with ir := ir, extest := none, cells := false, dr := dr } }

/-- `s` after an instruction scan, in which the instruction register captured 0x01 (R504). -/
def irScanned (s : State) : State := { s with pkg := { s.pkg with irCap := 1 } }

/-- `s` with the boundary scan register loaded. -/
def scanned (s : State) (n : Nat) : State := { s with pkg := { s.pkg with bsr := n } }

end Sys2Proof.Claim

/-- A private write sets the index and changes nothing else of the module; a private read returns that many bytes and moves the index on by
each byte read; an identity record is read whole from its own index. OFF answers nothing (R501, Table PKG.5). -/
def Sys2Proof.Claim.SidebandReads : Prop :=
  ∀ (s : State) (index : BitVec 16) (n : Nat),
    (s.mod.state = 0 → exec (.i3cPrivateWrite index) s = .next s ∧ exec (.i3cPrivateRead n) s = .next s) ∧
    (s.mod.state ≠ 0 →
      (∃ k, exec (.i3cPrivateWrite index) s = .next { s with pkg := { s.pkg with i3cIndex := k } } ∧ (index.toNat < 0x8000 → k = index.toNat) ∧
        (∀ d, d < 16 → index.toNat = 0x8000 + d → k = identityIndex d)) ∧
      (∃ k l, exec (.i3cPrivateRead n) s = .next { s with pkg := { s.pkg with i3cIndex := k, i3cOut := l :: s.pkg.i3cOut } } ∧ l.length = n ∧
        (s.pkg.i3cIndex + n ≤ 0x8000 → k = s.pkg.i3cIndex + n ∧
          ∀ j b, l[j]? = some b → b.toNat = s.i3cByte (s.pkg.i3cIndex + j) % 256) ∧
        (∀ d, d < 16 → s.pkg.i3cIndex = identityIndex d → n ≤ 8192 → s.flashOut = false → l = (identityRecord d).take n)))

/-- What the indices read: the boot status from 0, MOD_STATE from 4, MOD_EMERGENCY and the firmware version from 0x10 and 0x14 with the
main rails on and 0 without, and 0 at every index that is not listed (R501, Table PKG.5). -/
def Sys2Proof.Claim.SidebandIndices : Prop :=
  ∀ (s : State) (j : Nat), j < 4 →
    s.i3cByte j = bitsAt s.bootStatus (8 * j) 8 ∧
    s.i3cByte (4 + j) = bitsAt (s.mod.state + 8 * b2n s.mod.configValid + 16 * b2n s.mod.session) (8 * j) 8 ∧
    (2 ≤ s.mod.state → s.i3cByte (0x10 + j) = bitsAt s.emergencyReg (8 * j) 8 ∧
      s.i3cByte (0x14 + j) = bitsAt (bitsAt s.trust.image.version 0 32) (8 * j) 8) ∧
    (s.mod.state < 2 → s.i3cByte (8 + j) = 0 ∧ s.i3cByte (0x0C + j) = 0 ∧ s.i3cByte (0x10 + j) = 0 ∧ s.i3cByte (0x14 + j) = 0) ∧
    ∀ i, 0x20 ≤ i → i < 0x10000 → s.i3cByte i = 0

/-- SETDASA gives a dynamic address to the static address 0x34 + I3C_ADDR alone, ENTDAA to a port without one (R501). -/
def Sys2Proof.Claim.DynamicAddresses : Prop :=
  ∀ (s : State) (st dyn : BitVec 7),
    let given := { s with pkg := { s.pkg with dynAddr := some dyn.toNat } }
    (s.mod.state ≠ 0 → st.toNat = 0x34 + s.pkg.addrPins → exec (.setdasa st dyn) s = .next given) ∧
    ((s.mod.state = 0 ∨ st.toNat ≠ 0x34 + s.pkg.addrPins) → exec (.setdasa st dyn) s = .next s) ∧
    (s.mod.state ≠ 0 → s.pkg.dynAddr = none → exec (.entdaa dyn) s = .next given) ∧
    ((s.mod.state = 0 ∨ s.pkg.dynAddr.isSome = true) → exec (.entdaa dyn) s = .next s)

/-- FLASH_SEL_N takes its level; an external programmer changes the flash only while it holds it, with PWRGD low and the land low, and in
STANDBY the boot status then shows stage 14 (R502). -/
def Sys2Proof.Claim.FlashIsSwitched : Prop :=
  ∀ (s : State) (high : Bool) (f : Flash),
    (s.pkg.rails = true → s.mod.state ≠ 1 → exec (.flashSelN high (some f)) s = .next { s with pkg := { s.pkg with flashSelN := high } }) ∧
    (s.pkg.rails = false → ∃ t, exec (.flashSelN false (some f)) s = .next t ∧ t.flash = f ∧ t.pkg.flashSelN = false ∧
      (s.mod.state = 1 → t.pkg.bootStage = 14) ∧ t.mod = s.mod ∧ t.bell = s.bell ∧ Apart s t) ∧
    (s.pkg.rails = false → s.pkg.flashSelN = true → ∃ t, exec (.flashSelN true (some f)) s = .next t ∧ t.flash = s.flash ∧ Apart s t)

/-- TRST_N low and five TCK cycles with TMS high put the TAP into Test-Logic-Reset with IDCODE current. IDCODE, BYPASS, SAMPLE and PRELOAD
load their instructions through the instruction register, which captures 0x01, end one of the EXTEST family, and disturb nothing; IDCODE
reads 0x10080A75; with the main rails off, cells outside the sideband capture 0 (R503 to R506). What BYPASS captures is the model's choice (log entry 170). -/
def Sys2Proof.Claim.TapInstructions : Prop :=
  ∀ (s : State) (bits : Nat),
    (∃ t, exec (.trstN false) s = .next t ∧ t = tapAt { s with pkg := { s.pkg with trstN := false } } 1 0x10080A75) ∧
    exec (.trstN true) s = .next { s with pkg := { s.pkg with trstN := true } } ∧
    (TapRuns s →
      exec .tapReset s = .next (tapAt s 1 0x10080A75) ∧ exec .idcode s = .next (tapAt (irScanned s) 1 0x10080A75) ∧
      exec .bypass s = .next (tapAt (irScanned s) 0xFF 0) ∧
      exec (.preload bits) s = .next (tapAt (scanned (irScanned s) (bits % 2 ^ 2611)) 3 (bits % 2 ^ 2611)) ∧
      (2 ≤ s.mod.state → exec (.sample bits) s = .next (tapAt (scanned (irScanned s) (bits % 2 ^ 2611)) 2 (bits % 2 ^ 2611))) ∧
      (s.mod.state < 2 → exec (.sample bits) s = .next (tapAt (scanned (irScanned s) (bits % 2 ^ 18)) 2 (bits % 2 ^ 18)))) ∧
    (¬ TapRuns s → ∀ c ∈ [Instr.tapReset, .idcode, .bypass, .sample bits, .preload bits, .extest, .extestPulse, .extestTrain],
      exec c s = .next s)

/-- An instruction of the EXTEST family makes the lead die decide a hold with cause HOLD_REQ 7 cy later, and 2,250 cy after its Update-IR the
cells take the lands: every trained port loses lock. While it is current the cause HOLD_REQ stays active (R506). -/
def Sys2Proof.Claim.ExtestHolds : Prop :=
  ∀ (s : State), TapRuns s → s.awake = true → s.deadDies.contains s.bell.lead = false →
    (∀ p ∈ [(Instr.extest, 4), (.extestPulse, 5), (.extestTrain, 6)], ∃ t, exec p.1 s = .next t ∧ Holds s t s.bell.lead 4 7 ∧
      t.pkg = { s.pkg with ir := p.2, extest := some s.now, cells := false, dr := s.pkg.bsr, irCap := 1 } ∧ bitAt t.activeCauses 2 = true) ∧
    (s.pkg.extest = none → exec .cellsTakeLands s = .next s) ∧
    (∀ c, s.pkg.extest = some c → s.pkg.cells = false → ∃ t, exec .cellsTakeLands s = .next t ∧ t.now = max s.now (c + 2250) ∧
      t.pkg = { s.pkg with cells := true } ∧ ∀ p, p < 16 → (t.wport p).state ≠ 2 ∧ (t.wport p).state ≠ 3)

/-- The scan chain has 2,611 cells, each at exactly one bit: the module sideband at bits 0 to 17, then the DDR5 channels, the host-die groups
and the Weago ports. The lands of a port's lanes, of a DDR5 channel's block and of the module sideband lie in their own groups of the land
grid (R494 to R498, R507, Tables PKG.3, PKG.4, PKG.7). -/
def Sys2Proof.Claim.LandsAndCells : Prop :=
  (∀ b, (scanCell b).isSome = decide (b < 2611)) ∧ (∀ a b c, scanCell a = some c → scanCell b = some c → a = b) ∧
    (∀ b, b < 2611 → ((∃ n, scanCell b = some (.sideband n)) ↔ b < 18)) ∧
    (∀ ch k, ch < 12 → k < 152 → scanCell (18 + 164 * ch + k) = some (.ddrSignal ch k)) ∧
    (∀ p l neg, p < 16 → l < 8 → scanCell (2211 + 25 * p) = some (.weagoControl p) ∧ scanCell (2212 + 25 * p + l) = some (.weagoTx p l) ∧
      scanCell (2220 + 25 * p + 2 * l + b2n neg) = some (.weagoRx p l neg)) ∧
    (∀ p l, p < 16 → l < 8 → ∀ x ∈ [(weagoTx p l).1, (weagoTx p l).2, (weagoRx p l).1, (weagoRx p l).2], landGroup x.1 x.2 = .weago p) ∧
    (∀ ch c l, ch < 12 → c < 12 → l < 24 → landGroup ((ddrBlock ch).1 + c) ((ddrBlock ch).2 + l) = .ddr5 ch) ∧
    ∀ x ∈ sidebandLands, landGroup x.2.1 x.2.2 = .moduleSideband

/-! ## Where each command completes: one effect of each, under conditions on the state and the operands alone -/
namespace Sys2Proof.Claim

/-- The command answers a next state that is as `P` says. -/
def Ends (c : Instr) (s : State) (P : State → Prop) : Prop := ∃ t, exec c s = .next t ∧ P t

/-- The order `o`, which stands among the orders started, completes with this status, incident and result. -/
def EndsOrder (c : Instr) (s : State) (o : Order) (status inc result : Nat) : Prop :=
  ∃ (t : State) (detail : Nat), exec c s = .next (t.complete o.id status inc result detail) ∧ (t.findOrder o.id).isSome = true

/-- The stall takes its next word and goes on, with stall effect as `P` says, whatever the word does outside the stalls. -/
def Moves (s : State) (sid : StallId) (c : Instr) (P : Stall → Prop) : Prop := ∃ b u, RunsWith s b sid c u ∧ P u

end Sys2Proof.Claim

/-- The words of the price board, the scales, tile configuration, porter, tallies, reckoning units and ledger issue and go on (Tables
STL.8, STL.11, STL.12, PRT.1, TLY.3, TLY.6, LDG.6). -/
def Sys2Proof.Claim.LaterWordsComplete : Prop :=
  ∀ (s : State) (sid : StallId), let t := s.stall sid.num
    let p := s.port sid.num
    (∀ f : FmtV, let c := t.scale f.qd.toNat
      (f.lane.toNat < 12 → vUnused f true false false false false true = false → t.vReady (quadRegs f.qa.toNat) = true →
        t.vFree (quadRegs f.qd.toNat) = true → t.pbNext ≤ issueCy s sid →
        (t.slotLoading f.lane.toNat = false → Issues s sid (f.word 0x12#6 0x00#6) →
          Moves s sid (.pbF sid f) fun u => u.ops.length = t.ops.length + 1) ∧
        (Issues s sid (f.word 0x12#6 0x01#6) → Moves s sid (.pbD sid f) fun u => u.ops.length = t.ops.length + 1)) ∧
      (let off := (t.sreg f.qa.toNat).toNat % 2 ^ 18
       Issues s sid (f.word 0x12#6 0x02#6) → noneWaits s sid [f.qa.toNat] → vUnused f true false false false false true = false → f.qd = 0#5 →
        12 ≤ f.lane.toNat → off % 64 = 0 → off + 3136 ≤ 196608 → t.ops = [] →
        (userSlotOf (s.bytes (stockAddr sid.num off) 3136)).isSome = true → Moves s sid (.pbLd sid f) fun u => u.ops.length = 1) ∧
      (t.scaleQuiet c = true → vUnused f false false false false false false = false →
        (Issues s sid (f.word 0x14#6 0x00#6) → Moves s sid (.sclAtt sid f) fun u => (u.scale f.qd.toNat).amax = c.amax) ∧
        (Issues s sid (f.word 0x14#6 0x02#6) →
          Moves s sid (.sclRoll sid f) fun u => (u.scale f.qd.toNat).prev = c.amax ∧ (u.scale f.qd.toNat).amax = 0#32) ∧
        (Issues s sid (f.word 0x14#6 0x03#6) → Moves s sid (.sclClr sid f) fun u => (u.scale f.qd.toNat).prev = 0#32)) ∧
      (t.scaleQuiet c = true → noneWaits s sid [f.qa.toNat] → vUnused f true false false false false false = false →
        (Issues s sid (f.word 0x14#6 0x01#6) → f.qa ≠ 0#5 →
          Moves s sid (.sclRd sid f) fun u => u.sreg f.qa.toNat = BitVec.ofNat 64 (c.prev.toNat * 2 ^ 32 + c.amax.toNat))) ∧
      (t.scaleQuiet c = true → noneWaits s sid [f.qa.toNat] → vUnused f true false true false false false = false →
        Issues s sid (f.word 0x14#6 0x04#6) → (Fmt.ofCode f.qc.toNat).isSome = true → Moves s sid (.sclProp sid f) fun u => u.v = t.v)) ∧
    (∀ f : FmtTcSet, Issues s sid (f.word 0x18#6 0x00#6) → noneWaits s sid [f.sa.toNat, f.sb.toNat] → f.rsv = 0#38 →
      t.sreg f.sa.toNat = 0#64 → t.sreg f.sb.toNat = 0#64 → t.ops = [] → Moves s sid (.tcSet sid f) fun u => u.tcReg f.t.toNat = 0#128) ∧
    (∀ f : FmtTcGet, Issues s sid (f.word 0x18#6 0x01#6) → noneWaits s sid [f.sd.toNat] → f.rsv = 0#42 →
      Moves s sid (.tcGet sid f) fun u => u.tc = t.tc) ∧
    (∀ f : FmtPrtGo, Issues s sid (f.word 0x20#6 0x00#6) → f.rsv = 0#40 → noneWaits s sid [f.sd.toNat] → t.vReady [f.va.toNat] = true →
      p.freeSlot.isSome = true → lowestCode (descCauses s sid.num (descOf (t.vreg f.va.toNat))) = none →
      Ends (.prtGo sid f) s fun b => ((b.port sid.num).slot (p.freeSlot.getD 0)).state = .running) ∧
    (∀ f : FmtPrtKill, Issues s sid (f.word 0x20#6 0x01#6) → f.rsv = 0#49 → (p.slot f.slot.toNat).state = .running →
      Ends (.prtKill sid f) s fun b => ((b.port sid.num).slot f.slot.toNat).state ≠ .running) ∧
    (∀ f : FmtPrtStat, Issues s sid (f.word 0x20#6 0x02#6) → f.rsv4 = 0#4 → f.rsv = 0#40 → noneWaits s sid [f.sd.toNat] →
      Moves s sid (.prtStat sid f) fun u => u.v = t.v) ∧
    (∀ f : FmtPrtDrain, Issues s sid (f.word 0x20#6 0x03#6) → f.rsv = 0#52 → p.allFree = true → Moves s sid (.prtDrain sid f) fun u => u = t) ∧
    (∀ f : FmtTSet, Issues s sid (f.word 0x21#6 0x00#6) → noneWaits s sid [f.sa.toNat] → f.rsv = 0#40 → f.gc = 1#1 →
      Moves s sid (.tlySet sid f) fun u => u.gate f.t.toNat = (t.sreg f.sa.toNat).toNat % 2 ^ 32) ∧
    (∀ f : FmtTAdd, Issues s sid (f.word 0x21#6 0x01#6) → f.rsv = 0#30 →
      Ends (.tlyAdd sid f) s fun b => (b.port sid.num).pend = p.pend ++ [(issueCy s sid, .add f.t.toNat f.amt.toInt)]) ∧
    (∀ f : FmtTSig, Issues s sid (f.word 0x21#6 0x02#6) → noneWaits s sid [f.sa.toNat] → f.rsv = 0#30 → f.ord = 0#1 →
      let id := (t.sreg f.sa.toNat).toNat
      tallyIdBad id = false → bitAt id 41 = true → neighbourDir sid.num (bitsAt id 6 17) = none →
      Ends (.tlySig sid f) s fun b => b.sigs.length = s.sigs.length + 1) ∧
    (∀ f : FmtTWait, Issues s sid (f.word 0x21#6 0x03#6) → noneWaits s sid [f.sd.toNat] → f.rsv = 0#25 →
      (p.tally f.t.toNat).orph = false → t.gate f.t.toNat ≤ (p.tally f.t.toNat).value →
      Moves s sid (.tlyWait sid f) fun u => u.gate f.t.toNat = (t.gate f.t.toNat + f.inc.toNat) % 2 ^ 32) ∧
    (∀ f : FmtTWaitV, Issues s sid (f.word 0x21#6 0x04#6) → noneWaits s sid [f.sd.toNat, f.sb.toNat] → f.rsv = 0#36 →
      (p.tally f.t.toNat).ra = false → (p.tally f.t.toNat).orph = false → (t.sreg f.sb.toNat).toNat % 2 ^ 32 ≤ (p.tally f.t.toNat).value →
      Moves s sid (.tlyWaitv sid f) fun u => u.sreg f.sd.toNat = 0#64) ∧
    (∀ f : FmtTTake, Issues s sid (f.word 0x21#6 0x05#6) → noneWaits s sid [f.sd.toNat] → f.rsv = 0#25 → f.amt ≠ 0#16 →
      (p.tally f.t.toNat).mode = true → (p.tally f.t.toNat).orph = false → f.amt.toNat ≤ (p.tally f.t.toNat).value →
      Ends (.tlyTake sid f) s fun b => (b.port sid.num).pend = p.pend ++ [(issueCy s sid, .add f.t.toNat (-(f.amt.toNat : Int)))]) ∧
    (∀ f : FmtTReg, noneWaits s sid [f.s.toNat] → f.rsv = 0#41 →
      (Issues s sid (f.word 0x21#6 0x06#6) → f.s ≠ 0#5 →
        Moves s sid (.tlyRd sid f) fun u => u.sreg f.s.toNat = BitVec.ofNat 64 ((p.tally f.t.toNat).word (t.occ.getD 0))) ∧
      (Issues s sid (f.word 0x21#6 0x07#6) → (t.sreg f.s.toNat).toNat < 1024 → (t.sreg f.s.toNat).toNat % 4 ≠ 3 →
        (s.ctx ((t.sreg f.s.toNat).toNat / 4 % 64)).state ≠ .free →
        Ends (.tlyCfg sid f) s fun b => (b.port sid.num).pend = p.pend ++ [(issueCy s sid, .cfg f.t.toNat (t.sreg f.s.toNat).toNat)])) ∧
    (∀ f : FmtRck, f.rsv = 0#44 → noneWaits s sid [f.s.toNat] → let x := p.binding f.b.toNat
      (Issues s sid (f.word 0x22#6 0x00#6) → rckIdBad (t.sreg f.s.toNat).toNat = false →
        Ends (.rckBind sid f) s fun b => ((b.port sid.num).binding f.b.toNat).valid = true) ∧
      (x.valid = true → x.cpl < 4 → x.lgen < 4 →
        (Issues s sid (f.word 0x22#6 0x01#6) → s.rckModule x.id = s.mod.id →
          Ends (.rckArr sid f) s fun b => b.arrivals.length = s.arrivals.length + 1) ∧
        (Issues s sid (f.word 0x22#6 0x02#6) → genDone x → x.orph = false → Moves s sid (.rckWait sid f) fun u => u.sreg f.s.toNat = 0#64) ∧
        (Issues s sid (f.word 0x22#6 0x03#6) → p.aw ≠ some t.pc → s.rckModule x.id = s.mod.id →
          Ends (.rckAw sid f) s fun b => b.arrivals.length = s.arrivals.length + 1 ∧ (b.stall sid.num).pc = t.pc))) ∧
    (∀ f : FmtRckCfg, f.rsv = 0#32 → noneWaits s sid [f.sa.toNat, f.sb.toNat, f.sc.toNat, f.sd.toNat] → Issues s sid (f.word 0x22#6 0x04#6) →
      rckIdBad (t.sreg f.sa.toNat).toNat = false → f.sd ≠ 0#5 → Moves s sid (.rckCfg sid f) fun u => u.sreg f.sd.toNat =
        BitVec.ofNat 64 (s.rckCfgStatus (t.occ.getD 0) (t.sreg f.sa.toNat).toNat (t.sreg f.sb.toNat).toNat (t.sreg f.sc.toNat).toNat)) ∧
    (∀ f : FmtAlloc, Issues s sid (f.word 0x24#6 0x00#6) → f.rsv = 0#25 → noneWaits s sid [f.sd.toNat, f.sa.toNat, f.sb.toNat] →
      Moves s sid (.alloc sid f) fun u => u.v = t.v) ∧
    (∀ f : FmtFree, Issues s sid (f.word 0x24#6 0x01#6) → f.rsv = 0#36 → noneWaits s sid [f.sd.toNat, f.sa.toNat, f.sb.toNat] →
      Moves s sid (.free sid f) fun u => u.v = t.v) ∧
    (∀ f : FmtHint, Issues s sid (f.word 0x24#6 0x02#6) → f.rsv = 0#26 → noneWaits s sid [f.sd.toNat, f.sa.toNat, f.sb.toNat] →
      Moves s sid (.hint sid f) fun u => u.v = t.v)

/-- The commands that end what words began, in stalls, porters and units, complete (R96, R155 to R157, R172 to R181, R192, R211 to R213). -/
def Sys2Proof.Claim.UnitEventsComplete : Prop :=
  (∀ (s : State) (die : Fin 16) (q : Square) (w last fmt : Nat) (f : FmtM), s.bell.held = false → s.heldDies.contains q.die = false →
    s.bell.symbols = [] → s.squareAt die.val q.x0 q.y0 = some q → q.die = die.val → isOrigin q.x0 q.y0 = true → q.stop = none →
    (∀ k ∈ q.stalls, (s.stall k).status = .running ∧ (s.stall k).ready = some (w, last)) → fmt < 8 →
    f.word (BitVec.ofNat 4 fmt) = BitVec.ofNat 64 w →
    (∀ k ∈ q.stalls, [(s.stall k).tcReg f.tca.toNat, (s.stall k).tcReg f.tcw.toNat, (s.stall k).tcReg f.tcd.toNat] =
      [(s.stall (q.at_ 0 0)).tcReg f.tca.toNat, (s.stall (q.at_ 0 0)).tcReg f.tcw.toNat, (s.stall (q.at_ 0 0)).tcReg f.tcd.toNat]) →
    Ends (.squareGo die q.x0 q.y0) s fun t => ∀ k ∈ q.stalls, (t.stall k).ready = none ∧ (t.stall k).pc = (s.stall k).pc + 8) ∧
  (∀ (s : State) (die : Fin 16) (q : Square) (k0 c cy : Nat), s.squareAt die.val q.x0 q.y0 = some q → isOrigin q.x0 q.y0 = true →
    q.stop = none → s.squareGoCy q = none → k0 ∈ q.stalls → (s.stall k0).status = .stopped c cy →
    (∀ k ∈ q.stalls, k ≠ k0 → (s.stall k).status = .running) →
    Ends (.squareMemberStop die q.x0 q.y0) s fun t => ∀ k ∈ q.stalls, k ≠ k0 → (t.stall k).status = .stopped 0x030A (max s.now (cy + 12))) ∧
  (∀ (s : State) (sid : StallId) (seq due pc slot off : Nat) (u : UserSlot), (s.stall sid.num).ops = [⟨seq, due, pc, .pbld slot off⟩] →
    userSlotOf (s.bytes (stockAddr sid.num off) 3136) = some u →
    Ends (.pbLdComplete sid .none) s fun t => (t.stall sid.num).ops = [] ∧ tfind (t.stall sid.num).user slot = some u) ∧
  (∀ (s : State) (sid : StallId) (seq due pc qd : Nat) (regs : List (Nat × Line)) (lanes : List Word32),
    (s.stall sid.num).ops = [⟨seq, due, pc, .pb regs qd lanes⟩] → Ends (.priceBoardResult sid) s fun t => (t.stall sid.num).ops = []) ∧
  (∀ (s : State) (sid : StallId) (i : Nat) (d : Desc) (c : Piece) (a : Nat), s.porterRuns sid.num = true →
    (∀ j, j < 8 → s.orphanFlow sid.num j = false) → i < 8 → (∀ j, j < 8 → j ≠ i → s.eligible sid.num j = none) →
    s.eligible sid.num i = some (d, c, a) → Ends (.porterRequest sid) s fun t => t.reqs.length = s.reqs.length + 1) ∧
  (∀ (s : State) (sid : StallId) (id code : Nat) (r : Req), s.findReq sid.num id = some r → r.stage = .err code →
    (r.wdata.isNone = true → s.arriveRoom r = true) → r.goSeq = ((s.port sid.num).slot r.slot).goSeq →
    ((s.port sid.num).slot r.slot).state = .running → (s.stall sid.num).status = .running →
    (r.wdata = none → Ends (.porterLineArrival sid id .none .none) s fun t => ((t.port sid.num).slot r.slot).faulted = true) ∧
    (r.wdata.isSome = true → Ends (.porterWriteAck sid id .none) s fun t => ((t.port sid.num).slot r.slot).faulted = true)) ∧
  (∀ (s : State) (sid : StallId) (d : Deliv) (rest : List Deliv), (s.port sid.num).deliv = d :: rest → d.reg < 128 →
    (s.stall sid.num).regBusy d.reg = false → Ends (.registerDelivery sid) s fun t =>
      (t.stall sid.num).vreg d.reg = d.data ∧ (t.port sid.num).deliv = rest) ∧
  (∀ (s : State) (sid : StallId) (dir : Fin 4) (f : Flit) (n id : Nat), s.nextFlit sid.num dir.val = some f →
    neighbour sid.num dir.val = some n → f.load = .sig id → Ends (.meshFlit sid dir .none) s fun t => t.flits = eraseFlit f s.flits) ∧
  (∀ (s : State) (sid : StallId) (g : Sig), s.sigs = [g] → (s.port sid.num).pend = [] → s.forwarded g = sid.num → g.arrived = true →
    s.sigLands sid.num g = true → g.tally ≠ 63 → Ends (.tallySignalApply sid [g.id]) s fun t =>
      (t.port sid.num).tally g.tally = (((s.port sid.num).tally g.tally).apply [g.amt]).tally) ∧
  (∀ (s : State) (a : Arrival), s.arrivals = [a] → let x := s.unit a.unit
    s.unitHere a.unit = true → x.assigned = true → x.orph = false → a.ctxField = x.owner → a.child = none → a.fromModule = s.mod.id →
    a.tag < 4 → x.gen < 4 → x.pending = false → x.kids = [] → x.kidsNext = [] → x.mods = [] → a.tag = x.gen → x.arrived + 1 < x.n →
    Ends (.rckArrival a.unit [a.id]) s fun t => (t.unit a.unit).arrived = x.arrived + 1) ∧
  (∀ (s : State) (b : Broadcast), s.casts = [b] → Ends (.rckCompletion b.id) s fun t => t.casts = []) ∧
  (∀ (s : State) (a : Answer), s.answers = [a] → let x := s.unit a.child
    x.pending = true → x.pen = true → x.gen = a.gen → x.gen < 4 → x.kids = [] → x.mods = [] → x.parked < x.n →
    Ends (.rckParentAnswer a.id) s fun t => (t.unit a.child).gen = (x.gen + 1) % 4)

/-- The commands of memory, ledger and dray complete (R224 to R251, R261 to R283). -/
def Sys2Proof.Claim.MemoryEventsComplete : Prop :=
  (∀ (s : State) (sid : StallId) (i : Fin 8) (d : Desc), (∀ r ∈ s.reqs, r.sid ≠ sid.num) → let q := (s.port sid.num).slot i.val
    q.state = .running → q.allIssued = false → q.desc = some d → (s.stall sid.num).status = .running →
    let ctx := (s.stall sid.num).occ.getD 0
    let va := (d.piece q.run q.line).va
    ∀ a ea e, s.translate ctx va false false = .ok a ea e →
      Ends (.translate sid i .none) s fun t => t.tabWord ea = e ∧ xhit (t.port sid.num).xcache ctx va = true) ∧
  (∀ (s : State) (die : Fin 16) (row : Nat) (r : Req), s.reqs = [r] → r.stage = .spine → dieOf r.sid = die.val → rowOf r.sid = row →
    Ends (.spineAccept die row) s fun t => t.reqs = [{ r with stage := .port }]) ∧
  (∀ (s : State) (die : Fin 16) (slice : Fin 32) (r : Req) (q : Nat) (w : Bool × List Nat), s.reqs = [r] → r.stage = .port →
    dieOf r.sid = die.val → rowOf r.sid < 160 → s.physBad r.addr = false → s.way r = some w → s.queueAt r die.val = (slice.val, q) → q < 17 →
    Ends (.depotAdmit die slice) s fun t => t.reqs = [{ r with stage := .queue die.val slice.val q }]) ∧
  (∀ (s : State) (die : Fin 16) (slice : Fin 32) (bank : Fin 16) (r : Req) (rest : List Req), Memory.wf s.mem = true →
    s.inQueue die.val slice.val bank.val = r :: rest → Ends (.depotBankAccess die slice bank .none) s fun t => Served s t r) ∧
  (∀ (s : State) (die : Fin 16) (slice : Fin 32) (r : Req), Memory.wf s.mem = true → s.inQueue die.val slice.val 16 = [] →
    s.inTracker die.val slice.val = [r] → Ends (.hbmAccess die slice r.seq .none) s fun t => Served s t r) ∧
  (∀ (s : State) (die : Fin 16) (slice : Fin 32) (r : Req) (rest : List Req), Memory.wf s.mem = true →
    s.inQueue die.val slice.val 18 = r :: rest → s.fenced ((r.addr % 2 ^ 46 - stockWin) / 0x40000) = false →
    Ends (.stockWindowRelay die slice .none) s fun t => Served s t r) ∧
  (∀ (s : State) (die : Fin 16) (slice : Fin 32) (r : Req) (rest : List Req), s.inQueue die.val slice.val 17 = r :: rest → r.route = [] →
    s.target r.addr = .host → s.failedLinks.contains (256 + die.val) = false → s.failing.contains (256 + die.val) = false →
    Ends (.edgeForward die slice) s fun t => t.reqs = s.reqs.map fun x =>
      if x.seq = r.seq then { r with left := some (r.left.getD s.now), stage := .host s.now } else x) ∧
  (∀ (s : State) (link : Nat), 2 ≤ s.mod.state → Ends (.ucieLinkFailed link) s fun t => link ∈ t.failing) ∧
  (∀ (s : State) (r : Req) (c : Nat), s.reqs = [r] → s.target r.addr = .host → r.left = some c → r.answered = false →
    Ends (.ddrTimeout r.seq) s fun t => t.reqs = [{ r with stage := .err 0x0608 }]) ∧
  (∀ (s : State) (a b : Fin 16), Ends (.ctl a b) s fun t => t = s) ∧
  (∀ (s : State) (die : Fin 16), s.deadDies.contains die.val = false → Ends (.dieMemPeakClr die) s fun t =>
    t.dmem die.val = { s.dmem die.val with hbmPeak := 0, peakDepth := 0, peakSlice := 0, peakQueue := 0 }) ∧
  (∀ (s : State) (c : Crate) (die a e u pd : Nat) (t0 : State), Memory.wf s.mem = true →
    s.ledger.demands.find? (fun d => d.1.ctx = c.ctx && d.1.va = c.va) = some (c, die) → s.leafOf c = some (a, e) → eTier e = 0 →
    s.bell.held = false → s.placeOf c = (2, pd) → s.takeUnits 2 pd (crateUnits c.big) = some (t0, u) →
    Ends (.drayPlace c.ctx c.va) s fun t =>
      t.tabWord a = mkLeaf (ePol e) (eW e) (eShr e) (eMove e) (eA e) (eD e) ⟨2, depotBase + u * 65536, s.mod.id⟩) ∧
  (∀ (s : State) (tier : Nat) (c : Crate) (a l : Nat), (tier = 2 ∨ tier = 3) → s.bell.held = false →
    (s.tierRoom tier).2 * 100 < bitsAt s.ldgPolicy 0 8 * (s.tierRoom tier).1 →
    ((s.tierRoom tier).2 + s.freeingUnits tier) * 100 < bitsAt s.ldgPolicy 8 8 * (s.tierRoom tier).1 →
    s.candidate tier 16 = some (c, a) → s.lowerTier tier c.big = some l →
    Ends (.drayEvict tier) s fun t => t.ledger.moves.length = s.ledger.moves.length + 1) ∧
  (∀ (s : State) (c : Crate) (die a e u : Nat) (t0 : State) (h b l : List Byte) (v : Nat), s.bell.held = false →
    s.ledger.demands.find? (fun d => d.1.ctx = c.ctx && d.1.va = c.va) = some (c, die) → s.leafOf c = some (a, e) → eTier e = 4 →
    h.length = 64 → b.length = crateBytes c.big → s.takeUnits 3 0 (crateUnits c.big) = some (t0, u) →
    s.openImage c c.ctx s.mod.id (s.shadow c) true h b = .body v l →
    Ends (.drayImport c.ctx c.va (.bytes h) (.bytes b)) s fun t =>
      t.tabWord a = mkLeaf (ePol e) (eW e) (eShr e) (eMove e) (eA e) (eD e) ⟨3, s.hbmUnitAddr u, s.mod.id⟩) ∧
  (∀ (s : State) (m : Move), Memory.wf s.mem = true →
    s.ledger.moves.find? (fun x => x.crate.ctx = m.crate.ctx && x.crate.va = m.crate.va && x.phase = .moving) = some m →
    m.isExport = false → (m.src.tier = 2 ∨ m.src.tier = 3) → m.dst.tier = 2 → s.bell.held = false →
    (s.reqs.any fun r => m.fence.contains r.seq) = false →
    (∀ b ∈ s.crateBlocks m.src m.crate.big, s.lineCode m.engine (m.src.module * 2 ^ 46 + b) = 0) → ∀ h,
    Ends (.moveCopy m.crate.ctx m.crate.va h []) s fun t => ∃ x ∈ t.ledger.moves, x.crate = m.crate ∧ x.phase = .copied) ∧
  (∀ (s : State) (i : Nat) (d : Drain), s.ledger.drains[i]? = some d → (s.reqs.any fun r => d.fence.contains r.seq) = false →
    d.store.tier = 2 → Ends (.storageDrain i) s fun t => t.ledger.drains = s.ledger.drains.eraseIdx i)

/-- The commands of messages, of lending and of the hall complete (10_weago.md R331 to R350). -/
def Sys2Proof.Claim.MessagesComplete : Prop :=
  ∀ (s : State) (p : Fin 16) (m : Msg),
    (∀ (cls : Fin 4) (q : Nat), s.headMsg p.val cls.val = some m → m.dest ≠ s.mod.id → m.cls ≠ 3 → m.hops ≠ 15 →
      (s.takeMsg p.val cls.val).egress m.hop = some q →
      Ends (.forward p cls) s fun t => t = (s.takeMsg p.val cls.val).queueMsg q m.hop) ∧
    (Gets s p.val 0 m → let s1 := s.takeMsg p.val 0
      let c := m.crate
      (m.ty = 6 → s.inHall m.src = true → namesStall (bitsAt m.addr 6 17) = true →
        Ends (.tsig p) s fun t => t.sigs.length = s.sigs.length + 1) ∧
      (m.ty = 7 → s.inHall m.src = true → Ends (.rarr p) s fun t => t.arrivals.length = s.arrivals.length + 1) ∧
      (m.ty = 8 → s.inHall m.src = true → Ends (.rcpl p) s fun t => t.casts.length = s.casts.length + 1) ∧
      ((∀ i, i < m.lines → s.lent m.src (m.addr + 64 * i) = true) → s.inHall m.src = true → Memory.wf s.mem = true →
        (∀ i, i < m.lines → s1.lineCode p.val (s.mod.id * 2 ^ 46 + (m.addr + 64 * i)) = 0) →
        (m.ty = 1 → Ends (.wgoRd p []) s fun t => t = s1.sendMsg (mkMsg 3 1 m.lines 0 m.src s.mod.id m.ctx m.tag m.addr none
          ((upFrom 0 m.lines).map fun i => s.line (m.addr + 64 * i)))) ∧
        (m.ty = 2 → Ends (.wgoWr p []) s fun t => ∀ (i : Nat) (l : Line), m.data[i]? = some l → t.line (m.addr + 64 * i) = l)) ∧
      (m.ty = 9 →
        (m.crateOp = 1 → s.inHall m.src = true → s.lentUnits + crateUnits c.big ≤ s.liveReg 0 0x13024 → ∀ t0 i,
          s1.takeUnits 3 0 (crateUnits c.big) = some (t0, i) →
          Ends (.roomReq p) s fun t => t.ledger.hbmUsed = s.ledger.hbmUsed ++ [⟨i, crateUnits c.big⟩]) ∧
        (∀ x, m.crateOp = 11 → s.inHall m.src = true → s.fab.grants.find? (fun g => g.home = m.src && g.addr = m.arg) = some x →
          Ends (.roomFree p) s fun t => t.ledger.drains.length = s.ledger.drains.length + 1) ∧
        (s.fab.inbox = [] →
          (m.crateOp = 4 → Ends (.put p) s fun t => t.fab.inbox.length = 1) ∧
          (m.crateOp = 9 → s.inHall m.src = true → Ends (.returnImage p) s fun t => t.fab.inbox.length = 1)) ∧
        (∀ g h b v l, m.crateOp = 5 → s.fab.grants.find? (fun x => x.home = m.src && x.ctx = c.ctx && x.va = c.va && !x.opened) = some g →
          (s1.gotImage m).2 = some (h, b) → s.openImage c c.ctx m.src 0 false h b = .body v l →
          Ends (.putDone p) s fun t => t.mem = (s.crateWrite ⟨3, g.addr, s.mod.id⟩ c.big l).mem) ∧
        (∀ g, m.crateOp = 8 → s.inHall m.src = true →
          s.fab.grants.find? (fun x => x.home = m.src && x.ctx = c.ctx && x.va = c.va && x.opened) = some g →
          (∀ b ∈ s1.crateBlocks ⟨3, g.addr, s.mod.id⟩ c.big, s1.lineCode p.val (s.mod.id * 2 ^ 46 + b) = 0) →
          Ends (.fetch p []) s fun t => t = s1.sendReqs (imageMsgs 9 m.src s.mod.id m.ctx c
            (s.sealImage m.arg m.src c (s.crateRead ⟨3, g.addr, s.mod.id⟩ c.big)) ++ [crateMsg 10 m.src s.mod.id m.ctx c 0])) ∧
        (∀ x, x.peer = m.src → x.order = none → x.crate = c →
          (s.inHall m.src = true → s.exchange c = some x → ∀ a e, s.leafOf c = some (a, e) → eTier e ≠ 0 →
            (m.crateOp = 2 → x.phase = 0 → Ends (.roomGrant p) s fun t => { x with phase := 1, addr := m.arg } ∈ t.fab.exchanges) ∧
            (m.crateOp = 3 → s.ledger.moves.find? (fun y => y.crate = c && y.evict && y.phase = .asked) = none →
              Ends (.roomDeny p) s fun t => m.src ∈ t.ledger.denied)) ∧
          (s.imageSent c m.src = some x → ∀ y, s.ledger.moves.find? (fun y => y.crate = c && !y.isExport && y.phase = .moving) = some y →
            (m.crateOp = 6 → Ends (.opened p) s fun t => { y with phase := .copied, since := s.now } ∈ t.ledger.moves) ∧
            (m.crateOp = 7 → Ends (.refused p) s fun t => { y with phase := .failed, since := s.now } ∈ t.ledger.moves))) ∧
        (∀ y h b v l, m.crateOp = 10 → s.inHall m.src = true →
          s.ledger.moves.find? (fun y => y.crate = c && y.phase = .moving && y.src.tier = 6 && y.src.module = m.src) = some y →
          (s1.gotImage m).2 = some (h, b) → y.isExport = false → y.dst.tier ≠ 4 → s.openImage c c.ctx s.mod.id y.version true h b = .body v l →
          Ends (.returnDone p) s fun t => t.mem = (s.crateWrite y.dst c.big l).mem))) ∧
    (Gets s p.val 1 m → s.fab.held = [] →
      (∀ r, s.remoteOf m = some r →
        (m.ty = 3 → Ends (.wgoRdr p) s fun t => t.fab.remotes = s.fab.remotes.filter fun x => x.tag ≠ r.tag) ∧
        (m.ty = 4 → Ends (.wgoWra p) s fun t => t.fab.remotes = s.fab.remotes.filter fun x => x.tag ≠ r.tag) ∧
        (m.ty = 5 → Ends (.wgoErr p) s fun t => t.fab.remotes = s.fab.remotes.filter fun x => x.tag ≠ r.tag)) ∧
      (m.ty = 10 → s.sets = [] → s.sentOf m.tag = none → s.fab.remotes = [] →
        Ends (.noroute p) s fun t => (m.addr % 2 ^ 18, 0) ∈ t.fab.badPaths)) ∧
    (∀ (r : Remote) (c : Nat), s.fab.remotes = [r] → s.fab.held = [] → r.sent = some c →
      Ends (.remoteTimeout r.tag) s fun t => t.fab.remotes = [] ∧ t.fab.timeouts = satInc s.fab.timeouts)

/-- The commands of a link complete: training, blocks, lanes, keys, owners and time sync (10_weago.md R315 to R330, R351 to R355). -/
def Sys2Proof.Claim.LinkEventsComplete : Prop :=
  ∀ (s : State) (p : Fin 16) (m : Msg), let w := s.wport p.val
    (w.state = 0 → s.portEnabled p.val = true → ∀ l n, Ends (.portTraining p l n) s fun t => (t.wport p.val).state = 1) ∧
    (w.state = 1 → Ends (.trainingTimeout p) s fun t => (t.wport p.val).state = 4) ∧
    (w.state = 4 → s.portEnabled p.val = true → Ends (.downRetry p) s fun t => (t.wport p.val).state = 1) ∧
    ((w.state = 2 ∨ w.state = 3) → Ends (.retrain p) s fun t => (t.wport p.val).state = 1 ∧ (t.wport p.val).fresh = false) ∧
    (w.state ≠ 0 → s.portEnabled p.val = true → Ends (.portReset p) s fun t => (t.wport p.val).state = 1 ∧ (t.wport p.val).fresh = true) ∧
    (w.live = true → ∀ sub, Ends (.blockSend p sub) s fun t => (t.wport p.val).btx = w.btx + 1) ∧
    (w.live = true → ∀ sub fixed l, openBlock w.key (blockIv w.epoch (s.dirOf p.val false) w.brx) true l = .bad →
      Ends (.blockReceive p sub true fixed l) s fun t => (t.wport p.val).nak = true ∧ (t.wport p.val).brx = w.brx + 1) ∧
    (w.replay ≠ [] → w.live = true → tget w.rewinds 0 w.base + 1 < s.resendMax →
      Ends (.resendTimer p) s fun t => (t.wport p.val).next = w.base) ∧
    (∀ (lanes : BitVec 8) (ahead : Nat), (w.state = 2 ∨ w.state = 3) → Nat.lor lanes.toNat w.worn ≠ 0 →
      widthOf (Nat.land w.going (255 - Nat.lor lanes.toNat w.worn)) ≠ 0 →
      Ends (.laneLost p lanes ahead) s fun t => (t.wport p.val).state = 3 ∧ (t.wport p.val).worn = 0) ∧
    (∀ slot good, w.switch = some (slot, good) → w.state = 3 → slot ≤ w.btx →
      Ends (.widthSwitch p) s fun t => (t.wport p.val).state = 2 ∧ (t.wport p.val).epoch = w.epoch + 1) ∧
    (Gets s p.val 3 m →
      (m.ty = 12 → m.ext.toNat % 16 = 1 → w.state = 1 → w.step = 3 → bitsAt m.ext.toNat 4 18 ≠ s.mod.id →
        widthOf (Nat.land w.lanesOk (bitsAt m.ext.toNat 58 8)) ≠ 0 →
        Ends (.hello p true) s fun t => (t.wport p.val).step = 4 ∧ (t.wport p.val).peerId = bitsAt m.ext.toNat 4 18) ∧
      (m.ty = 12 → m.ext.toNat % 16 = 2 → (w.state = 2 ∨ w.state = 3) → widthOf (Nat.land w.going (255 - bitsAt m.ext.toNat 4 8)) ≠ 0 →
        Ends (.lanes p) s fun t => (t.wport p.val).state = 3) ∧
      (m.ty = 12 → m.ext.toNat % 16 = 3 → w.state = 1 → w.step = 4 → ∀ l, (((s.takeMsg p.val 3).wport p.val).takeItem m).2 = some l →
        (bitsAt m.ext.toNat 4 4 = 1 → Config.falconOk Config.vendorKey (l.take 1824) ((l.drop 1824).take 1280) = true →
          Ends (.cert p) s fun t => (t.wport p.val).certSeen = true) ∧
        (bitsAt m.ext.toNat 4 4 = 2 → s.lower p.val = false →
          (w.certSeen && Config.falconOk w.peerPub (s.linkT1 p.val (l.take 1568)) ((l.drop 1568).take 1280)) = true →
          Ends (.ekLink p true) s fun t => (t.wport p.val).keyed = true) ∧
        (bitsAt m.ext.toNat 4 4 = 3 → s.lower p.val = true →
          (w.certSeen && Config.falconOk w.peerPub (Config.shake 64 (s.linkT1 p.val w.ek ++ l.take 1568)) ((l.drop 1568).take 1280)) = true →
          Ends (.ctLink p) s fun t => (t.wport p.val).keyed = true)) ∧
      (m.ty = 12 → m.ext.toNat % 16 = 3 → bitsAt m.ext.toNat 4 4 = 5 → s.mod.session = true → w.state ≠ 1 →
        leBytes 12 (bitsAt m.ext.toNat 32 96) = s.ocBytes p.val (if s.lower p.val then 1 else 0) →
        Ends (.oc p) s fun t => (t.wport p.val).owned = true) ∧
      (m.ty = 11 → bitAt m.addr 8 = false → s.hallMode = true → s.inHall m.src = true →
        Ends (.tsyncRequest p) s fun t => (tget (t.wport p.val).tx [] 3).length = (tget w.tx [] 3).length + 1) ∧
      (∀ t1, m.ty = 11 → bitAt m.addr 8 = true → s.fab.sync.open_ = some (m.addr % 256, p.val, some t1) →
        Ends (.tsyncAnswer p) s fun t => t.fab.sync.open_ = none ∧ t.fab.sync.quiet = 0)) ∧
    (∀ q alt, s.hallMode = true → s.syncRoot = false → s.syncParent = some (q, alt) → s.fab.sync.started = none →
      Ends .syncExchange s fun t => t.fab.sync.exch = s.fab.sync.exch + 1) ∧
    (s.hallMode = true → s.syncRoot = false → 64 ≤ s.fab.sync.quiet → s.fab.sync.said = false →
      Ends .syncHoldover s fun t => t.fab.sync.said = true ∧ t.bell.locked = false)

/-- Every order completes, or is taken on until the bell or the unit that ends it (11_host_rings.md Table HST.9, 12_clerk_firmware.md
R395 to R410, 09_training.md R299 to R312). -/
def Sys2Proof.Claim.OrdersComplete : Prop :=
  ∀ (s : State) (ring op : Nat) (o : Order) (rest : List Order), Starts s ring op o rest →
    let b := begun s ring o rest
    let x := s.ctx o.ctx
    let a := orderArgs o
    (op = 0x00 → EndsOrder (.nopOrder ring) s o stDone 0 0) ∧
    (op = 0x01 → x.state = .free → (b.newTable o.ctx 4096).isSome = true → EndsOrder (.ctxCreate ring) s o stDone 0 0) ∧
    (op = 0x0A → x.state ≠ .free → bitAt (o.byte 37) 0 = false → s.unitHere (o.byte 36) = true → (s.unit (o.byte 36)).assigned = false →
      EndsOrder (.rckAssign ring) s o stDone 0 (o.byte 36)) ∧
    (x.state ≠ .free → x.ending = none →
      (op = 0x02 → Ends (.ctxKill ring) s fun t => (t.ctx o.ctx).ending = some (true, o.id)) ∧
      (op = 0x03 → x.state ≠ .saved → Ends (.ctxReset ring) s fun t => (t.ctx o.ctx).ending = some (false, o.id))) ∧
    (x.state ≠ .free →
      (op = 0x09 → EndsOrder (.ctxPolicy ring) s o stDone 0 0) ∧
      (op = 0x0B → s.unitHere (o.byte 36) = true → (s.unit (o.byte 36)).assigned = true → (s.unit (o.byte 36)).owner = o.ctx →
        (s.unit (o.byte 36)).mods = [] → EndsOrder (.rckRelease ring) s o stDone 0 0) ∧
      (op = 0x12 → ∀ q, s.squareAt (o.byte 36) (o.byte 37) (o.byte 38) = some q → q.ctx = o.ctx →
        Ends (.sqUnbind ring) s fun t => t.sqReqs.length = s.sqReqs.length + 1) ∧
      (op = 0x13 → EndsOrder (.sqQuery ring) s o stDone 0
        ((s.squares.filter fun q => q.ctx = o.ctx && q.die = o.byte 36).map fun q => 2 ^ (4 * (q.x0 / 16) + q.y0 / 16)).sum) ∧
      (op = 0x20 → (b.allocFn a).2 = 0 → EndsOrder (.allocOrder ring) s o stDone 0 0) ∧
      (op = 0x21 → (b.freeFn a).2 = 0 → EndsOrder (.freeOrder ring) s o stDone 0 0) ∧
      (¬ badRange a.va a.count a.big → a.count = 1 →
        ((∀ c ∈ a.crates, s.overlaps c = false) →
          (op = 0x22 → a.big = false → let k := o.arg 16 8 % 2 ^ 17
            namesStall k = true → s.fenced k = false → (s.stall k).occ = some o.ctx →
            stockAddr k (if bitAt (o.arg 16 8) 17 then 65536 else 0) ∉ s.lentStock →
            (b.mapCrates (mkLeaf a.pol a.w false false false false
              ⟨1, stockAddr k (if bitAt (o.arg 16 8) 17 then 65536 else 0), s.mod.id⟩) a.crates).isSome = true →
            EndsOrder (.lendStock ring) s o stDone 0 0) ∧
          (op = 0x23 → o.arg 16 8 % crateBytes a.big = 0 → ddrBase ≤ o.arg 16 8 → o.arg 16 8 + a.count * crateBytes a.big ≤ cfgBase →
            (b.mapCrate ⟨o.ctx, a.va, a.big⟩ (mkLeaf a.pol a.w false false false false ⟨5, o.arg 16 8, s.mod.id⟩)).isSome = true →
            EndsOrder (.publicMap ring) s o stDone 0 0) ∧
          (op = 0x24 → (s.ctx (o.arg 12 1 % 64)).state ≠ .free → ¬ badRange (o.arg 16 8) a.count a.big →
            (∀ c ∈ rangeCrates (o.arg 12 1 % 64) (o.arg 16 8) a.count a.big, (s.leafOf c).isNone = false) →
            (b.leafSlots a.crates).isSome = true → EndsOrder (.share ring) s o stDone 0 0)) ∧
        (op = 0x25 → (∀ c ∈ a.crates, (s.leafOf c).isNone = false) →
          Ends (.exportOrder ring) s fun t => t.ledger.moves.length = s.ledger.moves.length + a.crates.length) ∧
        (∀ img v l u, img.length = 64 + crateBytes a.big → op = 0x26 → ((s.leafOf ⟨o.ctx, a.va, a.big⟩).isNone = false ∨ s.overlaps ⟨o.ctx, a.va, a.big⟩ = false) →
          b.openImage ⟨o.ctx, a.va, a.big⟩ o.ctx 0x3FFFF s.ledger.ownerFloor true (img.take 64) (img.drop 64) = .body v l →
          b.importInto ⟨o.ctx, a.va, a.big⟩ a.pol a.w (some o.id) l = some u → (∀ m ∈ u.ledger.moves, m.order ≠ some o.id) →
          EndsOrder (.importOrder ring (.bytes img)) s o stDone 0 0) ∧
        (∀ img, img.length = 64 + crateBytes a.big → op = 0x27 → let m := o.arg 24 3 % 2 ^ 18
          s.sending m (!s.inHall m) ≠ .unreachable →
          Ends (.campusCopy ring (.bytes img)) s fun t => t.fab.exchanges.length = s.fab.exchanges.length + 1))) ∧
    (op = 0x0C → EndsOrder (.ctxQuery ring) s o stDone 0 (x.state.code + 256 * x.assign.length)) ∧
    ((x.state = .created ∨ x.state = .running) →
      (op = 0x04 → ∀ l, b.regionStalls o = .inr l → (l.filter fun k => !x.assign.contains k) = [] →
        (l.filter fun k => (s.stall k).occ ≠ some o.ctx) = [] → EndsOrder (.regionAssign ring) s o stDone 0 x.assign.length) ∧
      (op = 0x07 → Ends (.ctxSave ring) s fun t => (t.ctx o.ctx).save = some (some o.id)) ∧
      (op = 0x10 → Ends (.sqBind ring) s fun t => t.sqReqs.length = s.sqReqs.length + 1) ∧
      (op = 0x11 → Ends (.sqBindAny ring) s fun t => t.sqReqs.length = s.sqReqs.length + 1) ∧
      (op = 0x06 → let entries := (upFrom 0 (o.arg 0 2)).map (planEntry o)
        o.arg 0 2 ≠ 0 → o.arg 0 2 ≤ 16 → o.arg 2 6 = 0 → o.arg 16 48 = 0 → (∀ e, e < o.arg 0 2 → o.arg (64 + 32 * e + 5) 3 = 0) →
        (∀ q ∈ entries, q.ok = true) → (entries.flatMap PlanEntry.stalls).Nodup →
        (∀ k ∈ entries.flatMap PlanEntry.stalls, s.barred k = false ∧ (s.stall k).occ = some o.ctx ∧ s.planBusy k = false) →
        Ends (.planDispatch ring) s fun t => t.dispatches.length = s.dispatches.length + 1)) ∧
    (op = 0x05 → x.state = .created → EndsOrder (.regionRelease ring) s o stDone 0 0) ∧
    (op = 0x08 → x.state = .saved → (∀ i ∈ x.images, i.sqX = 0xFF → s.barred i.stall = false) →
      Ends (.ctxRestore ring) s fun t => (t.ctx o.ctx).restore = some o.id) ∧
    (op = 0x30 → b.gatherCheck o.ctx ⟨o.id, o.ctx, o.args, false, false, 0, []⟩ = none →
      Ends (.gather ring) s fun t => t.gathers.length = s.gathers.length + 1) ∧
    (op = 0x31 → ∀ host, Ends (.reduceBind ring host) s fun t => t.binds.length = s.binds.length + 1) ∧
    (op = 0x32 → ∀ y, s.findSet (o.inline 36 2) = some y → y.ctx = o.ctx → y.release = none →
      Ends (.reduceRelease ring) s fun t => ∃ z ∈ t.sets, z.setid = y.setid ∧ z.release = some o.id)

/-- The commands that carry orders on complete: loaders, reports, policy, saves and restores, gathers and reductions
(12_clerk_firmware.md R398 to R410, 09_training.md R299 to R312). -/
def Sys2Proof.Claim.ServicesComplete : Prop :=
  (∀ (s : State) (d : Dispatch) (e : Nat) (p : PlanEntry) (t : State) (l : List Byte), Memory.wf s.mem = true →
    s.dispatches.find? (fun x => x.order = d.order && !x.running) = some d → d.entries[e]? = some p → s.bell.held = false →
    d.loaded.contains e = false → (∀ i q, i < e → d.entries[i]? = some q → q.die = p.die → d.loaded.contains i = true) →
    (s.core p.die 0).state = 1 → ∀ host, s.loadImage d.ctx p.die [] host p.image (imagePieces p.image (p.len / 4096 + 2) p.len) [] = .ok t l →
    p.load + l.length ≤ stockBytes →
    Ends (.planLoaderWrite d.order e [] host) s fun u => ∀ k ∈ p.stalls, ∀ i, i < l.length → some (u.byte (stockAddr k (p.load + i))) = l[i]?) ∧
  (∀ (s : State) (sid : StallId) (code cy c : Nat), (s.stall sid.num).status = .stopped code cy → (s.stall sid.num).occ = some c →
    (s.core sid.die.val 0).state = 1 → (s.ctx c).state ≠ .free → (s.ctx c).state ≠ .faulted → (s.ctx c).cause = none →
    Ends (.stopReport sid) s fun t => (t.ctx c).cause = some (code, sid.num)) ∧
  (∀ s : State, (s.core s.bell.lead 1).state = 1 → Ends .policy s fun t => ∀ c ∈ s.quantumOut, (t.ctx c).save.isSome = true) ∧
  (∀ (s : State) (c : Fin 64), (s.ctx c.val).state = .saving → s.bell.held = false →
    (∀ k ∈ s.stallsOf c.val, s.drained k = true ∧ (s.core (dieOf k) 0).state = 1) →
    Ends (.saveComplete c) s fun t => (t.ctx c.val).state = .saved) ∧
  (∀ (s : State) (c : Fin 64), (s.ctx c.val).state = .restoring → s.bell.held = false → (s.ctx c.val).restored = false →
    (∀ i ∈ (s.ctx c.val).images, (s.core (dieOf i.stall) 0).state = 1) →
    Ends (.restoreComplete c) s fun t => (t.ctx c.val).restored = true) ∧
  (∀ (s : State) (g : Gather) (t : State) (acks : List (Nat × Nat)) host met written,
    s.gathers.find? (fun x => x.order = g.order && x.running && !x.finished) = some g → s.bell.held = false → (s.ctx g.ctx).state = .running →
    s.gatherLines g host met g.acks (upFrom g.next (g.length / 64 - g.next)) = .ok t acks → t.failedWrite acks = none → t.awaits acks = false →
    Ends (.gatherComplete g.order host met written) s fun u => ∀ x ∈ u.gathers, x.order = g.order → x.finished = true) ∧
  (∀ (s : State) (x : RSet), s.findSet x.setid = some x → s.setRuns x = true →
    (x.threshold x.nextStart ≤ x.fill → ∀ h m, Ends (.bucketStart x.setid h m) s fun t =>
      ∃ y, t.findSet x.setid = some y ∧ y.nextStart = x.nextStart + 1) ∧
    (∀ k, x.bucket x.nextDone = some k → s.failedWrite k.acks = none → x.linesOf k.num ≤ k.written.length → s.awaits k.acks = false →
      Ends (.bucketComplete x.setid) s fun t => ∃ y ∈ t.sets, y.setid = x.setid ∧ y.nextDone = x.nextDone + 1)) ∧
  (∀ (s : State) (p : Fin 16) (m : Msg) host met, s.headMsg p.val 2 = some m → m.dest = s.mod.id → m.ty = 2 → s.inHall m.src = true →
    let k := (m.addr - stockWin) / 0x40000
    let tag := (m.data.getD 0 0#512).toNat
    ∀ x r j l at_, s.sets.find? (fun x => x.reducers.contains k) = some x → x.faulted = false → l = bitsAt tag 64 64 →
      j = bitsAt tag 192 64 * x.nbuckets + bitsAt tag 128 64 → x.reducers[r]? = some k → (∀ i, i < r → x.reducers[i]? ≠ some k) →
      bitsAt tag 0 16 = x.setid → bitsAt tag 16 16 ≤ 3 → x.expected (bitsAt tag 16 16) r = some ((j, at_), l) → s.findSet x.setid = some x →
      x.waiting = [] → x.outq = [] → x.bucket j = none →
      Ends (.reduceLine p host met) s fun t => ∃ y ∈ t.sets, y.setid = x.setid ∧ y.waiting.length = 1) ∧
  (∀ (s : State) (x : RSet) (member cause : Nat), s.findSet x.setid = some x → x.faulted = false →
    Ends (.setAbort x.setid member cause) s fun t => (x.setid, member, cause) ∈ t.aborts)

/-- The commands of bell, hold and star, of the host and its rings complete (01_bell.md R29 to R59, 11_host_rings.md R361 to R389). -/
def Sys2Proof.Claim.BellAndHostComplete : Prop :=
  (∀ (s : State) (tel : Telemetry), s.awake = true → s.bell.symbols = [] → s.bell.held = true → s.hallMode = false →
    s.period + min s.bell.stretchNext 2147483647 ≤ 4294967295 →
    Ends (.bellDecision tel) s fun t => t.bell.nextD = s.bell.nextD + max 1 (s.period + min s.bell.stretchNext 2147483647)) ∧
  (∀ (s : State) (x : Symbol), (PlainBell s x → s.conf.status ≠ 2 → Ends .bellLatch s fun t => t.bell.count = s.bell.count + 1) ∧
    (Next s x → x.kind = .hold → Ends .holdLatch s fun t => t.bell.held = true) ∧
    (Next s x → x.kind = .release → s.bell.held = true → Ends .releaseLatch s fun t => t.bell.held = false)) ∧
  (∀ (s : State) (die lane : Fin 16) (sym : BitVec 8), s.awake = true → s.deadDies.contains die.val = false →
    (s.deadDies.contains lane.val = true → Ends (.starSymbol die lane sym) s fun t => t.bell = withHold s.bell die.val 32 (s.now + 5)) ∧
    (s.bell.held = false → s.bell.symbols = [] → Ends (.bellWatchdog die) s fun t => t.bell.symbols.length = 1) ∧
    Ends (.comparatorTrip die) s (fun t => t.bell = withHold s.bell die.val 1 (s.now + 8)) ∧
    Ends (.thermalTrip die) s fun t => t.pow.hotDies.contains die.val = true) ∧
  (∀ s : State, s.awake = true → s.deadDies.contains s.bell.lead = false →
    (s.pkg.holdReq = false → Ends (.holdReq true) s fun t => t.bell = withHold s.bell s.bell.lead 4 (s.now + 7)) ∧
    (s.powerRuns = true →
      (∀ vin, 4600 ≤ vin → vin ≤ 5800 → Ends (.inputRange vin) s fun t => t.pow.vin = vin) ∧
      ((s.pow.runPow = 17 ∨ s.pow.runTh = 17) → Ends .emergencyHold s fun t => t.bell = withHold s.bell s.bell.lead 8 (s.now + 4)))) ∧
  (∀ (s : State) (v : BitVec 32), s.hostPath = true →
    (v.getLsbD 0 = true → s.bell.held = true → s.bell.cause = 0 → s.mod.state ≠ 2 → Ends (.bellReleaseGo v) s fun t => t.bell.go = some s.now) ∧
    Ends (.bellHoldCause v) s (fun t => ∀ i, i < 7 → bitAt t.bell.cause i = (bitAt s.bell.cause i && (!v.getLsbD i || i = 4 || i = 6 || bitAt s.activeCauses i)))) ∧
  (∀ (s : State) (r : StReg), HostReaches s → r ∈ stRegs → Routed s r.off → r.off ≠ 0xA0 →
    Ends (.registerWrite (.read (cfgBase + r.off))) s fun t => t = answered s (.reg (cfgBase + r.off) (s.staged r))) ∧
  (∀ (s : State) (v : BitVec 32), s.awake = true → s.hostPath = true →
    (s.conf.hs ≠ 1 → Ends (.modDrvIf v) s fun t => t.conf.drvIf = v.toNat % 65536) ∧
    (s.conf.status ≠ 1 → s.conf.status ≠ 2 → Ends (.modCommit v) s fun t => t.conf.status = 1 ∧ t.conf.crc = v.toNat)) ∧
  (∀ (s : State) (n : Nat), s.conf.hsRun = some n → s.trust.image.ifMin ≤ n → n ≤ s.trust.image.ifMax →
    Ends .handshake s fun t => t.conf.hs = 1) ∧
  (∀ (s : State) (route : HostMem), s.conf.status = 1 → (s.core s.bell.lead 1).state = 1 → firstStatus (s.commitRules route) = 0 →
    s.mod.configValid = true → Ends (.commitCheck route) s fun t => t.conf.status = 2) ∧
  (∀ (s : State) (l : List Byte), s.conf.dbOut = true → s.sends = true → Ends (.doorbellRead (.bytes l) [] none) s fun t =>
    t.conf.dbOut = false ∧ ∀ i, i < 64 → (s.ring i).state ≠ 1 → t.ring i = s.ring i) ∧
  (∀ (s : State) (ring : Fin 64) (d : List Byte) (args : HostMem), Fetches s ring.val d → s.mod.session = false →
    bitAt (d.getD 1 0#8).toNat 0 = false → (orderOf s.idSeq ring.val s.now d []).seq = 0 → fieldAt d 48 16 = 0 → formatBad d [] = none →
    sessionless (orderOf s.idSeq ring.val s.now d []).op = true → (s.core s.bell.lead 1).state ≠ 3 →
    Ends (.orderFetch ring (.bytes d) args) s fun t => t = taken s ring.val (orderOf s.idSeq ring.val s.now d [])) ∧
  (∀ (s : State) (v : Fin 66) (c : Nat), s.intHeld.contains v.val = true → s.mod.configValid = true → s.sends = true →
    tfind s.intLast v.val = some c → Ends (.interruptGap v) s fun t => t.intHeld.contains v.val = false)

/-- The commands of trust, cores, power, resets, check units and the package complete (12_clerk_firmware.md R411 to R413, 13_trust.md,
14_power_ageing_resets.md, 15_check_unit_queues.md, 16_package_test.md). -/
def Sys2Proof.Claim.TrustAndPowerComplete : Prop :=
  (∀ (s : State) (ring op : Nat) (o : Order) (rest : List Order), Starts s ring op o rest →
    (op = 0x70 → EndsOrder (.attest ring true) s o stDone 0 0) ∧ (op = 0x71 → EndsOrder (.getIdentity ring) s o stDone 0 0) ∧
    (∀ n evid wrap, op = 0x72 → s.mod.session = false → s.trust.kem = some (n, evid) →
      let keys := Config.shake 64 (Config.kemDecap (Config.kemGen n).2 (o.args.take 1568) ++ Config.shake 64 evid ++ o.args.take 1568 ++ ascii "TB80 session")
      gcmOpen (keys.take 32) (leBytes 12 0) (o.args.take 1568) ((o.args.drop 1568).take 96) ((o.args.drop 1664).take 16) = some wrap →
      EndsOrder (.sessionOpen ring) s o stDone 0 0) ∧
    (op = 0x73 → Ends (.sessionClose ring) s fun t => t.trust.close = some o.id) ∧
    (s.trust.act = none →
      (∀ l, op = 0x74 → (imageOfBytes (l.take (o.arg 8 4))).check = 0 → EndsOrder (.fwStage ring (.bytes l) true) s o stDone 0 0) ∧
      (op = 0x75 → s.trust.staged.isSome = true → Ends (.fwActivate ring) s fun t => t.trust.act = some o.id) ∧
      (op = 0x76 → EndsOrder (.fwDiscard ring) s o stDone 0 0))) ∧
  (∀ (s : State) (id d : Nat) (i : FwImage), s.trust.act = some id → s.trust.reloading = some d → s.trust.staged = some i →
    (s.coreOut = none → Ends .activationComplete s fun t => t.trust.image = i ∧ t.trust.act = none) ∧
    (s.coreOut.isSome = true → s.eighthLatch d = true → Ends .activationReverted s fun t => t.trust.act = none ∧ t.trust.staged = some i)) ∧
  (∀ (s : State) (die : Fin 16) (core : Fin 4),
    (∀ cause : Fin 4, s.awake = true → cause.val ≠ 0 → (s.core die.val core.val).state = 1 → core.val ≠ 3 →
      Ends (.coreWatchdog die core cause) s fun t => (t.core die.val core.val).state = 2) ∧
    ((s.core die.val core.val).state = 2 → Ends (.coreKick die core) s fun t => (t.core die.val core.val).state = 1)) ∧
  (∀ (s : State) (die : Fin 16), (s.core die.val 2).state = 2 → s.eighthLatch (s.core die.val 2).fired = true → s.trust.reloading = none →
    s.pow.dieResetting.contains die.val = false → Ends (.coreRestartFailed die 2) s fun t => (t.core die.val 2).state = 3) ∧
  (∀ (s : State) (pins : BitVec 2), Ends .supervisorTrip s (fun t => t.mod.state = 0) ∧
    (s.mod.state = 0 → Ends (.standbyEntry pins) s fun t => t.mod.state = 1 ∧ t.pkg.addrPins = pins.toNat) ∧
    (s.mod.state ≠ 0 → Ends .resetNLow s (fun t => t.mod.state = 1) ∧ Ends .refclkLost s fun t => t.mod.state = 1) ∧
    (s.awake = true → Ends (.moduleReset 0xC1EA) s (fun t => t.mod.state = 1) ∧
      Ends (.warmClear 0xC1EA) s fun t => t.mod.state = 2 ∧ t.ctxs = [])) ∧
  (∀ (s : State) (r : BootReport) (lead : Nat), s.mod.state = 1 → s.pkg.bootStage ≠ 13 → s.pkg.flashSelN = true →
    badLanes r ((upFrom 0 16).filter r.selfTestFail.contains) = [] → firstSound r = some lead →
    (flashImage s.flash (flashSelected s.flash)).check = 0 → Ends (.boot r) s fun t => t.mod.state = 2 ∧ t.bell.lead = lead) ∧
  (∀ (s : State) (die : Fin 16) (domain : Fin 20), let i := 20 * die.val + domain.val
    (s.awake = true → s.domFenced die.val domain.val = false → s.powerRuns = true → (s.dom i).vcode < 200 →
      Ends (.canary die domain true) s fun t => (t.dom i).vcode = (s.dom i).vcode + 1) ∧
    (s.domFenced die.val domain.val = true → s.domOccupied i = [] → Ends (.domainPowerOff die domain) s fun t => (t.dom i).powered = false) ∧
    (∀ c, s.pow.exit = some c → s.pow.powered.length = domain.val →
      Ends (.domainPowerUp domain) s fun t => t.pow.powered = s.pow.powered ++ [domain.val])) ∧
  (∀ s : State, s.awake = true → s.powerRuns = true → s.pow.replanDue = true → Ends (.replan [] true) s fun t => t.pow.replans = satInc s.pow.replans) ∧
  (∀ (s : State) (die : Fin 16), let n := die.val
    (∀ v : BitVec 32, s.deadDies.contains n = false → bitsAt v.toNat 16 16 = 0xC1EA → bitAt v.toNat 0 = true → s.pow.dieResetAsked.contains n = false →
      Ends (.dieReset die v) s fun t => t.pow.dieResetAsked = s.pow.dieResetAsked ++ [n]) ∧
    (∀ trims, s.pow.dieResetting.contains n = true → Ends (.dieResetDone die trims true) s fun t => t.pow.dieResetting.contains n = false)) ∧
  (∀ (s : State) (die : Fin 16) (unit : Fin 4), UnitUp s die → let c := s.cu die.val unit.val
    (8 ≤ c.width → c.width ≤ 64 → c.poly < 2 ^ c.width → c.init < 2 ^ c.width → c.xorout < 2 ^ c.width →
      Ends (.start die unit) s fun t => (t.cu die.val unit.val).state = c.init) ∧
    (c.mode = 1 → 8 ≤ c.width → c.width ≤ 64 → ∀ v,
      Ends (.feedB die unit v) s (fun t => (t.cu die.val unit.val).fed = (c.fed + 1) % 2 ^ 64) ∧
      Ends (.feedH die unit v) s (fun t => (t.cu die.val unit.val).fed = (c.fed + 2) % 2 ^ 64) ∧
      Ends (.feedW die unit v) s fun t => (t.cu die.val unit.val).fed = (c.fed + 4) % 2 ^ 64) ∧
    (c.stall < 5120 → c.mode = 2 →
      (s.snooped die.val c = none → Ends (.arm die unit) s fun t => (t.cu die.val unit.val).attached = true) ∧
      (∀ q d, c.fed % 64 = 0 → s.snooped die.val c = some (q, d) →
        Ends (.resume die unit) s fun t => (t.cu die.val unit.val).attached = true)) ∧
    (∀ l, c.attached = true → tfind c.window c.nextLine = some (l, true) → 8 ≤ c.width → c.width ≤ 64 →
      Ends (.snoopLine die unit) s fun t => (t.cu die.val unit.val).fed = (c.fed + 64) % 2 ^ 64) ∧
    (∀ (q : Fin 17) (occ : Nat), HostReaches s → Ends (.queueMismatch die q occ) s fun t =>
      (t.cq die.val q.val).resets = satInc (s.cq die.val q.val).resets)) ∧
  (∀ (s : State) (f : Flash), s.pkg.rails = false → Ends (.flashSelN false (some f)) s fun t => t.flash = f) ∧
  (∀ (s : State) (index : BitVec 16) (st dyn : BitVec 7) (n : Nat), s.mod.state ≠ 0 →
    (index.toNat < 0x8000 → Ends (.i3cPrivateWrite index) s fun t => t.pkg.i3cIndex = index.toNat) ∧
    Ends (.i3cPrivateRead n) s (fun t => ∃ l, t.pkg.i3cOut = l :: s.pkg.i3cOut ∧ l.length = n) ∧
    (st.toNat = 0x34 + s.pkg.addrPins → Ends (.setdasa st dyn) s fun t => t.pkg.dynAddr = some dyn.toNat) ∧
    (s.pkg.dynAddr = none → Ends (.entdaa dyn) s fun t => t.pkg.dynAddr = some dyn.toNat)) ∧
  (∀ (s : State) (bits : Nat), Ends (.trstN true) s (fun t => t.pkg.trstN = true) ∧
    (TapRuns s → Ends .tapReset s (fun t => t.pkg.ir = 1) ∧ Ends .idcode s (fun t => t.pkg.ir = 1 ∧ t.pkg.dr = 0x10080A75) ∧
      Ends .bypass s (fun t => t.pkg.ir = 0xFF) ∧ Ends (.preload bits) s (fun t => t.pkg.ir = 3 ∧ t.pkg.bsr = bits % 2 ^ 2611) ∧
      Ends (.sample bits) s (fun t => t.pkg.ir = 2) ∧
      (s.awake = true → s.deadDies.contains s.bell.lead = false →
        Ends .extest s (fun t => t.pkg.ir = 4) ∧ Ends .extestPulse s (fun t => t.pkg.ir = 5) ∧ Ends .extestTrain s (fun t => t.pkg.ir = 6) ∧
        ∀ c, s.pkg.extest = some c → s.pkg.cells = false → Ends .cellsTakeLands s fun t => t.pkg.cells = true)))

/-! ## The obligations: the claims above, grouped by theme -/

/-- A step runs the command at the front of the queue; on an empty queue one cy passes (log entry 3). -/
def Obligations.StepTakesTheFrontCommand : Prop :=
  Claim.StepRunsFront ∧ Claim.StepIdles

/-- Every command answers a next state, in any state, and keeps the queue. -/
def Obligations.EveryCommandAnswers : Prop :=
  Claim.EveryCommandAnswersAndKeepsTheQueue

/-- Every step keeps the memory's canonical form. -/
def Obligations.StepKeepsMemoryForm : Prop :=
  Claim.StepKeepsMemoryForm

/-- The state after reset: what the spec gives, and memory in its canonical form (that reset stands after the boot is log entry 1). -/
def Obligations.ResetState : Prop :=
  Claim.ResetHasMemoryForm ∧ Claim.ResetValues

/-- The words of a stall and its commands agree both ways. -/
def Obligations.WordsAndCommandsAgree : Prop :=
  Claim.DecodeOfEncode ∧ Claim.EncodeOfDecode

/-- Words written out from the encoding tables read as their instructions. -/
def Obligations.WorkedWordsRead : Prop :=
  Claim.WorkedWords

/-- Scalar functions, registers, ORHI and RDS. -/
def Obligations.ScalarInstructions : Prop :=
  Claim.ScalarFunctions ∧ Claim.ScalarRegisters ∧ Claim.OrhiAndRds

/-- Branches, LOOP, JR and J. -/
def Obligations.ControlFlow : Prop :=
  Claim.ConditionalBranches ∧ Claim.LoopAndJr ∧ Claim.JumpRefetches

/-- NOP, FENCE and BELL.WAIT, the end of a plan, and a stall that may not issue. -/
def Obligations.WaitsAndHolds : Prop :=
  Claim.ControlInstructions ∧ Claim.BellWaitEndsPlan ∧ Claim.NoIssueWhileHeld

/-- Unlisted words, reserved bits, and a PC past stock. -/
def Obligations.WordsThatStop : Prop :=
  Claim.IllegalWord ∧ Claim.ReservedBitsStop ∧ Claim.FetchOfTheNextWord

/-- Loads, stores and releases, from issue to effect. -/
def Obligations.LoadsAndStores : Prop :=
  Claim.LoadsAndStoresIssue ∧ Claim.RelEmptiesRegisters ∧ Claim.LoadedLineReachesItsRegister ∧ Claim.StoresAndScalarAccesses ∧
  Claim.FetchedLineAndStockErrors ∧ Claim.LineWrittenReadsBack

/-- Turn buffers: issue and transpose. -/
def Obligations.TurnBuffers : Prop :=
  Claim.TurnBuffersIssue ∧ Claim.TurnBufferTransposes

/-- Tile configuration, matrix instructions at issue and at retirement. -/
def Obligations.MatrixInstructions : Prop :=
  Claim.TileConfiguration ∧ Claim.MatrixInstructionsIssue ∧ Claim.MatrixRetires

/-- Accumulator moves: issue and retirement. -/
def Obligations.AccumulatorMoves : Prop :=
  Claim.AccumulatorMovesIssue ∧ Claim.AccumulatorMovesRetire

/-- The GO of a square, and its stop. -/
def Obligations.Squares : Prop :=
  Claim.SquareDecides ∧ Claim.SquareStops

/-- Vector functions, lane arithmetic, lane moves, conversions and their results. -/
def Obligations.VectorUnit : Prop :=
  Claim.VectorFunctionsIssue ∧ Claim.LaneArithmetic ∧ Claim.LaneMovesAndConversionsIssue ∧ Claim.QuadResultsAreWritten

/-- The price board, its tables, and the scales. -/
def Obligations.PriceBoardAndScales : Prop :=
  Claim.PriceBoardIssues ∧ Claim.PriceBoardBounds ∧ Claim.PriceTableIsLoaded ∧ Claim.ScaleInstructions

/-- PRT.GO, PRT.KILL, PRT.STAT and PRT.DRAIN. -/
def Obligations.StreamsStart : Prop :=
  Claim.PrtGoStartsAStream ∧ Claim.LowestFreeSlot ∧ Claim.PrtKillStatDrain

/-- A stream's requests, arrivals, errors, deliveries and mesh channels. -/
def Obligations.StreamsMoveLines : Prop :=
  Claim.PorterIssuesARequest ∧ Claim.RawCopiedLineArrives ∧ Claim.ErrorResponseStopsTheStream ∧ Claim.WriteIsAcknowledged ∧
  Claim.RegisterLineIsDelivered ∧ Claim.MeshFlitCrosses

/-- Tally instructions and the tally's word. -/
def Obligations.Tallies : Prop :=
  Claim.TallyInstructions ∧ Claim.TallyWord

/-- A signal: sent, summed with the others of its cy, applied. -/
def Obligations.Signals : Prop :=
  Claim.SignalIsSent ∧ Claim.AmountsOfOneCy ∧ Claim.SignalIsApplied

/-- Reckoning instructions and the configuration of a unit. -/
def Obligations.ReckoningInstructions : Prop :=
  Claim.ReckonInstructions ∧ Claim.ReckonConfiguration

/-- Arrivals, releases, broadcasts, parents and remote synchronisation. -/
def Obligations.ReckoningUnits : Prop :=
  Claim.ArrivalOrder ∧ Claim.UnitCountsArrivals ∧ Claim.StrayArrivalIsDropped ∧ Claim.BroadcastReachesBindings ∧
  Claim.ParentAnswerReleases ∧ Claim.RemoteSynchronisation

/-- ALLOC, FREE and HINT. -/
def Obligations.LedgerFunctions : Prop :=
  Claim.LedgerInstructionsIssue ∧ Claim.LedgerFunctions

/-- Translation of a request. -/
def Obligations.Translation : Prop :=
  Claim.Translation ∧ Claim.TranslationOfARead

/-- Row spine, depot, HBM, stock window and peaks. -/
def Obligations.DieMemory : Prop :=
  Claim.SpineAcceptsRoundRobin ∧ Claim.DepotAdmission ∧ Claim.DepotBankServes ∧ Claim.HbmServes ∧ Claim.StockWindowIsRelayed ∧
  Claim.PeaksAreCleared

/-- Edges between dies, failed links and timeouts. -/
def Obligations.DieLinks : Prop :=
  Claim.EdgeForwards ∧ Claim.LinksAndTimeouts

/-- Routes between dies, and their detours. -/
def Obligations.DieRoutes : Prop :=
  Claim.RoutesBetweenDies

/-- Placement, allocation, eviction, moves and drains of crates. -/
def Obligations.DrayMovesCrates : Prop :=
  Claim.CrateIsPlaced ∧ Claim.TakenUnitsAreFree ∧ Claim.DrayMakesRoom ∧ Claim.MoveCopies ∧ Claim.StorageDrains

/-- Sealed images open only whole, and their import. -/
def Obligations.SealedImages : Prop :=
  Claim.DrayImports ∧ Claim.ImageOpensOnlyWhole

/-- Messages of a port, their fields, forwarding and NOROUTE. -/
def Obligations.WeagoMessages : Prop :=
  Claim.MessagesMove ∧ Claim.MessageFields ∧ Claim.Forwarding ∧ Claim.NorouteMarksThePath

/-- Remote reads and writes, their answers and timeouts. -/
def Obligations.RemoteMemory : Prop :=
  Claim.RemoteAccess ∧ Claim.RemoteAnswers ∧ Claim.RemoteTimeouts

/-- Lending between a home module and a lender. -/
def Obligations.Lending : Prop :=
  Claim.RoomIsLent ∧ Claim.ImageLinesArrive ∧ Claim.LenderOpensImages ∧ Claim.LenderReturnsCrates ∧ Claim.HomeFollowsTheExchange ∧
  Claim.ReturnIsImported

/-- Blocks sent, received, acknowledged and re-sent. -/
def Obligations.LinkBlocks : Prop :=
  Claim.BlockSlots ∧ Claim.SealedBlocksOpen ∧ Claim.BlocksAreReceived ∧ Claim.AcknowledgementsFreeBlocks ∧ Claim.ResendLimit

/-- Training of a port, its widths, retraining and reset. -/
def Obligations.PortTraining : Prop :=
  Claim.TrainingSteps ∧ Claim.PortsRetrainAndReset ∧ Claim.LaneLoss ∧ Claim.LanesWear ∧ Claim.HelloChoosesTheWidth ∧ Claim.WidthOfLanes

/-- Key agreement of a link, and the owner check. -/
def Obligations.LinkKeys : Prop :=
  Claim.LinkKeysAgree ∧ Claim.OwnerChecks

/-- Time synchronisation. -/
def Obligations.TimeSync : Prop :=
  Claim.TimeSync ∧ Claim.SyncFilters

/-- When an order starts, and the record it ends in. -/
def Obligations.OrdersStartAndEnd : Prop :=
  Claim.OrdersWait ∧ Claim.CompletionRecord ∧ Claim.CompletionFields

/-- Orders on contexts and their regions. -/
def Obligations.ContextOrders : Prop :=
  Claim.ContextOrders ∧ Claim.RegionOrders ∧ Claim.ChosenStallsAreFree

/-- Plans, saves, restores, reports and policy. -/
def Obligations.PlansAndSaves : Prop :=
  Claim.PlanDispatches ∧ Claim.SaveAndRestoreOrders ∧ Claim.SavesAndRestoresComplete ∧ Claim.ReportsAndPolicy

/-- Orders on reckoning units and squares. -/
def Obligations.UnitAndSquareOrders : Prop :=
  Claim.UnitOrders ∧ Claim.SquareOrders

/-- Ledger orders. -/
def Obligations.LedgerOrders : Prop :=
  Claim.AllocAndFreeOrders ∧ Claim.MappingOrders ∧ Claim.OwnerImagesLand ∧ Claim.ImportAndCopyOrders

/-- A gather and its sums. -/
def Obligations.Gathers : Prop :=
  Claim.Gathers ∧ Claim.GatherLineSums

/-- Reduction sets, buckets, lines and aborts. -/
def Obligations.Reductions : Prop :=
  Claim.ReductionOrders ∧ Claim.BucketsStartAndComplete ∧ Claim.BucketThresholds ∧ Claim.ReductionLinesArrive ∧ Claim.AbortsFaultTheSet

/-- Trips, HOLD_REQ, the bell watchdog and the power core's requests. -/
def Obligations.HoldSources : Prop :=
  Claim.StarWords ∧ Claim.TripsDecideAHold ∧ Claim.HoldReqDecidesAHold ∧ Claim.BellWatchdogDecidesAHold ∧ Claim.PowerCoreRequestsHolds

/-- A faulty star symbol sources a hold at its receiver. -/
def Obligations.StarSymbolErrors : Prop :=
  Claim.StarSymbolErrors

/-- The latch of a HOLD and of a RELEASE, GO and the cause bits. -/
def Obligations.HoldAndRelease : Prop :=
  Claim.HoldLatches ∧ Claim.ReleaseLatches ∧ Claim.GoAndCause

/-- Decisions: the schedule, overruns and slips, and decisions while held. -/
def Obligations.BellDecisions : Prop :=
  Claim.DecisionsFallDue ∧ Claim.DecisionsWhileHeld

/-- A bell that latches: discarded while held, else it starts segments. -/
def Obligations.BellsLatch : Prop :=
  Claim.BellsLatch

/-- Registers that stage, registers that only read, and accesses that are not allowed. -/
def Obligations.ConfigurationSpace : Prop :=
  Claim.ReadOnlyRegisters ∧ Claim.BadHostMessages ∧ Claim.HeaderCells ∧ Claim.HostMessages

/-- Staging, the version handshake, commits and their application. -/
def Obligations.Commits : Prop :=
  Claim.StagedRegisters ∧ Claim.VersionHandshake ∧ Claim.CommitsAreChecked ∧ Claim.CommitsApplyAtTheBell

/-- Doorbells, the checks of an order, and interrupts held back. -/
def Obligations.OrderIntake : Prop :=
  Claim.DoorbellSamples ∧ Claim.OrdersAreChecked ∧ Claim.RefusedCompletions ∧ Claim.HeldInterruptsAreSent

/-- Evidence, identity, and the opening and closing of a session. -/
def Obligations.Sessions : Prop :=
  Claim.EvidenceIsWritten ∧ Claim.SessionsOpen ∧ Claim.SessionsClose

/-- Staging, activation and its cancellation or reversal. -/
def Obligations.Firmware : Prop :=
  Claim.FirmwareOrders ∧ Claim.HoldCancelsActivation ∧ Claim.ActivationEnds

/-- Crashes, kicks and failures of cores. -/
def Obligations.Cores : Prop :=
  Claim.CoresRestart ∧ Claim.CoresAreKicked ∧ Claim.CoresFail

/-- Rails off, boot, warm clear and die reset. -/
def Obligations.BootAndResets : Prop :=
  Claim.RailsGoOff ∧ Claim.Boots ∧ Claim.WarmClears ∧ Claim.DieResets

/-- Canaries, re-plans and the power of domains. -/
def Obligations.VoltageDomains : Prop :=
  Claim.CanariesFire ∧ Claim.Replans ∧ Claim.DomainsArePowered

/-- Check units, their check values and feeds, and the errors of queues. -/
def Obligations.CheckUnits : Prop :=
  Claim.CheckValues ∧ Claim.CheckUnitsStart ∧ Claim.FeedWrites ∧ Claim.SnoopsAttach ∧ Claim.SnoopedLinesAreFed ∧ Claim.QueueErrors

/-- I3C, the flash switch and the TAP. -/
def Obligations.Sideband : Prop :=
  Claim.SidebandReads ∧ Claim.SidebandIndices ∧ Claim.DynamicAddresses ∧ Claim.FlashIsSwitched ∧ Claim.TapInstructions ∧
  Claim.ExtestHolds ∧ Claim.LandsAndCells

/-- Where the commands complete, with one effect of each. -/
def Obligations.CommandsComplete : Prop :=
  Claim.LaterWordsComplete ∧ Claim.UnitEventsComplete ∧ Claim.MemoryEventsComplete ∧ Claim.MessagesComplete ∧ Claim.LinkEventsComplete ∧
  Claim.OrdersComplete ∧ Claim.ServicesComplete ∧ Claim.BellAndHostComplete ∧ Claim.TrustAndPowerComplete
end

