-- ==== Sys2Proof/Laws/Bits.lean ====
section
/-! SUPPORT. Packing: elements packed into a number come back out, and a number unpacked is packed to itself. -/
namespace Sys2Proof.Machine

theorem length_upFrom : ∀ (n a : Nat), (upFrom a n).length = n
  | 0, _ => rfl
  | n + 1, a => by simp [upFrom, length_upFrom n]

theorem getElem_upFrom : ∀ (n a i : Nat) (h : i < (upFrom a n).length), (upFrom a n)[i] = a + i
  | 0, _, _, h => absurd h (by simp [upFrom])
  | n + 1, a, 0, _ => rfl
  | n + 1, a, i + 1, h => by
    simp only [upFrom, List.getElem_cons_succ]
    rw [getElem_upFrom n (a + 1) i]; omega

theorem mem_upFrom {a n i : Nat} : i ∈ upFrom a n ↔ a ≤ i ∧ i < a + n := by
  induction n generalizing a with
  | zero => simp only [upFrom, List.not_mem_nil, false_iff]; omega
  | succ n ih => simp only [upFrom, List.mem_cons, ih]; omega

theorem length_unpackN (w n x : Nat) : (unpackN w n x).length = n := by simp [unpackN, length_upFrom]

theorem getElem_unpackN (w n x i : Nat) (h : i < (unpackN w n x).length) : (unpackN w n x)[i] = bitsAt x (w * i) w := by
  simp [unpackN, getElem_upFrom]

theorem packN_lt (w : Nat) : ∀ l : List Nat, packN w l < 2 ^ (w * l.length)
  | [] => by simp [packN]
  | x :: r => by
    have h := packN_lt w r
    have h1 : x % 2 ^ w < 2 ^ w := Nat.mod_lt _ (Nat.two_pow_pos w)
    simp only [packN, List.foldr_cons] at h ⊢
    rw [Nat.shiftLeft_eq, List.length_cons, Nat.mul_add, Nat.mul_one, Nat.pow_add]
    generalize List.foldr _ _ _ = y at *
    have : (y + 1) * 2 ^ w ≤ 2 ^ (w * r.length) * 2 ^ w := Nat.mul_le_mul_right _ h
    rw [Nat.add_mul] at this
    omega

theorem packN_cons (w x : Nat) (r : List Nat) : packN w (x :: r) = x % 2 ^ w + packN w r * 2 ^ w := by
  simp [packN, Nat.shiftLeft_eq]

theorem bitsAt_eq (x lo w : Nat) : bitsAt x lo w = x / 2 ^ lo % 2 ^ w := by
  simp [bitsAt, Nat.shiftRight_eq_div_pow]

/-- Element `i` of a packed number is the element's low bits. -/
theorem bitsAt_packN (w : Nat) : ∀ (l : List Nat) (i : Nat) (h : i < l.length), bitsAt (packN w l) (w * i) w = l[i] % 2 ^ w
  | [], _, h => absurd h (by simp)
  | x :: r, 0, _ => by
    rw [packN_cons, bitsAt_eq]; simp
  | x :: r, i + 1, h => by
    have ih := bitsAt_packN w r i (by simpa using h)
    rw [packN_cons, bitsAt_eq]
    rw [bitsAt_eq] at ih
    have h1 : x % 2 ^ w < 2 ^ w := Nat.mod_lt _ (Nat.two_pow_pos w)
    rw [Nat.mul_add, Nat.mul_one, Nat.add_comm (w * i) w, Nat.pow_add, ← Nat.div_div_eq_div_mul,
      Nat.add_mul_div_right _ _ (Nat.two_pow_pos w), Nat.div_eq_of_lt h1, Nat.zero_add, ih]
    simp

/-- Unpacking what was packed gives the elements' low bits. -/
theorem unpackN_packN (w : Nat) (l : List Nat) : unpackN w l.length (packN w l) = l.map (· % 2 ^ w) := by
  apply List.ext_getElem
  · simp [length_unpackN]
  · intro i h1 h2
    rw [getElem_unpackN, bitsAt_packN]
    · simp
    · simpa [length_unpackN] using h1

theorem upFrom_succ_map (n : Nat) (f : Nat → Nat) : (upFrom 0 (n + 1)).map f = f 0 :: (upFrom 0 n).map fun i => f (i + 1) := by
  apply List.ext_getElem
  · simp [length_upFrom]
  · intro i h1 h2
    cases i with
    | zero => simp [upFrom]
    | succ i => simp [getElem_upFrom]

/-- Packing what was unpacked gives the number's low bits. -/
theorem packN_unpackN (w : Nat) : ∀ (n x : Nat), packN w (unpackN w n x) = x % 2 ^ (w * n)
  | 0, x => by simp [unpackN, upFrom, packN, Nat.mod_one]
  | n + 1, x => by
    have ih := packN_unpackN w n (x / 2 ^ w)
    have e : unpackN w (n + 1) x = bitsAt x 0 w :: unpackN w n (x / 2 ^ w) := by
      unfold unpackN
      rw [upFrom_succ_map]
      congr 1
      apply List.map_congr_left
      intro i _
      rw [bitsAt_eq, bitsAt_eq, Nat.div_div_eq_div_mul, ← Nat.pow_add, Nat.mul_add, Nat.mul_one, Nat.add_comm]
    rw [e, packN_cons, ih, bitsAt_eq]
    simp only [Nat.pow_zero, Nat.div_one, Nat.mod_mod]
    rw [Nat.mul_add, Nat.mul_one, Nat.add_comm (w * n) w, Nat.pow_add, Nat.mod_mul, Nat.mul_comm]

/-- A line's bytes make the line. -/
theorem lineOfBytes_bytesOfLine (l : Line) : lineOfBytes (bytesOfLine l) = l := by
  unfold lineOfBytes bytesOfLine
  rw [List.map_map]
  have e : (unpackN 8 64 l.toNat).map (BitVec.toNat ∘ BitVec.ofNat 8) = unpackN 8 64 l.toNat := by
    apply List.ext_getElem
    · simp
    · intro i h1 h2
      simp only [List.getElem_map, Function.comp, BitVec.toNat_ofNat]
      rw [getElem_unpackN, bitsAt_eq]; simp
  rw [e, packN_unpackN]
  apply BitVec.eq_of_toNat_eq
  rw [BitVec.toNat_ofNat]
  exact Nat.mod_eq_of_lt (Nat.mod_lt _ (Nat.two_pow_pos _)) |>.trans (Nat.mod_eq_of_lt l.isLt)

theorem length_bytesOfLine (l : Line) : (bytesOfLine l).length = 64 := by simp [bytesOfLine, length_unpackN]

theorem length_leBytes (n x : Nat) : (leBytes n x).length = n := by simp [leBytes, length_unpackN]

/-- The bytes of a number make the number, as far as they reach. -/
theorem leNat_leBytes (n x : Nat) : leNat (leBytes n x) = x % 2 ^ (8 * n) := by
  unfold leNat leBytes
  rw [List.map_map]
  have e : (unpackN 8 n x).map (BitVec.toNat ∘ BitVec.ofNat 8) = unpackN 8 n x := by
    apply List.ext_getElem
    · simp
    · intro i h1 h2
      simp only [List.getElem_map, Function.comp, BitVec.toNat_ofNat]
      rw [getElem_unpackN, bitsAt_eq]; simp
  rw [e, packN_unpackN]

theorem length_splitLines (n x : Nat) : (splitLines n x).length = n := by simp [splitLines, length_unpackN]

/-- Lines split off a number make the number's low bits again. -/
theorem catLines_splitLines (n x : Nat) : catLines (splitLines n x) = x % 2 ^ (512 * n) := by
  unfold catLines splitLines
  rw [List.map_map]
  have e : (unpackN 512 n x).map (BitVec.toNat ∘ BitVec.ofNat 512) = unpackN 512 n x := by
    apply List.ext_getElem
    · simp
    · intro i h1 h2
      simp only [List.getElem_map, Function.comp, BitVec.toNat_ofNat]
      rw [getElem_unpackN, bitsAt_eq]; exact Nat.mod_mod _ _
  rw [e, packN_unpackN]

/-- A line made of 64 bytes has these bytes. -/
theorem bytesOfLine_lineOfBytes (l : List Byte) (h : l.length = 64) : bytesOfLine (lineOfBytes l) = l := by
  unfold lineOfBytes bytesOfLine
  have hl := packN_lt 8 (l.map BitVec.toNat)
  rw [List.length_map, h] at hl
  rw [BitVec.toNat_ofNat, Nat.mod_eq_of_lt hl]
  have := unpackN_packN 8 (l.map BitVec.toNat)
  rw [List.length_map, h] at this
  rw [this]
  apply List.ext_getElem
  · simp
  · intro i h1 h2
    apply BitVec.eq_of_toNat_eq
    simp [l[i].isLt]

/-- The lines of 64 lanes hold the lanes. -/
theorem lanesOf_linesOfLanes (l : List Word32) (h : l.length = 64) : lanesOf (linesOfLanes l) = l := by
  unfold lanesOf linesOfLanes
  rw [catLines_splitLines]
  have hl := packN_lt 32 (l.map BitVec.toNat)
  rw [List.length_map, h] at hl
  rw [Nat.mod_eq_of_lt hl]
  have := unpackN_packN 32 (l.map BitVec.toNat)
  rw [List.length_map, h] at this
  rw [this]
  apply List.ext_getElem
  · simp
  · intro i h1 h2
    apply BitVec.eq_of_toNat_eq
    simp [l[i].isLt]

end Sys2Proof.Machine
end

