-- ==== Sys2Proof/Laws/Tables.lean ====
section
/-! SUPPORT. Sparse tables: a key reads what was put under it, other keys read as before. -/
namespace Sys2Proof.Machine

theorem tfind_tput_self {α : Type} (t : Tbl α) (k : Nat) (v : α) : tfind (tput t k v) k = some v := by
  induction t with
  | nil => simp [tput, tfind]
  | cons p r ih =>
    obtain ⟨a, w⟩ := p
    simp only [tput]
    split
    · simp [tfind]
    · split
      · simp [tfind]
      · simp [tfind, *]

theorem tfind_tput_ne {α : Type} (t : Tbl α) {k j : Nat} (v : α) (h : j ≠ k) : tfind (tput t k v) j = tfind t j := by
  have h' := h.symm
  induction t with
  | nil => simp [tput, tfind, h']
  | cons p r ih =>
    obtain ⟨a, w⟩ := p
    simp only [tput]
    split
    · simp [tfind, h']
    · split
      · rename_i ha; subst ha; simp [tfind, h']
      · simp [tfind, ih]

@[simp] theorem tget_tput_self {α : Type} (t : Tbl α) (d : α) (k : Nat) (v : α) : tget (tput t k v) d k = v := by
  simp [tget, tfind_tput_self]

theorem tget_tput_ne {α : Type} (t : Tbl α) (d : α) {k j : Nat} (v : α) (h : j ≠ k) :
    tget (tput t k v) d j = tget t d j := by
  simp [tget, tfind_tput_ne t v h]

theorem tget_tput {α : Type} (t : Tbl α) (d : α) (k j : Nat) (v : α) :
    tget (tput t k v) d j = if j = k then v else tget t d j := by
  split
  · subst_vars; simp
  · exact tget_tput_ne t d v ‹_›

@[simp] theorem tfind_tdel_self {α : Type} (t : Tbl α) (k : Nat) : tfind (tdel t k) k = none := by
  induction t with
  | nil => rfl
  | cons p r ih =>
    obtain ⟨a, w⟩ := p
    simp only [tdel]
    split
    · exact ih
    · simp [tfind, *]

theorem tfind_tdel_ne {α : Type} (t : Tbl α) {k j : Nat} (h : j ≠ k) : tfind (tdel t k) j = tfind t j := by
  induction t with
  | nil => rfl
  | cons p r ih =>
    obtain ⟨a, w⟩ := p
    simp only [tdel]
    split
    · rename_i ha; subst ha; simp [tfind, h.symm, ih]
    · simp [tfind, ih]

theorem tget_tdel_ne {α : Type} (t : Tbl α) (d : α) {k j : Nat} (h : j ≠ k) : tget (tdel t k) d j = tget t d j := by
  simp [tget, tfind_tdel_ne t h]

/-- A table built over a list of keys holds under each of them what was built for it. -/
theorem tfind_map_key {α : Type} (l : List Nat) (g : Nat → α) {k : Nat} (h : k ∈ l) : tfind (l.map fun j => (j, g j)) k = some (g k) := by
  induction l with
  | nil => simp at h
  | cons a r ih =>
    simp only [List.map_cons, tfind]
    split
    · rename_i e; rw [e]
    · rename_i e
      exact ih (by simpa [Ne.symm e] using h)

theorem tget_map_key {α : Type} (l : List Nat) (g : Nat → α) (d : α) {k : Nat} (h : k ∈ l) : tget (l.map fun j => (j, g j)) d k = g k := by
  simp [tget, tfind_map_key l g h]

@[simp] theorem tget_nil {α : Type} (d : α) (k : Nat) : tget ([] : Tbl α) d k = d := rfl

end Sys2Proof.Machine
end

