-- ==== Sys2Proof/Laws/Issue.lean ====
section
/-! SUPPORT. What issue can do (02_stall.md R63 to R66): the cases of `issueAt`, and what a report of an incident leaves. -/
namespace Sys2Proof.Machine

@[simp] theorem stall_setStall_self (s : State) (k : Nat) (t : Stall) : (s.setStall k t).stall k = t := by
  simp [State.stall, State.setStall]

theorem stall_setStall_ne (s : State) {k j : Nat} (t : Stall) (h : j ≠ k) : (s.setStall k t).stall j = s.stall j := by
  simp [State.stall, State.setStall, tget_tput_ne _ _ _ h]

@[simp] theorem stall_at (s : State) (c k : Nat) : (s.at c).stall k = s.stall k := rfl
@[simp] theorem port_at (s : State) (c k : Nat) : (s.at c).port k = s.port k := rfl
@[simp] theorem now_at (s : State) (c : Nat) : (s.at c).now = max s.now c := rfl
@[simp] theorem bell_at (s : State) (c : Nat) : (s.at c).bell = s.bell := rfl

/-- Everything but the output to the host, the interrupt bookkeeping and the incident log is as it was. -/
structure SameButReports (s t : State) : Prop where
  eq : t = { s with inc := t.inc, out := t.out, outWait := t.outWait, intLast := t.intLast, intHeld := t.intHeld }

theorem SameButReports.refl (s : State) : SameButReports s s := ⟨rfl⟩

theorem SameButReports.trans {s t u : State} (h : SameButReports s t) (g : SameButReports t u) : SameButReports s u := by
  constructor; rw [g.eq, h.eq]

theorem emit_same (s : State) (l : List HostWrite) : SameButReports s (s.emit l) ∧ (s.emit l).inc = s.inc := by
  unfold State.emit
  split
  · exact ⟨⟨rfl⟩, rfl⟩
  · split <;> exact ⟨⟨rfl⟩, rfl⟩

theorem interrupt_same (s : State) (v : Nat) : SameButReports s (s.interrupt v) ∧ (s.interrupt v).inc = s.inc := by
  unfold State.interrupt
  split
  · exact ⟨⟨rfl⟩, rfl⟩
  · split
    · have h := emit_same { s with intLast := tput s.intLast v s.now, intHeld := s.intHeld.filter (· ≠ v) } [.int v]
      exact ⟨SameButReports.trans ⟨rfl⟩ h.1, h.2⟩
    · split <;> exact ⟨⟨rfl⟩, rfl⟩

theorem incWrite_same (s : State) (i : Incident) :
    SameButReports s (s.incWrite i) ∧ (s.incWrite i).inc.log = s.inc.log := by
  unfold State.incWrite
  dsimp only
  generalize hx : ({ s with inc := _ } : State) = x
  have h0 : SameButReports s x ∧ x.inc.log = s.inc.log := by subst hx; exact ⟨⟨rfl⟩, rfl⟩
  exact ⟨h0.1.trans ((emit_same x _).1.trans (interrupt_same _ 64).1), by rw [(interrupt_same _ 64).2, (emit_same x _).2, h0.2]⟩

theorem incLose_same (s : State) : SameButReports s s.incLose ∧ s.incLose.inc.log = s.inc.log := by
  unfold State.incLose
  dsimp only
  split
  · rename_i h
    have h1 := emit_same { s with inc := { s.inc with lost := satInc s.inc.lost } }
      [HostWrite.bytes (s.stsBase + 1024) (leBytes 4 s.inc.tail ++ leBytes 4 (satInc s.inc.lost) ++ leBytes 8 0)]
    exact ⟨SameButReports.trans ⟨rfl⟩ h1.1, by rw [h1.2]⟩
  · exact ⟨⟨rfl⟩, rfl⟩

theorem incPut_same (s : State) (i : Incident) : SameButReports s (s.incPut i) ∧ (s.incPut i).inc.log = s.inc.log := by
  unfold State.incPut
  split
  · have h1 := incWrite_same s { i with code := 0x0A0A, die := 0xFF, ctx := none, whre := 64, pc := 0xFFFFFFFF, detail := [] }
    exact ⟨h1.1.trans (incLose_same _).1, by rw [(incLose_same _).2, h1.2]⟩
  · exact incWrite_same s i

theorem incLast_same (s : State) (i : Incident) : SameButReports s (s.incLast i) ∧ (s.incLast i).inc.log = s.inc.log := by
  unfold State.incLast
  dsimp only
  split
  · exact ⟨.refl s, rfl⟩
  · split
    · generalize hw : s.incPut _ = w
      have h1 : SameButReports s w ∧ w.inc.log = s.inc.log := by subst hw; exact incPut_same s _
      exact ⟨h1.1.trans ⟨rfl⟩, h1.2⟩
    · exact ⟨⟨rfl⟩, rfl⟩

theorem incOffer_same (s : State) (i : Incident) :
    SameButReports s (s.incOffer i) ∧ (s.incOffer i).inc.log = s.inc.log := by
  unfold State.incOffer
  split
  · exact incLose_same s
  · split
    · exact ⟨(incPut_same s i).1.trans (incLast_same _ i).1, by rw [(incLast_same _ i).2, (incPut_same s i).2]⟩
    · exact ⟨(incLast_same s i).1.trans (incLose_same _).1, by rw [(incLose_same _).2, (incLast_same s i).2]⟩

/-- A report adds one record to the log and changes nothing but the incident bookkeeping and what goes out to the host. -/
theorem raise_same (s : State) (code die : Nat) (ctx : Option Nat) (whre pc : Nat) (detail : List Nat) :
    SameButReports s (s.raise code die ctx whre pc detail) ∧
    (s.raise code die ctx whre pc detail).inc.log = ⟨code, die, ctx, whre, pc, s.bell.count, detail⟩ :: s.inc.log := by
  unfold State.raise
  dsimp only
  split
  · have h := incOffer_same { s with inc := { s.inc with log := ⟨code, die, ctx, whre, pc, s.bell.count, detail⟩ :: s.inc.log } }
      ⟨code, die, ctx, whre, pc, s.bell.count, detail⟩
    exact ⟨SameButReports.trans ⟨rfl⟩ h.1, h.2⟩
  · split <;> exact ⟨⟨rfl⟩, rfl⟩

/-- The cases of issue: nothing happens, the PC is past stock, the line is requested, or the instruction's own function decides. -/
theorem issueAt_go (s : State) (sid : StallId) (word : Word64) (f : State → Nat → Stall → Issue)
    (hm : s.mayIssue sid.num = true) (hp : (s.stall sid.num).pc < stockBytes)
    (hw : (s.stall sid.num).wordAt (s.stall sid.num).pc = some word) :
    s.issueAt sid word f =
      match f (s.at (s.stall sid.num).nextIssue) sid.num (s.stall sid.num) with
      | .wait => s
      | .fault c d => (s.at (s.stall sid.num).nextIssue).stallFault sid.num c d
      | .go s' t' nx => s'.setStall sid.num (t'.advance (s.at (s.stall sid.num).nextIssue).now nx) := by
  have hp' : ¬ ((s.at (s.stall sid.num).nextIssue).stall sid.num).pc ≥ stockBytes := Nat.not_le.mpr hp
  have hw' : ((s.at (s.stall sid.num).nextIssue).stall sid.num).wordAt
      ((s.at (s.stall sid.num).nextIssue).stall sid.num).pc = some word := hw
  unfold State.issueAt
  simp only [hm, Bool.not_true, Bool.false_eq_true, ↓reduceIte, if_neg hp', hw', ne_eq, not_true_eq_false]
  rfl

theorem issueAt_none (s : State) (sid : StallId) (word : Word64) (f : State → Nat → Stall → Issue)
    (hm : s.mayIssue sid.num = false) : s.issueAt sid word f = s := by
  unfold State.issueAt; simp [hm]

end Sys2Proof.Machine
end

