-- ==== Sys2Proof/Laws/Memory.lean ====
section
/-! SUPPORT. Memory: every operation keeps the canonical form, a byte written reads back, and every other byte reads as before. -/
namespace Sys2Proof.Machine

theorem cellsFrom_mono {lo lo' : Nat} (h : lo' ≤ lo) : ∀ {m : List Host.Cell}, cellsFrom lo m = true → cellsFrom lo' m = true
  | [], _ => rfl
  | (a, v) :: r, hm => by
    simp only [cellsFrom, Bool.and_eq_true, decide_eq_true_eq] at hm ⊢
    exact ⟨⟨by omega, hm.1.2⟩, hm.2⟩

theorem cellAt_below {lo : Nat} : ∀ {m : List Host.Cell} {a : Nat}, cellsFrom lo m = true → a < lo → cellAt m a = none
  | [], _, _, _ => rfl
  | (b, v) :: r, a, hm, ha => by
    simp only [cellsFrom, Bool.and_eq_true, decide_eq_true_eq] at hm
    simp only [cellAt]
    rw [if_neg (by omega)]
    exact cellAt_below hm.2 (by omega)

/-- A byte put keeps the form. -/
theorem cellsFrom_cellPut {lo : Nat} : ∀ {m : List Host.Cell} {a : Nat} {v : Byte},
    cellsFrom lo m = true → lo ≤ a → cellsFrom lo (cellPut m a v) = true
  | [], a, v, _, ha => by
    simp only [cellPut]
    split
    · rfl
    · rename_i h
      simp only [cellsFrom, ha, decide_true, Bool.true_and, Bool.and_true, Bool.not_eq_true', Bool.and_eq_false_iff,
        decide_eq_false_iff_not, beq_eq_false_iff_ne]
      by_cases hb : hbmTop ≤ a
      · exact Or.inr fun hv => h ⟨hb, hv⟩
      · exact Or.inl hb
  | (b, w) :: r, a, v, hm, ha => by
    have hm' := hm
    simp only [cellsFrom, Bool.and_eq_true, decide_eq_true_eq] at hm
    simp only [cellPut]
    split
    · rename_i hb
      simp only [cellsFrom, Bool.and_eq_true, decide_eq_true_eq]
      exact ⟨hm.1, cellsFrom_cellPut hm.2 (by omega)⟩
    · rename_i hb
      have ht : cellsFrom (a + 1) (if b = a then r else (b, w) :: r) = true := by
        split
        · rename_i he; subst he; exact hm.2
        · simp only [cellsFrom, Bool.and_eq_true, decide_eq_true_eq]
          exact ⟨⟨by omega, hm.1.2⟩, hm.2⟩
      split
      · exact cellsFrom_mono (by omega) ht
      · rename_i h
        simp only [cellsFrom, Bool.and_eq_true, decide_eq_true_eq]
        refine ⟨⟨ha, ?_⟩, ht⟩
        by_cases hb : hbmTop ≤ a
        · simp only [hb, decide_true, Bool.true_and, Bool.not_eq_true', beq_eq_false_iff_ne]
          exact fun hv => h ⟨hb, hv⟩
        · simp [hb]

theorem wf_cellPut {m : List Host.Cell} (a : Nat) (v : Byte) (h : Memory.wf m = true) : Memory.wf (cellPut m a v) = true :=
  cellsFrom_cellPut h (Nat.zero_le a)

/-- Bytes put one after another keep the form. -/
theorem wf_cellsPut : ∀ {m : List Host.Cell} (a : Nat) (l : List Byte), Memory.wf m = true → Memory.wf (cellsPut m a l) = true
  | _, _, [], h => h
  | _, a, v :: r, h => wf_cellsPut (a + 1) r (wf_cellPut a v h)

theorem cellsFrom_filter {p : Host.Cell → Bool} {lo : Nat} : ∀ {m : List Host.Cell},
    cellsFrom lo m = true → cellsFrom lo (m.filter p) = true
  | [], _ => rfl
  | (a, v) :: r, hm => by
    simp only [cellsFrom, Bool.and_eq_true, decide_eq_true_eq] at hm
    rw [List.filter_cons]
    split
    · simp only [cellsFrom, Bool.and_eq_true, decide_eq_true_eq]
      exact ⟨hm.1, cellsFrom_filter hm.2⟩
    · exact cellsFrom_mono (by omega) (cellsFrom_filter (p := p) hm.2)

/-- A range dropped keeps the form. -/
theorem wf_cellsDrop {m : List Host.Cell} (lo hi : Nat) (h : Memory.wf m = true) : Memory.wf (cellsDrop m lo hi) = true :=
  cellsFrom_filter h

/-- A write of bytes keeps the form. -/
theorem wf_write (s : State) (a : Nat) (l : List Byte) (h : Memory.wf s.mem = true) : Memory.wf (s.write a l).mem = true :=
  wf_cellsPut a l h

/-- A line written keeps the form. -/
theorem wf_putLine (s : State) (a : Nat) (l : Line) (h : Memory.wf s.mem = true) : Memory.wf (s.putLine a l).mem = true :=
  wf_write s a (bytesOfLine l) h

theorem cellAt_cellPut_self {a : Nat} {v : Byte} (m : List Host.Cell) :
    ∀ {lo : Nat}, cellsFrom lo m = true → cellAt (cellPut m a v) a = if hbmTop ≤ a ∧ v = 0#8 then none else some v := by
  generalize hz : hbmTop = z
  induction m with
  | nil =>
    intro lo _
    simp only [cellPut, hz]
    split <;> simp [cellAt]
  | cons p r ih =>
    obtain ⟨b, w⟩ := p
    intro lo hm
    simp only [cellsFrom, Bool.and_eq_true, decide_eq_true_eq] at hm
    simp only [cellPut, hz]
    by_cases hb : b < a
    · rw [if_pos hb]
      simp only [cellAt]
      rw [if_neg (by omega)]
      exact ih hm.2
    · rw [if_neg hb]
      by_cases hc : z ≤ a ∧ v = 0#8
      · rw [if_pos hc, if_pos hc]
        by_cases he : b = a
        · rw [if_pos he]; subst he; exact cellAt_below hm.2 (by omega)
        · rw [if_neg he]
          simp only [cellAt]
          rw [if_neg he]
          exact cellAt_below hm.2 (by omega)
      · rw [if_neg hc, if_neg hc]
        simp [cellAt]

theorem cellAt_cellPut_ne : ∀ {m : List Host.Cell} {a c : Nat} {v : Byte}, c ≠ a → cellAt (cellPut m a v) c = cellAt m c
  | [], a, c, v, h => by
    simp only [cellPut]
    split <;> simp [cellAt, Ne.symm h]
  | (b, w) :: r, a, c, v, h => by
    simp only [cellPut]
    split
    · simp only [cellAt]
      split
      · rfl
      · exact cellAt_cellPut_ne h
    · have ht : cellAt (if b = a then r else (b, w) :: r) c = cellAt ((b, w) :: r) c := by
        split
        · rename_i he; subst he; simp [cellAt, Ne.symm h]
        · rfl
      split
      · exact ht
      · rw [show cellAt ((a, v) :: (if b = a then r else (b, w) :: r)) c = cellAt (if b = a then r else (b, w) :: r) c by
          simp [cellAt, Ne.symm h]]
        exact ht

/-- The state with one byte put. -/
theorem byte_put (s : State) (a c : Nat) (v : Byte) (h : Memory.wf s.mem = true) :
    State.byte { s with mem := cellPut s.mem a v } c = if c = a then v else s.byte c := by
  by_cases he : c = a
  · subst he
    rw [if_pos rfl]
    unfold State.byte
    simp only
    rw [cellAt_cellPut_self s.mem h]
    by_cases hz : hbmTop ≤ c ∧ v = 0#8
    · rw [if_pos hz]
      unfold State.unlisted
      rw [if_neg (Nat.not_lt.mpr hz.1)]
      simp [hz.2]
    · rw [if_neg hz]; rfl
  · rw [if_neg he]
    unfold State.byte
    simp only
    rw [cellAt_cellPut_ne he]
    rfl

/-- Bytes put read back in order, and every other byte reads as before. -/
theorem byte_cellsPut (s : State) : ∀ (l : List Byte) (m : List Host.Cell) (a c : Nat), Memory.wf m = true →
    State.byte { s with mem := cellsPut m a l } c =
      if h : a ≤ c ∧ c < a + l.length then l[c - a]'(by omega) else State.byte { s with mem := m } c
  | [], m, a, c, _ => by simp [cellsPut] <;> omega
  | v :: r, m, a, c, hm => by
    rw [cellsPut, byte_cellsPut s r _ (a + 1) c (wf_cellPut a v hm)]
    have hb := byte_put { s with mem := m } a c v hm
    simp only at hb
    by_cases h1 : a + 1 ≤ c ∧ c < a + 1 + r.length
    · rw [dif_pos h1, dif_pos (by simp; omega)]
      have : c - a = (c - (a + 1)) + 1 := by omega
      simp [this]
    · rw [dif_neg h1, hb]
      by_cases h2 : c = a
      · subst h2; rw [if_pos rfl, dif_pos (by simp)]; simp
      · rw [if_neg h2, dif_neg (by simp; omega)]

/-- A write of bytes: the bytes of its range read as written, every other byte as before. -/
theorem byte_write (s : State) (a c : Nat) (l : List Byte) (h : Memory.wf s.mem = true) :
    (s.write a l).byte c = if h : a ≤ c ∧ c < a + l.length then l[c - a]'(by omega) else s.byte c :=
  byte_cellsPut s l s.mem a c h

end Sys2Proof.Machine
end

