-- ==== Sys2Proof/Laws/State.lean ====
section
/-! SUPPORT. Named updates of the state: what each leaves of every field, and what each reader finds after it. -/
namespace Sys2Proof.Machine
open State

/-! ### at -/

@[simp] theorem at_freeCtr (s : State) (c : Nat) : (s.at c).freeCtr = s.freeCtr := rfl
@[simp] theorem at_bell (s : State) (c : Nat) : (s.at c).bell = s.bell := rfl
@[simp] theorem at_asks (s : State) (c : Nat) : (s.at c).asks = s.asks := rfl
@[simp] theorem at_decisions (s : State) (c : Nat) : (s.at c).decisions = s.decisions := rfl
@[simp] theorem at_mem (s : State) (c : Nat) : (s.at c).mem = s.mem := rfl
@[simp] theorem at_hbmEpoch (s : State) (c : Nat) : (s.at c).hbmEpoch = s.hbmEpoch := rfl
@[simp] theorem at_stalls (s : State) (c : Nat) : (s.at c).stalls = s.stalls := rfl
@[simp] theorem at_ports (s : State) (c : Nat) : (s.at c).ports = s.ports := rfl
@[simp] theorem at_squares (s : State) (c : Nat) : (s.at c).squares = s.squares := rfl
@[simp] theorem at_sqReqs (s : State) (c : Nat) : (s.at c).sqReqs = s.sqReqs := rfl
@[simp] theorem at_sigs (s : State) (c : Nat) : (s.at c).sigs = s.sigs := rfl
@[simp] theorem at_flits (s : State) (c : Nat) : (s.at c).flits = s.flits := rfl
@[simp] theorem at_reqs (s : State) (c : Nat) : (s.at c).reqs = s.reqs := rfl
@[simp] theorem at_idSeq (s : State) (c : Nat) : (s.at c).idSeq = s.idSeq := rfl
@[simp] theorem at_spine (s : State) (c : Nat) : (s.at c).spine = s.spine := rfl
@[simp] theorem at_slices (s : State) (c : Nat) : (s.at c).slices = s.slices := rfl
@[simp] theorem at_units (s : State) (c : Nat) : (s.at c).units = s.units := rfl
@[simp] theorem at_arrivals (s : State) (c : Nat) : (s.at c).arrivals = s.arrivals := rfl
@[simp] theorem at_casts (s : State) (c : Nat) : (s.at c).casts = s.casts := rfl
@[simp] theorem at_answers (s : State) (c : Nat) : (s.at c).answers = s.answers := rfl
@[simp] theorem at_tlySats (s : State) (c : Nat) : (s.at c).tlySats = s.tlySats := rfl
@[simp] theorem at_tlyRejects (s : State) (c : Nat) : (s.at c).tlyRejects = s.tlyRejects := rfl
@[simp] theorem at_ledger (s : State) (c : Nat) : (s.at c).ledger = s.ledger := rfl
@[simp] theorem at_dieMem (s : State) (c : Nat) : (s.at c).dieMem = s.dieMem := rfl
@[simp] theorem at_failedLinks (s : State) (c : Nat) : (s.at c).failedLinks = s.failedLinks := rfl
@[simp] theorem at_failing (s : State) (c : Nat) : (s.at c).failing = s.failing := rfl
@[simp] theorem at_lostStores (s : State) (c : Nat) : (s.at c).lostStores = s.lostStores := rfl
@[simp] theorem at_fab (s : State) (c : Nat) : (s.at c).fab = s.fab := rfl
@[simp] theorem at_ctxs (s : State) (c : Nat) : (s.at c).ctxs = s.ctxs := rfl
@[simp] theorem at_dispatches (s : State) (c : Nat) : (s.at c).dispatches = s.dispatches := rfl
@[simp] theorem at_gathers (s : State) (c : Nat) : (s.at c).gathers = s.gathers := rfl
@[simp] theorem at_sets (s : State) (c : Nat) : (s.at c).sets = s.sets := rfl
@[simp] theorem at_binds (s : State) (c : Nat) : (s.at c).binds = s.binds := rfl
@[simp] theorem at_aborts (s : State) (c : Nat) : (s.at c).aborts = s.aborts := rfl
@[simp] theorem at_cores (s : State) (c : Nat) : (s.at c).cores = s.cores := rfl
@[simp] theorem at_served (s : State) (c : Nat) : (s.at c).served = s.served := rfl
@[simp] theorem at_fencedDoms (s : State) (c : Nat) : (s.at c).fencedDoms = s.fencedDoms := rfl
@[simp] theorem at_deadDies (s : State) (c : Nat) : (s.at c).deadDies = s.deadDies := rfl
@[simp] theorem at_heldDies (s : State) (c : Nat) : (s.at c).heldDies = s.heldDies := rfl
@[simp] theorem at_regs (s : State) (c : Nat) : (s.at c).regs = s.regs := rfl
@[simp] theorem at_live (s : State) (c : Nat) : (s.at c).live = s.live := rfl
@[simp] theorem at_mod (s : State) (c : Nat) : (s.at c).mod = s.mod := rfl
@[simp] theorem at_conf (s : State) (c : Nat) : (s.at c).conf = s.conf := rfl
@[simp] theorem at_inc (s : State) (c : Nat) : (s.at c).inc = s.inc := rfl
@[simp] theorem at_out (s : State) (c : Nat) : (s.at c).out = s.out := rfl
@[simp] theorem at_outWait (s : State) (c : Nat) : (s.at c).outWait = s.outWait := rfl
@[simp] theorem at_rings (s : State) (c : Nat) : (s.at c).rings = s.rings := rfl
@[simp] theorem at_intLast (s : State) (c : Nat) : (s.at c).intLast = s.intLast := rfl
@[simp] theorem at_intHeld (s : State) (c : Nat) : (s.at c).intHeld = s.intHeld := rfl
@[simp] theorem at_trust (s : State) (c : Nat) : (s.at c).trust = s.trust := rfl
@[simp] theorem at_flash (s : State) (c : Nat) : (s.at c).flash = s.flash := rfl
@[simp] theorem at_pow (s : State) (c : Nat) : (s.at c).pow = s.pow := rfl
@[simp] theorem at_cus (s : State) (c : Nat) : (s.at c).cus = s.cus := rfl
@[simp] theorem at_queues (s : State) (c : Nat) : (s.at c).queues = s.queues := rfl
@[simp] theorem at_pkg (s : State) (c : Nat) : (s.at c).pkg = s.pkg := rfl
@[simp] theorem at_pending (s : State) (c : Nat) : (s.at c).pending = s.pending := rfl
@[simp] theorem at_get_stall (s : State) (c : Nat) (j : Nat) : (s.at c).stall j = s.stall j := rfl
@[simp] theorem at_get_port (s : State) (c : Nat) (j : Nat) : (s.at c).port j = s.port j := rfl
@[simp] theorem at_get_ctx (s : State) (c : Nat) (j : Nat) : (s.at c).ctx j = s.ctx j := rfl
@[simp] theorem at_get_unit (s : State) (c : Nat) (j : Nat) : (s.at c).unit j = s.unit j := rfl
@[simp] theorem at_get_ring (s : State) (c : Nat) (j : Nat) : (s.at c).ring j = s.ring j := rfl
@[simp] theorem at_get_core (s : State) (c : Nat) (e j : Nat) : (s.at c).core e j = s.core e j := rfl
@[simp] theorem at_get_wport (s : State) (c : Nat) (j : Nat) : (s.at c).wport j = s.wport j := rfl
@[simp] theorem at_get_byte (s : State) (c : Nat) (j : Nat) : (s.at c).byte j = s.byte j := rfl
@[simp] theorem at_get_line (s : State) (c : Nat) (j : Nat) : (s.at c).line j = s.line j := rfl

/-! ### useFree -/

@[simp] theorem useFree_now (s : State) (n : Nat) : (s.useFree n).now = s.now := rfl
@[simp] theorem useFree_bell (s : State) (n : Nat) : (s.useFree n).bell = s.bell := rfl
@[simp] theorem useFree_asks (s : State) (n : Nat) : (s.useFree n).asks = s.asks := rfl
@[simp] theorem useFree_decisions (s : State) (n : Nat) : (s.useFree n).decisions = s.decisions := rfl
@[simp] theorem useFree_mem (s : State) (n : Nat) : (s.useFree n).mem = s.mem := rfl
@[simp] theorem useFree_hbmEpoch (s : State) (n : Nat) : (s.useFree n).hbmEpoch = s.hbmEpoch := rfl
@[simp] theorem useFree_stalls (s : State) (n : Nat) : (s.useFree n).stalls = s.stalls := rfl
@[simp] theorem useFree_ports (s : State) (n : Nat) : (s.useFree n).ports = s.ports := rfl
@[simp] theorem useFree_squares (s : State) (n : Nat) : (s.useFree n).squares = s.squares := rfl
@[simp] theorem useFree_sqReqs (s : State) (n : Nat) : (s.useFree n).sqReqs = s.sqReqs := rfl
@[simp] theorem useFree_sigs (s : State) (n : Nat) : (s.useFree n).sigs = s.sigs := rfl
@[simp] theorem useFree_flits (s : State) (n : Nat) : (s.useFree n).flits = s.flits := rfl
@[simp] theorem useFree_reqs (s : State) (n : Nat) : (s.useFree n).reqs = s.reqs := rfl
@[simp] theorem useFree_idSeq (s : State) (n : Nat) : (s.useFree n).idSeq = s.idSeq := rfl
@[simp] theorem useFree_spine (s : State) (n : Nat) : (s.useFree n).spine = s.spine := rfl
@[simp] theorem useFree_slices (s : State) (n : Nat) : (s.useFree n).slices = s.slices := rfl
@[simp] theorem useFree_units (s : State) (n : Nat) : (s.useFree n).units = s.units := rfl
@[simp] theorem useFree_arrivals (s : State) (n : Nat) : (s.useFree n).arrivals = s.arrivals := rfl
@[simp] theorem useFree_casts (s : State) (n : Nat) : (s.useFree n).casts = s.casts := rfl
@[simp] theorem useFree_answers (s : State) (n : Nat) : (s.useFree n).answers = s.answers := rfl
@[simp] theorem useFree_tlySats (s : State) (n : Nat) : (s.useFree n).tlySats = s.tlySats := rfl
@[simp] theorem useFree_tlyRejects (s : State) (n : Nat) : (s.useFree n).tlyRejects = s.tlyRejects := rfl
@[simp] theorem useFree_ledger (s : State) (n : Nat) : (s.useFree n).ledger = s.ledger := rfl
@[simp] theorem useFree_dieMem (s : State) (n : Nat) : (s.useFree n).dieMem = s.dieMem := rfl
@[simp] theorem useFree_failedLinks (s : State) (n : Nat) : (s.useFree n).failedLinks = s.failedLinks := rfl
@[simp] theorem useFree_failing (s : State) (n : Nat) : (s.useFree n).failing = s.failing := rfl
@[simp] theorem useFree_lostStores (s : State) (n : Nat) : (s.useFree n).lostStores = s.lostStores := rfl
@[simp] theorem useFree_fab (s : State) (n : Nat) : (s.useFree n).fab = s.fab := rfl
@[simp] theorem useFree_ctxs (s : State) (n : Nat) : (s.useFree n).ctxs = s.ctxs := rfl
@[simp] theorem useFree_dispatches (s : State) (n : Nat) : (s.useFree n).dispatches = s.dispatches := rfl
@[simp] theorem useFree_gathers (s : State) (n : Nat) : (s.useFree n).gathers = s.gathers := rfl
@[simp] theorem useFree_sets (s : State) (n : Nat) : (s.useFree n).sets = s.sets := rfl
@[simp] theorem useFree_binds (s : State) (n : Nat) : (s.useFree n).binds = s.binds := rfl
@[simp] theorem useFree_aborts (s : State) (n : Nat) : (s.useFree n).aborts = s.aborts := rfl
@[simp] theorem useFree_cores (s : State) (n : Nat) : (s.useFree n).cores = s.cores := rfl
@[simp] theorem useFree_served (s : State) (n : Nat) : (s.useFree n).served = s.served := rfl
@[simp] theorem useFree_fencedDoms (s : State) (n : Nat) : (s.useFree n).fencedDoms = s.fencedDoms := rfl
@[simp] theorem useFree_deadDies (s : State) (n : Nat) : (s.useFree n).deadDies = s.deadDies := rfl
@[simp] theorem useFree_heldDies (s : State) (n : Nat) : (s.useFree n).heldDies = s.heldDies := rfl
@[simp] theorem useFree_regs (s : State) (n : Nat) : (s.useFree n).regs = s.regs := rfl
@[simp] theorem useFree_live (s : State) (n : Nat) : (s.useFree n).live = s.live := rfl
@[simp] theorem useFree_mod (s : State) (n : Nat) : (s.useFree n).mod = s.mod := rfl
@[simp] theorem useFree_conf (s : State) (n : Nat) : (s.useFree n).conf = s.conf := rfl
@[simp] theorem useFree_inc (s : State) (n : Nat) : (s.useFree n).inc = s.inc := rfl
@[simp] theorem useFree_out (s : State) (n : Nat) : (s.useFree n).out = s.out := rfl
@[simp] theorem useFree_outWait (s : State) (n : Nat) : (s.useFree n).outWait = s.outWait := rfl
@[simp] theorem useFree_rings (s : State) (n : Nat) : (s.useFree n).rings = s.rings := rfl
@[simp] theorem useFree_intLast (s : State) (n : Nat) : (s.useFree n).intLast = s.intLast := rfl
@[simp] theorem useFree_intHeld (s : State) (n : Nat) : (s.useFree n).intHeld = s.intHeld := rfl
@[simp] theorem useFree_trust (s : State) (n : Nat) : (s.useFree n).trust = s.trust := rfl
@[simp] theorem useFree_flash (s : State) (n : Nat) : (s.useFree n).flash = s.flash := rfl
@[simp] theorem useFree_pow (s : State) (n : Nat) : (s.useFree n).pow = s.pow := rfl
@[simp] theorem useFree_cus (s : State) (n : Nat) : (s.useFree n).cus = s.cus := rfl
@[simp] theorem useFree_queues (s : State) (n : Nat) : (s.useFree n).queues = s.queues := rfl
@[simp] theorem useFree_pkg (s : State) (n : Nat) : (s.useFree n).pkg = s.pkg := rfl
@[simp] theorem useFree_pending (s : State) (n : Nat) : (s.useFree n).pending = s.pending := rfl
@[simp] theorem useFree_get_stall (s : State) (n : Nat) (j : Nat) : (s.useFree n).stall j = s.stall j := rfl
@[simp] theorem useFree_get_port (s : State) (n : Nat) (j : Nat) : (s.useFree n).port j = s.port j := rfl
@[simp] theorem useFree_get_ctx (s : State) (n : Nat) (j : Nat) : (s.useFree n).ctx j = s.ctx j := rfl
@[simp] theorem useFree_get_unit (s : State) (n : Nat) (j : Nat) : (s.useFree n).unit j = s.unit j := rfl
@[simp] theorem useFree_get_ring (s : State) (n : Nat) (j : Nat) : (s.useFree n).ring j = s.ring j := rfl
@[simp] theorem useFree_get_core (s : State) (n : Nat) (e j : Nat) : (s.useFree n).core e j = s.core e j := rfl
@[simp] theorem useFree_get_wport (s : State) (n : Nat) (j : Nat) : (s.useFree n).wport j = s.wport j := rfl
@[simp] theorem useFree_get_byte (s : State) (n : Nat) (j : Nat) : (s.useFree n).byte j = s.byte j := rfl
@[simp] theorem useFree_get_line (s : State) (n : Nat) (j : Nat) : (s.useFree n).line j = s.line j := rfl

/-! ### send -/

@[simp] theorem send_now (s : State) (x : Symbol) : (s.send x).now = s.now := rfl
@[simp] theorem send_freeCtr (s : State) (x : Symbol) : (s.send x).freeCtr = s.freeCtr := rfl
@[simp] theorem send_asks (s : State) (x : Symbol) : (s.send x).asks = s.asks := rfl
@[simp] theorem send_decisions (s : State) (x : Symbol) : (s.send x).decisions = s.decisions := rfl
@[simp] theorem send_mem (s : State) (x : Symbol) : (s.send x).mem = s.mem := rfl
@[simp] theorem send_hbmEpoch (s : State) (x : Symbol) : (s.send x).hbmEpoch = s.hbmEpoch := rfl
@[simp] theorem send_stalls (s : State) (x : Symbol) : (s.send x).stalls = s.stalls := rfl
@[simp] theorem send_ports (s : State) (x : Symbol) : (s.send x).ports = s.ports := rfl
@[simp] theorem send_squares (s : State) (x : Symbol) : (s.send x).squares = s.squares := rfl
@[simp] theorem send_sqReqs (s : State) (x : Symbol) : (s.send x).sqReqs = s.sqReqs := rfl
@[simp] theorem send_sigs (s : State) (x : Symbol) : (s.send x).sigs = s.sigs := rfl
@[simp] theorem send_flits (s : State) (x : Symbol) : (s.send x).flits = s.flits := rfl
@[simp] theorem send_reqs (s : State) (x : Symbol) : (s.send x).reqs = s.reqs := rfl
@[simp] theorem send_idSeq (s : State) (x : Symbol) : (s.send x).idSeq = s.idSeq := rfl
@[simp] theorem send_spine (s : State) (x : Symbol) : (s.send x).spine = s.spine := rfl
@[simp] theorem send_slices (s : State) (x : Symbol) : (s.send x).slices = s.slices := rfl
@[simp] theorem send_units (s : State) (x : Symbol) : (s.send x).units = s.units := rfl
@[simp] theorem send_arrivals (s : State) (x : Symbol) : (s.send x).arrivals = s.arrivals := rfl
@[simp] theorem send_casts (s : State) (x : Symbol) : (s.send x).casts = s.casts := rfl
@[simp] theorem send_answers (s : State) (x : Symbol) : (s.send x).answers = s.answers := rfl
@[simp] theorem send_tlySats (s : State) (x : Symbol) : (s.send x).tlySats = s.tlySats := rfl
@[simp] theorem send_tlyRejects (s : State) (x : Symbol) : (s.send x).tlyRejects = s.tlyRejects := rfl
@[simp] theorem send_ledger (s : State) (x : Symbol) : (s.send x).ledger = s.ledger := rfl
@[simp] theorem send_dieMem (s : State) (x : Symbol) : (s.send x).dieMem = s.dieMem := rfl
@[simp] theorem send_failedLinks (s : State) (x : Symbol) : (s.send x).failedLinks = s.failedLinks := rfl
@[simp] theorem send_failing (s : State) (x : Symbol) : (s.send x).failing = s.failing := rfl
@[simp] theorem send_lostStores (s : State) (x : Symbol) : (s.send x).lostStores = s.lostStores := rfl
@[simp] theorem send_fab (s : State) (x : Symbol) : (s.send x).fab = s.fab := rfl
@[simp] theorem send_ctxs (s : State) (x : Symbol) : (s.send x).ctxs = s.ctxs := rfl
@[simp] theorem send_dispatches (s : State) (x : Symbol) : (s.send x).dispatches = s.dispatches := rfl
@[simp] theorem send_gathers (s : State) (x : Symbol) : (s.send x).gathers = s.gathers := rfl
@[simp] theorem send_sets (s : State) (x : Symbol) : (s.send x).sets = s.sets := rfl
@[simp] theorem send_binds (s : State) (x : Symbol) : (s.send x).binds = s.binds := rfl
@[simp] theorem send_aborts (s : State) (x : Symbol) : (s.send x).aborts = s.aborts := rfl
@[simp] theorem send_cores (s : State) (x : Symbol) : (s.send x).cores = s.cores := rfl
@[simp] theorem send_served (s : State) (x : Symbol) : (s.send x).served = s.served := rfl
@[simp] theorem send_fencedDoms (s : State) (x : Symbol) : (s.send x).fencedDoms = s.fencedDoms := rfl
@[simp] theorem send_deadDies (s : State) (x : Symbol) : (s.send x).deadDies = s.deadDies := rfl
@[simp] theorem send_heldDies (s : State) (x : Symbol) : (s.send x).heldDies = s.heldDies := rfl
@[simp] theorem send_regs (s : State) (x : Symbol) : (s.send x).regs = s.regs := rfl
@[simp] theorem send_live (s : State) (x : Symbol) : (s.send x).live = s.live := rfl
@[simp] theorem send_mod (s : State) (x : Symbol) : (s.send x).mod = s.mod := rfl
@[simp] theorem send_conf (s : State) (x : Symbol) : (s.send x).conf = s.conf := rfl
@[simp] theorem send_inc (s : State) (x : Symbol) : (s.send x).inc = s.inc := rfl
@[simp] theorem send_out (s : State) (x : Symbol) : (s.send x).out = s.out := rfl
@[simp] theorem send_outWait (s : State) (x : Symbol) : (s.send x).outWait = s.outWait := rfl
@[simp] theorem send_rings (s : State) (x : Symbol) : (s.send x).rings = s.rings := rfl
@[simp] theorem send_intLast (s : State) (x : Symbol) : (s.send x).intLast = s.intLast := rfl
@[simp] theorem send_intHeld (s : State) (x : Symbol) : (s.send x).intHeld = s.intHeld := rfl
@[simp] theorem send_trust (s : State) (x : Symbol) : (s.send x).trust = s.trust := rfl
@[simp] theorem send_flash (s : State) (x : Symbol) : (s.send x).flash = s.flash := rfl
@[simp] theorem send_pow (s : State) (x : Symbol) : (s.send x).pow = s.pow := rfl
@[simp] theorem send_cus (s : State) (x : Symbol) : (s.send x).cus = s.cus := rfl
@[simp] theorem send_queues (s : State) (x : Symbol) : (s.send x).queues = s.queues := rfl
@[simp] theorem send_pkg (s : State) (x : Symbol) : (s.send x).pkg = s.pkg := rfl
@[simp] theorem send_pending (s : State) (x : Symbol) : (s.send x).pending = s.pending := rfl
@[simp] theorem send_get_stall (s : State) (x : Symbol) (j : Nat) : (s.send x).stall j = s.stall j := rfl
@[simp] theorem send_get_port (s : State) (x : Symbol) (j : Nat) : (s.send x).port j = s.port j := rfl
@[simp] theorem send_get_ctx (s : State) (x : Symbol) (j : Nat) : (s.send x).ctx j = s.ctx j := rfl
@[simp] theorem send_get_unit (s : State) (x : Symbol) (j : Nat) : (s.send x).unit j = s.unit j := rfl
@[simp] theorem send_get_ring (s : State) (x : Symbol) (j : Nat) : (s.send x).ring j = s.ring j := rfl
@[simp] theorem send_get_core (s : State) (x : Symbol) (e j : Nat) : (s.send x).core e j = s.core e j := rfl
@[simp] theorem send_get_wport (s : State) (x : Symbol) (j : Nat) : (s.send x).wport j = s.wport j := rfl
@[simp] theorem send_get_byte (s : State) (x : Symbol) (j : Nat) : (s.send x).byte j = s.byte j := rfl
@[simp] theorem send_get_line (s : State) (x : Symbol) (j : Nat) : (s.send x).line j = s.line j := rfl

/-! ### write -/

@[simp] theorem write_now (s : State) (a : Nat) (l : List Byte) : (s.write a l).now = s.now := rfl
@[simp] theorem write_freeCtr (s : State) (a : Nat) (l : List Byte) : (s.write a l).freeCtr = s.freeCtr := rfl
@[simp] theorem write_bell (s : State) (a : Nat) (l : List Byte) : (s.write a l).bell = s.bell := rfl
@[simp] theorem write_asks (s : State) (a : Nat) (l : List Byte) : (s.write a l).asks = s.asks := rfl
@[simp] theorem write_decisions (s : State) (a : Nat) (l : List Byte) : (s.write a l).decisions = s.decisions := rfl
@[simp] theorem write_hbmEpoch (s : State) (a : Nat) (l : List Byte) : (s.write a l).hbmEpoch = s.hbmEpoch := rfl
@[simp] theorem write_stalls (s : State) (a : Nat) (l : List Byte) : (s.write a l).stalls = s.stalls := rfl
@[simp] theorem write_ports (s : State) (a : Nat) (l : List Byte) : (s.write a l).ports = s.ports := rfl
@[simp] theorem write_squares (s : State) (a : Nat) (l : List Byte) : (s.write a l).squares = s.squares := rfl
@[simp] theorem write_sqReqs (s : State) (a : Nat) (l : List Byte) : (s.write a l).sqReqs = s.sqReqs := rfl
@[simp] theorem write_sigs (s : State) (a : Nat) (l : List Byte) : (s.write a l).sigs = s.sigs := rfl
@[simp] theorem write_flits (s : State) (a : Nat) (l : List Byte) : (s.write a l).flits = s.flits := rfl
@[simp] theorem write_reqs (s : State) (a : Nat) (l : List Byte) : (s.write a l).reqs = s.reqs := rfl
@[simp] theorem write_idSeq (s : State) (a : Nat) (l : List Byte) : (s.write a l).idSeq = s.idSeq := rfl
@[simp] theorem write_spine (s : State) (a : Nat) (l : List Byte) : (s.write a l).spine = s.spine := rfl
@[simp] theorem write_slices (s : State) (a : Nat) (l : List Byte) : (s.write a l).slices = s.slices := rfl
@[simp] theorem write_units (s : State) (a : Nat) (l : List Byte) : (s.write a l).units = s.units := rfl
@[simp] theorem write_arrivals (s : State) (a : Nat) (l : List Byte) : (s.write a l).arrivals = s.arrivals := rfl
@[simp] theorem write_casts (s : State) (a : Nat) (l : List Byte) : (s.write a l).casts = s.casts := rfl
@[simp] theorem write_answers (s : State) (a : Nat) (l : List Byte) : (s.write a l).answers = s.answers := rfl
@[simp] theorem write_tlySats (s : State) (a : Nat) (l : List Byte) : (s.write a l).tlySats = s.tlySats := rfl
@[simp] theorem write_tlyRejects (s : State) (a : Nat) (l : List Byte) : (s.write a l).tlyRejects = s.tlyRejects := rfl
@[simp] theorem write_ledger (s : State) (a : Nat) (l : List Byte) : (s.write a l).ledger = s.ledger := rfl
@[simp] theorem write_dieMem (s : State) (a : Nat) (l : List Byte) : (s.write a l).dieMem = s.dieMem := rfl
@[simp] theorem write_failedLinks (s : State) (a : Nat) (l : List Byte) : (s.write a l).failedLinks = s.failedLinks := rfl
@[simp] theorem write_failing (s : State) (a : Nat) (l : List Byte) : (s.write a l).failing = s.failing := rfl
@[simp] theorem write_lostStores (s : State) (a : Nat) (l : List Byte) : (s.write a l).lostStores = s.lostStores := rfl
@[simp] theorem write_fab (s : State) (a : Nat) (l : List Byte) : (s.write a l).fab = s.fab := rfl
@[simp] theorem write_ctxs (s : State) (a : Nat) (l : List Byte) : (s.write a l).ctxs = s.ctxs := rfl
@[simp] theorem write_dispatches (s : State) (a : Nat) (l : List Byte) : (s.write a l).dispatches = s.dispatches := rfl
@[simp] theorem write_gathers (s : State) (a : Nat) (l : List Byte) : (s.write a l).gathers = s.gathers := rfl
@[simp] theorem write_sets (s : State) (a : Nat) (l : List Byte) : (s.write a l).sets = s.sets := rfl
@[simp] theorem write_binds (s : State) (a : Nat) (l : List Byte) : (s.write a l).binds = s.binds := rfl
@[simp] theorem write_aborts (s : State) (a : Nat) (l : List Byte) : (s.write a l).aborts = s.aborts := rfl
@[simp] theorem write_cores (s : State) (a : Nat) (l : List Byte) : (s.write a l).cores = s.cores := rfl
@[simp] theorem write_served (s : State) (a : Nat) (l : List Byte) : (s.write a l).served = s.served := rfl
@[simp] theorem write_fencedDoms (s : State) (a : Nat) (l : List Byte) : (s.write a l).fencedDoms = s.fencedDoms := rfl
@[simp] theorem write_deadDies (s : State) (a : Nat) (l : List Byte) : (s.write a l).deadDies = s.deadDies := rfl
@[simp] theorem write_heldDies (s : State) (a : Nat) (l : List Byte) : (s.write a l).heldDies = s.heldDies := rfl
@[simp] theorem write_regs (s : State) (a : Nat) (l : List Byte) : (s.write a l).regs = s.regs := rfl
@[simp] theorem write_live (s : State) (a : Nat) (l : List Byte) : (s.write a l).live = s.live := rfl
@[simp] theorem write_mod (s : State) (a : Nat) (l : List Byte) : (s.write a l).mod = s.mod := rfl
@[simp] theorem write_conf (s : State) (a : Nat) (l : List Byte) : (s.write a l).conf = s.conf := rfl
@[simp] theorem write_inc (s : State) (a : Nat) (l : List Byte) : (s.write a l).inc = s.inc := rfl
@[simp] theorem write_out (s : State) (a : Nat) (l : List Byte) : (s.write a l).out = s.out := rfl
@[simp] theorem write_outWait (s : State) (a : Nat) (l : List Byte) : (s.write a l).outWait = s.outWait := rfl
@[simp] theorem write_rings (s : State) (a : Nat) (l : List Byte) : (s.write a l).rings = s.rings := rfl
@[simp] theorem write_intLast (s : State) (a : Nat) (l : List Byte) : (s.write a l).intLast = s.intLast := rfl
@[simp] theorem write_intHeld (s : State) (a : Nat) (l : List Byte) : (s.write a l).intHeld = s.intHeld := rfl
@[simp] theorem write_trust (s : State) (a : Nat) (l : List Byte) : (s.write a l).trust = s.trust := rfl
@[simp] theorem write_flash (s : State) (a : Nat) (l : List Byte) : (s.write a l).flash = s.flash := rfl
@[simp] theorem write_pow (s : State) (a : Nat) (l : List Byte) : (s.write a l).pow = s.pow := rfl
@[simp] theorem write_cus (s : State) (a : Nat) (l : List Byte) : (s.write a l).cus = s.cus := rfl
@[simp] theorem write_queues (s : State) (a : Nat) (l : List Byte) : (s.write a l).queues = s.queues := rfl
@[simp] theorem write_pkg (s : State) (a : Nat) (l : List Byte) : (s.write a l).pkg = s.pkg := rfl
@[simp] theorem write_pending (s : State) (a : Nat) (l : List Byte) : (s.write a l).pending = s.pending := rfl
@[simp] theorem write_get_stall (s : State) (a : Nat) (l : List Byte) (j : Nat) : (s.write a l).stall j = s.stall j := rfl
@[simp] theorem write_get_port (s : State) (a : Nat) (l : List Byte) (j : Nat) : (s.write a l).port j = s.port j := rfl
@[simp] theorem write_get_ctx (s : State) (a : Nat) (l : List Byte) (j : Nat) : (s.write a l).ctx j = s.ctx j := rfl
@[simp] theorem write_get_unit (s : State) (a : Nat) (l : List Byte) (j : Nat) : (s.write a l).unit j = s.unit j := rfl
@[simp] theorem write_get_ring (s : State) (a : Nat) (l : List Byte) (j : Nat) : (s.write a l).ring j = s.ring j := rfl
@[simp] theorem write_get_core (s : State) (a : Nat) (l : List Byte) (e j : Nat) : (s.write a l).core e j = s.core e j := rfl
@[simp] theorem write_get_wport (s : State) (a : Nat) (l : List Byte) (j : Nat) : (s.write a l).wport j = s.wport j := rfl

/-! ### putLine -/

@[simp] theorem putLine_now (s : State) (a : Nat) (l : Line) : (s.putLine a l).now = s.now := by rw [State.putLine, write_now]
@[simp] theorem putLine_freeCtr (s : State) (a : Nat) (l : Line) : (s.putLine a l).freeCtr = s.freeCtr := by rw [State.putLine, write_freeCtr]
@[simp] theorem putLine_bell (s : State) (a : Nat) (l : Line) : (s.putLine a l).bell = s.bell := by rw [State.putLine, write_bell]
@[simp] theorem putLine_asks (s : State) (a : Nat) (l : Line) : (s.putLine a l).asks = s.asks := by rw [State.putLine, write_asks]
@[simp] theorem putLine_decisions (s : State) (a : Nat) (l : Line) : (s.putLine a l).decisions = s.decisions := by rw [State.putLine, write_decisions]
@[simp] theorem putLine_hbmEpoch (s : State) (a : Nat) (l : Line) : (s.putLine a l).hbmEpoch = s.hbmEpoch := by rw [State.putLine, write_hbmEpoch]
@[simp] theorem putLine_stalls (s : State) (a : Nat) (l : Line) : (s.putLine a l).stalls = s.stalls := by rw [State.putLine, write_stalls]
@[simp] theorem putLine_ports (s : State) (a : Nat) (l : Line) : (s.putLine a l).ports = s.ports := by rw [State.putLine, write_ports]
@[simp] theorem putLine_squares (s : State) (a : Nat) (l : Line) : (s.putLine a l).squares = s.squares := by rw [State.putLine, write_squares]
@[simp] theorem putLine_sqReqs (s : State) (a : Nat) (l : Line) : (s.putLine a l).sqReqs = s.sqReqs := by rw [State.putLine, write_sqReqs]
@[simp] theorem putLine_sigs (s : State) (a : Nat) (l : Line) : (s.putLine a l).sigs = s.sigs := by rw [State.putLine, write_sigs]
@[simp] theorem putLine_flits (s : State) (a : Nat) (l : Line) : (s.putLine a l).flits = s.flits := by rw [State.putLine, write_flits]
@[simp] theorem putLine_reqs (s : State) (a : Nat) (l : Line) : (s.putLine a l).reqs = s.reqs := by rw [State.putLine, write_reqs]
@[simp] theorem putLine_idSeq (s : State) (a : Nat) (l : Line) : (s.putLine a l).idSeq = s.idSeq := by rw [State.putLine, write_idSeq]
@[simp] theorem putLine_spine (s : State) (a : Nat) (l : Line) : (s.putLine a l).spine = s.spine := by rw [State.putLine, write_spine]
@[simp] theorem putLine_slices (s : State) (a : Nat) (l : Line) : (s.putLine a l).slices = s.slices := by rw [State.putLine, write_slices]
@[simp] theorem putLine_units (s : State) (a : Nat) (l : Line) : (s.putLine a l).units = s.units := by rw [State.putLine, write_units]
@[simp] theorem putLine_arrivals (s : State) (a : Nat) (l : Line) : (s.putLine a l).arrivals = s.arrivals := by rw [State.putLine, write_arrivals]
@[simp] theorem putLine_casts (s : State) (a : Nat) (l : Line) : (s.putLine a l).casts = s.casts := by rw [State.putLine, write_casts]
@[simp] theorem putLine_answers (s : State) (a : Nat) (l : Line) : (s.putLine a l).answers = s.answers := by rw [State.putLine, write_answers]
@[simp] theorem putLine_tlySats (s : State) (a : Nat) (l : Line) : (s.putLine a l).tlySats = s.tlySats := by rw [State.putLine, write_tlySats]
@[simp] theorem putLine_tlyRejects (s : State) (a : Nat) (l : Line) : (s.putLine a l).tlyRejects = s.tlyRejects := by rw [State.putLine, write_tlyRejects]
@[simp] theorem putLine_ledger (s : State) (a : Nat) (l : Line) : (s.putLine a l).ledger = s.ledger := by rw [State.putLine, write_ledger]
@[simp] theorem putLine_dieMem (s : State) (a : Nat) (l : Line) : (s.putLine a l).dieMem = s.dieMem := by rw [State.putLine, write_dieMem]
@[simp] theorem putLine_failedLinks (s : State) (a : Nat) (l : Line) : (s.putLine a l).failedLinks = s.failedLinks := by rw [State.putLine, write_failedLinks]
@[simp] theorem putLine_failing (s : State) (a : Nat) (l : Line) : (s.putLine a l).failing = s.failing := by rw [State.putLine, write_failing]
@[simp] theorem putLine_lostStores (s : State) (a : Nat) (l : Line) : (s.putLine a l).lostStores = s.lostStores := by rw [State.putLine, write_lostStores]
@[simp] theorem putLine_fab (s : State) (a : Nat) (l : Line) : (s.putLine a l).fab = s.fab := by rw [State.putLine, write_fab]
@[simp] theorem putLine_ctxs (s : State) (a : Nat) (l : Line) : (s.putLine a l).ctxs = s.ctxs := by rw [State.putLine, write_ctxs]
@[simp] theorem putLine_dispatches (s : State) (a : Nat) (l : Line) : (s.putLine a l).dispatches = s.dispatches := by rw [State.putLine, write_dispatches]
@[simp] theorem putLine_gathers (s : State) (a : Nat) (l : Line) : (s.putLine a l).gathers = s.gathers := by rw [State.putLine, write_gathers]
@[simp] theorem putLine_sets (s : State) (a : Nat) (l : Line) : (s.putLine a l).sets = s.sets := by rw [State.putLine, write_sets]
@[simp] theorem putLine_binds (s : State) (a : Nat) (l : Line) : (s.putLine a l).binds = s.binds := by rw [State.putLine, write_binds]
@[simp] theorem putLine_aborts (s : State) (a : Nat) (l : Line) : (s.putLine a l).aborts = s.aborts := by rw [State.putLine, write_aborts]
@[simp] theorem putLine_cores (s : State) (a : Nat) (l : Line) : (s.putLine a l).cores = s.cores := by rw [State.putLine, write_cores]
@[simp] theorem putLine_served (s : State) (a : Nat) (l : Line) : (s.putLine a l).served = s.served := by rw [State.putLine, write_served]
@[simp] theorem putLine_fencedDoms (s : State) (a : Nat) (l : Line) : (s.putLine a l).fencedDoms = s.fencedDoms := by rw [State.putLine, write_fencedDoms]
@[simp] theorem putLine_deadDies (s : State) (a : Nat) (l : Line) : (s.putLine a l).deadDies = s.deadDies := by rw [State.putLine, write_deadDies]
@[simp] theorem putLine_heldDies (s : State) (a : Nat) (l : Line) : (s.putLine a l).heldDies = s.heldDies := by rw [State.putLine, write_heldDies]
@[simp] theorem putLine_regs (s : State) (a : Nat) (l : Line) : (s.putLine a l).regs = s.regs := by rw [State.putLine, write_regs]
@[simp] theorem putLine_live (s : State) (a : Nat) (l : Line) : (s.putLine a l).live = s.live := by rw [State.putLine, write_live]
@[simp] theorem putLine_mod (s : State) (a : Nat) (l : Line) : (s.putLine a l).mod = s.mod := by rw [State.putLine, write_mod]
@[simp] theorem putLine_conf (s : State) (a : Nat) (l : Line) : (s.putLine a l).conf = s.conf := by rw [State.putLine, write_conf]
@[simp] theorem putLine_inc (s : State) (a : Nat) (l : Line) : (s.putLine a l).inc = s.inc := by rw [State.putLine, write_inc]
@[simp] theorem putLine_out (s : State) (a : Nat) (l : Line) : (s.putLine a l).out = s.out := by rw [State.putLine, write_out]
@[simp] theorem putLine_outWait (s : State) (a : Nat) (l : Line) : (s.putLine a l).outWait = s.outWait := by rw [State.putLine, write_outWait]
@[simp] theorem putLine_rings (s : State) (a : Nat) (l : Line) : (s.putLine a l).rings = s.rings := by rw [State.putLine, write_rings]
@[simp] theorem putLine_intLast (s : State) (a : Nat) (l : Line) : (s.putLine a l).intLast = s.intLast := by rw [State.putLine, write_intLast]
@[simp] theorem putLine_intHeld (s : State) (a : Nat) (l : Line) : (s.putLine a l).intHeld = s.intHeld := by rw [State.putLine, write_intHeld]
@[simp] theorem putLine_trust (s : State) (a : Nat) (l : Line) : (s.putLine a l).trust = s.trust := by rw [State.putLine, write_trust]
@[simp] theorem putLine_flash (s : State) (a : Nat) (l : Line) : (s.putLine a l).flash = s.flash := by rw [State.putLine, write_flash]
@[simp] theorem putLine_pow (s : State) (a : Nat) (l : Line) : (s.putLine a l).pow = s.pow := by rw [State.putLine, write_pow]
@[simp] theorem putLine_cus (s : State) (a : Nat) (l : Line) : (s.putLine a l).cus = s.cus := by rw [State.putLine, write_cus]
@[simp] theorem putLine_queues (s : State) (a : Nat) (l : Line) : (s.putLine a l).queues = s.queues := by rw [State.putLine, write_queues]
@[simp] theorem putLine_pkg (s : State) (a : Nat) (l : Line) : (s.putLine a l).pkg = s.pkg := by rw [State.putLine, write_pkg]
@[simp] theorem putLine_pending (s : State) (a : Nat) (l : Line) : (s.putLine a l).pending = s.pending := by rw [State.putLine, write_pending]
@[simp] theorem putLine_get_stall (s : State) (a : Nat) (l : Line) (j : Nat) : (s.putLine a l).stall j = s.stall j := by rw [State.putLine, write_get_stall]
@[simp] theorem putLine_get_port (s : State) (a : Nat) (l : Line) (j : Nat) : (s.putLine a l).port j = s.port j := by rw [State.putLine, write_get_port]
@[simp] theorem putLine_get_ctx (s : State) (a : Nat) (l : Line) (j : Nat) : (s.putLine a l).ctx j = s.ctx j := by rw [State.putLine, write_get_ctx]
@[simp] theorem putLine_get_unit (s : State) (a : Nat) (l : Line) (j : Nat) : (s.putLine a l).unit j = s.unit j := by rw [State.putLine, write_get_unit]
@[simp] theorem putLine_get_ring (s : State) (a : Nat) (l : Line) (j : Nat) : (s.putLine a l).ring j = s.ring j := by rw [State.putLine, write_get_ring]
@[simp] theorem putLine_get_core (s : State) (a : Nat) (l : Line) (e j : Nat) : (s.putLine a l).core e j = s.core e j := by rw [State.putLine, write_get_core]
@[simp] theorem putLine_get_wport (s : State) (a : Nat) (l : Line) (j : Nat) : (s.putLine a l).wport j = s.wport j := by rw [State.putLine, write_get_wport]

/-! ### setStall -/

@[simp] theorem setStall_now (s : State) (k : Nat) (t : Stall) : (s.setStall k t).now = s.now := rfl
@[simp] theorem setStall_freeCtr (s : State) (k : Nat) (t : Stall) : (s.setStall k t).freeCtr = s.freeCtr := rfl
@[simp] theorem setStall_bell (s : State) (k : Nat) (t : Stall) : (s.setStall k t).bell = s.bell := rfl
@[simp] theorem setStall_asks (s : State) (k : Nat) (t : Stall) : (s.setStall k t).asks = s.asks := rfl
@[simp] theorem setStall_decisions (s : State) (k : Nat) (t : Stall) : (s.setStall k t).decisions = s.decisions := rfl
@[simp] theorem setStall_mem (s : State) (k : Nat) (t : Stall) : (s.setStall k t).mem = s.mem := rfl
@[simp] theorem setStall_hbmEpoch (s : State) (k : Nat) (t : Stall) : (s.setStall k t).hbmEpoch = s.hbmEpoch := rfl
@[simp] theorem setStall_ports (s : State) (k : Nat) (t : Stall) : (s.setStall k t).ports = s.ports := rfl
@[simp] theorem setStall_squares (s : State) (k : Nat) (t : Stall) : (s.setStall k t).squares = s.squares := rfl
@[simp] theorem setStall_sqReqs (s : State) (k : Nat) (t : Stall) : (s.setStall k t).sqReqs = s.sqReqs := rfl
@[simp] theorem setStall_sigs (s : State) (k : Nat) (t : Stall) : (s.setStall k t).sigs = s.sigs := rfl
@[simp] theorem setStall_flits (s : State) (k : Nat) (t : Stall) : (s.setStall k t).flits = s.flits := rfl
@[simp] theorem setStall_reqs (s : State) (k : Nat) (t : Stall) : (s.setStall k t).reqs = s.reqs := rfl
@[simp] theorem setStall_idSeq (s : State) (k : Nat) (t : Stall) : (s.setStall k t).idSeq = s.idSeq := rfl
@[simp] theorem setStall_spine (s : State) (k : Nat) (t : Stall) : (s.setStall k t).spine = s.spine := rfl
@[simp] theorem setStall_slices (s : State) (k : Nat) (t : Stall) : (s.setStall k t).slices = s.slices := rfl
@[simp] theorem setStall_units (s : State) (k : Nat) (t : Stall) : (s.setStall k t).units = s.units := rfl
@[simp] theorem setStall_arrivals (s : State) (k : Nat) (t : Stall) : (s.setStall k t).arrivals = s.arrivals := rfl
@[simp] theorem setStall_casts (s : State) (k : Nat) (t : Stall) : (s.setStall k t).casts = s.casts := rfl
@[simp] theorem setStall_answers (s : State) (k : Nat) (t : Stall) : (s.setStall k t).answers = s.answers := rfl
@[simp] theorem setStall_tlySats (s : State) (k : Nat) (t : Stall) : (s.setStall k t).tlySats = s.tlySats := rfl
@[simp] theorem setStall_tlyRejects (s : State) (k : Nat) (t : Stall) : (s.setStall k t).tlyRejects = s.tlyRejects := rfl
@[simp] theorem setStall_ledger (s : State) (k : Nat) (t : Stall) : (s.setStall k t).ledger = s.ledger := rfl
@[simp] theorem setStall_dieMem (s : State) (k : Nat) (t : Stall) : (s.setStall k t).dieMem = s.dieMem := rfl
@[simp] theorem setStall_failedLinks (s : State) (k : Nat) (t : Stall) : (s.setStall k t).failedLinks = s.failedLinks := rfl
@[simp] theorem setStall_failing (s : State) (k : Nat) (t : Stall) : (s.setStall k t).failing = s.failing := rfl
@[simp] theorem setStall_lostStores (s : State) (k : Nat) (t : Stall) : (s.setStall k t).lostStores = s.lostStores := rfl
@[simp] theorem setStall_fab (s : State) (k : Nat) (t : Stall) : (s.setStall k t).fab = s.fab := rfl
@[simp] theorem setStall_ctxs (s : State) (k : Nat) (t : Stall) : (s.setStall k t).ctxs = s.ctxs := rfl
@[simp] theorem setStall_dispatches (s : State) (k : Nat) (t : Stall) : (s.setStall k t).dispatches = s.dispatches := rfl
@[simp] theorem setStall_gathers (s : State) (k : Nat) (t : Stall) : (s.setStall k t).gathers = s.gathers := rfl
@[simp] theorem setStall_sets (s : State) (k : Nat) (t : Stall) : (s.setStall k t).sets = s.sets := rfl
@[simp] theorem setStall_binds (s : State) (k : Nat) (t : Stall) : (s.setStall k t).binds = s.binds := rfl
@[simp] theorem setStall_aborts (s : State) (k : Nat) (t : Stall) : (s.setStall k t).aborts = s.aborts := rfl
@[simp] theorem setStall_cores (s : State) (k : Nat) (t : Stall) : (s.setStall k t).cores = s.cores := rfl
@[simp] theorem setStall_served (s : State) (k : Nat) (t : Stall) : (s.setStall k t).served = s.served := rfl
@[simp] theorem setStall_fencedDoms (s : State) (k : Nat) (t : Stall) : (s.setStall k t).fencedDoms = s.fencedDoms := rfl
@[simp] theorem setStall_deadDies (s : State) (k : Nat) (t : Stall) : (s.setStall k t).deadDies = s.deadDies := rfl
@[simp] theorem setStall_heldDies (s : State) (k : Nat) (t : Stall) : (s.setStall k t).heldDies = s.heldDies := rfl
@[simp] theorem setStall_regs (s : State) (k : Nat) (t : Stall) : (s.setStall k t).regs = s.regs := rfl
@[simp] theorem setStall_live (s : State) (k : Nat) (t : Stall) : (s.setStall k t).live = s.live := rfl
@[simp] theorem setStall_mod (s : State) (k : Nat) (t : Stall) : (s.setStall k t).mod = s.mod := rfl
@[simp] theorem setStall_conf (s : State) (k : Nat) (t : Stall) : (s.setStall k t).conf = s.conf := rfl
@[simp] theorem setStall_inc (s : State) (k : Nat) (t : Stall) : (s.setStall k t).inc = s.inc := rfl
@[simp] theorem setStall_out (s : State) (k : Nat) (t : Stall) : (s.setStall k t).out = s.out := rfl
@[simp] theorem setStall_outWait (s : State) (k : Nat) (t : Stall) : (s.setStall k t).outWait = s.outWait := rfl
@[simp] theorem setStall_rings (s : State) (k : Nat) (t : Stall) : (s.setStall k t).rings = s.rings := rfl
@[simp] theorem setStall_intLast (s : State) (k : Nat) (t : Stall) : (s.setStall k t).intLast = s.intLast := rfl
@[simp] theorem setStall_intHeld (s : State) (k : Nat) (t : Stall) : (s.setStall k t).intHeld = s.intHeld := rfl
@[simp] theorem setStall_trust (s : State) (k : Nat) (t : Stall) : (s.setStall k t).trust = s.trust := rfl
@[simp] theorem setStall_flash (s : State) (k : Nat) (t : Stall) : (s.setStall k t).flash = s.flash := rfl
@[simp] theorem setStall_pow (s : State) (k : Nat) (t : Stall) : (s.setStall k t).pow = s.pow := rfl
@[simp] theorem setStall_cus (s : State) (k : Nat) (t : Stall) : (s.setStall k t).cus = s.cus := rfl
@[simp] theorem setStall_queues (s : State) (k : Nat) (t : Stall) : (s.setStall k t).queues = s.queues := rfl
@[simp] theorem setStall_pkg (s : State) (k : Nat) (t : Stall) : (s.setStall k t).pkg = s.pkg := rfl
@[simp] theorem setStall_pending (s : State) (k : Nat) (t : Stall) : (s.setStall k t).pending = s.pending := rfl
@[simp] theorem setStall_get_port (s : State) (k : Nat) (t : Stall) (j : Nat) : (s.setStall k t).port j = s.port j := rfl
@[simp] theorem setStall_get_ctx (s : State) (k : Nat) (t : Stall) (j : Nat) : (s.setStall k t).ctx j = s.ctx j := rfl
@[simp] theorem setStall_get_unit (s : State) (k : Nat) (t : Stall) (j : Nat) : (s.setStall k t).unit j = s.unit j := rfl
@[simp] theorem setStall_get_ring (s : State) (k : Nat) (t : Stall) (j : Nat) : (s.setStall k t).ring j = s.ring j := rfl
@[simp] theorem setStall_get_core (s : State) (k : Nat) (t : Stall) (e j : Nat) : (s.setStall k t).core e j = s.core e j := rfl
@[simp] theorem setStall_get_wport (s : State) (k : Nat) (t : Stall) (j : Nat) : (s.setStall k t).wport j = s.wport j := rfl
@[simp] theorem setStall_get_byte (s : State) (k : Nat) (t : Stall) (j : Nat) : (s.setStall k t).byte j = s.byte j := rfl
@[simp] theorem setStall_get_line (s : State) (k : Nat) (t : Stall) (j : Nat) : (s.setStall k t).line j = s.line j := rfl

/-! ### setPort -/

@[simp] theorem setPort_now (s : State) (k : Nat) (p : StallPort) : (s.setPort k p).now = s.now := rfl
@[simp] theorem setPort_freeCtr (s : State) (k : Nat) (p : StallPort) : (s.setPort k p).freeCtr = s.freeCtr := rfl
@[simp] theorem setPort_bell (s : State) (k : Nat) (p : StallPort) : (s.setPort k p).bell = s.bell := rfl
@[simp] theorem setPort_asks (s : State) (k : Nat) (p : StallPort) : (s.setPort k p).asks = s.asks := rfl
@[simp] theorem setPort_decisions (s : State) (k : Nat) (p : StallPort) : (s.setPort k p).decisions = s.decisions := rfl
@[simp] theorem setPort_mem (s : State) (k : Nat) (p : StallPort) : (s.setPort k p).mem = s.mem := rfl
@[simp] theorem setPort_hbmEpoch (s : State) (k : Nat) (p : StallPort) : (s.setPort k p).hbmEpoch = s.hbmEpoch := rfl
@[simp] theorem setPort_stalls (s : State) (k : Nat) (p : StallPort) : (s.setPort k p).stalls = s.stalls := rfl
@[simp] theorem setPort_squares (s : State) (k : Nat) (p : StallPort) : (s.setPort k p).squares = s.squares := rfl
@[simp] theorem setPort_sqReqs (s : State) (k : Nat) (p : StallPort) : (s.setPort k p).sqReqs = s.sqReqs := rfl
@[simp] theorem setPort_sigs (s : State) (k : Nat) (p : StallPort) : (s.setPort k p).sigs = s.sigs := rfl
@[simp] theorem setPort_flits (s : State) (k : Nat) (p : StallPort) : (s.setPort k p).flits = s.flits := rfl
@[simp] theorem setPort_reqs (s : State) (k : Nat) (p : StallPort) : (s.setPort k p).reqs = s.reqs := rfl
@[simp] theorem setPort_idSeq (s : State) (k : Nat) (p : StallPort) : (s.setPort k p).idSeq = s.idSeq := rfl
@[simp] theorem setPort_spine (s : State) (k : Nat) (p : StallPort) : (s.setPort k p).spine = s.spine := rfl
@[simp] theorem setPort_slices (s : State) (k : Nat) (p : StallPort) : (s.setPort k p).slices = s.slices := rfl
@[simp] theorem setPort_units (s : State) (k : Nat) (p : StallPort) : (s.setPort k p).units = s.units := rfl
@[simp] theorem setPort_arrivals (s : State) (k : Nat) (p : StallPort) : (s.setPort k p).arrivals = s.arrivals := rfl
@[simp] theorem setPort_casts (s : State) (k : Nat) (p : StallPort) : (s.setPort k p).casts = s.casts := rfl
@[simp] theorem setPort_answers (s : State) (k : Nat) (p : StallPort) : (s.setPort k p).answers = s.answers := rfl
@[simp] theorem setPort_tlySats (s : State) (k : Nat) (p : StallPort) : (s.setPort k p).tlySats = s.tlySats := rfl
@[simp] theorem setPort_tlyRejects (s : State) (k : Nat) (p : StallPort) : (s.setPort k p).tlyRejects = s.tlyRejects := rfl
@[simp] theorem setPort_ledger (s : State) (k : Nat) (p : StallPort) : (s.setPort k p).ledger = s.ledger := rfl
@[simp] theorem setPort_dieMem (s : State) (k : Nat) (p : StallPort) : (s.setPort k p).dieMem = s.dieMem := rfl
@[simp] theorem setPort_failedLinks (s : State) (k : Nat) (p : StallPort) : (s.setPort k p).failedLinks = s.failedLinks := rfl
@[simp] theorem setPort_failing (s : State) (k : Nat) (p : StallPort) : (s.setPort k p).failing = s.failing := rfl
@[simp] theorem setPort_lostStores (s : State) (k : Nat) (p : StallPort) : (s.setPort k p).lostStores = s.lostStores := rfl
@[simp] theorem setPort_fab (s : State) (k : Nat) (p : StallPort) : (s.setPort k p).fab = s.fab := rfl
@[simp] theorem setPort_ctxs (s : State) (k : Nat) (p : StallPort) : (s.setPort k p).ctxs = s.ctxs := rfl
@[simp] theorem setPort_dispatches (s : State) (k : Nat) (p : StallPort) : (s.setPort k p).dispatches = s.dispatches := rfl
@[simp] theorem setPort_gathers (s : State) (k : Nat) (p : StallPort) : (s.setPort k p).gathers = s.gathers := rfl
@[simp] theorem setPort_sets (s : State) (k : Nat) (p : StallPort) : (s.setPort k p).sets = s.sets := rfl
@[simp] theorem setPort_binds (s : State) (k : Nat) (p : StallPort) : (s.setPort k p).binds = s.binds := rfl
@[simp] theorem setPort_aborts (s : State) (k : Nat) (p : StallPort) : (s.setPort k p).aborts = s.aborts := rfl
@[simp] theorem setPort_cores (s : State) (k : Nat) (p : StallPort) : (s.setPort k p).cores = s.cores := rfl
@[simp] theorem setPort_served (s : State) (k : Nat) (p : StallPort) : (s.setPort k p).served = s.served := rfl
@[simp] theorem setPort_fencedDoms (s : State) (k : Nat) (p : StallPort) : (s.setPort k p).fencedDoms = s.fencedDoms := rfl
@[simp] theorem setPort_deadDies (s : State) (k : Nat) (p : StallPort) : (s.setPort k p).deadDies = s.deadDies := rfl
@[simp] theorem setPort_heldDies (s : State) (k : Nat) (p : StallPort) : (s.setPort k p).heldDies = s.heldDies := rfl
@[simp] theorem setPort_regs (s : State) (k : Nat) (p : StallPort) : (s.setPort k p).regs = s.regs := rfl
@[simp] theorem setPort_live (s : State) (k : Nat) (p : StallPort) : (s.setPort k p).live = s.live := rfl
@[simp] theorem setPort_mod (s : State) (k : Nat) (p : StallPort) : (s.setPort k p).mod = s.mod := rfl
@[simp] theorem setPort_conf (s : State) (k : Nat) (p : StallPort) : (s.setPort k p).conf = s.conf := rfl
@[simp] theorem setPort_inc (s : State) (k : Nat) (p : StallPort) : (s.setPort k p).inc = s.inc := rfl
@[simp] theorem setPort_out (s : State) (k : Nat) (p : StallPort) : (s.setPort k p).out = s.out := rfl
@[simp] theorem setPort_outWait (s : State) (k : Nat) (p : StallPort) : (s.setPort k p).outWait = s.outWait := rfl
@[simp] theorem setPort_rings (s : State) (k : Nat) (p : StallPort) : (s.setPort k p).rings = s.rings := rfl
@[simp] theorem setPort_intLast (s : State) (k : Nat) (p : StallPort) : (s.setPort k p).intLast = s.intLast := rfl
@[simp] theorem setPort_intHeld (s : State) (k : Nat) (p : StallPort) : (s.setPort k p).intHeld = s.intHeld := rfl
@[simp] theorem setPort_trust (s : State) (k : Nat) (p : StallPort) : (s.setPort k p).trust = s.trust := rfl
@[simp] theorem setPort_flash (s : State) (k : Nat) (p : StallPort) : (s.setPort k p).flash = s.flash := rfl
@[simp] theorem setPort_pow (s : State) (k : Nat) (p : StallPort) : (s.setPort k p).pow = s.pow := rfl
@[simp] theorem setPort_cus (s : State) (k : Nat) (p : StallPort) : (s.setPort k p).cus = s.cus := rfl
@[simp] theorem setPort_queues (s : State) (k : Nat) (p : StallPort) : (s.setPort k p).queues = s.queues := rfl
@[simp] theorem setPort_pkg (s : State) (k : Nat) (p : StallPort) : (s.setPort k p).pkg = s.pkg := rfl
@[simp] theorem setPort_pending (s : State) (k : Nat) (p : StallPort) : (s.setPort k p).pending = s.pending := rfl
@[simp] theorem setPort_get_stall (s : State) (k : Nat) (p : StallPort) (j : Nat) : (s.setPort k p).stall j = s.stall j := rfl
@[simp] theorem setPort_get_ctx (s : State) (k : Nat) (p : StallPort) (j : Nat) : (s.setPort k p).ctx j = s.ctx j := rfl
@[simp] theorem setPort_get_unit (s : State) (k : Nat) (p : StallPort) (j : Nat) : (s.setPort k p).unit j = s.unit j := rfl
@[simp] theorem setPort_get_ring (s : State) (k : Nat) (p : StallPort) (j : Nat) : (s.setPort k p).ring j = s.ring j := rfl
@[simp] theorem setPort_get_core (s : State) (k : Nat) (p : StallPort) (e j : Nat) : (s.setPort k p).core e j = s.core e j := rfl
@[simp] theorem setPort_get_wport (s : State) (k : Nat) (p : StallPort) (j : Nat) : (s.setPort k p).wport j = s.wport j := rfl
@[simp] theorem setPort_get_byte (s : State) (k : Nat) (p : StallPort) (j : Nat) : (s.setPort k p).byte j = s.byte j := rfl
@[simp] theorem setPort_get_line (s : State) (k : Nat) (p : StallPort) (j : Nat) : (s.setPort k p).line j = s.line j := rfl

/-! ### setSquare -/

@[simp] theorem setSquare_now (s : State) (q : Square) : (s.setSquare q).now = s.now := rfl
@[simp] theorem setSquare_freeCtr (s : State) (q : Square) : (s.setSquare q).freeCtr = s.freeCtr := rfl
@[simp] theorem setSquare_bell (s : State) (q : Square) : (s.setSquare q).bell = s.bell := rfl
@[simp] theorem setSquare_asks (s : State) (q : Square) : (s.setSquare q).asks = s.asks := rfl
@[simp] theorem setSquare_decisions (s : State) (q : Square) : (s.setSquare q).decisions = s.decisions := rfl
@[simp] theorem setSquare_mem (s : State) (q : Square) : (s.setSquare q).mem = s.mem := rfl
@[simp] theorem setSquare_hbmEpoch (s : State) (q : Square) : (s.setSquare q).hbmEpoch = s.hbmEpoch := rfl
@[simp] theorem setSquare_stalls (s : State) (q : Square) : (s.setSquare q).stalls = s.stalls := rfl
@[simp] theorem setSquare_ports (s : State) (q : Square) : (s.setSquare q).ports = s.ports := rfl
@[simp] theorem setSquare_sqReqs (s : State) (q : Square) : (s.setSquare q).sqReqs = s.sqReqs := rfl
@[simp] theorem setSquare_sigs (s : State) (q : Square) : (s.setSquare q).sigs = s.sigs := rfl
@[simp] theorem setSquare_flits (s : State) (q : Square) : (s.setSquare q).flits = s.flits := rfl
@[simp] theorem setSquare_reqs (s : State) (q : Square) : (s.setSquare q).reqs = s.reqs := rfl
@[simp] theorem setSquare_idSeq (s : State) (q : Square) : (s.setSquare q).idSeq = s.idSeq := rfl
@[simp] theorem setSquare_spine (s : State) (q : Square) : (s.setSquare q).spine = s.spine := rfl
@[simp] theorem setSquare_slices (s : State) (q : Square) : (s.setSquare q).slices = s.slices := rfl
@[simp] theorem setSquare_units (s : State) (q : Square) : (s.setSquare q).units = s.units := rfl
@[simp] theorem setSquare_arrivals (s : State) (q : Square) : (s.setSquare q).arrivals = s.arrivals := rfl
@[simp] theorem setSquare_casts (s : State) (q : Square) : (s.setSquare q).casts = s.casts := rfl
@[simp] theorem setSquare_answers (s : State) (q : Square) : (s.setSquare q).answers = s.answers := rfl
@[simp] theorem setSquare_tlySats (s : State) (q : Square) : (s.setSquare q).tlySats = s.tlySats := rfl
@[simp] theorem setSquare_tlyRejects (s : State) (q : Square) : (s.setSquare q).tlyRejects = s.tlyRejects := rfl
@[simp] theorem setSquare_ledger (s : State) (q : Square) : (s.setSquare q).ledger = s.ledger := rfl
@[simp] theorem setSquare_dieMem (s : State) (q : Square) : (s.setSquare q).dieMem = s.dieMem := rfl
@[simp] theorem setSquare_failedLinks (s : State) (q : Square) : (s.setSquare q).failedLinks = s.failedLinks := rfl
@[simp] theorem setSquare_failing (s : State) (q : Square) : (s.setSquare q).failing = s.failing := rfl
@[simp] theorem setSquare_lostStores (s : State) (q : Square) : (s.setSquare q).lostStores = s.lostStores := rfl
@[simp] theorem setSquare_fab (s : State) (q : Square) : (s.setSquare q).fab = s.fab := rfl
@[simp] theorem setSquare_ctxs (s : State) (q : Square) : (s.setSquare q).ctxs = s.ctxs := rfl
@[simp] theorem setSquare_dispatches (s : State) (q : Square) : (s.setSquare q).dispatches = s.dispatches := rfl
@[simp] theorem setSquare_gathers (s : State) (q : Square) : (s.setSquare q).gathers = s.gathers := rfl
@[simp] theorem setSquare_sets (s : State) (q : Square) : (s.setSquare q).sets = s.sets := rfl
@[simp] theorem setSquare_binds (s : State) (q : Square) : (s.setSquare q).binds = s.binds := rfl
@[simp] theorem setSquare_aborts (s : State) (q : Square) : (s.setSquare q).aborts = s.aborts := rfl
@[simp] theorem setSquare_cores (s : State) (q : Square) : (s.setSquare q).cores = s.cores := rfl
@[simp] theorem setSquare_served (s : State) (q : Square) : (s.setSquare q).served = s.served := rfl
@[simp] theorem setSquare_fencedDoms (s : State) (q : Square) : (s.setSquare q).fencedDoms = s.fencedDoms := rfl
@[simp] theorem setSquare_deadDies (s : State) (q : Square) : (s.setSquare q).deadDies = s.deadDies := rfl
@[simp] theorem setSquare_heldDies (s : State) (q : Square) : (s.setSquare q).heldDies = s.heldDies := rfl
@[simp] theorem setSquare_regs (s : State) (q : Square) : (s.setSquare q).regs = s.regs := rfl
@[simp] theorem setSquare_live (s : State) (q : Square) : (s.setSquare q).live = s.live := rfl
@[simp] theorem setSquare_mod (s : State) (q : Square) : (s.setSquare q).mod = s.mod := rfl
@[simp] theorem setSquare_conf (s : State) (q : Square) : (s.setSquare q).conf = s.conf := rfl
@[simp] theorem setSquare_inc (s : State) (q : Square) : (s.setSquare q).inc = s.inc := rfl
@[simp] theorem setSquare_out (s : State) (q : Square) : (s.setSquare q).out = s.out := rfl
@[simp] theorem setSquare_outWait (s : State) (q : Square) : (s.setSquare q).outWait = s.outWait := rfl
@[simp] theorem setSquare_rings (s : State) (q : Square) : (s.setSquare q).rings = s.rings := rfl
@[simp] theorem setSquare_intLast (s : State) (q : Square) : (s.setSquare q).intLast = s.intLast := rfl
@[simp] theorem setSquare_intHeld (s : State) (q : Square) : (s.setSquare q).intHeld = s.intHeld := rfl
@[simp] theorem setSquare_trust (s : State) (q : Square) : (s.setSquare q).trust = s.trust := rfl
@[simp] theorem setSquare_flash (s : State) (q : Square) : (s.setSquare q).flash = s.flash := rfl
@[simp] theorem setSquare_pow (s : State) (q : Square) : (s.setSquare q).pow = s.pow := rfl
@[simp] theorem setSquare_cus (s : State) (q : Square) : (s.setSquare q).cus = s.cus := rfl
@[simp] theorem setSquare_queues (s : State) (q : Square) : (s.setSquare q).queues = s.queues := rfl
@[simp] theorem setSquare_pkg (s : State) (q : Square) : (s.setSquare q).pkg = s.pkg := rfl
@[simp] theorem setSquare_pending (s : State) (q : Square) : (s.setSquare q).pending = s.pending := rfl
@[simp] theorem setSquare_get_stall (s : State) (q : Square) (j : Nat) : (s.setSquare q).stall j = s.stall j := rfl
@[simp] theorem setSquare_get_port (s : State) (q : Square) (j : Nat) : (s.setSquare q).port j = s.port j := rfl
@[simp] theorem setSquare_get_ctx (s : State) (q : Square) (j : Nat) : (s.setSquare q).ctx j = s.ctx j := rfl
@[simp] theorem setSquare_get_unit (s : State) (q : Square) (j : Nat) : (s.setSquare q).unit j = s.unit j := rfl
@[simp] theorem setSquare_get_ring (s : State) (q : Square) (j : Nat) : (s.setSquare q).ring j = s.ring j := rfl
@[simp] theorem setSquare_get_core (s : State) (q : Square) (e j : Nat) : (s.setSquare q).core e j = s.core e j := rfl
@[simp] theorem setSquare_get_wport (s : State) (q : Square) (j : Nat) : (s.setSquare q).wport j = s.wport j := rfl
@[simp] theorem setSquare_get_byte (s : State) (q : Square) (j : Nat) : (s.setSquare q).byte j = s.byte j := rfl
@[simp] theorem setSquare_get_line (s : State) (q : Square) (j : Nat) : (s.setSquare q).line j = s.line j := rfl

/-! ### setUnit -/

@[simp] theorem setUnit_now (s : State) (u : Nat) (x : Unit) : (s.setUnit u x).now = s.now := rfl
@[simp] theorem setUnit_freeCtr (s : State) (u : Nat) (x : Unit) : (s.setUnit u x).freeCtr = s.freeCtr := rfl
@[simp] theorem setUnit_bell (s : State) (u : Nat) (x : Unit) : (s.setUnit u x).bell = s.bell := rfl
@[simp] theorem setUnit_asks (s : State) (u : Nat) (x : Unit) : (s.setUnit u x).asks = s.asks := rfl
@[simp] theorem setUnit_decisions (s : State) (u : Nat) (x : Unit) : (s.setUnit u x).decisions = s.decisions := rfl
@[simp] theorem setUnit_mem (s : State) (u : Nat) (x : Unit) : (s.setUnit u x).mem = s.mem := rfl
@[simp] theorem setUnit_hbmEpoch (s : State) (u : Nat) (x : Unit) : (s.setUnit u x).hbmEpoch = s.hbmEpoch := rfl
@[simp] theorem setUnit_stalls (s : State) (u : Nat) (x : Unit) : (s.setUnit u x).stalls = s.stalls := rfl
@[simp] theorem setUnit_ports (s : State) (u : Nat) (x : Unit) : (s.setUnit u x).ports = s.ports := rfl
@[simp] theorem setUnit_squares (s : State) (u : Nat) (x : Unit) : (s.setUnit u x).squares = s.squares := rfl
@[simp] theorem setUnit_sqReqs (s : State) (u : Nat) (x : Unit) : (s.setUnit u x).sqReqs = s.sqReqs := rfl
@[simp] theorem setUnit_sigs (s : State) (u : Nat) (x : Unit) : (s.setUnit u x).sigs = s.sigs := rfl
@[simp] theorem setUnit_flits (s : State) (u : Nat) (x : Unit) : (s.setUnit u x).flits = s.flits := rfl
@[simp] theorem setUnit_reqs (s : State) (u : Nat) (x : Unit) : (s.setUnit u x).reqs = s.reqs := rfl
@[simp] theorem setUnit_idSeq (s : State) (u : Nat) (x : Unit) : (s.setUnit u x).idSeq = s.idSeq := rfl
@[simp] theorem setUnit_spine (s : State) (u : Nat) (x : Unit) : (s.setUnit u x).spine = s.spine := rfl
@[simp] theorem setUnit_slices (s : State) (u : Nat) (x : Unit) : (s.setUnit u x).slices = s.slices := rfl
@[simp] theorem setUnit_arrivals (s : State) (u : Nat) (x : Unit) : (s.setUnit u x).arrivals = s.arrivals := rfl
@[simp] theorem setUnit_casts (s : State) (u : Nat) (x : Unit) : (s.setUnit u x).casts = s.casts := rfl
@[simp] theorem setUnit_answers (s : State) (u : Nat) (x : Unit) : (s.setUnit u x).answers = s.answers := rfl
@[simp] theorem setUnit_tlySats (s : State) (u : Nat) (x : Unit) : (s.setUnit u x).tlySats = s.tlySats := rfl
@[simp] theorem setUnit_tlyRejects (s : State) (u : Nat) (x : Unit) : (s.setUnit u x).tlyRejects = s.tlyRejects := rfl
@[simp] theorem setUnit_ledger (s : State) (u : Nat) (x : Unit) : (s.setUnit u x).ledger = s.ledger := rfl
@[simp] theorem setUnit_dieMem (s : State) (u : Nat) (x : Unit) : (s.setUnit u x).dieMem = s.dieMem := rfl
@[simp] theorem setUnit_failedLinks (s : State) (u : Nat) (x : Unit) : (s.setUnit u x).failedLinks = s.failedLinks := rfl
@[simp] theorem setUnit_failing (s : State) (u : Nat) (x : Unit) : (s.setUnit u x).failing = s.failing := rfl
@[simp] theorem setUnit_lostStores (s : State) (u : Nat) (x : Unit) : (s.setUnit u x).lostStores = s.lostStores := rfl
@[simp] theorem setUnit_fab (s : State) (u : Nat) (x : Unit) : (s.setUnit u x).fab = s.fab := rfl
@[simp] theorem setUnit_ctxs (s : State) (u : Nat) (x : Unit) : (s.setUnit u x).ctxs = s.ctxs := rfl
@[simp] theorem setUnit_dispatches (s : State) (u : Nat) (x : Unit) : (s.setUnit u x).dispatches = s.dispatches := rfl
@[simp] theorem setUnit_gathers (s : State) (u : Nat) (x : Unit) : (s.setUnit u x).gathers = s.gathers := rfl
@[simp] theorem setUnit_sets (s : State) (u : Nat) (x : Unit) : (s.setUnit u x).sets = s.sets := rfl
@[simp] theorem setUnit_binds (s : State) (u : Nat) (x : Unit) : (s.setUnit u x).binds = s.binds := rfl
@[simp] theorem setUnit_aborts (s : State) (u : Nat) (x : Unit) : (s.setUnit u x).aborts = s.aborts := rfl
@[simp] theorem setUnit_cores (s : State) (u : Nat) (x : Unit) : (s.setUnit u x).cores = s.cores := rfl
@[simp] theorem setUnit_served (s : State) (u : Nat) (x : Unit) : (s.setUnit u x).served = s.served := rfl
@[simp] theorem setUnit_fencedDoms (s : State) (u : Nat) (x : Unit) : (s.setUnit u x).fencedDoms = s.fencedDoms := rfl
@[simp] theorem setUnit_deadDies (s : State) (u : Nat) (x : Unit) : (s.setUnit u x).deadDies = s.deadDies := rfl
@[simp] theorem setUnit_heldDies (s : State) (u : Nat) (x : Unit) : (s.setUnit u x).heldDies = s.heldDies := rfl
@[simp] theorem setUnit_regs (s : State) (u : Nat) (x : Unit) : (s.setUnit u x).regs = s.regs := rfl
@[simp] theorem setUnit_live (s : State) (u : Nat) (x : Unit) : (s.setUnit u x).live = s.live := rfl
@[simp] theorem setUnit_mod (s : State) (u : Nat) (x : Unit) : (s.setUnit u x).mod = s.mod := rfl
@[simp] theorem setUnit_conf (s : State) (u : Nat) (x : Unit) : (s.setUnit u x).conf = s.conf := rfl
@[simp] theorem setUnit_inc (s : State) (u : Nat) (x : Unit) : (s.setUnit u x).inc = s.inc := rfl
@[simp] theorem setUnit_out (s : State) (u : Nat) (x : Unit) : (s.setUnit u x).out = s.out := rfl
@[simp] theorem setUnit_outWait (s : State) (u : Nat) (x : Unit) : (s.setUnit u x).outWait = s.outWait := rfl
@[simp] theorem setUnit_rings (s : State) (u : Nat) (x : Unit) : (s.setUnit u x).rings = s.rings := rfl
@[simp] theorem setUnit_intLast (s : State) (u : Nat) (x : Unit) : (s.setUnit u x).intLast = s.intLast := rfl
@[simp] theorem setUnit_intHeld (s : State) (u : Nat) (x : Unit) : (s.setUnit u x).intHeld = s.intHeld := rfl
@[simp] theorem setUnit_trust (s : State) (u : Nat) (x : Unit) : (s.setUnit u x).trust = s.trust := rfl
@[simp] theorem setUnit_flash (s : State) (u : Nat) (x : Unit) : (s.setUnit u x).flash = s.flash := rfl
@[simp] theorem setUnit_pow (s : State) (u : Nat) (x : Unit) : (s.setUnit u x).pow = s.pow := rfl
@[simp] theorem setUnit_cus (s : State) (u : Nat) (x : Unit) : (s.setUnit u x).cus = s.cus := rfl
@[simp] theorem setUnit_queues (s : State) (u : Nat) (x : Unit) : (s.setUnit u x).queues = s.queues := rfl
@[simp] theorem setUnit_pkg (s : State) (u : Nat) (x : Unit) : (s.setUnit u x).pkg = s.pkg := rfl
@[simp] theorem setUnit_pending (s : State) (u : Nat) (x : Unit) : (s.setUnit u x).pending = s.pending := rfl
@[simp] theorem setUnit_get_stall (s : State) (u : Nat) (x : Unit) (j : Nat) : (s.setUnit u x).stall j = s.stall j := rfl
@[simp] theorem setUnit_get_port (s : State) (u : Nat) (x : Unit) (j : Nat) : (s.setUnit u x).port j = s.port j := rfl
@[simp] theorem setUnit_get_ctx (s : State) (u : Nat) (x : Unit) (j : Nat) : (s.setUnit u x).ctx j = s.ctx j := rfl
@[simp] theorem setUnit_get_ring (s : State) (u : Nat) (x : Unit) (j : Nat) : (s.setUnit u x).ring j = s.ring j := rfl
@[simp] theorem setUnit_get_core (s : State) (u : Nat) (x : Unit) (e j : Nat) : (s.setUnit u x).core e j = s.core e j := rfl
@[simp] theorem setUnit_get_wport (s : State) (u : Nat) (x : Unit) (j : Nat) : (s.setUnit u x).wport j = s.wport j := rfl
@[simp] theorem setUnit_get_byte (s : State) (u : Nat) (x : Unit) (j : Nat) : (s.setUnit u x).byte j = s.byte j := rfl
@[simp] theorem setUnit_get_line (s : State) (u : Nat) (x : Unit) (j : Nat) : (s.setUnit u x).line j = s.line j := rfl

/-! ### putTab -/

@[simp] theorem putTab_now (s : State) (a v : Nat) : (s.putTab a v).now = s.now := rfl
@[simp] theorem putTab_freeCtr (s : State) (a v : Nat) : (s.putTab a v).freeCtr = s.freeCtr := rfl
@[simp] theorem putTab_bell (s : State) (a v : Nat) : (s.putTab a v).bell = s.bell := rfl
@[simp] theorem putTab_asks (s : State) (a v : Nat) : (s.putTab a v).asks = s.asks := rfl
@[simp] theorem putTab_decisions (s : State) (a v : Nat) : (s.putTab a v).decisions = s.decisions := rfl
@[simp] theorem putTab_mem (s : State) (a v : Nat) : (s.putTab a v).mem = s.mem := rfl
@[simp] theorem putTab_hbmEpoch (s : State) (a v : Nat) : (s.putTab a v).hbmEpoch = s.hbmEpoch := rfl
@[simp] theorem putTab_stalls (s : State) (a v : Nat) : (s.putTab a v).stalls = s.stalls := rfl
@[simp] theorem putTab_ports (s : State) (a v : Nat) : (s.putTab a v).ports = s.ports := rfl
@[simp] theorem putTab_squares (s : State) (a v : Nat) : (s.putTab a v).squares = s.squares := rfl
@[simp] theorem putTab_sqReqs (s : State) (a v : Nat) : (s.putTab a v).sqReqs = s.sqReqs := rfl
@[simp] theorem putTab_sigs (s : State) (a v : Nat) : (s.putTab a v).sigs = s.sigs := rfl
@[simp] theorem putTab_flits (s : State) (a v : Nat) : (s.putTab a v).flits = s.flits := rfl
@[simp] theorem putTab_reqs (s : State) (a v : Nat) : (s.putTab a v).reqs = s.reqs := rfl
@[simp] theorem putTab_idSeq (s : State) (a v : Nat) : (s.putTab a v).idSeq = s.idSeq := rfl
@[simp] theorem putTab_spine (s : State) (a v : Nat) : (s.putTab a v).spine = s.spine := rfl
@[simp] theorem putTab_slices (s : State) (a v : Nat) : (s.putTab a v).slices = s.slices := rfl
@[simp] theorem putTab_units (s : State) (a v : Nat) : (s.putTab a v).units = s.units := rfl
@[simp] theorem putTab_arrivals (s : State) (a v : Nat) : (s.putTab a v).arrivals = s.arrivals := rfl
@[simp] theorem putTab_casts (s : State) (a v : Nat) : (s.putTab a v).casts = s.casts := rfl
@[simp] theorem putTab_answers (s : State) (a v : Nat) : (s.putTab a v).answers = s.answers := rfl
@[simp] theorem putTab_tlySats (s : State) (a v : Nat) : (s.putTab a v).tlySats = s.tlySats := rfl
@[simp] theorem putTab_tlyRejects (s : State) (a v : Nat) : (s.putTab a v).tlyRejects = s.tlyRejects := rfl
@[simp] theorem putTab_dieMem (s : State) (a v : Nat) : (s.putTab a v).dieMem = s.dieMem := rfl
@[simp] theorem putTab_failedLinks (s : State) (a v : Nat) : (s.putTab a v).failedLinks = s.failedLinks := rfl
@[simp] theorem putTab_failing (s : State) (a v : Nat) : (s.putTab a v).failing = s.failing := rfl
@[simp] theorem putTab_lostStores (s : State) (a v : Nat) : (s.putTab a v).lostStores = s.lostStores := rfl
@[simp] theorem putTab_fab (s : State) (a v : Nat) : (s.putTab a v).fab = s.fab := rfl
@[simp] theorem putTab_ctxs (s : State) (a v : Nat) : (s.putTab a v).ctxs = s.ctxs := rfl
@[simp] theorem putTab_dispatches (s : State) (a v : Nat) : (s.putTab a v).dispatches = s.dispatches := rfl
@[simp] theorem putTab_gathers (s : State) (a v : Nat) : (s.putTab a v).gathers = s.gathers := rfl
@[simp] theorem putTab_sets (s : State) (a v : Nat) : (s.putTab a v).sets = s.sets := rfl
@[simp] theorem putTab_binds (s : State) (a v : Nat) : (s.putTab a v).binds = s.binds := rfl
@[simp] theorem putTab_aborts (s : State) (a v : Nat) : (s.putTab a v).aborts = s.aborts := rfl
@[simp] theorem putTab_cores (s : State) (a v : Nat) : (s.putTab a v).cores = s.cores := rfl
@[simp] theorem putTab_served (s : State) (a v : Nat) : (s.putTab a v).served = s.served := rfl
@[simp] theorem putTab_fencedDoms (s : State) (a v : Nat) : (s.putTab a v).fencedDoms = s.fencedDoms := rfl
@[simp] theorem putTab_deadDies (s : State) (a v : Nat) : (s.putTab a v).deadDies = s.deadDies := rfl
@[simp] theorem putTab_heldDies (s : State) (a v : Nat) : (s.putTab a v).heldDies = s.heldDies := rfl
@[simp] theorem putTab_regs (s : State) (a v : Nat) : (s.putTab a v).regs = s.regs := rfl
@[simp] theorem putTab_live (s : State) (a v : Nat) : (s.putTab a v).live = s.live := rfl
@[simp] theorem putTab_mod (s : State) (a v : Nat) : (s.putTab a v).mod = s.mod := rfl
@[simp] theorem putTab_conf (s : State) (a v : Nat) : (s.putTab a v).conf = s.conf := rfl
@[simp] theorem putTab_inc (s : State) (a v : Nat) : (s.putTab a v).inc = s.inc := rfl
@[simp] theorem putTab_out (s : State) (a v : Nat) : (s.putTab a v).out = s.out := rfl
@[simp] theorem putTab_outWait (s : State) (a v : Nat) : (s.putTab a v).outWait = s.outWait := rfl
@[simp] theorem putTab_rings (s : State) (a v : Nat) : (s.putTab a v).rings = s.rings := rfl
@[simp] theorem putTab_intLast (s : State) (a v : Nat) : (s.putTab a v).intLast = s.intLast := rfl
@[simp] theorem putTab_intHeld (s : State) (a v : Nat) : (s.putTab a v).intHeld = s.intHeld := rfl
@[simp] theorem putTab_trust (s : State) (a v : Nat) : (s.putTab a v).trust = s.trust := rfl
@[simp] theorem putTab_flash (s : State) (a v : Nat) : (s.putTab a v).flash = s.flash := rfl
@[simp] theorem putTab_pow (s : State) (a v : Nat) : (s.putTab a v).pow = s.pow := rfl
@[simp] theorem putTab_cus (s : State) (a v : Nat) : (s.putTab a v).cus = s.cus := rfl
@[simp] theorem putTab_queues (s : State) (a v : Nat) : (s.putTab a v).queues = s.queues := rfl
@[simp] theorem putTab_pkg (s : State) (a v : Nat) : (s.putTab a v).pkg = s.pkg := rfl
@[simp] theorem putTab_pending (s : State) (a v : Nat) : (s.putTab a v).pending = s.pending := rfl
@[simp] theorem putTab_get_stall (s : State) (a v : Nat) (j : Nat) : (s.putTab a v).stall j = s.stall j := rfl
@[simp] theorem putTab_get_port (s : State) (a v : Nat) (j : Nat) : (s.putTab a v).port j = s.port j := rfl
@[simp] theorem putTab_get_ctx (s : State) (a v : Nat) (j : Nat) : (s.putTab a v).ctx j = s.ctx j := rfl
@[simp] theorem putTab_get_unit (s : State) (a v : Nat) (j : Nat) : (s.putTab a v).unit j = s.unit j := rfl
@[simp] theorem putTab_get_ring (s : State) (a v : Nat) (j : Nat) : (s.putTab a v).ring j = s.ring j := rfl
@[simp] theorem putTab_get_core (s : State) (a v : Nat) (e j : Nat) : (s.putTab a v).core e j = s.core e j := rfl
@[simp] theorem putTab_get_wport (s : State) (a v : Nat) (j : Nat) : (s.putTab a v).wport j = s.wport j := rfl
@[simp] theorem putTab_get_byte (s : State) (a v : Nat) (j : Nat) : (s.putTab a v).byte j = s.byte j := rfl
@[simp] theorem putTab_get_line (s : State) (a v : Nat) (j : Nat) : (s.putTab a v).line j = s.line j := rfl

/-! ### setMove -/

@[simp] theorem setMove_now (s : State) (m : Move) : (s.setMove m).now = s.now := rfl
@[simp] theorem setMove_freeCtr (s : State) (m : Move) : (s.setMove m).freeCtr = s.freeCtr := rfl
@[simp] theorem setMove_bell (s : State) (m : Move) : (s.setMove m).bell = s.bell := rfl
@[simp] theorem setMove_asks (s : State) (m : Move) : (s.setMove m).asks = s.asks := rfl
@[simp] theorem setMove_decisions (s : State) (m : Move) : (s.setMove m).decisions = s.decisions := rfl
@[simp] theorem setMove_mem (s : State) (m : Move) : (s.setMove m).mem = s.mem := rfl
@[simp] theorem setMove_hbmEpoch (s : State) (m : Move) : (s.setMove m).hbmEpoch = s.hbmEpoch := rfl
@[simp] theorem setMove_stalls (s : State) (m : Move) : (s.setMove m).stalls = s.stalls := rfl
@[simp] theorem setMove_ports (s : State) (m : Move) : (s.setMove m).ports = s.ports := rfl
@[simp] theorem setMove_squares (s : State) (m : Move) : (s.setMove m).squares = s.squares := rfl
@[simp] theorem setMove_sqReqs (s : State) (m : Move) : (s.setMove m).sqReqs = s.sqReqs := rfl
@[simp] theorem setMove_sigs (s : State) (m : Move) : (s.setMove m).sigs = s.sigs := rfl
@[simp] theorem setMove_flits (s : State) (m : Move) : (s.setMove m).flits = s.flits := rfl
@[simp] theorem setMove_reqs (s : State) (m : Move) : (s.setMove m).reqs = s.reqs := rfl
@[simp] theorem setMove_idSeq (s : State) (m : Move) : (s.setMove m).idSeq = s.idSeq := rfl
@[simp] theorem setMove_spine (s : State) (m : Move) : (s.setMove m).spine = s.spine := rfl
@[simp] theorem setMove_slices (s : State) (m : Move) : (s.setMove m).slices = s.slices := rfl
@[simp] theorem setMove_units (s : State) (m : Move) : (s.setMove m).units = s.units := rfl
@[simp] theorem setMove_arrivals (s : State) (m : Move) : (s.setMove m).arrivals = s.arrivals := rfl
@[simp] theorem setMove_casts (s : State) (m : Move) : (s.setMove m).casts = s.casts := rfl
@[simp] theorem setMove_answers (s : State) (m : Move) : (s.setMove m).answers = s.answers := rfl
@[simp] theorem setMove_tlySats (s : State) (m : Move) : (s.setMove m).tlySats = s.tlySats := rfl
@[simp] theorem setMove_tlyRejects (s : State) (m : Move) : (s.setMove m).tlyRejects = s.tlyRejects := rfl
@[simp] theorem setMove_dieMem (s : State) (m : Move) : (s.setMove m).dieMem = s.dieMem := rfl
@[simp] theorem setMove_failedLinks (s : State) (m : Move) : (s.setMove m).failedLinks = s.failedLinks := rfl
@[simp] theorem setMove_failing (s : State) (m : Move) : (s.setMove m).failing = s.failing := rfl
@[simp] theorem setMove_lostStores (s : State) (m : Move) : (s.setMove m).lostStores = s.lostStores := rfl
@[simp] theorem setMove_fab (s : State) (m : Move) : (s.setMove m).fab = s.fab := rfl
@[simp] theorem setMove_ctxs (s : State) (m : Move) : (s.setMove m).ctxs = s.ctxs := rfl
@[simp] theorem setMove_dispatches (s : State) (m : Move) : (s.setMove m).dispatches = s.dispatches := rfl
@[simp] theorem setMove_gathers (s : State) (m : Move) : (s.setMove m).gathers = s.gathers := rfl
@[simp] theorem setMove_sets (s : State) (m : Move) : (s.setMove m).sets = s.sets := rfl
@[simp] theorem setMove_binds (s : State) (m : Move) : (s.setMove m).binds = s.binds := rfl
@[simp] theorem setMove_aborts (s : State) (m : Move) : (s.setMove m).aborts = s.aborts := rfl
@[simp] theorem setMove_cores (s : State) (m : Move) : (s.setMove m).cores = s.cores := rfl
@[simp] theorem setMove_served (s : State) (m : Move) : (s.setMove m).served = s.served := rfl
@[simp] theorem setMove_fencedDoms (s : State) (m : Move) : (s.setMove m).fencedDoms = s.fencedDoms := rfl
@[simp] theorem setMove_deadDies (s : State) (m : Move) : (s.setMove m).deadDies = s.deadDies := rfl
@[simp] theorem setMove_heldDies (s : State) (m : Move) : (s.setMove m).heldDies = s.heldDies := rfl
@[simp] theorem setMove_regs (s : State) (m : Move) : (s.setMove m).regs = s.regs := rfl
@[simp] theorem setMove_live (s : State) (m : Move) : (s.setMove m).live = s.live := rfl
@[simp] theorem setMove_mod (s : State) (m : Move) : (s.setMove m).mod = s.mod := rfl
@[simp] theorem setMove_conf (s : State) (m : Move) : (s.setMove m).conf = s.conf := rfl
@[simp] theorem setMove_inc (s : State) (m : Move) : (s.setMove m).inc = s.inc := rfl
@[simp] theorem setMove_out (s : State) (m : Move) : (s.setMove m).out = s.out := rfl
@[simp] theorem setMove_outWait (s : State) (m : Move) : (s.setMove m).outWait = s.outWait := rfl
@[simp] theorem setMove_rings (s : State) (m : Move) : (s.setMove m).rings = s.rings := rfl
@[simp] theorem setMove_intLast (s : State) (m : Move) : (s.setMove m).intLast = s.intLast := rfl
@[simp] theorem setMove_intHeld (s : State) (m : Move) : (s.setMove m).intHeld = s.intHeld := rfl
@[simp] theorem setMove_trust (s : State) (m : Move) : (s.setMove m).trust = s.trust := rfl
@[simp] theorem setMove_flash (s : State) (m : Move) : (s.setMove m).flash = s.flash := rfl
@[simp] theorem setMove_pow (s : State) (m : Move) : (s.setMove m).pow = s.pow := rfl
@[simp] theorem setMove_cus (s : State) (m : Move) : (s.setMove m).cus = s.cus := rfl
@[simp] theorem setMove_queues (s : State) (m : Move) : (s.setMove m).queues = s.queues := rfl
@[simp] theorem setMove_pkg (s : State) (m : Move) : (s.setMove m).pkg = s.pkg := rfl
@[simp] theorem setMove_pending (s : State) (m : Move) : (s.setMove m).pending = s.pending := rfl
@[simp] theorem setMove_get_stall (s : State) (m : Move) (j : Nat) : (s.setMove m).stall j = s.stall j := rfl
@[simp] theorem setMove_get_port (s : State) (m : Move) (j : Nat) : (s.setMove m).port j = s.port j := rfl
@[simp] theorem setMove_get_ctx (s : State) (m : Move) (j : Nat) : (s.setMove m).ctx j = s.ctx j := rfl
@[simp] theorem setMove_get_unit (s : State) (m : Move) (j : Nat) : (s.setMove m).unit j = s.unit j := rfl
@[simp] theorem setMove_get_ring (s : State) (m : Move) (j : Nat) : (s.setMove m).ring j = s.ring j := rfl
@[simp] theorem setMove_get_core (s : State) (m : Move) (e j : Nat) : (s.setMove m).core e j = s.core e j := rfl
@[simp] theorem setMove_get_wport (s : State) (m : Move) (j : Nat) : (s.setMove m).wport j = s.wport j := rfl
@[simp] theorem setMove_get_byte (s : State) (m : Move) (j : Nat) : (s.setMove m).byte j = s.byte j := rfl
@[simp] theorem setMove_get_line (s : State) (m : Move) (j : Nat) : (s.setMove m).line j = s.line j := rfl

/-! ### setDmem -/

@[simp] theorem setDmem_now (s : State) (n : Nat) (m : DieMem) : (s.setDmem n m).now = s.now := rfl
@[simp] theorem setDmem_freeCtr (s : State) (n : Nat) (m : DieMem) : (s.setDmem n m).freeCtr = s.freeCtr := rfl
@[simp] theorem setDmem_bell (s : State) (n : Nat) (m : DieMem) : (s.setDmem n m).bell = s.bell := rfl
@[simp] theorem setDmem_asks (s : State) (n : Nat) (m : DieMem) : (s.setDmem n m).asks = s.asks := rfl
@[simp] theorem setDmem_decisions (s : State) (n : Nat) (m : DieMem) : (s.setDmem n m).decisions = s.decisions := rfl
@[simp] theorem setDmem_mem (s : State) (n : Nat) (m : DieMem) : (s.setDmem n m).mem = s.mem := rfl
@[simp] theorem setDmem_hbmEpoch (s : State) (n : Nat) (m : DieMem) : (s.setDmem n m).hbmEpoch = s.hbmEpoch := rfl
@[simp] theorem setDmem_stalls (s : State) (n : Nat) (m : DieMem) : (s.setDmem n m).stalls = s.stalls := rfl
@[simp] theorem setDmem_ports (s : State) (n : Nat) (m : DieMem) : (s.setDmem n m).ports = s.ports := rfl
@[simp] theorem setDmem_squares (s : State) (n : Nat) (m : DieMem) : (s.setDmem n m).squares = s.squares := rfl
@[simp] theorem setDmem_sqReqs (s : State) (n : Nat) (m : DieMem) : (s.setDmem n m).sqReqs = s.sqReqs := rfl
@[simp] theorem setDmem_sigs (s : State) (n : Nat) (m : DieMem) : (s.setDmem n m).sigs = s.sigs := rfl
@[simp] theorem setDmem_flits (s : State) (n : Nat) (m : DieMem) : (s.setDmem n m).flits = s.flits := rfl
@[simp] theorem setDmem_reqs (s : State) (n : Nat) (m : DieMem) : (s.setDmem n m).reqs = s.reqs := rfl
@[simp] theorem setDmem_idSeq (s : State) (n : Nat) (m : DieMem) : (s.setDmem n m).idSeq = s.idSeq := rfl
@[simp] theorem setDmem_spine (s : State) (n : Nat) (m : DieMem) : (s.setDmem n m).spine = s.spine := rfl
@[simp] theorem setDmem_slices (s : State) (n : Nat) (m : DieMem) : (s.setDmem n m).slices = s.slices := rfl
@[simp] theorem setDmem_units (s : State) (n : Nat) (m : DieMem) : (s.setDmem n m).units = s.units := rfl
@[simp] theorem setDmem_arrivals (s : State) (n : Nat) (m : DieMem) : (s.setDmem n m).arrivals = s.arrivals := rfl
@[simp] theorem setDmem_casts (s : State) (n : Nat) (m : DieMem) : (s.setDmem n m).casts = s.casts := rfl
@[simp] theorem setDmem_answers (s : State) (n : Nat) (m : DieMem) : (s.setDmem n m).answers = s.answers := rfl
@[simp] theorem setDmem_tlySats (s : State) (n : Nat) (m : DieMem) : (s.setDmem n m).tlySats = s.tlySats := rfl
@[simp] theorem setDmem_tlyRejects (s : State) (n : Nat) (m : DieMem) : (s.setDmem n m).tlyRejects = s.tlyRejects := rfl
@[simp] theorem setDmem_ledger (s : State) (n : Nat) (m : DieMem) : (s.setDmem n m).ledger = s.ledger := rfl
@[simp] theorem setDmem_failedLinks (s : State) (n : Nat) (m : DieMem) : (s.setDmem n m).failedLinks = s.failedLinks := rfl
@[simp] theorem setDmem_failing (s : State) (n : Nat) (m : DieMem) : (s.setDmem n m).failing = s.failing := rfl
@[simp] theorem setDmem_lostStores (s : State) (n : Nat) (m : DieMem) : (s.setDmem n m).lostStores = s.lostStores := rfl
@[simp] theorem setDmem_fab (s : State) (n : Nat) (m : DieMem) : (s.setDmem n m).fab = s.fab := rfl
@[simp] theorem setDmem_ctxs (s : State) (n : Nat) (m : DieMem) : (s.setDmem n m).ctxs = s.ctxs := rfl
@[simp] theorem setDmem_dispatches (s : State) (n : Nat) (m : DieMem) : (s.setDmem n m).dispatches = s.dispatches := rfl
@[simp] theorem setDmem_gathers (s : State) (n : Nat) (m : DieMem) : (s.setDmem n m).gathers = s.gathers := rfl
@[simp] theorem setDmem_sets (s : State) (n : Nat) (m : DieMem) : (s.setDmem n m).sets = s.sets := rfl
@[simp] theorem setDmem_binds (s : State) (n : Nat) (m : DieMem) : (s.setDmem n m).binds = s.binds := rfl
@[simp] theorem setDmem_aborts (s : State) (n : Nat) (m : DieMem) : (s.setDmem n m).aborts = s.aborts := rfl
@[simp] theorem setDmem_cores (s : State) (n : Nat) (m : DieMem) : (s.setDmem n m).cores = s.cores := rfl
@[simp] theorem setDmem_served (s : State) (n : Nat) (m : DieMem) : (s.setDmem n m).served = s.served := rfl
@[simp] theorem setDmem_fencedDoms (s : State) (n : Nat) (m : DieMem) : (s.setDmem n m).fencedDoms = s.fencedDoms := rfl
@[simp] theorem setDmem_deadDies (s : State) (n : Nat) (m : DieMem) : (s.setDmem n m).deadDies = s.deadDies := rfl
@[simp] theorem setDmem_heldDies (s : State) (n : Nat) (m : DieMem) : (s.setDmem n m).heldDies = s.heldDies := rfl
@[simp] theorem setDmem_regs (s : State) (n : Nat) (m : DieMem) : (s.setDmem n m).regs = s.regs := rfl
@[simp] theorem setDmem_live (s : State) (n : Nat) (m : DieMem) : (s.setDmem n m).live = s.live := rfl
@[simp] theorem setDmem_mod (s : State) (n : Nat) (m : DieMem) : (s.setDmem n m).mod = s.mod := rfl
@[simp] theorem setDmem_conf (s : State) (n : Nat) (m : DieMem) : (s.setDmem n m).conf = s.conf := rfl
@[simp] theorem setDmem_inc (s : State) (n : Nat) (m : DieMem) : (s.setDmem n m).inc = s.inc := rfl
@[simp] theorem setDmem_out (s : State) (n : Nat) (m : DieMem) : (s.setDmem n m).out = s.out := rfl
@[simp] theorem setDmem_outWait (s : State) (n : Nat) (m : DieMem) : (s.setDmem n m).outWait = s.outWait := rfl
@[simp] theorem setDmem_rings (s : State) (n : Nat) (m : DieMem) : (s.setDmem n m).rings = s.rings := rfl
@[simp] theorem setDmem_intLast (s : State) (n : Nat) (m : DieMem) : (s.setDmem n m).intLast = s.intLast := rfl
@[simp] theorem setDmem_intHeld (s : State) (n : Nat) (m : DieMem) : (s.setDmem n m).intHeld = s.intHeld := rfl
@[simp] theorem setDmem_trust (s : State) (n : Nat) (m : DieMem) : (s.setDmem n m).trust = s.trust := rfl
@[simp] theorem setDmem_flash (s : State) (n : Nat) (m : DieMem) : (s.setDmem n m).flash = s.flash := rfl
@[simp] theorem setDmem_pow (s : State) (n : Nat) (m : DieMem) : (s.setDmem n m).pow = s.pow := rfl
@[simp] theorem setDmem_cus (s : State) (n : Nat) (m : DieMem) : (s.setDmem n m).cus = s.cus := rfl
@[simp] theorem setDmem_queues (s : State) (n : Nat) (m : DieMem) : (s.setDmem n m).queues = s.queues := rfl
@[simp] theorem setDmem_pkg (s : State) (n : Nat) (m : DieMem) : (s.setDmem n m).pkg = s.pkg := rfl
@[simp] theorem setDmem_pending (s : State) (n : Nat) (m : DieMem) : (s.setDmem n m).pending = s.pending := rfl
@[simp] theorem setDmem_get_stall (s : State) (n : Nat) (m : DieMem) (j : Nat) : (s.setDmem n m).stall j = s.stall j := rfl
@[simp] theorem setDmem_get_port (s : State) (n : Nat) (m : DieMem) (j : Nat) : (s.setDmem n m).port j = s.port j := rfl
@[simp] theorem setDmem_get_ctx (s : State) (n : Nat) (m : DieMem) (j : Nat) : (s.setDmem n m).ctx j = s.ctx j := rfl
@[simp] theorem setDmem_get_unit (s : State) (n : Nat) (m : DieMem) (j : Nat) : (s.setDmem n m).unit j = s.unit j := rfl
@[simp] theorem setDmem_get_ring (s : State) (n : Nat) (m : DieMem) (j : Nat) : (s.setDmem n m).ring j = s.ring j := rfl
@[simp] theorem setDmem_get_core (s : State) (n : Nat) (m : DieMem) (e j : Nat) : (s.setDmem n m).core e j = s.core e j := rfl
@[simp] theorem setDmem_get_wport (s : State) (n : Nat) (m : DieMem) (j : Nat) : (s.setDmem n m).wport j = s.wport j := rfl
@[simp] theorem setDmem_get_byte (s : State) (n : Nat) (m : DieMem) (j : Nat) : (s.setDmem n m).byte j = s.byte j := rfl
@[simp] theorem setDmem_get_line (s : State) (n : Nat) (m : DieMem) (j : Nat) : (s.setDmem n m).line j = s.line j := rfl

/-! ### setWport -/

@[simp] theorem setWport_now (s : State) (p : Nat) (w : WPort) : (s.setWport p w).now = s.now := rfl
@[simp] theorem setWport_freeCtr (s : State) (p : Nat) (w : WPort) : (s.setWport p w).freeCtr = s.freeCtr := rfl
@[simp] theorem setWport_bell (s : State) (p : Nat) (w : WPort) : (s.setWport p w).bell = s.bell := rfl
@[simp] theorem setWport_asks (s : State) (p : Nat) (w : WPort) : (s.setWport p w).asks = s.asks := rfl
@[simp] theorem setWport_decisions (s : State) (p : Nat) (w : WPort) : (s.setWport p w).decisions = s.decisions := rfl
@[simp] theorem setWport_mem (s : State) (p : Nat) (w : WPort) : (s.setWport p w).mem = s.mem := rfl
@[simp] theorem setWport_hbmEpoch (s : State) (p : Nat) (w : WPort) : (s.setWport p w).hbmEpoch = s.hbmEpoch := rfl
@[simp] theorem setWport_stalls (s : State) (p : Nat) (w : WPort) : (s.setWport p w).stalls = s.stalls := rfl
@[simp] theorem setWport_ports (s : State) (p : Nat) (w : WPort) : (s.setWport p w).ports = s.ports := rfl
@[simp] theorem setWport_squares (s : State) (p : Nat) (w : WPort) : (s.setWport p w).squares = s.squares := rfl
@[simp] theorem setWport_sqReqs (s : State) (p : Nat) (w : WPort) : (s.setWport p w).sqReqs = s.sqReqs := rfl
@[simp] theorem setWport_sigs (s : State) (p : Nat) (w : WPort) : (s.setWport p w).sigs = s.sigs := rfl
@[simp] theorem setWport_flits (s : State) (p : Nat) (w : WPort) : (s.setWport p w).flits = s.flits := rfl
@[simp] theorem setWport_reqs (s : State) (p : Nat) (w : WPort) : (s.setWport p w).reqs = s.reqs := rfl
@[simp] theorem setWport_idSeq (s : State) (p : Nat) (w : WPort) : (s.setWport p w).idSeq = s.idSeq := rfl
@[simp] theorem setWport_spine (s : State) (p : Nat) (w : WPort) : (s.setWport p w).spine = s.spine := rfl
@[simp] theorem setWport_slices (s : State) (p : Nat) (w : WPort) : (s.setWport p w).slices = s.slices := rfl
@[simp] theorem setWport_units (s : State) (p : Nat) (w : WPort) : (s.setWport p w).units = s.units := rfl
@[simp] theorem setWport_arrivals (s : State) (p : Nat) (w : WPort) : (s.setWport p w).arrivals = s.arrivals := rfl
@[simp] theorem setWport_casts (s : State) (p : Nat) (w : WPort) : (s.setWport p w).casts = s.casts := rfl
@[simp] theorem setWport_answers (s : State) (p : Nat) (w : WPort) : (s.setWport p w).answers = s.answers := rfl
@[simp] theorem setWport_tlySats (s : State) (p : Nat) (w : WPort) : (s.setWport p w).tlySats = s.tlySats := rfl
@[simp] theorem setWport_tlyRejects (s : State) (p : Nat) (w : WPort) : (s.setWport p w).tlyRejects = s.tlyRejects := rfl
@[simp] theorem setWport_ledger (s : State) (p : Nat) (w : WPort) : (s.setWport p w).ledger = s.ledger := rfl
@[simp] theorem setWport_dieMem (s : State) (p : Nat) (w : WPort) : (s.setWport p w).dieMem = s.dieMem := rfl
@[simp] theorem setWport_failedLinks (s : State) (p : Nat) (w : WPort) : (s.setWport p w).failedLinks = s.failedLinks := rfl
@[simp] theorem setWport_failing (s : State) (p : Nat) (w : WPort) : (s.setWport p w).failing = s.failing := rfl
@[simp] theorem setWport_lostStores (s : State) (p : Nat) (w : WPort) : (s.setWport p w).lostStores = s.lostStores := rfl
@[simp] theorem setWport_ctxs (s : State) (p : Nat) (w : WPort) : (s.setWport p w).ctxs = s.ctxs := rfl
@[simp] theorem setWport_dispatches (s : State) (p : Nat) (w : WPort) : (s.setWport p w).dispatches = s.dispatches := rfl
@[simp] theorem setWport_gathers (s : State) (p : Nat) (w : WPort) : (s.setWport p w).gathers = s.gathers := rfl
@[simp] theorem setWport_sets (s : State) (p : Nat) (w : WPort) : (s.setWport p w).sets = s.sets := rfl
@[simp] theorem setWport_binds (s : State) (p : Nat) (w : WPort) : (s.setWport p w).binds = s.binds := rfl
@[simp] theorem setWport_aborts (s : State) (p : Nat) (w : WPort) : (s.setWport p w).aborts = s.aborts := rfl
@[simp] theorem setWport_cores (s : State) (p : Nat) (w : WPort) : (s.setWport p w).cores = s.cores := rfl
@[simp] theorem setWport_served (s : State) (p : Nat) (w : WPort) : (s.setWport p w).served = s.served := rfl
@[simp] theorem setWport_fencedDoms (s : State) (p : Nat) (w : WPort) : (s.setWport p w).fencedDoms = s.fencedDoms := rfl
@[simp] theorem setWport_deadDies (s : State) (p : Nat) (w : WPort) : (s.setWport p w).deadDies = s.deadDies := rfl
@[simp] theorem setWport_heldDies (s : State) (p : Nat) (w : WPort) : (s.setWport p w).heldDies = s.heldDies := rfl
@[simp] theorem setWport_regs (s : State) (p : Nat) (w : WPort) : (s.setWport p w).regs = s.regs := rfl
@[simp] theorem setWport_live (s : State) (p : Nat) (w : WPort) : (s.setWport p w).live = s.live := rfl
@[simp] theorem setWport_mod (s : State) (p : Nat) (w : WPort) : (s.setWport p w).mod = s.mod := rfl
@[simp] theorem setWport_conf (s : State) (p : Nat) (w : WPort) : (s.setWport p w).conf = s.conf := rfl
@[simp] theorem setWport_inc (s : State) (p : Nat) (w : WPort) : (s.setWport p w).inc = s.inc := rfl
@[simp] theorem setWport_out (s : State) (p : Nat) (w : WPort) : (s.setWport p w).out = s.out := rfl
@[simp] theorem setWport_outWait (s : State) (p : Nat) (w : WPort) : (s.setWport p w).outWait = s.outWait := rfl
@[simp] theorem setWport_rings (s : State) (p : Nat) (w : WPort) : (s.setWport p w).rings = s.rings := rfl
@[simp] theorem setWport_intLast (s : State) (p : Nat) (w : WPort) : (s.setWport p w).intLast = s.intLast := rfl
@[simp] theorem setWport_intHeld (s : State) (p : Nat) (w : WPort) : (s.setWport p w).intHeld = s.intHeld := rfl
@[simp] theorem setWport_trust (s : State) (p : Nat) (w : WPort) : (s.setWport p w).trust = s.trust := rfl
@[simp] theorem setWport_flash (s : State) (p : Nat) (w : WPort) : (s.setWport p w).flash = s.flash := rfl
@[simp] theorem setWport_pow (s : State) (p : Nat) (w : WPort) : (s.setWport p w).pow = s.pow := rfl
@[simp] theorem setWport_cus (s : State) (p : Nat) (w : WPort) : (s.setWport p w).cus = s.cus := rfl
@[simp] theorem setWport_queues (s : State) (p : Nat) (w : WPort) : (s.setWport p w).queues = s.queues := rfl
@[simp] theorem setWport_pkg (s : State) (p : Nat) (w : WPort) : (s.setWport p w).pkg = s.pkg := rfl
@[simp] theorem setWport_pending (s : State) (p : Nat) (w : WPort) : (s.setWport p w).pending = s.pending := rfl
@[simp] theorem setWport_get_stall (s : State) (p : Nat) (w : WPort) (j : Nat) : (s.setWport p w).stall j = s.stall j := rfl
@[simp] theorem setWport_get_port (s : State) (p : Nat) (w : WPort) (j : Nat) : (s.setWport p w).port j = s.port j := rfl
@[simp] theorem setWport_get_ctx (s : State) (p : Nat) (w : WPort) (j : Nat) : (s.setWport p w).ctx j = s.ctx j := rfl
@[simp] theorem setWport_get_unit (s : State) (p : Nat) (w : WPort) (j : Nat) : (s.setWport p w).unit j = s.unit j := rfl
@[simp] theorem setWport_get_ring (s : State) (p : Nat) (w : WPort) (j : Nat) : (s.setWport p w).ring j = s.ring j := rfl
@[simp] theorem setWport_get_core (s : State) (p : Nat) (w : WPort) (e j : Nat) : (s.setWport p w).core e j = s.core e j := rfl
@[simp] theorem setWport_get_byte (s : State) (p : Nat) (w : WPort) (j : Nat) : (s.setWport p w).byte j = s.byte j := rfl
@[simp] theorem setWport_get_line (s : State) (p : Nat) (w : WPort) (j : Nat) : (s.setWport p w).line j = s.line j := rfl

/-! ### setExchange -/

@[simp] theorem setExchange_now (s : State) (x : Exchange) : (s.setExchange x).now = s.now := rfl
@[simp] theorem setExchange_freeCtr (s : State) (x : Exchange) : (s.setExchange x).freeCtr = s.freeCtr := rfl
@[simp] theorem setExchange_bell (s : State) (x : Exchange) : (s.setExchange x).bell = s.bell := rfl
@[simp] theorem setExchange_asks (s : State) (x : Exchange) : (s.setExchange x).asks = s.asks := rfl
@[simp] theorem setExchange_decisions (s : State) (x : Exchange) : (s.setExchange x).decisions = s.decisions := rfl
@[simp] theorem setExchange_mem (s : State) (x : Exchange) : (s.setExchange x).mem = s.mem := rfl
@[simp] theorem setExchange_hbmEpoch (s : State) (x : Exchange) : (s.setExchange x).hbmEpoch = s.hbmEpoch := rfl
@[simp] theorem setExchange_stalls (s : State) (x : Exchange) : (s.setExchange x).stalls = s.stalls := rfl
@[simp] theorem setExchange_ports (s : State) (x : Exchange) : (s.setExchange x).ports = s.ports := rfl
@[simp] theorem setExchange_squares (s : State) (x : Exchange) : (s.setExchange x).squares = s.squares := rfl
@[simp] theorem setExchange_sqReqs (s : State) (x : Exchange) : (s.setExchange x).sqReqs = s.sqReqs := rfl
@[simp] theorem setExchange_sigs (s : State) (x : Exchange) : (s.setExchange x).sigs = s.sigs := rfl
@[simp] theorem setExchange_flits (s : State) (x : Exchange) : (s.setExchange x).flits = s.flits := rfl
@[simp] theorem setExchange_reqs (s : State) (x : Exchange) : (s.setExchange x).reqs = s.reqs := rfl
@[simp] theorem setExchange_idSeq (s : State) (x : Exchange) : (s.setExchange x).idSeq = s.idSeq := rfl
@[simp] theorem setExchange_spine (s : State) (x : Exchange) : (s.setExchange x).spine = s.spine := rfl
@[simp] theorem setExchange_slices (s : State) (x : Exchange) : (s.setExchange x).slices = s.slices := rfl
@[simp] theorem setExchange_units (s : State) (x : Exchange) : (s.setExchange x).units = s.units := rfl
@[simp] theorem setExchange_arrivals (s : State) (x : Exchange) : (s.setExchange x).arrivals = s.arrivals := rfl
@[simp] theorem setExchange_casts (s : State) (x : Exchange) : (s.setExchange x).casts = s.casts := rfl
@[simp] theorem setExchange_answers (s : State) (x : Exchange) : (s.setExchange x).answers = s.answers := rfl
@[simp] theorem setExchange_tlySats (s : State) (x : Exchange) : (s.setExchange x).tlySats = s.tlySats := rfl
@[simp] theorem setExchange_tlyRejects (s : State) (x : Exchange) : (s.setExchange x).tlyRejects = s.tlyRejects := rfl
@[simp] theorem setExchange_ledger (s : State) (x : Exchange) : (s.setExchange x).ledger = s.ledger := rfl
@[simp] theorem setExchange_dieMem (s : State) (x : Exchange) : (s.setExchange x).dieMem = s.dieMem := rfl
@[simp] theorem setExchange_failedLinks (s : State) (x : Exchange) : (s.setExchange x).failedLinks = s.failedLinks := rfl
@[simp] theorem setExchange_failing (s : State) (x : Exchange) : (s.setExchange x).failing = s.failing := rfl
@[simp] theorem setExchange_lostStores (s : State) (x : Exchange) : (s.setExchange x).lostStores = s.lostStores := rfl
@[simp] theorem setExchange_ctxs (s : State) (x : Exchange) : (s.setExchange x).ctxs = s.ctxs := rfl
@[simp] theorem setExchange_dispatches (s : State) (x : Exchange) : (s.setExchange x).dispatches = s.dispatches := rfl
@[simp] theorem setExchange_gathers (s : State) (x : Exchange) : (s.setExchange x).gathers = s.gathers := rfl
@[simp] theorem setExchange_sets (s : State) (x : Exchange) : (s.setExchange x).sets = s.sets := rfl
@[simp] theorem setExchange_binds (s : State) (x : Exchange) : (s.setExchange x).binds = s.binds := rfl
@[simp] theorem setExchange_aborts (s : State) (x : Exchange) : (s.setExchange x).aborts = s.aborts := rfl
@[simp] theorem setExchange_cores (s : State) (x : Exchange) : (s.setExchange x).cores = s.cores := rfl
@[simp] theorem setExchange_served (s : State) (x : Exchange) : (s.setExchange x).served = s.served := rfl
@[simp] theorem setExchange_fencedDoms (s : State) (x : Exchange) : (s.setExchange x).fencedDoms = s.fencedDoms := rfl
@[simp] theorem setExchange_deadDies (s : State) (x : Exchange) : (s.setExchange x).deadDies = s.deadDies := rfl
@[simp] theorem setExchange_heldDies (s : State) (x : Exchange) : (s.setExchange x).heldDies = s.heldDies := rfl
@[simp] theorem setExchange_regs (s : State) (x : Exchange) : (s.setExchange x).regs = s.regs := rfl
@[simp] theorem setExchange_live (s : State) (x : Exchange) : (s.setExchange x).live = s.live := rfl
@[simp] theorem setExchange_mod (s : State) (x : Exchange) : (s.setExchange x).mod = s.mod := rfl
@[simp] theorem setExchange_conf (s : State) (x : Exchange) : (s.setExchange x).conf = s.conf := rfl
@[simp] theorem setExchange_inc (s : State) (x : Exchange) : (s.setExchange x).inc = s.inc := rfl
@[simp] theorem setExchange_out (s : State) (x : Exchange) : (s.setExchange x).out = s.out := rfl
@[simp] theorem setExchange_outWait (s : State) (x : Exchange) : (s.setExchange x).outWait = s.outWait := rfl
@[simp] theorem setExchange_rings (s : State) (x : Exchange) : (s.setExchange x).rings = s.rings := rfl
@[simp] theorem setExchange_intLast (s : State) (x : Exchange) : (s.setExchange x).intLast = s.intLast := rfl
@[simp] theorem setExchange_intHeld (s : State) (x : Exchange) : (s.setExchange x).intHeld = s.intHeld := rfl
@[simp] theorem setExchange_trust (s : State) (x : Exchange) : (s.setExchange x).trust = s.trust := rfl
@[simp] theorem setExchange_flash (s : State) (x : Exchange) : (s.setExchange x).flash = s.flash := rfl
@[simp] theorem setExchange_pow (s : State) (x : Exchange) : (s.setExchange x).pow = s.pow := rfl
@[simp] theorem setExchange_cus (s : State) (x : Exchange) : (s.setExchange x).cus = s.cus := rfl
@[simp] theorem setExchange_queues (s : State) (x : Exchange) : (s.setExchange x).queues = s.queues := rfl
@[simp] theorem setExchange_pkg (s : State) (x : Exchange) : (s.setExchange x).pkg = s.pkg := rfl
@[simp] theorem setExchange_pending (s : State) (x : Exchange) : (s.setExchange x).pending = s.pending := rfl
@[simp] theorem setExchange_get_stall (s : State) (x : Exchange) (j : Nat) : (s.setExchange x).stall j = s.stall j := rfl
@[simp] theorem setExchange_get_port (s : State) (x : Exchange) (j : Nat) : (s.setExchange x).port j = s.port j := rfl
@[simp] theorem setExchange_get_ctx (s : State) (x : Exchange) (j : Nat) : (s.setExchange x).ctx j = s.ctx j := rfl
@[simp] theorem setExchange_get_unit (s : State) (x : Exchange) (j : Nat) : (s.setExchange x).unit j = s.unit j := rfl
@[simp] theorem setExchange_get_ring (s : State) (x : Exchange) (j : Nat) : (s.setExchange x).ring j = s.ring j := rfl
@[simp] theorem setExchange_get_core (s : State) (x : Exchange) (e j : Nat) : (s.setExchange x).core e j = s.core e j := rfl
@[simp] theorem setExchange_get_byte (s : State) (x : Exchange) (j : Nat) : (s.setExchange x).byte j = s.byte j := rfl
@[simp] theorem setExchange_get_line (s : State) (x : Exchange) (j : Nat) : (s.setExchange x).line j = s.line j := rfl

/-! ### setCtx -/

@[simp] theorem setCtx_now (s : State) (c : Nat) (x : Ctx) : (s.setCtx c x).now = s.now := rfl
@[simp] theorem setCtx_freeCtr (s : State) (c : Nat) (x : Ctx) : (s.setCtx c x).freeCtr = s.freeCtr := rfl
@[simp] theorem setCtx_bell (s : State) (c : Nat) (x : Ctx) : (s.setCtx c x).bell = s.bell := rfl
@[simp] theorem setCtx_asks (s : State) (c : Nat) (x : Ctx) : (s.setCtx c x).asks = s.asks := rfl
@[simp] theorem setCtx_decisions (s : State) (c : Nat) (x : Ctx) : (s.setCtx c x).decisions = s.decisions := rfl
@[simp] theorem setCtx_mem (s : State) (c : Nat) (x : Ctx) : (s.setCtx c x).mem = s.mem := rfl
@[simp] theorem setCtx_hbmEpoch (s : State) (c : Nat) (x : Ctx) : (s.setCtx c x).hbmEpoch = s.hbmEpoch := rfl
@[simp] theorem setCtx_stalls (s : State) (c : Nat) (x : Ctx) : (s.setCtx c x).stalls = s.stalls := rfl
@[simp] theorem setCtx_ports (s : State) (c : Nat) (x : Ctx) : (s.setCtx c x).ports = s.ports := rfl
@[simp] theorem setCtx_squares (s : State) (c : Nat) (x : Ctx) : (s.setCtx c x).squares = s.squares := rfl
@[simp] theorem setCtx_sqReqs (s : State) (c : Nat) (x : Ctx) : (s.setCtx c x).sqReqs = s.sqReqs := rfl
@[simp] theorem setCtx_sigs (s : State) (c : Nat) (x : Ctx) : (s.setCtx c x).sigs = s.sigs := rfl
@[simp] theorem setCtx_flits (s : State) (c : Nat) (x : Ctx) : (s.setCtx c x).flits = s.flits := rfl
@[simp] theorem setCtx_reqs (s : State) (c : Nat) (x : Ctx) : (s.setCtx c x).reqs = s.reqs := rfl
@[simp] theorem setCtx_idSeq (s : State) (c : Nat) (x : Ctx) : (s.setCtx c x).idSeq = s.idSeq := rfl
@[simp] theorem setCtx_spine (s : State) (c : Nat) (x : Ctx) : (s.setCtx c x).spine = s.spine := rfl
@[simp] theorem setCtx_slices (s : State) (c : Nat) (x : Ctx) : (s.setCtx c x).slices = s.slices := rfl
@[simp] theorem setCtx_units (s : State) (c : Nat) (x : Ctx) : (s.setCtx c x).units = s.units := rfl
@[simp] theorem setCtx_arrivals (s : State) (c : Nat) (x : Ctx) : (s.setCtx c x).arrivals = s.arrivals := rfl
@[simp] theorem setCtx_casts (s : State) (c : Nat) (x : Ctx) : (s.setCtx c x).casts = s.casts := rfl
@[simp] theorem setCtx_answers (s : State) (c : Nat) (x : Ctx) : (s.setCtx c x).answers = s.answers := rfl
@[simp] theorem setCtx_tlySats (s : State) (c : Nat) (x : Ctx) : (s.setCtx c x).tlySats = s.tlySats := rfl
@[simp] theorem setCtx_tlyRejects (s : State) (c : Nat) (x : Ctx) : (s.setCtx c x).tlyRejects = s.tlyRejects := rfl
@[simp] theorem setCtx_ledger (s : State) (c : Nat) (x : Ctx) : (s.setCtx c x).ledger = s.ledger := rfl
@[simp] theorem setCtx_dieMem (s : State) (c : Nat) (x : Ctx) : (s.setCtx c x).dieMem = s.dieMem := rfl
@[simp] theorem setCtx_failedLinks (s : State) (c : Nat) (x : Ctx) : (s.setCtx c x).failedLinks = s.failedLinks := rfl
@[simp] theorem setCtx_failing (s : State) (c : Nat) (x : Ctx) : (s.setCtx c x).failing = s.failing := rfl
@[simp] theorem setCtx_lostStores (s : State) (c : Nat) (x : Ctx) : (s.setCtx c x).lostStores = s.lostStores := rfl
@[simp] theorem setCtx_fab (s : State) (c : Nat) (x : Ctx) : (s.setCtx c x).fab = s.fab := rfl
@[simp] theorem setCtx_dispatches (s : State) (c : Nat) (x : Ctx) : (s.setCtx c x).dispatches = s.dispatches := rfl
@[simp] theorem setCtx_gathers (s : State) (c : Nat) (x : Ctx) : (s.setCtx c x).gathers = s.gathers := rfl
@[simp] theorem setCtx_sets (s : State) (c : Nat) (x : Ctx) : (s.setCtx c x).sets = s.sets := rfl
@[simp] theorem setCtx_binds (s : State) (c : Nat) (x : Ctx) : (s.setCtx c x).binds = s.binds := rfl
@[simp] theorem setCtx_aborts (s : State) (c : Nat) (x : Ctx) : (s.setCtx c x).aborts = s.aborts := rfl
@[simp] theorem setCtx_cores (s : State) (c : Nat) (x : Ctx) : (s.setCtx c x).cores = s.cores := rfl
@[simp] theorem setCtx_served (s : State) (c : Nat) (x : Ctx) : (s.setCtx c x).served = s.served := rfl
@[simp] theorem setCtx_fencedDoms (s : State) (c : Nat) (x : Ctx) : (s.setCtx c x).fencedDoms = s.fencedDoms := rfl
@[simp] theorem setCtx_deadDies (s : State) (c : Nat) (x : Ctx) : (s.setCtx c x).deadDies = s.deadDies := rfl
@[simp] theorem setCtx_heldDies (s : State) (c : Nat) (x : Ctx) : (s.setCtx c x).heldDies = s.heldDies := rfl
@[simp] theorem setCtx_regs (s : State) (c : Nat) (x : Ctx) : (s.setCtx c x).regs = s.regs := rfl
@[simp] theorem setCtx_live (s : State) (c : Nat) (x : Ctx) : (s.setCtx c x).live = s.live := rfl
@[simp] theorem setCtx_mod (s : State) (c : Nat) (x : Ctx) : (s.setCtx c x).mod = s.mod := rfl
@[simp] theorem setCtx_conf (s : State) (c : Nat) (x : Ctx) : (s.setCtx c x).conf = s.conf := rfl
@[simp] theorem setCtx_inc (s : State) (c : Nat) (x : Ctx) : (s.setCtx c x).inc = s.inc := rfl
@[simp] theorem setCtx_out (s : State) (c : Nat) (x : Ctx) : (s.setCtx c x).out = s.out := rfl
@[simp] theorem setCtx_outWait (s : State) (c : Nat) (x : Ctx) : (s.setCtx c x).outWait = s.outWait := rfl
@[simp] theorem setCtx_rings (s : State) (c : Nat) (x : Ctx) : (s.setCtx c x).rings = s.rings := rfl
@[simp] theorem setCtx_intLast (s : State) (c : Nat) (x : Ctx) : (s.setCtx c x).intLast = s.intLast := rfl
@[simp] theorem setCtx_intHeld (s : State) (c : Nat) (x : Ctx) : (s.setCtx c x).intHeld = s.intHeld := rfl
@[simp] theorem setCtx_trust (s : State) (c : Nat) (x : Ctx) : (s.setCtx c x).trust = s.trust := rfl
@[simp] theorem setCtx_flash (s : State) (c : Nat) (x : Ctx) : (s.setCtx c x).flash = s.flash := rfl
@[simp] theorem setCtx_pow (s : State) (c : Nat) (x : Ctx) : (s.setCtx c x).pow = s.pow := rfl
@[simp] theorem setCtx_cus (s : State) (c : Nat) (x : Ctx) : (s.setCtx c x).cus = s.cus := rfl
@[simp] theorem setCtx_queues (s : State) (c : Nat) (x : Ctx) : (s.setCtx c x).queues = s.queues := rfl
@[simp] theorem setCtx_pkg (s : State) (c : Nat) (x : Ctx) : (s.setCtx c x).pkg = s.pkg := rfl
@[simp] theorem setCtx_pending (s : State) (c : Nat) (x : Ctx) : (s.setCtx c x).pending = s.pending := rfl
@[simp] theorem setCtx_get_stall (s : State) (c : Nat) (x : Ctx) (j : Nat) : (s.setCtx c x).stall j = s.stall j := rfl
@[simp] theorem setCtx_get_port (s : State) (c : Nat) (x : Ctx) (j : Nat) : (s.setCtx c x).port j = s.port j := rfl
@[simp] theorem setCtx_get_unit (s : State) (c : Nat) (x : Ctx) (j : Nat) : (s.setCtx c x).unit j = s.unit j := rfl
@[simp] theorem setCtx_get_ring (s : State) (c : Nat) (x : Ctx) (j : Nat) : (s.setCtx c x).ring j = s.ring j := rfl
@[simp] theorem setCtx_get_core (s : State) (c : Nat) (x : Ctx) (e j : Nat) : (s.setCtx c x).core e j = s.core e j := rfl
@[simp] theorem setCtx_get_wport (s : State) (c : Nat) (x : Ctx) (j : Nat) : (s.setCtx c x).wport j = s.wport j := rfl
@[simp] theorem setCtx_get_byte (s : State) (c : Nat) (x : Ctx) (j : Nat) : (s.setCtx c x).byte j = s.byte j := rfl
@[simp] theorem setCtx_get_line (s : State) (c : Nat) (x : Ctx) (j : Nat) : (s.setCtx c x).line j = s.line j := rfl

/-! ### setSet -/

@[simp] theorem setSet_now (s : State) (x : RSet) : (s.setSet x).now = s.now := rfl
@[simp] theorem setSet_freeCtr (s : State) (x : RSet) : (s.setSet x).freeCtr = s.freeCtr := rfl
@[simp] theorem setSet_bell (s : State) (x : RSet) : (s.setSet x).bell = s.bell := rfl
@[simp] theorem setSet_asks (s : State) (x : RSet) : (s.setSet x).asks = s.asks := rfl
@[simp] theorem setSet_decisions (s : State) (x : RSet) : (s.setSet x).decisions = s.decisions := rfl
@[simp] theorem setSet_mem (s : State) (x : RSet) : (s.setSet x).mem = s.mem := rfl
@[simp] theorem setSet_hbmEpoch (s : State) (x : RSet) : (s.setSet x).hbmEpoch = s.hbmEpoch := rfl
@[simp] theorem setSet_stalls (s : State) (x : RSet) : (s.setSet x).stalls = s.stalls := rfl
@[simp] theorem setSet_ports (s : State) (x : RSet) : (s.setSet x).ports = s.ports := rfl
@[simp] theorem setSet_squares (s : State) (x : RSet) : (s.setSet x).squares = s.squares := rfl
@[simp] theorem setSet_sqReqs (s : State) (x : RSet) : (s.setSet x).sqReqs = s.sqReqs := rfl
@[simp] theorem setSet_sigs (s : State) (x : RSet) : (s.setSet x).sigs = s.sigs := rfl
@[simp] theorem setSet_flits (s : State) (x : RSet) : (s.setSet x).flits = s.flits := rfl
@[simp] theorem setSet_reqs (s : State) (x : RSet) : (s.setSet x).reqs = s.reqs := rfl
@[simp] theorem setSet_idSeq (s : State) (x : RSet) : (s.setSet x).idSeq = s.idSeq := rfl
@[simp] theorem setSet_spine (s : State) (x : RSet) : (s.setSet x).spine = s.spine := rfl
@[simp] theorem setSet_slices (s : State) (x : RSet) : (s.setSet x).slices = s.slices := rfl
@[simp] theorem setSet_units (s : State) (x : RSet) : (s.setSet x).units = s.units := rfl
@[simp] theorem setSet_arrivals (s : State) (x : RSet) : (s.setSet x).arrivals = s.arrivals := rfl
@[simp] theorem setSet_casts (s : State) (x : RSet) : (s.setSet x).casts = s.casts := rfl
@[simp] theorem setSet_answers (s : State) (x : RSet) : (s.setSet x).answers = s.answers := rfl
@[simp] theorem setSet_tlySats (s : State) (x : RSet) : (s.setSet x).tlySats = s.tlySats := rfl
@[simp] theorem setSet_tlyRejects (s : State) (x : RSet) : (s.setSet x).tlyRejects = s.tlyRejects := rfl
@[simp] theorem setSet_ledger (s : State) (x : RSet) : (s.setSet x).ledger = s.ledger := rfl
@[simp] theorem setSet_dieMem (s : State) (x : RSet) : (s.setSet x).dieMem = s.dieMem := rfl
@[simp] theorem setSet_failedLinks (s : State) (x : RSet) : (s.setSet x).failedLinks = s.failedLinks := rfl
@[simp] theorem setSet_failing (s : State) (x : RSet) : (s.setSet x).failing = s.failing := rfl
@[simp] theorem setSet_lostStores (s : State) (x : RSet) : (s.setSet x).lostStores = s.lostStores := rfl
@[simp] theorem setSet_fab (s : State) (x : RSet) : (s.setSet x).fab = s.fab := rfl
@[simp] theorem setSet_ctxs (s : State) (x : RSet) : (s.setSet x).ctxs = s.ctxs := rfl
@[simp] theorem setSet_dispatches (s : State) (x : RSet) : (s.setSet x).dispatches = s.dispatches := rfl
@[simp] theorem setSet_gathers (s : State) (x : RSet) : (s.setSet x).gathers = s.gathers := rfl
@[simp] theorem setSet_binds (s : State) (x : RSet) : (s.setSet x).binds = s.binds := rfl
@[simp] theorem setSet_aborts (s : State) (x : RSet) : (s.setSet x).aborts = s.aborts := rfl
@[simp] theorem setSet_cores (s : State) (x : RSet) : (s.setSet x).cores = s.cores := rfl
@[simp] theorem setSet_served (s : State) (x : RSet) : (s.setSet x).served = s.served := rfl
@[simp] theorem setSet_fencedDoms (s : State) (x : RSet) : (s.setSet x).fencedDoms = s.fencedDoms := rfl
@[simp] theorem setSet_deadDies (s : State) (x : RSet) : (s.setSet x).deadDies = s.deadDies := rfl
@[simp] theorem setSet_heldDies (s : State) (x : RSet) : (s.setSet x).heldDies = s.heldDies := rfl
@[simp] theorem setSet_regs (s : State) (x : RSet) : (s.setSet x).regs = s.regs := rfl
@[simp] theorem setSet_live (s : State) (x : RSet) : (s.setSet x).live = s.live := rfl
@[simp] theorem setSet_mod (s : State) (x : RSet) : (s.setSet x).mod = s.mod := rfl
@[simp] theorem setSet_conf (s : State) (x : RSet) : (s.setSet x).conf = s.conf := rfl
@[simp] theorem setSet_inc (s : State) (x : RSet) : (s.setSet x).inc = s.inc := rfl
@[simp] theorem setSet_out (s : State) (x : RSet) : (s.setSet x).out = s.out := rfl
@[simp] theorem setSet_outWait (s : State) (x : RSet) : (s.setSet x).outWait = s.outWait := rfl
@[simp] theorem setSet_rings (s : State) (x : RSet) : (s.setSet x).rings = s.rings := rfl
@[simp] theorem setSet_intLast (s : State) (x : RSet) : (s.setSet x).intLast = s.intLast := rfl
@[simp] theorem setSet_intHeld (s : State) (x : RSet) : (s.setSet x).intHeld = s.intHeld := rfl
@[simp] theorem setSet_trust (s : State) (x : RSet) : (s.setSet x).trust = s.trust := rfl
@[simp] theorem setSet_flash (s : State) (x : RSet) : (s.setSet x).flash = s.flash := rfl
@[simp] theorem setSet_pow (s : State) (x : RSet) : (s.setSet x).pow = s.pow := rfl
@[simp] theorem setSet_cus (s : State) (x : RSet) : (s.setSet x).cus = s.cus := rfl
@[simp] theorem setSet_queues (s : State) (x : RSet) : (s.setSet x).queues = s.queues := rfl
@[simp] theorem setSet_pkg (s : State) (x : RSet) : (s.setSet x).pkg = s.pkg := rfl
@[simp] theorem setSet_pending (s : State) (x : RSet) : (s.setSet x).pending = s.pending := rfl
@[simp] theorem setSet_get_stall (s : State) (x : RSet) (j : Nat) : (s.setSet x).stall j = s.stall j := rfl
@[simp] theorem setSet_get_port (s : State) (x : RSet) (j : Nat) : (s.setSet x).port j = s.port j := rfl
@[simp] theorem setSet_get_ctx (s : State) (x : RSet) (j : Nat) : (s.setSet x).ctx j = s.ctx j := rfl
@[simp] theorem setSet_get_unit (s : State) (x : RSet) (j : Nat) : (s.setSet x).unit j = s.unit j := rfl
@[simp] theorem setSet_get_ring (s : State) (x : RSet) (j : Nat) : (s.setSet x).ring j = s.ring j := rfl
@[simp] theorem setSet_get_core (s : State) (x : RSet) (e j : Nat) : (s.setSet x).core e j = s.core e j := rfl
@[simp] theorem setSet_get_wport (s : State) (x : RSet) (j : Nat) : (s.setSet x).wport j = s.wport j := rfl
@[simp] theorem setSet_get_byte (s : State) (x : RSet) (j : Nat) : (s.setSet x).byte j = s.byte j := rfl
@[simp] theorem setSet_get_line (s : State) (x : RSet) (j : Nat) : (s.setSet x).line j = s.line j := rfl

/-! ### setCore -/

@[simp] theorem setCore_now (s : State) (d k : Nat) (c : Core) : (s.setCore d k c).now = s.now := rfl
@[simp] theorem setCore_freeCtr (s : State) (d k : Nat) (c : Core) : (s.setCore d k c).freeCtr = s.freeCtr := rfl
@[simp] theorem setCore_bell (s : State) (d k : Nat) (c : Core) : (s.setCore d k c).bell = s.bell := rfl
@[simp] theorem setCore_asks (s : State) (d k : Nat) (c : Core) : (s.setCore d k c).asks = s.asks := rfl
@[simp] theorem setCore_decisions (s : State) (d k : Nat) (c : Core) : (s.setCore d k c).decisions = s.decisions := rfl
@[simp] theorem setCore_mem (s : State) (d k : Nat) (c : Core) : (s.setCore d k c).mem = s.mem := rfl
@[simp] theorem setCore_hbmEpoch (s : State) (d k : Nat) (c : Core) : (s.setCore d k c).hbmEpoch = s.hbmEpoch := rfl
@[simp] theorem setCore_stalls (s : State) (d k : Nat) (c : Core) : (s.setCore d k c).stalls = s.stalls := rfl
@[simp] theorem setCore_ports (s : State) (d k : Nat) (c : Core) : (s.setCore d k c).ports = s.ports := rfl
@[simp] theorem setCore_squares (s : State) (d k : Nat) (c : Core) : (s.setCore d k c).squares = s.squares := rfl
@[simp] theorem setCore_sqReqs (s : State) (d k : Nat) (c : Core) : (s.setCore d k c).sqReqs = s.sqReqs := rfl
@[simp] theorem setCore_sigs (s : State) (d k : Nat) (c : Core) : (s.setCore d k c).sigs = s.sigs := rfl
@[simp] theorem setCore_flits (s : State) (d k : Nat) (c : Core) : (s.setCore d k c).flits = s.flits := rfl
@[simp] theorem setCore_reqs (s : State) (d k : Nat) (c : Core) : (s.setCore d k c).reqs = s.reqs := rfl
@[simp] theorem setCore_idSeq (s : State) (d k : Nat) (c : Core) : (s.setCore d k c).idSeq = s.idSeq := rfl
@[simp] theorem setCore_spine (s : State) (d k : Nat) (c : Core) : (s.setCore d k c).spine = s.spine := rfl
@[simp] theorem setCore_slices (s : State) (d k : Nat) (c : Core) : (s.setCore d k c).slices = s.slices := rfl
@[simp] theorem setCore_units (s : State) (d k : Nat) (c : Core) : (s.setCore d k c).units = s.units := rfl
@[simp] theorem setCore_arrivals (s : State) (d k : Nat) (c : Core) : (s.setCore d k c).arrivals = s.arrivals := rfl
@[simp] theorem setCore_casts (s : State) (d k : Nat) (c : Core) : (s.setCore d k c).casts = s.casts := rfl
@[simp] theorem setCore_answers (s : State) (d k : Nat) (c : Core) : (s.setCore d k c).answers = s.answers := rfl
@[simp] theorem setCore_tlySats (s : State) (d k : Nat) (c : Core) : (s.setCore d k c).tlySats = s.tlySats := rfl
@[simp] theorem setCore_tlyRejects (s : State) (d k : Nat) (c : Core) : (s.setCore d k c).tlyRejects = s.tlyRejects := rfl
@[simp] theorem setCore_ledger (s : State) (d k : Nat) (c : Core) : (s.setCore d k c).ledger = s.ledger := rfl
@[simp] theorem setCore_dieMem (s : State) (d k : Nat) (c : Core) : (s.setCore d k c).dieMem = s.dieMem := rfl
@[simp] theorem setCore_failedLinks (s : State) (d k : Nat) (c : Core) : (s.setCore d k c).failedLinks = s.failedLinks := rfl
@[simp] theorem setCore_failing (s : State) (d k : Nat) (c : Core) : (s.setCore d k c).failing = s.failing := rfl
@[simp] theorem setCore_lostStores (s : State) (d k : Nat) (c : Core) : (s.setCore d k c).lostStores = s.lostStores := rfl
@[simp] theorem setCore_fab (s : State) (d k : Nat) (c : Core) : (s.setCore d k c).fab = s.fab := rfl
@[simp] theorem setCore_ctxs (s : State) (d k : Nat) (c : Core) : (s.setCore d k c).ctxs = s.ctxs := rfl
@[simp] theorem setCore_dispatches (s : State) (d k : Nat) (c : Core) : (s.setCore d k c).dispatches = s.dispatches := rfl
@[simp] theorem setCore_gathers (s : State) (d k : Nat) (c : Core) : (s.setCore d k c).gathers = s.gathers := rfl
@[simp] theorem setCore_sets (s : State) (d k : Nat) (c : Core) : (s.setCore d k c).sets = s.sets := rfl
@[simp] theorem setCore_binds (s : State) (d k : Nat) (c : Core) : (s.setCore d k c).binds = s.binds := rfl
@[simp] theorem setCore_aborts (s : State) (d k : Nat) (c : Core) : (s.setCore d k c).aborts = s.aborts := rfl
@[simp] theorem setCore_served (s : State) (d k : Nat) (c : Core) : (s.setCore d k c).served = s.served := rfl
@[simp] theorem setCore_fencedDoms (s : State) (d k : Nat) (c : Core) : (s.setCore d k c).fencedDoms = s.fencedDoms := rfl
@[simp] theorem setCore_deadDies (s : State) (d k : Nat) (c : Core) : (s.setCore d k c).deadDies = s.deadDies := rfl
@[simp] theorem setCore_heldDies (s : State) (d k : Nat) (c : Core) : (s.setCore d k c).heldDies = s.heldDies := rfl
@[simp] theorem setCore_regs (s : State) (d k : Nat) (c : Core) : (s.setCore d k c).regs = s.regs := rfl
@[simp] theorem setCore_live (s : State) (d k : Nat) (c : Core) : (s.setCore d k c).live = s.live := rfl
@[simp] theorem setCore_mod (s : State) (d k : Nat) (c : Core) : (s.setCore d k c).mod = s.mod := rfl
@[simp] theorem setCore_conf (s : State) (d k : Nat) (c : Core) : (s.setCore d k c).conf = s.conf := rfl
@[simp] theorem setCore_inc (s : State) (d k : Nat) (c : Core) : (s.setCore d k c).inc = s.inc := rfl
@[simp] theorem setCore_out (s : State) (d k : Nat) (c : Core) : (s.setCore d k c).out = s.out := rfl
@[simp] theorem setCore_outWait (s : State) (d k : Nat) (c : Core) : (s.setCore d k c).outWait = s.outWait := rfl
@[simp] theorem setCore_rings (s : State) (d k : Nat) (c : Core) : (s.setCore d k c).rings = s.rings := rfl
@[simp] theorem setCore_intLast (s : State) (d k : Nat) (c : Core) : (s.setCore d k c).intLast = s.intLast := rfl
@[simp] theorem setCore_intHeld (s : State) (d k : Nat) (c : Core) : (s.setCore d k c).intHeld = s.intHeld := rfl
@[simp] theorem setCore_trust (s : State) (d k : Nat) (c : Core) : (s.setCore d k c).trust = s.trust := rfl
@[simp] theorem setCore_flash (s : State) (d k : Nat) (c : Core) : (s.setCore d k c).flash = s.flash := rfl
@[simp] theorem setCore_pow (s : State) (d k : Nat) (c : Core) : (s.setCore d k c).pow = s.pow := rfl
@[simp] theorem setCore_cus (s : State) (d k : Nat) (c : Core) : (s.setCore d k c).cus = s.cus := rfl
@[simp] theorem setCore_queues (s : State) (d k : Nat) (c : Core) : (s.setCore d k c).queues = s.queues := rfl
@[simp] theorem setCore_pkg (s : State) (d k : Nat) (c : Core) : (s.setCore d k c).pkg = s.pkg := rfl
@[simp] theorem setCore_pending (s : State) (d k : Nat) (c : Core) : (s.setCore d k c).pending = s.pending := rfl
@[simp] theorem setCore_get_stall (s : State) (d k : Nat) (c : Core) (j : Nat) : (s.setCore d k c).stall j = s.stall j := rfl
@[simp] theorem setCore_get_port (s : State) (d k : Nat) (c : Core) (j : Nat) : (s.setCore d k c).port j = s.port j := rfl
@[simp] theorem setCore_get_ctx (s : State) (d k : Nat) (c : Core) (j : Nat) : (s.setCore d k c).ctx j = s.ctx j := rfl
@[simp] theorem setCore_get_unit (s : State) (d k : Nat) (c : Core) (j : Nat) : (s.setCore d k c).unit j = s.unit j := rfl
@[simp] theorem setCore_get_ring (s : State) (d k : Nat) (c : Core) (j : Nat) : (s.setCore d k c).ring j = s.ring j := rfl
@[simp] theorem setCore_get_wport (s : State) (d k : Nat) (c : Core) (j : Nat) : (s.setCore d k c).wport j = s.wport j := rfl
@[simp] theorem setCore_get_byte (s : State) (d k : Nat) (c : Core) (j : Nat) : (s.setCore d k c).byte j = s.byte j := rfl
@[simp] theorem setCore_get_line (s : State) (d k : Nat) (c : Core) (j : Nat) : (s.setCore d k c).line j = s.line j := rfl

/-! ### setRing -/

@[simp] theorem setRing_now (s : State) (i : Nat) (r : Ring) : (s.setRing i r).now = s.now := rfl
@[simp] theorem setRing_freeCtr (s : State) (i : Nat) (r : Ring) : (s.setRing i r).freeCtr = s.freeCtr := rfl
@[simp] theorem setRing_bell (s : State) (i : Nat) (r : Ring) : (s.setRing i r).bell = s.bell := rfl
@[simp] theorem setRing_asks (s : State) (i : Nat) (r : Ring) : (s.setRing i r).asks = s.asks := rfl
@[simp] theorem setRing_decisions (s : State) (i : Nat) (r : Ring) : (s.setRing i r).decisions = s.decisions := rfl
@[simp] theorem setRing_mem (s : State) (i : Nat) (r : Ring) : (s.setRing i r).mem = s.mem := rfl
@[simp] theorem setRing_hbmEpoch (s : State) (i : Nat) (r : Ring) : (s.setRing i r).hbmEpoch = s.hbmEpoch := rfl
@[simp] theorem setRing_stalls (s : State) (i : Nat) (r : Ring) : (s.setRing i r).stalls = s.stalls := rfl
@[simp] theorem setRing_ports (s : State) (i : Nat) (r : Ring) : (s.setRing i r).ports = s.ports := rfl
@[simp] theorem setRing_squares (s : State) (i : Nat) (r : Ring) : (s.setRing i r).squares = s.squares := rfl
@[simp] theorem setRing_sqReqs (s : State) (i : Nat) (r : Ring) : (s.setRing i r).sqReqs = s.sqReqs := rfl
@[simp] theorem setRing_sigs (s : State) (i : Nat) (r : Ring) : (s.setRing i r).sigs = s.sigs := rfl
@[simp] theorem setRing_flits (s : State) (i : Nat) (r : Ring) : (s.setRing i r).flits = s.flits := rfl
@[simp] theorem setRing_reqs (s : State) (i : Nat) (r : Ring) : (s.setRing i r).reqs = s.reqs := rfl
@[simp] theorem setRing_idSeq (s : State) (i : Nat) (r : Ring) : (s.setRing i r).idSeq = s.idSeq := rfl
@[simp] theorem setRing_spine (s : State) (i : Nat) (r : Ring) : (s.setRing i r).spine = s.spine := rfl
@[simp] theorem setRing_slices (s : State) (i : Nat) (r : Ring) : (s.setRing i r).slices = s.slices := rfl
@[simp] theorem setRing_units (s : State) (i : Nat) (r : Ring) : (s.setRing i r).units = s.units := rfl
@[simp] theorem setRing_arrivals (s : State) (i : Nat) (r : Ring) : (s.setRing i r).arrivals = s.arrivals := rfl
@[simp] theorem setRing_casts (s : State) (i : Nat) (r : Ring) : (s.setRing i r).casts = s.casts := rfl
@[simp] theorem setRing_answers (s : State) (i : Nat) (r : Ring) : (s.setRing i r).answers = s.answers := rfl
@[simp] theorem setRing_tlySats (s : State) (i : Nat) (r : Ring) : (s.setRing i r).tlySats = s.tlySats := rfl
@[simp] theorem setRing_tlyRejects (s : State) (i : Nat) (r : Ring) : (s.setRing i r).tlyRejects = s.tlyRejects := rfl
@[simp] theorem setRing_ledger (s : State) (i : Nat) (r : Ring) : (s.setRing i r).ledger = s.ledger := rfl
@[simp] theorem setRing_dieMem (s : State) (i : Nat) (r : Ring) : (s.setRing i r).dieMem = s.dieMem := rfl
@[simp] theorem setRing_failedLinks (s : State) (i : Nat) (r : Ring) : (s.setRing i r).failedLinks = s.failedLinks := rfl
@[simp] theorem setRing_failing (s : State) (i : Nat) (r : Ring) : (s.setRing i r).failing = s.failing := rfl
@[simp] theorem setRing_lostStores (s : State) (i : Nat) (r : Ring) : (s.setRing i r).lostStores = s.lostStores := rfl
@[simp] theorem setRing_fab (s : State) (i : Nat) (r : Ring) : (s.setRing i r).fab = s.fab := rfl
@[simp] theorem setRing_ctxs (s : State) (i : Nat) (r : Ring) : (s.setRing i r).ctxs = s.ctxs := rfl
@[simp] theorem setRing_dispatches (s : State) (i : Nat) (r : Ring) : (s.setRing i r).dispatches = s.dispatches := rfl
@[simp] theorem setRing_gathers (s : State) (i : Nat) (r : Ring) : (s.setRing i r).gathers = s.gathers := rfl
@[simp] theorem setRing_sets (s : State) (i : Nat) (r : Ring) : (s.setRing i r).sets = s.sets := rfl
@[simp] theorem setRing_binds (s : State) (i : Nat) (r : Ring) : (s.setRing i r).binds = s.binds := rfl
@[simp] theorem setRing_aborts (s : State) (i : Nat) (r : Ring) : (s.setRing i r).aborts = s.aborts := rfl
@[simp] theorem setRing_cores (s : State) (i : Nat) (r : Ring) : (s.setRing i r).cores = s.cores := rfl
@[simp] theorem setRing_served (s : State) (i : Nat) (r : Ring) : (s.setRing i r).served = s.served := rfl
@[simp] theorem setRing_fencedDoms (s : State) (i : Nat) (r : Ring) : (s.setRing i r).fencedDoms = s.fencedDoms := rfl
@[simp] theorem setRing_deadDies (s : State) (i : Nat) (r : Ring) : (s.setRing i r).deadDies = s.deadDies := rfl
@[simp] theorem setRing_heldDies (s : State) (i : Nat) (r : Ring) : (s.setRing i r).heldDies = s.heldDies := rfl
@[simp] theorem setRing_regs (s : State) (i : Nat) (r : Ring) : (s.setRing i r).regs = s.regs := rfl
@[simp] theorem setRing_live (s : State) (i : Nat) (r : Ring) : (s.setRing i r).live = s.live := rfl
@[simp] theorem setRing_mod (s : State) (i : Nat) (r : Ring) : (s.setRing i r).mod = s.mod := rfl
@[simp] theorem setRing_conf (s : State) (i : Nat) (r : Ring) : (s.setRing i r).conf = s.conf := rfl
@[simp] theorem setRing_inc (s : State) (i : Nat) (r : Ring) : (s.setRing i r).inc = s.inc := rfl
@[simp] theorem setRing_out (s : State) (i : Nat) (r : Ring) : (s.setRing i r).out = s.out := rfl
@[simp] theorem setRing_outWait (s : State) (i : Nat) (r : Ring) : (s.setRing i r).outWait = s.outWait := rfl
@[simp] theorem setRing_intLast (s : State) (i : Nat) (r : Ring) : (s.setRing i r).intLast = s.intLast := rfl
@[simp] theorem setRing_intHeld (s : State) (i : Nat) (r : Ring) : (s.setRing i r).intHeld = s.intHeld := rfl
@[simp] theorem setRing_trust (s : State) (i : Nat) (r : Ring) : (s.setRing i r).trust = s.trust := rfl
@[simp] theorem setRing_flash (s : State) (i : Nat) (r : Ring) : (s.setRing i r).flash = s.flash := rfl
@[simp] theorem setRing_pow (s : State) (i : Nat) (r : Ring) : (s.setRing i r).pow = s.pow := rfl
@[simp] theorem setRing_cus (s : State) (i : Nat) (r : Ring) : (s.setRing i r).cus = s.cus := rfl
@[simp] theorem setRing_queues (s : State) (i : Nat) (r : Ring) : (s.setRing i r).queues = s.queues := rfl
@[simp] theorem setRing_pkg (s : State) (i : Nat) (r : Ring) : (s.setRing i r).pkg = s.pkg := rfl
@[simp] theorem setRing_pending (s : State) (i : Nat) (r : Ring) : (s.setRing i r).pending = s.pending := rfl
@[simp] theorem setRing_get_stall (s : State) (i : Nat) (r : Ring) (j : Nat) : (s.setRing i r).stall j = s.stall j := rfl
@[simp] theorem setRing_get_port (s : State) (i : Nat) (r : Ring) (j : Nat) : (s.setRing i r).port j = s.port j := rfl
@[simp] theorem setRing_get_ctx (s : State) (i : Nat) (r : Ring) (j : Nat) : (s.setRing i r).ctx j = s.ctx j := rfl
@[simp] theorem setRing_get_unit (s : State) (i : Nat) (r : Ring) (j : Nat) : (s.setRing i r).unit j = s.unit j := rfl
@[simp] theorem setRing_get_core (s : State) (i : Nat) (r : Ring) (e j : Nat) : (s.setRing i r).core e j = s.core e j := rfl
@[simp] theorem setRing_get_wport (s : State) (i : Nat) (r : Ring) (j : Nat) : (s.setRing i r).wport j = s.wport j := rfl
@[simp] theorem setRing_get_byte (s : State) (i : Nat) (r : Ring) (j : Nat) : (s.setRing i r).byte j = s.byte j := rfl
@[simp] theorem setRing_get_line (s : State) (i : Nat) (r : Ring) (j : Nat) : (s.setRing i r).line j = s.line j := rfl

/-! ### tick -/

@[simp] theorem tick_now (s : State) : (s.tick).now = s.now := rfl
@[simp] theorem tick_freeCtr (s : State) : (s.tick).freeCtr = s.freeCtr := rfl
@[simp] theorem tick_bell (s : State) : (s.tick).bell = s.bell := rfl
@[simp] theorem tick_asks (s : State) : (s.tick).asks = s.asks := rfl
@[simp] theorem tick_decisions (s : State) : (s.tick).decisions = s.decisions := rfl
@[simp] theorem tick_mem (s : State) : (s.tick).mem = s.mem := rfl
@[simp] theorem tick_hbmEpoch (s : State) : (s.tick).hbmEpoch = s.hbmEpoch := rfl
@[simp] theorem tick_stalls (s : State) : (s.tick).stalls = s.stalls := rfl
@[simp] theorem tick_ports (s : State) : (s.tick).ports = s.ports := rfl
@[simp] theorem tick_squares (s : State) : (s.tick).squares = s.squares := rfl
@[simp] theorem tick_sqReqs (s : State) : (s.tick).sqReqs = s.sqReqs := rfl
@[simp] theorem tick_sigs (s : State) : (s.tick).sigs = s.sigs := rfl
@[simp] theorem tick_flits (s : State) : (s.tick).flits = s.flits := rfl
@[simp] theorem tick_reqs (s : State) : (s.tick).reqs = s.reqs := rfl
@[simp] theorem tick_spine (s : State) : (s.tick).spine = s.spine := rfl
@[simp] theorem tick_slices (s : State) : (s.tick).slices = s.slices := rfl
@[simp] theorem tick_units (s : State) : (s.tick).units = s.units := rfl
@[simp] theorem tick_arrivals (s : State) : (s.tick).arrivals = s.arrivals := rfl
@[simp] theorem tick_casts (s : State) : (s.tick).casts = s.casts := rfl
@[simp] theorem tick_answers (s : State) : (s.tick).answers = s.answers := rfl
@[simp] theorem tick_tlySats (s : State) : (s.tick).tlySats = s.tlySats := rfl
@[simp] theorem tick_tlyRejects (s : State) : (s.tick).tlyRejects = s.tlyRejects := rfl
@[simp] theorem tick_ledger (s : State) : (s.tick).ledger = s.ledger := rfl
@[simp] theorem tick_dieMem (s : State) : (s.tick).dieMem = s.dieMem := rfl
@[simp] theorem tick_failedLinks (s : State) : (s.tick).failedLinks = s.failedLinks := rfl
@[simp] theorem tick_failing (s : State) : (s.tick).failing = s.failing := rfl
@[simp] theorem tick_lostStores (s : State) : (s.tick).lostStores = s.lostStores := rfl
@[simp] theorem tick_fab (s : State) : (s.tick).fab = s.fab := rfl
@[simp] theorem tick_ctxs (s : State) : (s.tick).ctxs = s.ctxs := rfl
@[simp] theorem tick_dispatches (s : State) : (s.tick).dispatches = s.dispatches := rfl
@[simp] theorem tick_gathers (s : State) : (s.tick).gathers = s.gathers := rfl
@[simp] theorem tick_sets (s : State) : (s.tick).sets = s.sets := rfl
@[simp] theorem tick_binds (s : State) : (s.tick).binds = s.binds := rfl
@[simp] theorem tick_aborts (s : State) : (s.tick).aborts = s.aborts := rfl
@[simp] theorem tick_cores (s : State) : (s.tick).cores = s.cores := rfl
@[simp] theorem tick_served (s : State) : (s.tick).served = s.served := rfl
@[simp] theorem tick_fencedDoms (s : State) : (s.tick).fencedDoms = s.fencedDoms := rfl
@[simp] theorem tick_deadDies (s : State) : (s.tick).deadDies = s.deadDies := rfl
@[simp] theorem tick_heldDies (s : State) : (s.tick).heldDies = s.heldDies := rfl
@[simp] theorem tick_regs (s : State) : (s.tick).regs = s.regs := rfl
@[simp] theorem tick_live (s : State) : (s.tick).live = s.live := rfl
@[simp] theorem tick_mod (s : State) : (s.tick).mod = s.mod := rfl
@[simp] theorem tick_conf (s : State) : (s.tick).conf = s.conf := rfl
@[simp] theorem tick_inc (s : State) : (s.tick).inc = s.inc := rfl
@[simp] theorem tick_out (s : State) : (s.tick).out = s.out := rfl
@[simp] theorem tick_outWait (s : State) : (s.tick).outWait = s.outWait := rfl
@[simp] theorem tick_rings (s : State) : (s.tick).rings = s.rings := rfl
@[simp] theorem tick_intLast (s : State) : (s.tick).intLast = s.intLast := rfl
@[simp] theorem tick_intHeld (s : State) : (s.tick).intHeld = s.intHeld := rfl
@[simp] theorem tick_trust (s : State) : (s.tick).trust = s.trust := rfl
@[simp] theorem tick_flash (s : State) : (s.tick).flash = s.flash := rfl
@[simp] theorem tick_pow (s : State) : (s.tick).pow = s.pow := rfl
@[simp] theorem tick_cus (s : State) : (s.tick).cus = s.cus := rfl
@[simp] theorem tick_queues (s : State) : (s.tick).queues = s.queues := rfl
@[simp] theorem tick_pkg (s : State) : (s.tick).pkg = s.pkg := rfl
@[simp] theorem tick_pending (s : State) : (s.tick).pending = s.pending := rfl
@[simp] theorem tick_get_stall (s : State) (j : Nat) : (s.tick).stall j = s.stall j := rfl
@[simp] theorem tick_get_port (s : State) (j : Nat) : (s.tick).port j = s.port j := rfl
@[simp] theorem tick_get_ctx (s : State) (j : Nat) : (s.tick).ctx j = s.ctx j := rfl
@[simp] theorem tick_get_unit (s : State) (j : Nat) : (s.tick).unit j = s.unit j := rfl
@[simp] theorem tick_get_ring (s : State) (j : Nat) : (s.tick).ring j = s.ring j := rfl
@[simp] theorem tick_get_core (s : State) (e j : Nat) : (s.tick).core e j = s.core e j := rfl
@[simp] theorem tick_get_wport (s : State) (j : Nat) : (s.tick).wport j = s.wport j := rfl
@[simp] theorem tick_get_byte (s : State) (j : Nat) : (s.tick).byte j = s.byte j := rfl
@[simp] theorem tick_get_line (s : State) (j : Nat) : (s.tick).line j = s.line j := rfl

/-! ### setDom -/

@[simp] theorem setDom_now (s : State) (i : Nat) (d : Domain) : (s.setDom i d).now = s.now := rfl
@[simp] theorem setDom_freeCtr (s : State) (i : Nat) (d : Domain) : (s.setDom i d).freeCtr = s.freeCtr := rfl
@[simp] theorem setDom_bell (s : State) (i : Nat) (d : Domain) : (s.setDom i d).bell = s.bell := rfl
@[simp] theorem setDom_asks (s : State) (i : Nat) (d : Domain) : (s.setDom i d).asks = s.asks := rfl
@[simp] theorem setDom_decisions (s : State) (i : Nat) (d : Domain) : (s.setDom i d).decisions = s.decisions := rfl
@[simp] theorem setDom_mem (s : State) (i : Nat) (d : Domain) : (s.setDom i d).mem = s.mem := rfl
@[simp] theorem setDom_hbmEpoch (s : State) (i : Nat) (d : Domain) : (s.setDom i d).hbmEpoch = s.hbmEpoch := rfl
@[simp] theorem setDom_stalls (s : State) (i : Nat) (d : Domain) : (s.setDom i d).stalls = s.stalls := rfl
@[simp] theorem setDom_ports (s : State) (i : Nat) (d : Domain) : (s.setDom i d).ports = s.ports := rfl
@[simp] theorem setDom_squares (s : State) (i : Nat) (d : Domain) : (s.setDom i d).squares = s.squares := rfl
@[simp] theorem setDom_sqReqs (s : State) (i : Nat) (d : Domain) : (s.setDom i d).sqReqs = s.sqReqs := rfl
@[simp] theorem setDom_sigs (s : State) (i : Nat) (d : Domain) : (s.setDom i d).sigs = s.sigs := rfl
@[simp] theorem setDom_flits (s : State) (i : Nat) (d : Domain) : (s.setDom i d).flits = s.flits := rfl
@[simp] theorem setDom_reqs (s : State) (i : Nat) (d : Domain) : (s.setDom i d).reqs = s.reqs := rfl
@[simp] theorem setDom_idSeq (s : State) (i : Nat) (d : Domain) : (s.setDom i d).idSeq = s.idSeq := rfl
@[simp] theorem setDom_spine (s : State) (i : Nat) (d : Domain) : (s.setDom i d).spine = s.spine := rfl
@[simp] theorem setDom_slices (s : State) (i : Nat) (d : Domain) : (s.setDom i d).slices = s.slices := rfl
@[simp] theorem setDom_units (s : State) (i : Nat) (d : Domain) : (s.setDom i d).units = s.units := rfl
@[simp] theorem setDom_arrivals (s : State) (i : Nat) (d : Domain) : (s.setDom i d).arrivals = s.arrivals := rfl
@[simp] theorem setDom_casts (s : State) (i : Nat) (d : Domain) : (s.setDom i d).casts = s.casts := rfl
@[simp] theorem setDom_answers (s : State) (i : Nat) (d : Domain) : (s.setDom i d).answers = s.answers := rfl
@[simp] theorem setDom_tlySats (s : State) (i : Nat) (d : Domain) : (s.setDom i d).tlySats = s.tlySats := rfl
@[simp] theorem setDom_tlyRejects (s : State) (i : Nat) (d : Domain) : (s.setDom i d).tlyRejects = s.tlyRejects := rfl
@[simp] theorem setDom_ledger (s : State) (i : Nat) (d : Domain) : (s.setDom i d).ledger = s.ledger := rfl
@[simp] theorem setDom_dieMem (s : State) (i : Nat) (d : Domain) : (s.setDom i d).dieMem = s.dieMem := rfl
@[simp] theorem setDom_failedLinks (s : State) (i : Nat) (d : Domain) : (s.setDom i d).failedLinks = s.failedLinks := rfl
@[simp] theorem setDom_failing (s : State) (i : Nat) (d : Domain) : (s.setDom i d).failing = s.failing := rfl
@[simp] theorem setDom_lostStores (s : State) (i : Nat) (d : Domain) : (s.setDom i d).lostStores = s.lostStores := rfl
@[simp] theorem setDom_fab (s : State) (i : Nat) (d : Domain) : (s.setDom i d).fab = s.fab := rfl
@[simp] theorem setDom_ctxs (s : State) (i : Nat) (d : Domain) : (s.setDom i d).ctxs = s.ctxs := rfl
@[simp] theorem setDom_dispatches (s : State) (i : Nat) (d : Domain) : (s.setDom i d).dispatches = s.dispatches := rfl
@[simp] theorem setDom_gathers (s : State) (i : Nat) (d : Domain) : (s.setDom i d).gathers = s.gathers := rfl
@[simp] theorem setDom_sets (s : State) (i : Nat) (d : Domain) : (s.setDom i d).sets = s.sets := rfl
@[simp] theorem setDom_binds (s : State) (i : Nat) (d : Domain) : (s.setDom i d).binds = s.binds := rfl
@[simp] theorem setDom_aborts (s : State) (i : Nat) (d : Domain) : (s.setDom i d).aborts = s.aborts := rfl
@[simp] theorem setDom_cores (s : State) (i : Nat) (d : Domain) : (s.setDom i d).cores = s.cores := rfl
@[simp] theorem setDom_served (s : State) (i : Nat) (d : Domain) : (s.setDom i d).served = s.served := rfl
@[simp] theorem setDom_fencedDoms (s : State) (i : Nat) (d : Domain) : (s.setDom i d).fencedDoms = s.fencedDoms := rfl
@[simp] theorem setDom_deadDies (s : State) (i : Nat) (d : Domain) : (s.setDom i d).deadDies = s.deadDies := rfl
@[simp] theorem setDom_heldDies (s : State) (i : Nat) (d : Domain) : (s.setDom i d).heldDies = s.heldDies := rfl
@[simp] theorem setDom_regs (s : State) (i : Nat) (d : Domain) : (s.setDom i d).regs = s.regs := rfl
@[simp] theorem setDom_live (s : State) (i : Nat) (d : Domain) : (s.setDom i d).live = s.live := rfl
@[simp] theorem setDom_mod (s : State) (i : Nat) (d : Domain) : (s.setDom i d).mod = s.mod := rfl
@[simp] theorem setDom_conf (s : State) (i : Nat) (d : Domain) : (s.setDom i d).conf = s.conf := rfl
@[simp] theorem setDom_inc (s : State) (i : Nat) (d : Domain) : (s.setDom i d).inc = s.inc := rfl
@[simp] theorem setDom_out (s : State) (i : Nat) (d : Domain) : (s.setDom i d).out = s.out := rfl
@[simp] theorem setDom_outWait (s : State) (i : Nat) (d : Domain) : (s.setDom i d).outWait = s.outWait := rfl
@[simp] theorem setDom_rings (s : State) (i : Nat) (d : Domain) : (s.setDom i d).rings = s.rings := rfl
@[simp] theorem setDom_intLast (s : State) (i : Nat) (d : Domain) : (s.setDom i d).intLast = s.intLast := rfl
@[simp] theorem setDom_intHeld (s : State) (i : Nat) (d : Domain) : (s.setDom i d).intHeld = s.intHeld := rfl
@[simp] theorem setDom_trust (s : State) (i : Nat) (d : Domain) : (s.setDom i d).trust = s.trust := rfl
@[simp] theorem setDom_flash (s : State) (i : Nat) (d : Domain) : (s.setDom i d).flash = s.flash := rfl
@[simp] theorem setDom_cus (s : State) (i : Nat) (d : Domain) : (s.setDom i d).cus = s.cus := rfl
@[simp] theorem setDom_queues (s : State) (i : Nat) (d : Domain) : (s.setDom i d).queues = s.queues := rfl
@[simp] theorem setDom_pkg (s : State) (i : Nat) (d : Domain) : (s.setDom i d).pkg = s.pkg := rfl
@[simp] theorem setDom_pending (s : State) (i : Nat) (d : Domain) : (s.setDom i d).pending = s.pending := rfl
@[simp] theorem setDom_get_stall (s : State) (i : Nat) (d : Domain) (j : Nat) : (s.setDom i d).stall j = s.stall j := rfl
@[simp] theorem setDom_get_port (s : State) (i : Nat) (d : Domain) (j : Nat) : (s.setDom i d).port j = s.port j := rfl
@[simp] theorem setDom_get_ctx (s : State) (i : Nat) (d : Domain) (j : Nat) : (s.setDom i d).ctx j = s.ctx j := rfl
@[simp] theorem setDom_get_unit (s : State) (i : Nat) (d : Domain) (j : Nat) : (s.setDom i d).unit j = s.unit j := rfl
@[simp] theorem setDom_get_ring (s : State) (i : Nat) (d : Domain) (j : Nat) : (s.setDom i d).ring j = s.ring j := rfl
@[simp] theorem setDom_get_core (s : State) (i : Nat) (d : Domain) (e j : Nat) : (s.setDom i d).core e j = s.core e j := rfl
@[simp] theorem setDom_get_wport (s : State) (i : Nat) (d : Domain) (j : Nat) : (s.setDom i d).wport j = s.wport j := rfl
@[simp] theorem setDom_get_byte (s : State) (i : Nat) (d : Domain) (j : Nat) : (s.setDom i d).byte j = s.byte j := rfl
@[simp] theorem setDom_get_line (s : State) (i : Nat) (d : Domain) (j : Nat) : (s.setDom i d).line j = s.line j := rfl

/-! ### setCu -/

@[simp] theorem setCu_now (s : State) (d u : Nat) (c : CheckUnit) : (s.setCu d u c).now = s.now := rfl
@[simp] theorem setCu_freeCtr (s : State) (d u : Nat) (c : CheckUnit) : (s.setCu d u c).freeCtr = s.freeCtr := rfl
@[simp] theorem setCu_bell (s : State) (d u : Nat) (c : CheckUnit) : (s.setCu d u c).bell = s.bell := rfl
@[simp] theorem setCu_asks (s : State) (d u : Nat) (c : CheckUnit) : (s.setCu d u c).asks = s.asks := rfl
@[simp] theorem setCu_decisions (s : State) (d u : Nat) (c : CheckUnit) : (s.setCu d u c).decisions = s.decisions := rfl
@[simp] theorem setCu_mem (s : State) (d u : Nat) (c : CheckUnit) : (s.setCu d u c).mem = s.mem := rfl
@[simp] theorem setCu_hbmEpoch (s : State) (d u : Nat) (c : CheckUnit) : (s.setCu d u c).hbmEpoch = s.hbmEpoch := rfl
@[simp] theorem setCu_stalls (s : State) (d u : Nat) (c : CheckUnit) : (s.setCu d u c).stalls = s.stalls := rfl
@[simp] theorem setCu_ports (s : State) (d u : Nat) (c : CheckUnit) : (s.setCu d u c).ports = s.ports := rfl
@[simp] theorem setCu_squares (s : State) (d u : Nat) (c : CheckUnit) : (s.setCu d u c).squares = s.squares := rfl
@[simp] theorem setCu_sqReqs (s : State) (d u : Nat) (c : CheckUnit) : (s.setCu d u c).sqReqs = s.sqReqs := rfl
@[simp] theorem setCu_sigs (s : State) (d u : Nat) (c : CheckUnit) : (s.setCu d u c).sigs = s.sigs := rfl
@[simp] theorem setCu_flits (s : State) (d u : Nat) (c : CheckUnit) : (s.setCu d u c).flits = s.flits := rfl
@[simp] theorem setCu_reqs (s : State) (d u : Nat) (c : CheckUnit) : (s.setCu d u c).reqs = s.reqs := rfl
@[simp] theorem setCu_idSeq (s : State) (d u : Nat) (c : CheckUnit) : (s.setCu d u c).idSeq = s.idSeq := rfl
@[simp] theorem setCu_spine (s : State) (d u : Nat) (c : CheckUnit) : (s.setCu d u c).spine = s.spine := rfl
@[simp] theorem setCu_slices (s : State) (d u : Nat) (c : CheckUnit) : (s.setCu d u c).slices = s.slices := rfl
@[simp] theorem setCu_units (s : State) (d u : Nat) (c : CheckUnit) : (s.setCu d u c).units = s.units := rfl
@[simp] theorem setCu_arrivals (s : State) (d u : Nat) (c : CheckUnit) : (s.setCu d u c).arrivals = s.arrivals := rfl
@[simp] theorem setCu_casts (s : State) (d u : Nat) (c : CheckUnit) : (s.setCu d u c).casts = s.casts := rfl
@[simp] theorem setCu_answers (s : State) (d u : Nat) (c : CheckUnit) : (s.setCu d u c).answers = s.answers := rfl
@[simp] theorem setCu_tlySats (s : State) (d u : Nat) (c : CheckUnit) : (s.setCu d u c).tlySats = s.tlySats := rfl
@[simp] theorem setCu_tlyRejects (s : State) (d u : Nat) (c : CheckUnit) : (s.setCu d u c).tlyRejects = s.tlyRejects := rfl
@[simp] theorem setCu_ledger (s : State) (d u : Nat) (c : CheckUnit) : (s.setCu d u c).ledger = s.ledger := rfl
@[simp] theorem setCu_dieMem (s : State) (d u : Nat) (c : CheckUnit) : (s.setCu d u c).dieMem = s.dieMem := rfl
@[simp] theorem setCu_failedLinks (s : State) (d u : Nat) (c : CheckUnit) : (s.setCu d u c).failedLinks = s.failedLinks := rfl
@[simp] theorem setCu_failing (s : State) (d u : Nat) (c : CheckUnit) : (s.setCu d u c).failing = s.failing := rfl
@[simp] theorem setCu_lostStores (s : State) (d u : Nat) (c : CheckUnit) : (s.setCu d u c).lostStores = s.lostStores := rfl
@[simp] theorem setCu_fab (s : State) (d u : Nat) (c : CheckUnit) : (s.setCu d u c).fab = s.fab := rfl
@[simp] theorem setCu_ctxs (s : State) (d u : Nat) (c : CheckUnit) : (s.setCu d u c).ctxs = s.ctxs := rfl
@[simp] theorem setCu_dispatches (s : State) (d u : Nat) (c : CheckUnit) : (s.setCu d u c).dispatches = s.dispatches := rfl
@[simp] theorem setCu_gathers (s : State) (d u : Nat) (c : CheckUnit) : (s.setCu d u c).gathers = s.gathers := rfl
@[simp] theorem setCu_sets (s : State) (d u : Nat) (c : CheckUnit) : (s.setCu d u c).sets = s.sets := rfl
@[simp] theorem setCu_binds (s : State) (d u : Nat) (c : CheckUnit) : (s.setCu d u c).binds = s.binds := rfl
@[simp] theorem setCu_aborts (s : State) (d u : Nat) (c : CheckUnit) : (s.setCu d u c).aborts = s.aborts := rfl
@[simp] theorem setCu_cores (s : State) (d u : Nat) (c : CheckUnit) : (s.setCu d u c).cores = s.cores := rfl
@[simp] theorem setCu_served (s : State) (d u : Nat) (c : CheckUnit) : (s.setCu d u c).served = s.served := rfl
@[simp] theorem setCu_fencedDoms (s : State) (d u : Nat) (c : CheckUnit) : (s.setCu d u c).fencedDoms = s.fencedDoms := rfl
@[simp] theorem setCu_deadDies (s : State) (d u : Nat) (c : CheckUnit) : (s.setCu d u c).deadDies = s.deadDies := rfl
@[simp] theorem setCu_heldDies (s : State) (d u : Nat) (c : CheckUnit) : (s.setCu d u c).heldDies = s.heldDies := rfl
@[simp] theorem setCu_regs (s : State) (d u : Nat) (c : CheckUnit) : (s.setCu d u c).regs = s.regs := rfl
@[simp] theorem setCu_live (s : State) (d u : Nat) (c : CheckUnit) : (s.setCu d u c).live = s.live := rfl
@[simp] theorem setCu_mod (s : State) (d u : Nat) (c : CheckUnit) : (s.setCu d u c).mod = s.mod := rfl
@[simp] theorem setCu_conf (s : State) (d u : Nat) (c : CheckUnit) : (s.setCu d u c).conf = s.conf := rfl
@[simp] theorem setCu_inc (s : State) (d u : Nat) (c : CheckUnit) : (s.setCu d u c).inc = s.inc := rfl
@[simp] theorem setCu_out (s : State) (d u : Nat) (c : CheckUnit) : (s.setCu d u c).out = s.out := rfl
@[simp] theorem setCu_outWait (s : State) (d u : Nat) (c : CheckUnit) : (s.setCu d u c).outWait = s.outWait := rfl
@[simp] theorem setCu_rings (s : State) (d u : Nat) (c : CheckUnit) : (s.setCu d u c).rings = s.rings := rfl
@[simp] theorem setCu_intLast (s : State) (d u : Nat) (c : CheckUnit) : (s.setCu d u c).intLast = s.intLast := rfl
@[simp] theorem setCu_intHeld (s : State) (d u : Nat) (c : CheckUnit) : (s.setCu d u c).intHeld = s.intHeld := rfl
@[simp] theorem setCu_trust (s : State) (d u : Nat) (c : CheckUnit) : (s.setCu d u c).trust = s.trust := rfl
@[simp] theorem setCu_flash (s : State) (d u : Nat) (c : CheckUnit) : (s.setCu d u c).flash = s.flash := rfl
@[simp] theorem setCu_pow (s : State) (d u : Nat) (c : CheckUnit) : (s.setCu d u c).pow = s.pow := rfl
@[simp] theorem setCu_queues (s : State) (d u : Nat) (c : CheckUnit) : (s.setCu d u c).queues = s.queues := rfl
@[simp] theorem setCu_pkg (s : State) (d u : Nat) (c : CheckUnit) : (s.setCu d u c).pkg = s.pkg := rfl
@[simp] theorem setCu_pending (s : State) (d u : Nat) (c : CheckUnit) : (s.setCu d u c).pending = s.pending := rfl
@[simp] theorem setCu_get_stall (s : State) (d u : Nat) (c : CheckUnit) (j : Nat) : (s.setCu d u c).stall j = s.stall j := rfl
@[simp] theorem setCu_get_port (s : State) (d u : Nat) (c : CheckUnit) (j : Nat) : (s.setCu d u c).port j = s.port j := rfl
@[simp] theorem setCu_get_ctx (s : State) (d u : Nat) (c : CheckUnit) (j : Nat) : (s.setCu d u c).ctx j = s.ctx j := rfl
@[simp] theorem setCu_get_unit (s : State) (d u : Nat) (c : CheckUnit) (j : Nat) : (s.setCu d u c).unit j = s.unit j := rfl
@[simp] theorem setCu_get_ring (s : State) (d u : Nat) (c : CheckUnit) (j : Nat) : (s.setCu d u c).ring j = s.ring j := rfl
@[simp] theorem setCu_get_core (s : State) (d u : Nat) (c : CheckUnit) (e j : Nat) : (s.setCu d u c).core e j = s.core e j := rfl
@[simp] theorem setCu_get_wport (s : State) (d u : Nat) (c : CheckUnit) (j : Nat) : (s.setCu d u c).wport j = s.wport j := rfl
@[simp] theorem setCu_get_byte (s : State) (d u : Nat) (c : CheckUnit) (j : Nat) : (s.setCu d u c).byte j = s.byte j := rfl
@[simp] theorem setCu_get_line (s : State) (d u : Nat) (c : CheckUnit) (j : Nat) : (s.setCu d u c).line j = s.line j := rfl

/-! ### setCq -/

@[simp] theorem setCq_now (s : State) (d q : Nat) (c : CQueue) : (s.setCq d q c).now = s.now := rfl
@[simp] theorem setCq_freeCtr (s : State) (d q : Nat) (c : CQueue) : (s.setCq d q c).freeCtr = s.freeCtr := rfl
@[simp] theorem setCq_bell (s : State) (d q : Nat) (c : CQueue) : (s.setCq d q c).bell = s.bell := rfl
@[simp] theorem setCq_asks (s : State) (d q : Nat) (c : CQueue) : (s.setCq d q c).asks = s.asks := rfl
@[simp] theorem setCq_decisions (s : State) (d q : Nat) (c : CQueue) : (s.setCq d q c).decisions = s.decisions := rfl
@[simp] theorem setCq_mem (s : State) (d q : Nat) (c : CQueue) : (s.setCq d q c).mem = s.mem := rfl
@[simp] theorem setCq_hbmEpoch (s : State) (d q : Nat) (c : CQueue) : (s.setCq d q c).hbmEpoch = s.hbmEpoch := rfl
@[simp] theorem setCq_stalls (s : State) (d q : Nat) (c : CQueue) : (s.setCq d q c).stalls = s.stalls := rfl
@[simp] theorem setCq_ports (s : State) (d q : Nat) (c : CQueue) : (s.setCq d q c).ports = s.ports := rfl
@[simp] theorem setCq_squares (s : State) (d q : Nat) (c : CQueue) : (s.setCq d q c).squares = s.squares := rfl
@[simp] theorem setCq_sqReqs (s : State) (d q : Nat) (c : CQueue) : (s.setCq d q c).sqReqs = s.sqReqs := rfl
@[simp] theorem setCq_sigs (s : State) (d q : Nat) (c : CQueue) : (s.setCq d q c).sigs = s.sigs := rfl
@[simp] theorem setCq_flits (s : State) (d q : Nat) (c : CQueue) : (s.setCq d q c).flits = s.flits := rfl
@[simp] theorem setCq_reqs (s : State) (d q : Nat) (c : CQueue) : (s.setCq d q c).reqs = s.reqs := rfl
@[simp] theorem setCq_idSeq (s : State) (d q : Nat) (c : CQueue) : (s.setCq d q c).idSeq = s.idSeq := rfl
@[simp] theorem setCq_spine (s : State) (d q : Nat) (c : CQueue) : (s.setCq d q c).spine = s.spine := rfl
@[simp] theorem setCq_slices (s : State) (d q : Nat) (c : CQueue) : (s.setCq d q c).slices = s.slices := rfl
@[simp] theorem setCq_units (s : State) (d q : Nat) (c : CQueue) : (s.setCq d q c).units = s.units := rfl
@[simp] theorem setCq_arrivals (s : State) (d q : Nat) (c : CQueue) : (s.setCq d q c).arrivals = s.arrivals := rfl
@[simp] theorem setCq_casts (s : State) (d q : Nat) (c : CQueue) : (s.setCq d q c).casts = s.casts := rfl
@[simp] theorem setCq_answers (s : State) (d q : Nat) (c : CQueue) : (s.setCq d q c).answers = s.answers := rfl
@[simp] theorem setCq_tlySats (s : State) (d q : Nat) (c : CQueue) : (s.setCq d q c).tlySats = s.tlySats := rfl
@[simp] theorem setCq_tlyRejects (s : State) (d q : Nat) (c : CQueue) : (s.setCq d q c).tlyRejects = s.tlyRejects := rfl
@[simp] theorem setCq_ledger (s : State) (d q : Nat) (c : CQueue) : (s.setCq d q c).ledger = s.ledger := rfl
@[simp] theorem setCq_dieMem (s : State) (d q : Nat) (c : CQueue) : (s.setCq d q c).dieMem = s.dieMem := rfl
@[simp] theorem setCq_failedLinks (s : State) (d q : Nat) (c : CQueue) : (s.setCq d q c).failedLinks = s.failedLinks := rfl
@[simp] theorem setCq_failing (s : State) (d q : Nat) (c : CQueue) : (s.setCq d q c).failing = s.failing := rfl
@[simp] theorem setCq_lostStores (s : State) (d q : Nat) (c : CQueue) : (s.setCq d q c).lostStores = s.lostStores := rfl
@[simp] theorem setCq_fab (s : State) (d q : Nat) (c : CQueue) : (s.setCq d q c).fab = s.fab := rfl
@[simp] theorem setCq_ctxs (s : State) (d q : Nat) (c : CQueue) : (s.setCq d q c).ctxs = s.ctxs := rfl
@[simp] theorem setCq_dispatches (s : State) (d q : Nat) (c : CQueue) : (s.setCq d q c).dispatches = s.dispatches := rfl
@[simp] theorem setCq_gathers (s : State) (d q : Nat) (c : CQueue) : (s.setCq d q c).gathers = s.gathers := rfl
@[simp] theorem setCq_sets (s : State) (d q : Nat) (c : CQueue) : (s.setCq d q c).sets = s.sets := rfl
@[simp] theorem setCq_binds (s : State) (d q : Nat) (c : CQueue) : (s.setCq d q c).binds = s.binds := rfl
@[simp] theorem setCq_aborts (s : State) (d q : Nat) (c : CQueue) : (s.setCq d q c).aborts = s.aborts := rfl
@[simp] theorem setCq_cores (s : State) (d q : Nat) (c : CQueue) : (s.setCq d q c).cores = s.cores := rfl
@[simp] theorem setCq_served (s : State) (d q : Nat) (c : CQueue) : (s.setCq d q c).served = s.served := rfl
@[simp] theorem setCq_fencedDoms (s : State) (d q : Nat) (c : CQueue) : (s.setCq d q c).fencedDoms = s.fencedDoms := rfl
@[simp] theorem setCq_deadDies (s : State) (d q : Nat) (c : CQueue) : (s.setCq d q c).deadDies = s.deadDies := rfl
@[simp] theorem setCq_heldDies (s : State) (d q : Nat) (c : CQueue) : (s.setCq d q c).heldDies = s.heldDies := rfl
@[simp] theorem setCq_regs (s : State) (d q : Nat) (c : CQueue) : (s.setCq d q c).regs = s.regs := rfl
@[simp] theorem setCq_live (s : State) (d q : Nat) (c : CQueue) : (s.setCq d q c).live = s.live := rfl
@[simp] theorem setCq_mod (s : State) (d q : Nat) (c : CQueue) : (s.setCq d q c).mod = s.mod := rfl
@[simp] theorem setCq_conf (s : State) (d q : Nat) (c : CQueue) : (s.setCq d q c).conf = s.conf := rfl
@[simp] theorem setCq_inc (s : State) (d q : Nat) (c : CQueue) : (s.setCq d q c).inc = s.inc := rfl
@[simp] theorem setCq_out (s : State) (d q : Nat) (c : CQueue) : (s.setCq d q c).out = s.out := rfl
@[simp] theorem setCq_outWait (s : State) (d q : Nat) (c : CQueue) : (s.setCq d q c).outWait = s.outWait := rfl
@[simp] theorem setCq_rings (s : State) (d q : Nat) (c : CQueue) : (s.setCq d q c).rings = s.rings := rfl
@[simp] theorem setCq_intLast (s : State) (d q : Nat) (c : CQueue) : (s.setCq d q c).intLast = s.intLast := rfl
@[simp] theorem setCq_intHeld (s : State) (d q : Nat) (c : CQueue) : (s.setCq d q c).intHeld = s.intHeld := rfl
@[simp] theorem setCq_trust (s : State) (d q : Nat) (c : CQueue) : (s.setCq d q c).trust = s.trust := rfl
@[simp] theorem setCq_flash (s : State) (d q : Nat) (c : CQueue) : (s.setCq d q c).flash = s.flash := rfl
@[simp] theorem setCq_pow (s : State) (d q : Nat) (c : CQueue) : (s.setCq d q c).pow = s.pow := rfl
@[simp] theorem setCq_cus (s : State) (d q : Nat) (c : CQueue) : (s.setCq d q c).cus = s.cus := rfl
@[simp] theorem setCq_pkg (s : State) (d q : Nat) (c : CQueue) : (s.setCq d q c).pkg = s.pkg := rfl
@[simp] theorem setCq_pending (s : State) (d q : Nat) (c : CQueue) : (s.setCq d q c).pending = s.pending := rfl
@[simp] theorem setCq_get_stall (s : State) (d q : Nat) (c : CQueue) (j : Nat) : (s.setCq d q c).stall j = s.stall j := rfl
@[simp] theorem setCq_get_port (s : State) (d q : Nat) (c : CQueue) (j : Nat) : (s.setCq d q c).port j = s.port j := rfl
@[simp] theorem setCq_get_ctx (s : State) (d q : Nat) (c : CQueue) (j : Nat) : (s.setCq d q c).ctx j = s.ctx j := rfl
@[simp] theorem setCq_get_unit (s : State) (d q : Nat) (c : CQueue) (j : Nat) : (s.setCq d q c).unit j = s.unit j := rfl
@[simp] theorem setCq_get_ring (s : State) (d q : Nat) (c : CQueue) (j : Nat) : (s.setCq d q c).ring j = s.ring j := rfl
@[simp] theorem setCq_get_core (s : State) (d q : Nat) (c : CQueue) (e j : Nat) : (s.setCq d q c).core e j = s.core e j := rfl
@[simp] theorem setCq_get_wport (s : State) (d q : Nat) (c : CQueue) (j : Nat) : (s.setCq d q c).wport j = s.wport j := rfl
@[simp] theorem setCq_get_byte (s : State) (d q : Nat) (c : CQueue) (j : Nat) : (s.setCq d q c).byte j = s.byte j := rfl
@[simp] theorem setCq_get_line (s : State) (d q : Nat) (c : CQueue) (j : Nat) : (s.setCq d q c).line j = s.line j := rfl

/-! ### What a reader finds where it was written -/

@[simp] theorem port_setPort_self (s : State) (k : Nat) (p : StallPort) : (s.setPort k p).port k = p := by simp [State.port, State.setPort]
@[simp] theorem ctx_setCtx_self (s : State) (c : Nat) (x : Ctx) : (s.setCtx c x).ctx c = x := by simp [State.ctx, State.setCtx]
@[simp] theorem unit_setUnit_self (s : State) (u : Nat) (x : Unit) : (s.setUnit u x).unit u = x := by simp [State.unit, State.setUnit]
@[simp] theorem ring_setRing_self (s : State) (i : Nat) (r : Ring) : (s.setRing i r).ring i = r := by simp [State.ring, State.setRing]
@[simp] theorem core_setCore_self (s : State) (d k : Nat) (c : Core) : (s.setCore d k c).core d k = c := by simp [State.core, State.setCore]
@[simp] theorem wport_setWport_self (s : State) (p : Nat) (w : WPort) : (s.setWport p w).wport p = w := by simp [State.wport, State.setWport]
@[simp] theorem dom_setDom_self (s : State) (i : Nat) (d : Domain) : (s.setDom i d).dom i = d := by simp [State.dom, State.setDom]
@[simp] theorem cu_setCu_self (s : State) (d u : Nat) (c : CheckUnit) : (s.setCu d u c).cu d u = c := by simp [State.cu, State.setCu]
@[simp] theorem cq_setCq_self (s : State) (d q : Nat) (c : CQueue) : (s.setCq d q c).cq d q = c := by simp [State.cq, State.setCq]

theorem port_setPort_ne (s : State) {k j : Nat} (p : StallPort) (h : j ≠ k) : (s.setPort k p).port j = s.port j := by
  simp [State.port, State.setPort, tget_tput_ne _ _ _ h]
theorem ctx_setCtx_ne (s : State) {c j : Nat} (x : Ctx) (h : j ≠ c) : (s.setCtx c x).ctx j = s.ctx j := by
  simp [State.ctx, State.setCtx, tget_tput_ne _ _ _ h]
theorem unit_setUnit_ne (s : State) {u j : Nat} (x : Unit) (h : j ≠ u) : (s.setUnit u x).unit j = s.unit j := by
  simp [State.unit, State.setUnit, tget_tput_ne _ _ _ h]
theorem ring_setRing_ne (s : State) {i j : Nat} (r : Ring) (h : j ≠ i) : (s.setRing i r).ring j = s.ring j := by
  simp [State.ring, State.setRing, tget_tput_ne _ _ _ h]
theorem wport_setWport_ne (s : State) {p j : Nat} (w : WPort) (h : j ≠ p) : (s.setWport p w).wport j = s.wport j := by
  simp [State.wport, State.setWport, tget_tput_ne _ _ _ h]
theorem dom_setDom_ne (s : State) {i j : Nat} (d : Domain) (h : j ≠ i) : (s.setDom i d).dom j = s.dom j := by
  simp [State.dom, State.setDom, tget_tput_ne _ _ _ h]

end Sys2Proof.Machine
end

