-- ==== Sys2Proof/Laws/Operations.lean ====
section
/-! SUPPORT. What each shared operation can do, said once: the frames of reports, orders, messages, holds, faults and storage. -/
namespace Sys2Proof.Machine

/-! ## Reports -/

theorem raiseMod_same (s : State) (code : Nat) (detail : List Nat) : SameButReports s (s.raiseMod code detail) ∧
    (s.raiseMod code detail).inc.log = ⟨code, 0xFF, none, 0, 0xFFFFFFFF, s.bell.count, detail⟩ :: s.inc.log := raise_same ..

theorem raiseDie_same (s : State) (code die : Nat) (detail : List Nat) : SameButReports s (s.raiseDie code die detail) ∧
    (s.raiseDie code die detail).inc.log = ⟨code, die, none, 0, 0xFFFFFFFF, s.bell.count, detail⟩ :: s.inc.log := raise_same ..

/-! ## Rings and orders -/

/-- Everything but the rings and the reports is as it was. -/
structure SameButRings (s t : State) : Prop where
  eq : t = { s with rings := t.rings, inc := t.inc, out := t.out, outWait := t.outWait, intLast := t.intLast, intHeld := t.intHeld }

theorem SameButRings.refl (s : State) : SameButRings s s := ⟨rfl⟩

theorem SameButRings.trans {s t u : State} (h : SameButRings s t) (g : SameButRings t u) : SameButRings s u := by
  constructor; rw [g.eq, h.eq]

theorem SameButReports.rings {s t : State} (h : SameButReports s t) : SameButRings s t := by
  constructor; rw [h.eq]

theorem setRing_same (s : State) (i : Nat) (r : Ring) : SameButRings s (s.setRing i r) := ⟨rfl⟩

theorem stopRing_same (s : State) (i code : Nat) (detail : List Nat) : SameButRings s (s.stopRing i code detail) :=
  (setRing_same s i _).trans (raise_same ..).1.rings

theorem spendRing_same (s : State) (i : Nat) : SameButRings s (s.spendRing i) := by
  unfold State.spendRing
  dsimp only
  split
  · exact .refl s
  · split
    · exact (setRing_same ..).trans (raise_same ..).1.rings
    · exact (setRing_same ..).trans (stopRing_same ..)

theorem settleRing_same (s : State) (i : Nat) : SameButRings s (s.settleRing i) := by
  unfold State.settleRing
  dsimp only
  split
  · exact setRing_same ..
  · exact .refl s

theorem writeCpl_same (s : State) (o : Order) (status inc result detail : Nat) : SameButRings s (s.writeCpl o status inc result detail) := by
  unfold State.writeCpl
  dsimp only
  split
  · exact setRing_same ..
  · generalize hx : State.emit _ _ = x
    have h1 : SameButRings s x := by subst hx; exact (setRing_same ..).trans (emit_same ..).1.rings
    have h2 : SameButRings s (if o.intr = true then x.interrupt o.ring else x) := by
      split
      · exact h1.trans (interrupt_same ..).1.rings
      · exact h1
    split
    · exact h2.trans (spendRing_same ..)
    · exact h2

/-- An order's end changes its ring and what goes out to the host, and nothing else. -/
theorem complete_same (s : State) (id status inc result detail : Nat) : SameButRings s (s.complete id status inc result detail) := by
  unfold State.complete
  split
  · exact .refl s
  · exact ((setRing_same ..).trans (writeCpl_same ..)).trans (settleRing_same ..)

/-- An order that may start is what `f` sees, moved to the started orders of its ring; else the command changes nothing. -/
theorem onOrder_cases (s : State) (ring op : Nat) (f : Order → State → State) :
    s.onOrder ring op f = s ∨ ∃ o rest, (s.ring ring).intake = o :: rest ∧ s.mayStart (s.ring ring) o op = true ∧
      s.onOrder ring op f = f o ((({ s with served := ring } : State).ask (.order o.id)).setRing ring
        { s.ring ring with intake := rest, started := (s.ring ring).started ++ [o] }) := by
  unfold State.onOrder
  dsimp only
  split
  · exact .inl rfl
  · rename_i o rest h
    split
    · rename_i hm; exact .inr ⟨o, rest, h, hm, rfl⟩
    · exact .inl rfl

theorem onOrder_starts (s : State) {ring op : Nat} {o : Order} {rest : List Order} (f : Order → State → State)
    (h : (s.ring ring).intake = o :: rest) (hm : s.mayStart (s.ring ring) o op = true) :
    s.onOrder ring op f = f o ((({ s with served := ring } : State).ask (.order o.id)).setRing ring
      { s.ring ring with intake := rest, started := (s.ring ring).started ++ [o] }) := by
  unfold State.onOrder; simp only [h, hm, if_true]

/-! ## Messages -/

/-- Everything but the Weago endpoint and the reports is as it was. -/
structure SameButFabric (s t : State) : Prop where
  eq : t = { s with fab := t.fab, inc := t.inc, out := t.out, outWait := t.outWait, intLast := t.intLast, intHeld := t.intHeld }

theorem SameButFabric.refl (s : State) : SameButFabric s s := ⟨rfl⟩

theorem SameButFabric.trans {s t u : State} (h : SameButFabric s t) (g : SameButFabric t u) : SameButFabric s u := by
  constructor; rw [g.eq, h.eq]

theorem SameButReports.fabric {s t : State} (h : SameButReports s t) : SameButFabric s t := by
  constructor; rw [h.eq]

/-- A message taken leaves its queue and gives its cells back; nothing else changes. -/
theorem takeMsg_same (s : State) (p cls : Nat) : s.takeMsg p cls = { s with fab := (s.takeMsg p cls).fab } ∧
    (s.takeMsg p cls).fab = { s.fab with ports := (s.takeMsg p cls).fab.ports } := by
  unfold State.takeMsg
  dsimp only
  split <;> exact ⟨rfl, rfl⟩

theorem headMsg_takeMsg (s : State) {p cls : Nat} {m : Msg} {r : List Msg} (h : tget (s.wport p).rx [] cls = m :: r) :
    s.headMsg p cls = some m ∧ tget ((s.takeMsg p cls).wport p).rx [] cls = r := by
  unfold State.headMsg State.takeMsg
  simp [h]

theorem sendMsg_same (s : State) (m : Msg) : SameButFabric s (s.sendMsg m) := by
  unfold State.sendMsg
  split
  · exact ⟨rfl⟩
  · exact (raiseMod_same ..).1.fabric

/-- Everything but the Weago endpoint, the count of refused signals, what a failed exchange ends (its move, its order) and the reports is as
it was. -/
structure SameButSending (s t : State) : Prop where
  eq : t = { s with
    fab := t.fab, tlyRejects := t.tlyRejects, rings := t.rings, ledger := { s.ledger with moves := t.ledger.moves }
    inc := t.inc, out := t.out, outWait := t.outWait, intLast := t.intLast, intHeld := t.intHeld }

theorem SameButSending.refl (s : State) : SameButSending s s := ⟨rfl⟩

theorem SameButSending.trans {s t u : State} (h : SameButSending s t) (g : SameButSending t u) : SameButSending s u := by
  constructor; rw [g.eq, h.eq]

theorem SameButFabric.sending {s t : State} (h : SameButFabric s t) : SameButSending s t := by
  constructor; rw [h.eq]

theorem SameButRings.sending {s t : State} (h : SameButRings s t) : SameButSending s t := by
  constructor; rw [h.eq]

theorem failCrate_same (s : State) (m : Msg) : SameButSending s (s.failCrate m) := by
  unfold State.failCrate
  dsimp only
  split
  · exact .refl s
  · split
    · exact .refl s
    · split
      · exact SameButSending.trans ⟨rfl⟩ (complete_same ..).sending
      · exact ⟨rfl⟩

theorem undelivered_same (s : State) (x : Sent) : SameButSending s (s.undelivered x) := by
  unfold State.undelivered
  split
  · exact SameButSending.trans ⟨rfl⟩ (raise_same ..).1.fabric.sending
  · split
    · exact failCrate_same ..
    · exact .refl s

theorem lost_same (s : State) (x : Sent) : SameButSending s (s.lost x) := by
  unfold State.lost
  split
  · exact undelivered_same ..
  · exact (raiseMod_same ..).1.fabric.sending.trans (undelivered_same ..)

/-- What sending a REQ message without answer can do: it is queued, held back or lost. -/
theorem sendFrom_same (s : State) (die : Nat) (ctx : Option Nat) (whre : Nat) (m : Msg) : SameButSending s (s.sendFrom die ctx whre m).1 := by
  unfold State.sendFrom
  split
  · exact lost_same ..
  · exact ⟨rfl⟩
  · exact SameButSending.trans ⟨rfl⟩ (sendMsg_same ..).sending

theorem sendReq_same (s : State) (m : Msg) : SameButSending s (s.sendReq m).1 := sendFrom_same ..

theorem sendReqs_same : ∀ (l : List Msg) (s : State), SameButSending s (s.sendReqs l)
  | [], s => .refl s
  | m :: r, s => (sendReq_same s m).trans (sendReqs_same r _)

/-- A message for this module at the head of its queue is what `f` sees, with the message taken; any other head, or none, changes nothing. -/
theorem onMsg_some (s : State) {p cls : Nat} {m : Msg} (want : Msg → Bool) (f : Msg → State → State) (h : s.headMsg p cls = some m) (hw : want m = true)
    (hd : m.dest = s.mod.id ∨ m.cls = 3) : s.onMsg p cls want f = f m (s.takeMsg p cls) := by
  unfold State.onMsg
  rw [h]
  rcases hd with hd | hd <;> simp [hw, hd]

theorem onMsg_none (s : State) {p cls : Nat} (want : Msg → Bool) (f : Msg → State → State) (h : s.headMsg p cls = none) : s.onMsg p cls want f = s := by
  unfold State.onMsg; rw [h]

/-! ## Holds, modes, faults -/

/-- A HOLD decided puts one symbol on the star and notes its cy; a die that cannot decide does nothing. -/
theorem decideHold_cases (s : State) (die cause cy : Nat) :
    (s.awake = true ∧ s.deadDies.contains die = false ∧ s.decideHold die cause cy =
      { s with bell := { s.bell with symbols := s.bell.symbols ++ [⟨.hold, die, 0, cy, cy + 90, cause, [], Due.none⟩], holds := s.bell.holds ++ [cy] } }) ∨
    ((s.awake = false ∨ s.deadDies.contains die = true) ∧ s.decideHold die cause cy = s) := by
  unfold State.decideHold
  by_cases h : (!s.awake || s.deadDies.contains die) = true
  · rw [if_pos h]
    simp only [Bool.or_eq_true, Bool.not_eq_true'] at h
    exact .inr ⟨h, rfl⟩
  · rw [if_neg h]
    simp only [Bool.or_eq_true, Bool.not_eq_true', not_or, Bool.not_eq_false, Bool.not_eq_true] at h
    exact .inl ⟨h.1, h.2, rfl⟩

/-- A change of mode is the mode, one incident and an interrupt; a mode already taken changes nothing. -/
theorem setMode_same (s : State) (n : Nat) : (s.setMode n).mod = { s.mod with state := n } ∧
    SameButReports { s with mod := (s.setMode n).mod } (s.setMode n) ∧ (s.mod.state = n → s.setMode n = s) := by
  unfold State.setMode
  split
  · rename_i h
    refine ⟨by subst h; rfl, ⟨rfl⟩, fun _ => rfl⟩
  · rename_i h
    have h1 := (raiseMod_same ({ s with mod := { s.mod with state := n } } : State) 0x0D0B [s.mod.state, n]).1
    have h2 := h1.trans (interrupt_same _ 65).1
    have hm := congrArg State.mod h2.eq
    refine ⟨hm, ?_, fun e => absurd e h⟩
    constructor
    rw [hm]
    exact h2.eq

/-- A context takes its first cause alone, and only while it is neither FREE nor FAULTED. -/
theorem reportFault_cases (s : State) (c code k : Nat) :
    (((s.ctx c).state = .free ∨ (s.ctx c).state = CtxState.faulted ∨ (s.ctx c).cause.isSome = true) ∧ s.reportFault c code k = s) ∨
    ((s.ctx c).state ≠ .free ∧ (s.ctx c).state ≠ CtxState.faulted ∧ (s.ctx c).cause = none ∧
      s.reportFault c code k = (s.ask (.fault c)).setCtx c { s.ctx c with cause := some (code, k) }) := by
  unfold State.reportFault
  dsimp only
  split
  · rename_i h; exact .inl ⟨h, rfl⟩
  · rename_i h
    simp only [not_or] at h
    refine .inr ⟨h.1, h.2.1, ?_, rfl⟩
    simpa using h.2.2

/-! ## Storage and translation -/

/-- Storage taken: one more span of the tier, one free value used, and nothing else. -/
theorem takeUnits_same {s t : State} {tier die n u : Nat} (h : s.takeUnits tier die n = some (t, u)) :
    t = (s.useFree 1).setUsed tier (s.used tier ++ [⟨u, n⟩]) := by
  unfold State.takeUnits at h
  dsimp only at h
  split at h
  · cases h
  · simp only [Option.some.injEq, Prod.mk.injEq] at h
    rw [← h.1, h.2]

theorem SameButReports.ledger {s t : State} {l : Ledger} (h : SameButReports { s with ledger := l } t) : SameButReports { s with ledger := t.ledger } t := by
  have hl : t.ledger = l := congrArg State.ledger h.eq
  constructor
  rw [hl]
  exact h.eq

/-- What a translation leaves besides its outcome: a table entry, a crate asked for, or a refusal recorded. -/
theorem translated_same (s : State) (ctx va requester die : Nat) (r : Tr) :
    SameButReports { s with ledger := (s.translated ctx va requester die r).ledger } (s.translated ctx va requester die r) := by
  unfold State.translated
  split
  · split <;> exact ⟨rfl⟩
  · split <;> exact ⟨rfl⟩
  · exact ⟨rfl⟩
  · exact SameButReports.ledger (raise_same ..).1

/-! ## Stalls that go on -/

theorem request_same (t : Stall) (l n : Nat) : t.request l n = { t with fetchReq := (t.request l n).fetchReq } := by
  unfold Stall.request; split <;> rfl

/-- Going on in program order: the PC, the cy of the next issue and the fetch unit change, and no register. -/
theorem advance_seq_same (t : Stall) (n : Nat) :
    t.advance n .seq = { t with pc := t.pc + 8, nextIssue := n + 1, curLine := some (t.pc / 64), fetchReq := (t.advance n .seq).fetchReq } := by
  unfold Stall.advance
  dsimp only
  split
  · rename_i h; simp [← h]
  · rw [request_same]

end Sys2Proof.Machine
end

