-- ==== Sys2Proof/Tests/Slice0.lean ====
section
/-! SUPPORT. Tests: ill-formed commands are refused, words of the spec's encoding tables read as their instructions, single commands on
small states give what the spec's tables and worked cases say, and the hypotheses of every statement are met by a state. -/
namespace Sys2Proof.Tests
open Sys2Proof Sys2Proof.Machine Sys2Proof.Claim

-- one theorem is checked after another: a thread for each would take more memory than a check may use
set_option Elab.async false

/-! ## Small states -/

/-- The next state of an outcome. -/
def after (o : Out) : State := match o with
  | .next t => t
  | _ => State.reset

/-- The module after a first commit: OPEN, not held. -/
def openState : State :=
  { State.reset with mod := { State.reset.mod with state := 3, configValid := true }, bell := { State.reset.bell with held := false } }

/-- Stall (0, 0) of CD3. -/
def sid0 : StallId := ⟨3, 0, 0⟩

/-- A stall of context 1 that runs, with one word at its PC. -/
def running (t : Stall) (w : Word64) : Stall := { t with occ := some 1, status := .running, pc := 0, fetch := [⟨0, w.setWidth 512⟩] }

/-- A state with one stall and its porter, whose next word is `w`. -/
def stateOf (t : Stall) (p : StallPort) (w : Word64) : State :=
  { openState with
    stalls := [(sid0.num, running t w)], ports := [(sid0.num, p)], ctxs := [(1, { Ctx.none with state := .running })] }

/-- The same with the porter at rest. -/
def stateAt (t : Stall) (w : Word64) : State := stateOf t StallPort.fresh w

/-- The hypotheses of an issue as a computation. -/
def issuesB (s : State) (sid : StallId) (w : Word64) : Bool :=
  s.mod.state = 3 && !s.bell.held && !s.fenced sid.num && !s.heldDies.contains (dieOf sid.num) && (s.stall sid.num).status = .running
    && (s.stall sid.num).ready.isNone && decide ((s.stall sid.num).pc < stockBytes)
    && (s.stall sid.num).wordAt (s.stall sid.num).pc = some w

theorem issues_of {s : State} {sid : StallId} {w : Word64} (h : issuesB s sid w = true) : Issues s sid w := by
  simp [issuesB] at h
  obtain ⟨⟨⟨⟨⟨⟨⟨a, b⟩, c⟩, d⟩, e⟩, f⟩, g⟩, i⟩ := h
  exact ⟨a, b, c, by simpa using d, e, f, g, i⟩

/-- Issue and no scalar result outstanding, as a computation. -/
def okIssue (s : State) (sid : StallId) (w : Word64) (regs : List Nat) : Bool := issuesB s sid w && (s.stall sid.num).sReady regs

theorem ok_issue {s : State} {sid : StallId} {w : Word64} {regs : List Nat} (h : okIssue s sid w regs = true) :
    Issues s sid w ∧ noneWaits s sid regs := by
  simp only [okIssue, Bool.and_eq_true] at h
  exact ⟨issues_of h.1, h.2⟩

/-- A state, a word and registers: stall `sid0` issues the word there, and nothing is outstanding to the registers. -/
def Ready (x : State × Word64 × List Nat) : Prop := Issues x.1 sid0 x.2.1 ∧ noneWaits x.1 sid0 x.2.2

theorem ready_all {l : List (State × Word64 × List Nat)} (h : l.all (fun x => okIssue x.1 sid0 x.2.1 x.2.2) = true) : ∀ x ∈ l, Ready x :=
  fun x hx => ok_issue (List.all_eq_true.mp h x hx)

/-- Fields of given widths joined from bit 63 down. -/
def bitsOf (l : List (Nat × Nat)) : Word64 := BitVec.ofNat 64 (l.foldl (fun (n : Nat) (p : Nat × Nat) => n * 2 ^ p.1 + p.2) 0)

/-! ## Well-formedness: an ill-formed term for each check -/

theorem test_wf_refuses : ([.squareGo 0 8 0, .squareMemberStop 0 48 0, .rckArrival 256 [], .spineAccept 0 160, .ucieLinkFailed 0x02,
    .ucieLinkFailed 0x78, .drayPlace 64 0, .drayPlace 0 1, .drayEvict 1, .drayImport 0 (2 ^ 56) .refused .refused, .moveCopy 0 4096 .refused [],
    .remoteTimeout 16384, .portTraining 0 0 65536, .bucketStart 65536 [] [], .bucketComplete 65536, .setAbort 65536 0 0,
    .planLoaderWrite 0 16 [] .refused, .registerWrite (.read (2 ^ 46)), .registerWrite (.write (2 ^ 46) 0), .registerWrite (.message 1 0),
    .registerWrite (.message 9 0), .registerWrite (.underrun 16 0), .registerWrite (.overrun 0 17), .coreWatchdog 0 0 0, .inputRange 65536,
    .replan [⟨16, 0, none, 0, true⟩] true, .boot ⟨[(16, 0, 9)], [], [], [], [], 0, true, true⟩, .boot ⟨[], [16], [], [], [], 0, true, true⟩,
    .boot ⟨[], [], [16], [], [], 0, true, true⟩, .boot ⟨[], [], [], [(0, 2)], [], 0, true, true⟩,
    .boot ⟨[], [], [], [], [⟨0, 20, none, 0, true⟩], 0, true, true⟩, .dieResetDone 1 [⟨0, 0, none, 0, true⟩] true, .queueMismatch 0 0 16384,
    .i3cPrivateRead 65536, .sample (2 ^ 2611), .preload (2 ^ 2611), .bellDecision ⟨0, 0, 0, [], [], 0, 0⟩] : List Instr).all
      (fun i => !i.wf) = true := by decide +kernel

theorem test_wf_refuses_rings : ([.nopOrder, .ctxCreate, .ctxKill, .ctxReset, .regionAssign, .regionRelease, .planDispatch, .ctxSave, .ctxRestore,
    .ctxPolicy, .rckAssign, .rckRelease, .ctxQuery, .sqBind, .sqBindAny, .sqUnbind, .sqQuery, .allocOrder, .freeOrder, .lendStock, .publicMap,
    .share, .exportOrder, (.importOrder · .refused), (.campusCopy · .refused), .gather, (.reduceBind · []), .reduceRelease, (.attest · true),
    .getIdentity, .sessionOpen, .sessionClose, .fwActivate, .fwDiscard, (.fwStage · .refused true)] : List (Nat → Instr)).all
      (fun i => !(i 64).wf && (i 63).wf) = true := by decide +kernel

theorem test_wf_accepts : ([.squareGo 15 32 48, .squareMemberStop 0 16 16, .rckArrival 255 [], .spineAccept 0 159, .ucieLinkFailed 256,
    .ucieLinkFailed 0x01, .ucieLinkFailed 0x7F, .drayPlace 63 0x10000, .drayEvict 3, .remoteTimeout 16383, .nop sid0 ⟨0#36, 0#1, 0#15⟩,
    .registerWrite (.read (2 ^ 46 - 4)), .coreWatchdog 0 3 1, .inputRange 5200] : List Instr).all Instr.wf = true := by decide +kernel

/-! ## Words written out from the encoding tables (02_stall.md Tables STL.2 to STL.12, 04 Table TILE.2, 05 Table PRT.1, 06 Tables TLY.3
and TLY.6, 08 Table LDG.6): OP in [63:58], FN in [57:52], then the fields from bit 51 down -/

theorem test_words_control :
    decodeWord sid0 (bitsOf [(6, 0x00), (6, 0x01), (36, 0), (1, 1), (15, 0)]) = some (.bellWait sid0 ⟨0#36, 1#1, 0#15⟩) ∧
    decodeWord sid0 (bitsOf [(6, 0x01), (6, 0x04), (5, 3), (5, 31), (27, 0), (15, 24575)]) = some (.brLtu sid0 ⟨3#5, 31#5, 0#27, 24575#15⟩) ∧
    decodeWord sid0 (bitsOf [(6, 0x01), (6, 0x08), (5, 7), (5, 0), (27, 0), (15, 2)]) = some (.loop sid0 ⟨7#5, 0#5, 0#27, 2#15⟩) := by
  decide +kernel

theorem test_words_scalar :
    decodeWord sid0 (bitsOf [(6, 0x02), (6, 0x0E), (5, 1), (5, 2), (5, 3), (37, 0)]) = some (.sltu sid0 (.reg ⟨1#5, 2#5, 3#5, 0#37⟩)) ∧
    decodeWord sid0 (bitsOf [(6, 0x03), (6, 0x07), (5, 1), (5, 2), (10, 0), (32, 0xFFFFFFFF)]) =
      some (.sra sid0 (.imm ⟨1#5, 2#5, 0#10, 0xFFFFFFFF#32⟩)) ∧
    decodeWord sid0 (bitsOf [(6, 0x03), (6, 0x10), (5, 4), (5, 4), (10, 0), (32, 0x89ABCDEF)]) = some (.orhi sid0 ⟨4#5, 4#5, 0#10, 0x89ABCDEF#32⟩) ∧
    decodeWord sid0 (bitsOf [(6, 0x03), (6, 0x20), (5, 4), (5, 0), (10, 0), (32, 3)]) = some (.rds sid0 ⟨4#5, 0#5, 0#10, 3#32⟩) := by
  decide +kernel

theorem test_words_stock :
    decodeWord sid0 (bitsOf [(6, 0x04), (6, 0x01), (7, 127), (5, 9), (6, 63), (16, 0), (18, 0x3FFC0)]) =
      some (.vst sid0 ⟨127#7, 9#5, 63#6, 0#16, 0x3FFC0#18⟩) ∧
    decodeWord sid0 (bitsOf [(6, 0x04), (6, 0x02), (5, 6), (5, 7), (10, 0), (32, 8)]) = some (.ldS sid0 ⟨6#5, 7#5, 0#10, 8#32⟩) ∧
    decodeWord sid0 (bitsOf [(6, 0x06), (6, 0x00), (7, 1), (5, 0), (6, 2), (16, 0), (18, 0)]) = some (.rel sid0 ⟨1#7, 0#5, 2#6, 0#16, 0#18⟩) := by
  decide +kernel

theorem test_words_arrays :
    decodeWord sid0 (bitsOf [(6, 0x05), (6, 0x00), (1, 1), (5, 3), (7, 127), (4, 15), (18, 1024), (17, 0)]) =
      some (.trnLd sid0 ⟨1#1, 3#5, 127#7, 15#4, 1024#18, 0#17⟩) ∧
    decodeWord sid0 (bitsOf [(6, 0x05), (6, 0x01), (1, 0), (7, 64), (2, 3), (7, 15), (8, 31), (27, 0)]) =
      some (.trnRd sid0 ⟨0#1, 64#7, 3#2, 15#7, 31#8, 0#27⟩) ∧
    decodeWord sid0 (bitsOf [(6, 0x13), (6, 0x01), (5, 16), (4, 0xA), (1, 1), (1, 0), (4, 0), (37, 0)]) =
      some (.accWr sid0 ⟨16#5, 0xA#4, 1#1, 0#1, 0#4, 0#37⟩) ∧
    decodeWord sid0 (bitsOf [(6, 0x08), (4, 7), (4, 1), (4, 2), (4, 3), (1, 0), (2, 1), (1, 1), (1, 1), (1, 0), (1, 0), (6, 63), (1, 1),
        (5, 4), (5, 5), (18, 0)]) = some (.mmI4 sid0 ⟨1#4, 2#4, 3#4, 0#1, 1#2, 1#1, 1#1, 0#1, 0#1, 63#6, 1#1, 4#5, 5#5, 0#18⟩) := by
  decide +kernel

theorem test_words_vector :
    decodeWord sid0 (bitsOf [(6, 0x10), (6, 0x03), (5, 1), (5, 2), (5, 3), (5, 4), (1, 0), (1, 1), (6, 5), (2, 0), (2, 0), (20, 0)]) =
      some (.vfma sid0 ⟨1#5, 2#5, 3#5, 4#5, 0#1, 1#1, 5#6, 0#2, 0#2, 0#20⟩) ∧
    decodeWord sid0 (bitsOf [(6, 0x10), (6, 0x11), (5, 1), (5, 2), (5, 3), (5, 4), (1, 1), (1, 0), (6, 63), (2, 0), (2, 2), (20, 0)]) =
      some (.vcvtFrom sid0 ⟨1#5, 2#5, 3#5, 4#5, 1#1, 0#1, 63#6, 0#2, 2#2, 0#20⟩) ∧
    decodeWord sid0 (bitsOf [(6, 0x14), (6, 0x02), (5, 31), (5, 0), (5, 0), (5, 0), (1, 0), (1, 0), (6, 0), (2, 0), (2, 0), (20, 0)]) =
      some (.sclRoll sid0 ⟨31#5, 0#5, 0#5, 0#5, 0#1, 0#1, 0#6, 0#2, 0#2, 0#20⟩) := by decide +kernel

theorem test_words_tile :
    decodeWord sid0 (bitsOf [(6, 0x18), (6, 0x00), (4, 15), (5, 1), (5, 2), (38, 0)]) = some (.tcSet sid0 ⟨15#4, 1#5, 2#5, 0#38⟩) ∧
    decodeWord sid0 (bitsOf [(6, 0x18), (6, 0x01), (4, 15), (5, 1), (1, 1), (42, 0)]) = some (.tcGet sid0 ⟨15#4, 1#5, 1#1, 0#42⟩) := by
  decide +kernel

theorem test_words_porter :
    decodeWord sid0 (bitsOf [(6, 0x20), (6, 0x01), (3, 5), (49, 0)]) = some (.prtKill sid0 ⟨5#3, 0#49⟩) ∧
    decodeWord sid0 (bitsOf [(6, 0x20), (6, 0x02), (3, 5), (4, 0), (5, 9), (40, 0)]) = some (.prtStat sid0 ⟨5#3, 0#4, 9#5, 0#40⟩) ∧
    decodeWord sid0 (bitsOf [(6, 0x20), (6, 0x03), (52, 0)]) = some (.prtDrain sid0 ⟨0#52⟩) := by decide +kernel

theorem test_words_tally :
    decodeWord sid0 (bitsOf [(6, 0x21), (6, 0x00), (6, 63), (5, 1), (1, 1), (40, 0)]) = some (.tlySet sid0 ⟨63#6, 1#5, 1#1, 0#40⟩) ∧
    decodeWord sid0 (bitsOf [(6, 0x21), (6, 0x02), (5, 4), (16, 0xFFFF), (1, 1), (30, 0)]) = some (.tlySig sid0 ⟨4#5, 0xFFFF#16, 1#1, 0#30⟩) ∧
    decodeWord sid0 (bitsOf [(6, 0x21), (6, 0x03), (6, 7), (5, 2), (16, 9), (25, 0)]) = some (.tlyWait sid0 ⟨7#6, 2#5, 9#16, 0#25⟩) ∧
    decodeWord sid0 (bitsOf [(6, 0x21), (6, 0x07), (6, 7), (5, 2), (41, 0)]) = some (.tlyCfg sid0 ⟨7#6, 2#5, 0#41⟩) := by decide +kernel

theorem test_words_reckoning :
    decodeWord sid0 (bitsOf [(6, 0x22), (6, 0x03), (3, 7), (5, 2), (44, 0)]) = some (.rckAw sid0 ⟨7#3, 2#5, 0#44⟩) ∧
    decodeWord sid0 (bitsOf [(6, 0x22), (6, 0x04), (5, 1), (5, 2), (5, 3), (5, 4), (32, 0)]) =
      some (.rckCfg sid0 ⟨1#5, 2#5, 3#5, 4#5, 0#32⟩) := by decide +kernel

theorem test_words_ledger :
    decodeWord sid0 (bitsOf [(6, 0x24), (6, 0x00), (5, 1), (5, 2), (5, 3), (1, 1), (3, 2), (2, 1), (1, 1), (4, 15), (1, 1), (25, 0)]) =
      some (.alloc sid0 ⟨1#5, 2#5, 3#5, 1#1, 2#3, 1#2, 1#1, 15#4, 1#1, 0#25⟩) ∧
    decodeWord sid0 (bitsOf [(6, 0x24), (6, 0x02), (5, 1), (5, 2), (5, 3), (1, 0), (3, 6), (2, 3), (1, 1), (4, 0), (26, 0)]) =
      some (.hint sid0 ⟨1#5, 2#5, 3#5, 0#1, 6#3, 3#2, 1#1, 0#4, 0#26⟩) := by decide +kernel

/-! ## The queue, reset, stock lines (statements StepTakesTheFrontCommand to WorkedWordsRead) -/

theorem none_waits {s : State} {sid : StallId} {l : List Nat} (h : (s.stall sid.num).sReady l = true) : noneWaits s sid l := h

theorem wit_StepIdles : State.reset.pending = [] := rfl

/-- One byte of stock. -/
def oneByte : State := { openState with mem := [(stockAddr sid0.num 0, 7)], pending := [.idcode] }

theorem wit_StepKeepsMemoryForm : Machine.Inv oneByte ∧ step oneByte = .next (after (step oneByte)) := ⟨by unfold Machine.Inv; decide +kernel, rfl⟩

theorem wit_LineWrittenReadsBack : Memory.wf oneByte.mem = true ∧ (oneByte.putLine (stockAddr sid0.num 0) 0#512).mem = [] := by decide +kernel

theorem test_reset_is_held : State.reset.bell.held = true ∧ State.reset.mod.state = 2 ∧ State.reset.period = 22500 := by decide +kernel

theorem wit_DecodeOfEncode : encode (.nop sid0 ⟨0#36, 0#1, 0#15⟩) = some 0#64 := by decide +kernel

theorem wit_EncodeOfDecode : decodeWord sid0 0#64 = some (.nop sid0 ⟨0#36, 0#1, 0#15⟩) := by decide +kernel

/-! ## Scalar functions and control (02_stall.md Tables STL.4 and STL.5) -/

/-- A stall with two scalar registers set. -/
def stallS (a b : Word64) : Stall := { Stall.fresh with s := [(1, a), (2, b)] }

/-- s[3] after a function of s1 and s2. -/
def alu (c : StallId → AluForm → Instr) (fn : BitVec 6) (a b : Word64) : Word64 :=
  let f : AluForm := .reg ⟨3#5, 1#5, 2#5, 0#37⟩
  ((after (exec (c sid0 f) (stateAt (stallS a b) (f.word fn)))).stall sid0.num).sreg 3

theorem test_add_wraps : alu .add 0x00#6 0xFFFFFFFFFFFFFFFF#64 2#64 = 1#64 := by decide +kernel
theorem test_sub_wraps : alu .sub 0x01#6 1#64 2#64 = 0xFFFFFFFFFFFFFFFF#64 := by decide +kernel
theorem test_xor : alu .xor 0x04#6 0xF0#64 0xFF#64 = 0x0F#64 := by decide +kernel
theorem test_sll_takes_six_bits : alu .sll 0x05#6 1#64 65#64 = 2#64 := by decide +kernel
theorem test_sra_keeps_the_sign : alu .sra 0x07#6 0x8000000000000000#64 63#64 = 0xFFFFFFFFFFFFFFFF#64 := by decide +kernel
theorem test_srl : alu .srl 0x06#6 0x8000000000000000#64 63#64 = 1#64 := by decide +kernel
theorem test_mul_low_half : alu .mul 0x08#6 0xFFFFFFFFFFFFFFFF#64 0xFFFFFFFFFFFFFFFF#64 = 1#64 := by decide +kernel
theorem test_min_signed : alu .min 0x09#6 0xFFFFFFFFFFFFFFFF#64 1#64 = 0xFFFFFFFFFFFFFFFF#64 := by decide +kernel
theorem test_minu_unsigned : alu .minu 0x0B#6 0xFFFFFFFFFFFFFFFF#64 1#64 = 1#64 := by decide +kernel
theorem test_slt_signed : alu .slt 0x0D#6 0xFFFFFFFFFFFFFFFF#64 0#64 = 1#64 := by decide +kernel
theorem test_sltu_unsigned : alu .sltu 0x0E#6 0xFFFFFFFFFFFFFFFF#64 0#64 = 0#64 := by decide +kernel

theorem test_imm_is_sign_extended :
    let f : AluForm := .imm ⟨3#5, 1#5, 0#10, 0xFFFFFFFF#32⟩
    ((after (exec (.add sid0 f) (stateAt (stallS 5#64 0#64) (f.word 0x00#6)))).stall sid0.num).sreg 3 = 4#64 := by decide +kernel

theorem wit_ScalarFunctions : let f : AluForm := .reg ⟨0#5, 31#5, 2#5, 0#37⟩
    Issues (stateAt Stall.fresh (f.word 0x0E#6)) sid0 (f.word 0x0E#6) ∧ noneWaits (stateAt Stall.fresh (f.word 0x0E#6)) sid0 (aluSd f :: aluSrcs f) ∧
      aluRsvZero f = true := ⟨issues_of (by decide +kernel), none_waits (by decide +kernel), by decide +kernel⟩

theorem wit_OrhiAndRds : let f : FmtI := ⟨4#5, 4#5, 0#10, 1#32⟩; let g : FmtI := ⟨4#5, 0#5, 0#10, 4#32⟩; let h : FmtI := ⟨4#5, 0#5, 0#10, 5#32⟩
    (Issues (stateAt Stall.fresh (f.word 0x03#6 0x10#6)) sid0 (f.word 0x03#6 0x10#6) ∧
      noneWaits (stateAt Stall.fresh (f.word 0x03#6 0x10#6)) sid0 [f.sd.toNat, f.sa.toNat]) ∧
    (Issues (stateAt Stall.fresh (g.word 0x03#6 0x20#6)) sid0 (g.word 0x03#6 0x20#6) ∧
      noneWaits (stateAt Stall.fresh (g.word 0x03#6 0x20#6)) sid0 [g.sd.toNat]) ∧
    Issues (stateAt Stall.fresh (h.word 0x03#6 0x20#6)) sid0 (h.word 0x03#6 0x20#6) ∧ 5 ≤ h.imm.toNat :=
  ⟨⟨issues_of (by decide +kernel), none_waits (by decide +kernel)⟩, ⟨issues_of (by decide +kernel), none_waits (by decide +kernel)⟩,
    issues_of (by decide +kernel), by decide⟩

theorem test_rds_reads_the_lead_die : let g : FmtI := ⟨4#5, 0#5, 0#10, 4#32⟩
    ((after (exec (.rds sid0 g) (stateAt Stall.fresh (g.word 0x03#6 0x20#6)))).stall sid0.num).sreg 4 = 3#64 := by decide +kernel

theorem test_rds_unknown_stops : let g : FmtI := ⟨4#5, 0#5, 0#10, 5#32⟩
    ((after (exec (.rds sid0 g) (stateAt Stall.fresh (g.word 0x03#6 0x20#6)))).stall sid0.num).status = .stopped 0x0210 0 := by decide +kernel

/-- PC and issue cy after a branch. -/
def branch (c : StallId → FmtB → Instr) (fn : BitVec 6) (f : FmtB) (a b : Word64) : Nat × Nat :=
  let t := (after (exec (c sid0 f) (stateAt (stallS a b) (f.word 0x01#6 fn)))).stall sid0.num
  (t.pc, t.nextIssue)

theorem test_branch_taken_in_the_buffer : branch .brLt 0x02#6 ⟨1#5, 2#5, 0#27, 3#15⟩ 0xFFFFFFFFFFFFFFFF#64 0#64 = (24, 2) := by decide +kernel
theorem test_branch_taken_outside : branch .brLt 0x02#6 ⟨1#5, 2#5, 0#27, 8#15⟩ 0xFFFFFFFFFFFFFFFF#64 0#64 = (64, 4) := by decide +kernel
theorem test_branch_not_taken : branch .brLtu 0x04#6 ⟨1#5, 2#5, 0#27, 3#15⟩ 0xFFFFFFFFFFFFFFFF#64 0#64 = (8, 1) := by decide +kernel
theorem test_loop_wraps : branch .loop 0x08#6 ⟨1#5, 0#5, 0#27, 3#15⟩ 0#64 0#64 = (24, 2) := by decide +kernel
theorem test_loop_ends : branch .loop 0x08#6 ⟨1#5, 0#5, 0#27, 3#15⟩ 1#64 0#64 = (8, 1) := by decide +kernel
theorem test_jr_takes_18_bits : branch .jr 0x07#6 ⟨1#5, 0#5, 0#27, 0#15⟩ 0xFFFC0010#64 0#64 = (16, 2) := by decide +kernel
theorem test_j_refetches : branch .j 0x06#6 ⟨0#5, 0#5, 0#27, 1#15⟩ 0#64 0#64 = (8, 4) := by decide +kernel

theorem wit_ConditionalBranches : let f : FmtB := ⟨1#5, 2#5, 0#27, 24575#15⟩
    ∀ x ∈ [(0x00#6, 0#64, 0#64), (0x00#6, 0#64, 1#64), (0x01#6, 0#64, 1#64), (0x02#6, 0xFFFFFFFFFFFFFFFF#64, 0#64), (0x03#6, 0#64, 0#64),
        (0x04#6, 0#64, 1#64), (0x05#6, 0#64, 0#64)].map fun (y : BitVec 6 × Word64 × Word64) =>
          (stateAt (stallS y.2.1 y.2.2) (f.word 0x01#6 y.1), f.word 0x01#6 y.1, [f.sa.toNat, f.sb.toNat]), Ready x :=
  ready_all (by decide +kernel)

theorem wit_LoopAndJr : let f : FmtB := ⟨1#5, 0#5, 0#27, 0#15⟩
    (∀ x ∈ [(0x08#6, 1#64), (0x08#6, 0#64), (0x07#6, 0x3FFF8#64), (0x07#6, 4#64)].map fun (y : BitVec 6 × Word64) =>
      (stateAt (stallS y.2 0#64) (f.word 0x01#6 y.1), f.word 0x01#6 y.1, [f.sa.toNat]), Ready x) ∧ (stallS 4#64 0#64).sreg 1 = 4#64 :=
  ⟨ready_all (by decide +kernel), by decide +kernel⟩

theorem wit_JumpRefetches : let f : FmtB := ⟨0#5, 0#5, 0#27, 1#15⟩
    Issues (stateAt Stall.fresh (f.word 0x01#6 0x06#6)) sid0 (f.word 0x01#6 0x06#6) := issues_of (by decide +kernel)

/-- A load in flight. -/
def loading : Stall := { Stall.fresh with ops := [⟨0, 9, 0, .vld 5 0 2 0⟩], opSeq := 1 }

theorem wit_ControlInstructions :
    (∀ x ∈ [0#64, 0x0020000000000000#64, 0x0010000000000020#64, 0x0010000000006000#64].map fun w => (stateAt Stall.fresh w, w, []), Ready x) ∧
    (∀ x ∈ [0x0020000000000000#64, 0x0010000000000020#64].map fun w => (stateAt loading w, w, []), Ready x) ∧
    ((stateAt Stall.fresh 0#64).stall sid0.num).ops = [] ∧ ((stateAt loading 0#64).stall sid0.num).ops ≠ [] :=
  ⟨ready_all (by decide +kernel), ready_all (by decide +kernel), by decide +kernel⟩

theorem test_bell_wait_parks : ((after (exec (.bellWait sid0 ⟨0#36, 0#1, 32#15⟩) (stateAt Stall.fresh 0x0010000000000020#64))).stall
    sid0.num).status = .parked 32 false 0 := by decide +kernel

/-- A dispatch that waits for one stall. -/
def oneDispatch (w : Word64) : State :=
  { stateAt Stall.fresh w with dispatches := [⟨7, 1, [], 0, [], 0, true, [sid0.num]⟩] }

theorem wit_BellWaitEndsPlan : let w := 0x0010000000008000#64
    let two : State := { oneDispatch w with dispatches := [⟨7, 1, [], 0, [], 0, true, [sid0.num, 9]⟩] }
    let busy : State := stateOf Stall.fresh { StallPort.fresh with slots := [(0, { Slot.idle with state := .running })] } w
    (Issues (oneDispatch w) sid0 w ∧ ((oneDispatch w).stall sid0.num).ops = [] ∧ ((oneDispatch w).port sid0.num).allFree = true ∧
      [sid0.num].filter (· ≠ sid0.num) = []) ∧
    (Issues two sid0 w ∧ (two.stall sid0.num).ops = [] ∧ (two.port sid0.num).allFree = true ∧ [sid0.num, 9].filter (· ≠ sid0.num) ≠ []) ∧
    (Issues (stateAt Stall.fresh w) sid0 w ∧ (stateAt Stall.fresh w).dispatches.all (fun d => !(d.running && d.waits.contains sid0.num)) = true) ∧
    (Issues busy sid0 w ∧ (busy.stall sid0.num).ops = [] ∧ (busy.port sid0.num).allFree = false) :=
  ⟨⟨issues_of (by decide +kernel), by decide +kernel, by decide +kernel, by decide +kernel⟩,
    ⟨issues_of (by decide +kernel), by decide +kernel, by decide +kernel, by decide +kernel⟩,
    ⟨issues_of (by decide +kernel), by decide +kernel⟩, issues_of (by decide +kernel), by decide +kernel, by decide +kernel⟩

theorem test_bell_wait_ends_the_plan :
    (after (exec (.bellWait sid0 ⟨0#36, 1#1, 0#15⟩) (oneDispatch 0x0010000000008000#64))).dispatches = [] := by decide +kernel

theorem wit_IllegalWord : Issues (stateAt Stall.fresh 0xFC00000000000000#64) sid0 0xFC00000000000000#64 ∧
    decodeWord sid0 0xFC00000000000000#64 = none ∧ Issues (stateAt Stall.fresh 0#64) sid0 0#64 ∧ decodeWord sid0 0#64 ≠ none :=
  ⟨issues_of (by decide +kernel), by decide +kernel, issues_of (by decide +kernel), by decide +kernel⟩

theorem test_illegal_word_stops : ((after (exec (.illegalOpcode sid0 0xFC00000000000000#64) (stateAt Stall.fresh 0xFC00000000000000#64))).stall
    sid0.num).status = .stopped 0x0201 0 := by decide +kernel

theorem wit_ReservedBitsStop : let c : FmtC := ⟨0#36, 0#1, 1#15⟩; let b : FmtB := ⟨0#5, 1#5, 0#27, 0#15⟩; let r : FmtB := ⟨1#5, 1#5, 1#27, 0#15⟩
    let a : AluForm := .reg ⟨0#5, 0#5, 0#5, 1#37⟩; let l : FmtL := ⟨0#7, 1#5, 0#6, 1#16, 0#18⟩; let e : FmtL := ⟨0#7, 0#5, 0#6, 0#16, 64#18⟩
    let g : FmtTcGet := ⟨0#4, 0#5, 0#1, 1#42⟩
    (∀ x ∈ [(FmtC.word 0x00#6 0x00#6 c, []), (c.word 0x00#6 0x02#6, []), (b.word 0x01#6 0x06#6, []), (a.word 0x00#6, aluSd a :: aluSrcs a),
        (r.word 0x01#6 0x00#6, [r.sa.toNat, r.sb.toNat]), (l.word 0x04#6 0x00#6, [l.sa.toNat]), (e.word 0x06#6 0x00#6, []),
        (g.word 0x18#6 0x01#6, [g.sd.toNat])].map fun y => (stateAt Stall.fresh y.1, y.1, y.2), Ready x) ∧
    aluRsvZero a = false ∧ c.target ≠ 0#15 ∧ b.sb ≠ 0#5 ∧ r.rsv ≠ 0#27 ∧ l.rsv ≠ 0#16 ∧ e.off ≠ 0#18 ∧ g.rsv ≠ 0#42 :=
  ⟨ready_all (by decide +kernel), by decide⟩

theorem wit_NoIssueWhileHeld : encode (.nop sid0 ⟨0#36, 0#1, 0#15⟩) = some 0#64 ∧ decodeWord sid0 0#64 = some (.nop sid0 ⟨0#36, 0#1, 0#15⟩) ∧
    State.reset.mod.state ≠ 3 ∧ State.reset.bell.held = true ∧ (State.reset.stall sid0.num).status = .idle ∧
    State.fenced { openState with fencedDoms := [60] } sid0.num = true ∧
    State.heldDies { openState with heldDies := [3] } = [dieOf sid0.num] := by decide +kernel

theorem wit_FetchOfTheNextWord :
    let at_ := fun (pc : Nat) => { openState with stalls := [(sid0.num, { Stall.fresh with occ := some 1, status := .running, pc := pc })] }
    ((at_ 196608).mayIssue sid0.num = true ∧ stockBytes ≤ ((at_ 196608).stall sid0.num).pc) ∧
    ((at_ 196600).mayIssue sid0.num = true ∧ ((at_ 196600).stall sid0.num).pc < stockBytes ∧
      ((at_ 196600).stall sid0.num).holdsLine (196600 / 64) = false) := by decide +kernel

/-! ## Loads, stores, turn buffers, tile configuration, matrix instructions (statements LoadsAndStoresIssue to SquareStops) -/

/-- A stall with every vector register FULL. -/
def fullStall : Stall := { Stall.fresh with full := BitVec.allOnes 128 }

/-- The word of a VLD or VST, with its stall's registers. -/
def memAt (t : Stall) (fn : BitVec 6) (f : FmtL) : State := stateAt t (f.word 0x04#6 fn)

theorem wit_LoadsAndStoresIssue : let f : FmtL := ⟨127#7, 0#5, 0#6, 0#16, 196544#18⟩; let g : FmtL := ⟨127#7, 0#5, 1#6, 0#16, 0#18⟩
    let h : FmtL := ⟨0#7, 0#5, 0#6, 0#16, 196608#18⟩; let k : FmtL := ⟨0#7, 0#5, 0#6, 0#16, 32#18⟩
    (Issues (memAt Stall.fresh 0x00#6 f) sid0 (f.word 0x04#6 0x00#6) ∧ noneWaits (memAt Stall.fresh 0x00#6 f) sid0 [f.sa.toNat] ∧
      ((memAt Stall.fresh 0x00#6 f).stall sid0.num).vFree (upFrom 127 1) = true ∧ 196544 + 64 * (f.n.toNat + 1) = 196608) ∧
    (Issues (memAt fullStall 0x01#6 f) sid0 (f.word 0x04#6 0x01#6) ∧ ((memAt fullStall 0x01#6 f).stall sid0.num).vReady (upFrom 127 1) = true) ∧
    (Issues (memAt fullStall 0x01#6 g) sid0 (g.word 0x04#6 0x01#6) ∧ 128 < g.vd.toNat + (g.n.toNat + 1)) ∧
    Issues (memAt fullStall 0x00#6 g) sid0 (g.word 0x04#6 0x00#6) ∧ Issues (memAt fullStall 0x00#6 h) sid0 (h.word 0x04#6 0x00#6) ∧
    Issues (memAt fullStall 0x01#6 k) sid0 (k.word 0x04#6 0x01#6) := by
  refine ⟨⟨issues_of ?_, none_waits ?_, ?_, ?_⟩, ⟨issues_of ?_, ?_⟩, ⟨issues_of ?_, ?_⟩, issues_of ?_, issues_of ?_, issues_of ?_⟩ <;> decide +kernel

theorem wit_ScalarAccessesIssue : let f : FmtI := ⟨1#5, 0#5, 0#10, 196600#32⟩; let g : FmtI := ⟨1#5, 0#5, 0#10, 0xFFFFFFF8#32⟩
    (Issues (stateAt Stall.fresh (f.word 0x04#6 0x02#6)) sid0 (f.word 0x04#6 0x02#6) ∧
      noneWaits (stateAt Stall.fresh (f.word 0x04#6 0x02#6)) sid0 [f.sa.toNat, f.sd.toNat] ∧ (0#64 + f.imm.signExtend 64).toNat = 196600) ∧
    Issues (stateAt Stall.fresh (f.word 0x04#6 0x03#6)) sid0 (f.word 0x04#6 0x03#6) ∧
    (Issues (stateAt Stall.fresh (g.word 0x04#6 0x02#6)) sid0 (g.word 0x04#6 0x02#6) ∧ 196608 ≤ (0#64 + g.imm.signExtend 64).toNat) ∧
    Issues (stateAt Stall.fresh (g.word 0x04#6 0x03#6)) sid0 (g.word 0x04#6 0x03#6) := by
  refine ⟨⟨issues_of ?_, none_waits ?_, ?_⟩, issues_of ?_, ⟨issues_of ?_, ?_⟩, issues_of ?_⟩ <;> decide +kernel

theorem test_vld_outside_stops : let h : FmtL := ⟨0#7, 0#5, 0#6, 0#16, 196608#18⟩
    ((after (exec (.vld sid0 h) (memAt fullStall 0x00#6 h))).stall sid0.num).status = .stopped 0x0204 0 := by decide +kernel

theorem wit_RelEmptiesRegisters : let f : FmtL := ⟨127#7, 0#5, 0#6, 0#16, 0#18⟩
    Issues (stateAt fullStall (f.word 0x06#6 0x00#6)) sid0 (f.word 0x06#6 0x00#6) ∧ f.vd.toNat + f.n.toNat < 128 ∧
    ((stateAt fullStall (f.word 0x06#6 0x00#6)).stall sid0.num).vFree (upFrom f.vd.toNat (f.n.toNat + 1)) = true := by
  refine ⟨issues_of ?_, ?_, ?_⟩ <;> decide +kernel

/-- A state whose stall has one operation in flight. -/
def inFlight (t : Stall) (k : OpKind) : State := stateAt { t with ops := [⟨0, 3, 0, k⟩], opSeq := 1 } 0#64

theorem wit_LoadedLineReachesItsRegister :
    splitOp ((inFlight Stall.fresh (.vld 127 196544 1 0)).stall sid0.num).ops 0 = some ([], ⟨0, 3, 0, .vld 127 196544 1 0⟩) ∧
    lineClear [] (196544 / 64 + 0) false = true ∧ 127 + 0 < 128 := by decide +kernel

theorem test_load_fills_its_register :
    let s := { inFlight Stall.fresh (.vld 127 196544 1 0) with mem := [(stockAddr sid0.num 196544, 9)] }
    let t := (after (exec (.loadStoreComplete sid0 0 .none) s)).stall sid0.num
    (t.vreg 127, t.isFull 127, t.ops) = (9#512, true, []) := by decide +kernel

theorem wit_StoresAndScalarAccesses :
    Memory.wf (inFlight Stall.fresh (.vst 0 0 1 0)).mem = true ∧
    (splitOp ((inFlight Stall.fresh (.vst 0 0 1 0)).stall sid0.num).ops 0 = some ([], ⟨0, 3, 0, .vst 0 0 1 0⟩) ∧ lineClear [] 0 true = true) ∧
    splitOp ((inFlight Stall.fresh (.sts 196600 1#64)).stall sid0.num).ops 0 = some ([], ⟨0, 3, 0, .sts 196600 1#64⟩) ∧
    splitOp ((inFlight Stall.fresh (.lds 31 8)).stall sid0.num).ops 0 = some ([], ⟨0, 3, 0, .lds 31 8⟩) := by decide +kernel

theorem test_st_s_is_little_endian :
    (after (exec (.loadStoreComplete sid0 0 .none) (inFlight Stall.fresh (.sts 8 0x0102#64)))).mem =
      [(stockAddr sid0.num 8, 2), (stockAddr sid0.num 9, 1)] := by decide +kernel

/-- A stall whose fetch unit waits for line 3. -/
def fetching (st : Status) (bell : Bool) : State :=
  { openState with stalls := [(sid0.num, { Stall.fresh with occ := some 1, status := st, fetchReq := [(3, 5)], eccBell := bell })] }

theorem wit_FetchedLineAndStockErrors :
    ((fetching .running true).stall sid0.num).fetchReq = (3, 5) :: [] ∧ ((fetching .running true).stall sid0.num).status = .running ∧
    ((fetching .running true).stall sid0.num).eccBell = true ∧ ((fetching .running false).stall sid0.num).eccBell = false := by decide +kernel

theorem test_double_error_stops_in_the_cy_after :
    ((after (exec (.fetchLineArrival sid0 .double) (fetching .running false))).stall sid0.num).status = .stopped 0x0206 6 := by decide +kernel

theorem wit_TurnBuffersIssue : let f : FmtTLd := ⟨1#1, 0#5, 127#7, 15#4, 0#18, 0#17⟩; let g : FmtTLd := ⟨0#1, 0#5, 0#7, 0#4, 4#18, 0#17⟩
    let h : FmtTRd := ⟨0#1, 120#7, 1#2, 1#7, 127#8, 0#27⟩; let k : FmtTRd := ⟨0#1, 0#7, 3#2, 0#7, 32#8, 0#27⟩
    (Issues (stateAt Stall.fresh (f.word 0x05#6 0x00#6)) sid0 (f.word 0x05#6 0x00#6) ∧
      noneWaits (stateAt Stall.fresh (f.word 0x05#6 0x00#6)) sid0 [f.sa.toNat] ∧
      ((stateAt Stall.fresh (f.word 0x05#6 0x00#6)).stall sid0.num).turnFree 1 = true) ∧
    (Issues (stateAt Stall.fresh (g.word 0x05#6 0x00#6)) sid0 (g.word 0x05#6 0x00#6) ∧ g.stride.toNat % 8 ≠ 0) ∧
    (Issues (stateAt Stall.fresh (h.word 0x05#6 0x01#6)) sid0 (h.word 0x05#6 0x01#6) ∧ (127 + 1) * (4 * 2 ^ 1) = 1024 ∧
      ceilDiv (2 * 128 * 8) 512 = 4 ∧ ((stateAt Stall.fresh (h.word 0x05#6 0x01#6)).stall sid0.num).turnFree 0 = true ∧
      ((stateAt Stall.fresh (h.word 0x05#6 0x01#6)).stall sid0.num).vFree (upFrom 120 4) = true) ∧
    (Issues (stateAt Stall.fresh (k.word 0x05#6 0x01#6)) sid0 (k.word 0x05#6 0x01#6) ∧ 1024 < (32 + 1) * (4 * 2 ^ 3)) := by
  refine ⟨⟨issues_of ?_, none_waits ?_, ?_⟩, ⟨issues_of ?_, ?_⟩, ⟨issues_of ?_, ?_, ?_, ?_, ?_⟩, issues_of ?_, ?_⟩ <;> decide +kernel

theorem wit_TurnBufferTransposes :
    (splitOp ((inFlight Stall.fresh (.trnLd 1 0 128 8 8)).stall sid0.num).ops 0 = some ([], ⟨0, 3, 0, .trnLd 1 0 128 8 8⟩) ∧
      (OpKind.lineReads (.trnLd 1 0 128 8 8)).all (fun l => lineClear [] l false) = true) ∧
    splitOp ((inFlight Stall.fresh (.trnRd 0 124 8 2 128)).stall sid0.num).ops 0 = some ([], ⟨0, 3, 0, .trnRd 0 124 8 2 128⟩) ∧
    124 + ceilDiv (2 * 128 * 8) 512 = 128 := by decide +kernel

/-- Element (r, c) of 4 bits at c × rows + r: rows 0x21 and 0x43 of two columns read as 0x4231. -/
theorem test_transposes :
    ((after (exec (.turnBufferComplete sid0 0 .none) (inFlight { Stall.fresh with turn := [(0, 0x21), (1, 0x43)] } (.trnRd 0 5 4 2 2)))).stall
      sid0.num).vreg 5 = 0x4231#512 := by decide +kernel

/-- Tile configuration words in s1 (lower half) and s2. -/
theorem wit_TileConfiguration : let f : FmtTcSet := ⟨15#4, 1#5, 2#5, 0#38⟩; let g : FmtTcGet := ⟨15#4, 1#5, 1#1, 0#42⟩
    (Issues (stateAt (stallS 0x10#64 0#64) (f.word 0x18#6 0x00#6)) sid0 (f.word 0x18#6 0x00#6) ∧
      noneWaits (stateAt (stallS 0x10#64 0#64) (f.word 0x18#6 0x00#6)) sid0 [f.sa.toNat, f.sb.toNat] ∧ 0x10 / 2 % 16 = 8) ∧
    (Issues (stateAt (stallS 0x12#64 0#64) (f.word 0x18#6 0x00#6)) sid0 (f.word 0x18#6 0x00#6) ∧ 0x12 / 2 % 16 = 9) ∧
    (Issues (stateAt Stall.fresh (g.word 0x18#6 0x01#6)) sid0 (g.word 0x18#6 0x01#6) ∧
      noneWaits (stateAt Stall.fresh (g.word 0x18#6 0x01#6)) sid0 [g.sd.toNat]) := by
  refine ⟨⟨issues_of ?_, none_waits ?_, ?_⟩, ⟨issues_of ?_, ?_⟩, issues_of ?_, none_waits ?_⟩ <;> decide +kernel

theorem test_tc_set_checks : let f : FmtTcSet := ⟨15#4, 1#5, 2#5, 0#38⟩
    ((after (exec (.tcSet sid0 f) (stateAt (stallS 0x12#64 0#64) (f.word 0x18#6 0x00#6)))).stall sid0.num).status = .stopped 0x0301 0 := by
  decide +kernel

/-- A matrix word over entries 0, 1 and 2. -/
def mmF : FmtM := ⟨0#4, 1#4, 2#4, 0#1, 1#2, 0#1, 0#1, 0#1, 1#1, 0#6, 0#1, 0#5, 0#5, 0#18⟩

/-- Entries of 1 × 1 tiles in the operand formats of an FMT value, all registers FULL; with `off` a format code that fits none. -/
def mmStall (fmt off : Nat) : Stall :=
  let code := fun (f : Fmt) => (upFrom 1 8).findSome? (fun c => if Fmt.ofCode c = some f then some c else none)
  { fullStall with tc := [(0, BitVec.ofNat 128 (1 + 2 * (off + (code (mmFmts fmt).1).getD 0) + 64 * 2 ^ 42)),
                          (1, BitVec.ofNat 128 (1 + 2 * (code (mmFmts fmt).2).getD 0 + 16 * 2 ^ 26 + 65 * 2 ^ 42)), (2, 1#128)] }

/-- Its state, with tally 0 at 1, the value its gate waits for. -/
def mmState (fmt off : Nat) : State :=
  stateOf (mmStall fmt off) { StallPort.fresh with tallies := [(0, { Tally.zero with value := 1 })] } (mmF.word (BitVec.ofNat 4 fmt))

theorem mm_witness : (List.range 8).all (fun i => issuesB (mmState i 0) sid0 (mmF.word (BitVec.ofNat 4 i)) &&
    issuesB (mmState i 7) sid0 (mmF.word (BitVec.ofNat 4 i)) && decide ((mmState i 0).squareOf sid0.num = none ∧ (mmState i 7).squareOf sid0.num = none ∧
      lowestCode (matCauses i mmF false false (matOf i mmF (mmStall i 0))) = none ∧
      lowestCode (matCauses i mmF false false (matOf i mmF (mmStall i 7))) = some 0x0303 ∧
      (let x := matOf i mmF (mmStall i 0); (mmStall i 0).vReady (x.aRegs ++ x.wRegs ++ x.aScaleRegs ++ x.wScaleRegs) = true) ∧
      (mmStall i 0).gate 0 ≤ ((mmState i 0).port sid0.num |>.tally 0).value ∧ (mmStall i 0).banksFree 0 0 = true)) = true := by decide +kernel

theorem wit_MatrixInstructionsIssue : ∀ row ∈ matrixRows, let x := matOf row.2 mmF (mmStall row.2 0)
    ((mmState row.2 0).squareOf sid0.num = none ∧ Issues (mmState row.2 0) sid0 (mmF.word (BitVec.ofNat 4 row.2)) ∧
      lowestCode (matCauses row.2 mmF false false x) = none ∧
      (mmStall row.2 0).vReady (x.aRegs ++ x.wRegs ++ x.aScaleRegs ++ x.wScaleRegs) = true ∧
      (mmStall row.2 0).gate 0 ≤ ((mmState row.2 0).port sid0.num |>.tally 0).value ∧ (mmStall row.2 0).banksFree 0 0 = true) ∧
    ((mmState row.2 7).squareOf sid0.num = none ∧ Issues (mmState row.2 7) sid0 (mmF.word (BitVec.ofNat 4 row.2)) ∧
      lowestCode (matCauses row.2 mmF false false (matOf row.2 mmF (mmStall row.2 7))) = some 0x0303) := by
  intro row h
  have h8 : row.2 ∈ List.range 8 := by
    simp only [matrixRows, List.mem_cons, List.not_mem_nil, or_false] at h
    rcases h with h | h | h | h | h | h | h | h <;> subst h <;> decide
  have w := List.all_eq_true.mp mm_witness row.2 h8
  simp only [Bool.and_eq_true, decide_eq_true_eq] at w
  obtain ⟨⟨a, b⟩, c, d, e, f, g, i, j⟩ := w
  exact ⟨⟨c, issues_of a, e, g, i, j⟩, d, issues_of b, f⟩

/-- The worked case of 04_tile_ops.md: two 12 × 40 activation tiles against a 40 × 16 weight tile, issued at cy 10, retire at cy 80. -/
theorem test_worked_matrix_case :
    let t : Stall := { fullStall with tc := [(0, 0x00000130004E0B03#128), (1, 0x00000000C01E2703#128), (2, 0x00000000001E0B01#128)], nextIssue := 10 }
    let f : FmtM := ⟨0#4, 1#4, 2#4, 0#1, 1#2, 0#1, 0#1, 0#1, 0#1, 0#6, 0#1, 0#5, 0#5, 0#18⟩
    (((after (exec (.mmH16 sid0 f) (stateAt t (f.word 0#4)))).stall sid0.num).ops.map fun o => o.due) = [80] := by decide +kernel

/-- Had tc2 held 16 × 16, the instruction would have raised 0x0306 at cy 10. -/
theorem test_worked_matrix_case_refused :
    let t : Stall := { fullStall with tc := [(0, 0x00000130004E0B03#128), (1, 0x00000000C01E2703#128), (2, 0x00000000001E0F01#128)], nextIssue := 10 }
    let f : FmtM := ⟨0#4, 1#4, 2#4, 0#1, 1#2, 0#1, 0#1, 0#1, 0#1, 0#6, 0#1, 0#5, 0#5, 0#18⟩
    ((after (exec (.mmH16 sid0 f) (stateAt t (f.word 0#4)))).stall sid0.num).status = .stopped 0x0306 10 := by decide +kernel

/-- A 1 × 1 matrix instruction in flight: 1.0 × 1.0 in MODE 00, block registers as the stall held them. -/
def mmOp (mode : Nat) : OpKind := .mm 0 0 mode 0 1 1 1 1 0 1 false false false [] [] [[0x3C00#512]] [[0x3C00#512]] [] []

theorem wit_MatrixRetires :
    ((inFlight Stall.fresh (mmOp 0)).stall sid0.num).ops.find? (fun o => o.kind.isMm) = some ⟨0, 3, 0, mmOp 0⟩ ∧
    ((inFlight Stall.fresh (mmOp 1)).stall sid0.num).ops.find? (fun o => o.kind.isMm) = some ⟨0, 3, 0, mmOp 1⟩ := by decide +kernel

theorem wit_AccumulatorMovesIssue : let f : FmtA := ⟨28#5, 8#4, 1#1, 1#1, 0#4, 0#37⟩; let g : FmtA := ⟨28#5, 0#4, 1#1, 0#1, 0#4, 0#37⟩
    let h : FmtA := ⟨28#5, 8#4, 1#1, 0#1, 9#4, 0#37⟩; let k : FmtA := ⟨28#5, 8#4, 1#1, 0#1, 0#4, 0#37⟩
    let l : FmtA := ⟨29#5, 8#4, 1#1, 0#1, 0#4, 0#37⟩
    (Issues (stateAt Stall.fresh (f.word 0x13#6 0x00#6)) sid0 (f.word 0x13#6 0x00#6) ∧ Fmt.ofCode f.cf.toNat = some .b32 ∧ arraysOf 8 = [3] ∧
      4 * 28 + accOutRegs .b32 * 1 = 128 ∧ ((stateAt Stall.fresh (f.word 0x13#6 0x00#6)).stall sid0.num).accReady 1 [3] = true ∧
      ((stateAt Stall.fresh (f.word 0x13#6 0x00#6)).stall sid0.num).vFree (upFrom 112 16) = true) ∧
    (Issues (stateAt Stall.fresh (g.word 0x13#6 0x00#6)) sid0 (g.word 0x13#6 0x00#6) ∧ arraysOf g.am.toNat = []) ∧
    (Issues (stateAt Stall.fresh (h.word 0x13#6 0x00#6)) sid0 (h.word 0x13#6 0x00#6) ∧ Fmt.ofCode h.cf.toNat = none) ∧
    (Issues (stateAt fullStall (k.word 0x13#6 0x01#6)) sid0 (k.word 0x13#6 0x01#6) ∧
      ((stateAt fullStall (k.word 0x13#6 0x01#6)).stall sid0.num).accReady 1 [3] = true ∧
      ((stateAt fullStall (k.word 0x13#6 0x01#6)).stall sid0.num).vReady (upFrom 112 16) = true) ∧
    (Issues (stateAt fullStall (l.word 0x13#6 0x01#6)) sid0 (l.word 0x13#6 0x01#6) ∧ 128 < 4 * l.qd.toNat + 16 * 1) := by
  refine ⟨⟨issues_of ?_, ?_, ?_, ?_, ?_, ?_⟩, ⟨issues_of ?_, ?_⟩, ⟨issues_of ?_, ?_⟩, ⟨issues_of ?_, ?_, ?_⟩, issues_of ?_, ?_⟩ <;> decide +kernel

theorem wit_AccumulatorMovesRetire :
    ((inFlight fullStall (.accWr 28 [3] 1)).stall sid0.num).ops = [⟨0, 3, 0, .accWr 28 [3] 1⟩] ∧ 4 * 28 + 16 ≤ 128 ∧
    ((inFlight fullStall (.accRd 28 [3] 1 true .b32)).stall sid0.num).ops = [⟨0, 3, 0, .accRd 28 [3] 1 true .b32⟩] ∧ 4 * 28 + accOutRegs .b32 ≤ 128 ∧
    ((inFlight fullStall (.accRd 28 [3] 1 false .h16)).stall sid0.num).ops = [⟨0, 3, 0, .accRd 28 [3] 1 false .h16⟩] := by decide +kernel

theorem test_acc_rd_clears_its_bank :
    let t := (after (exec (.accMoveRetire sid0) (inFlight { Stall.fresh with acc := [(7, ⟨true, [(17, 5#32)]⟩)] } (.accRd 28 [3] 1 true .b32)))).stall sid0.num
    ((t.bank 3 1).held, t.vreg 113) = (false, BitVec.ofNat 512 (5 * 2 ^ 32)) := by decide +kernel

/-- The square of CD3 with origin (0, 0), every stall in state `st` and READY for the same word. -/
def sq : Square := { die := 3, x0 := 0, y0 := 0, ctx := 1, passEnd := 0, issued := 0, stop := none, unbind := false }
/-- Its state, the origin stall given. -/
def squareState (k0 : Stall) : State :=
  { openState with
    squares := [sq], stalls := sq.stalls.map fun k => (k, if k = sid0.num then k0 else
      { running (mmStall 0 0) 0#64 with ready := some ((mmF.word 0#4).toNat, 5) }) }

/-- The origin stall READY with the entries of the others, and with entry 0 another; and stopped at cy 9. -/
def sqSame : State := squareState { running (mmStall 0 0) 0#64 with ready := some ((mmF.word 0#4).toNat, 5) }
def sqOther : State := squareState { running (mmStall 0 7) 0#64 with ready := some ((mmF.word 0#4).toNat, 5) }
def sqStopped : State := squareState { running (mmStall 0 0) 0#64 with status := .stopped 0x0206 9 }

theorem squareState_stall (k0 : Stall) {k : Nat} (h : k ∈ sq.stalls) : (squareState k0).stall k = if k = sid0.num then k0 else
    { running (mmStall 0 0) 0#64 with ready := some ((mmF.word 0#4).toNat, 5) } :=
  tget_map_key sq.stalls (fun k => if k = sid0.num then k0 else
    { running (mmStall 0 0) 0#64 with ready := some ((mmF.word 0#4).toNat, 5) }) Stall.fresh h

theorem sq_has : sid0.num ∈ sq.stalls ∧ 24577 ∈ sq.stalls ∧ sq.at_ 0 0 = sid0.num ∧ isOrigin sq.x0 sq.y0 = true := by decide +kernel

/-- Entries 0, 1 and 2 of a stall. -/
def sqEntries (s : State) (k : Nat) : List (BitVec 128) := [(s.stall k).tcReg 0, (s.stall k).tcReg 1, (s.stall k).tcReg 2]

/-- What both clauses of SquareDecides ask of the state, the square and the word. -/
def SquareMet (s : State) : Prop :=
  s.bell.held = false ∧ s.heldDies.contains sq.die = false ∧ (∀ x ∈ s.bell.symbols, x.kind = .hold → 5 + 11 < x.latch) ∧
    s.squareAt 3 sq.x0 sq.y0 = some sq ∧ sq.die = (3 : Fin 16).val ∧ isOrigin sq.x0 sq.y0 = true ∧ sq.stop = none ∧
    (∀ k ∈ sq.stalls, (s.stall k).status = .running ∧ (s.stall k).ready = some ((mmF.word 0#4).toNat, 5)) ∧
    0 < 8 ∧ mmF.word (BitVec.ofNat 4 0) = BitVec.ofNat 64 (mmF.word 0#4).toNat

theorem wit_SquareDecides_all : SquareMet sqSame ∧ (∀ k ∈ sq.stalls, sqEntries sqSame k = sqEntries sqSame (sq.at_ 0 0)) := by
  refine ⟨⟨rfl, rfl, fun x h => ?_, rfl, rfl, rfl, rfl, fun k h => ?_, by decide, by decide⟩, fun k h => ?_⟩
  · exact absurd h (List.not_mem_nil)
  · simp only [sqSame, squareState_stall _ h]; split <;> exact ⟨rfl, rfl⟩
  · simp only [sqEntries, sqSame, squareState_stall _ h, sq_has.2.2.1, squareState_stall _ sq_has.1, if_true]
    split <;> rfl

theorem wit_SquareDecides_differs : SquareMet sqOther ∧ (∃ k ∈ sq.stalls, sqEntries sqOther k ≠ sqEntries sqOther (sq.at_ 0 0)) := by
  refine ⟨⟨rfl, rfl, fun x h => ?_, rfl, rfl, rfl, rfl, fun k h => ?_, by decide, by decide⟩, 24577, sq_has.2.1, ?_⟩
  · exact absurd h (List.not_mem_nil)
  · simp only [sqOther, squareState_stall _ h]; split <;> exact ⟨rfl, rfl⟩
  · simp only [sqEntries, sqOther, squareState_stall _ sq_has.2.1, sq_has.2.2.1, squareState_stall _ sq_has.1]
    decide +kernel

theorem squareGoCy_none {s : State} {q : Square} {k : Nat} (h : k ∈ q.stalls) (r : (s.stall k).ready = none) : s.squareGoCy q = none := by
  unfold State.squareGoCy
  dsimp only
  split
  · rfl
  · rename_i c
    refine absurd ?_ c
    rw [Bool.or_eq_true, Bool.not_eq_true']
    exact Or.inr (List.all_eq_false.mpr ⟨k, h, by simp [r]⟩)

theorem sqStopped_no_go : sqStopped.squareGoCy sq = none :=
  squareGoCy_none sq_has.1 (by simp only [sqStopped, squareState_stall _ sq_has.1]; rfl)

theorem wit_SquareStops : sqStopped.squareAt 3 sq.x0 sq.y0 = some sq ∧ isOrigin sq.x0 sq.y0 = true ∧ sq.stop = none ∧
    sqStopped.squareGoCy sq = none ∧ sid0.num ∈ sq.stalls ∧
    (sqStopped.stall sid0.num).status = .stopped 0x0206 9 ∧ (∀ k ∈ sq.stalls, k ≠ sid0.num → (sqStopped.stall k).status = .running) := by
  refine ⟨rfl, rfl, rfl, sqStopped_no_go, sq_has.1, ?_, fun k h n => ?_⟩
  · simp only [sqStopped, squareState_stall _ sq_has.1, if_true]
  · simp only [sqStopped, squareState_stall _ h, n, if_false]; rfl

/-! ## The vector unit, the price board, the scales (statements VectorFunctionsIssue to ScaleInstructions) -/

/-- Every register FULL, a word of the vector unit, price board or scales next. -/
def vecAt (op fn : BitVec 6) (f : FmtV) : State := stateAt fullStall (f.word op fn)

/-- QD 31, QA 30, QB 29 with BS 0, QC 28; and with BS 1. -/
def v3 : FmtV := ⟨31#5, 30#5, 29#5, 28#5, 0#1, 0#1, 0#6, 0#2, 0#2, 0#20⟩
def v3s : FmtV := ⟨31#5, 30#5, 31#5, 28#5, 1#1, 0#1, 0#6, 0#2, 0#2, 0#20⟩
def v2 : FmtV := { v3 with qc := 0#5 }
def v2s : FmtV := { v3s with qc := 0#5 }
def v1 : FmtV := { v3 with qb := 0#5, qc := 0#5 }

/-- The checks that VectorFunctionsIssue asks of a two-operand form. -/
def vecB (fn : BitVec 6) (f : FmtV) : Bool :=
  let t := (vecAt 0x10#6 fn f).stall sid0.num
  issuesB (vecAt 0x10#6 fn f) sid0 (f.word 0x10#6 fn) && t.vFree (quadRegs 31) && t.vReady (quadRegs 30) && t.vReady (operandBRegs f) &&
    t.sReady (operandBS f) && t.vReady (quadRegs f.qc.toNat)

theorem wit_VectorFunctionsIssue :
    (vector2Rows.all fun r => vecB r.2.1 v2 && vecB r.2.1 v2s) = true ∧ (vector3Rows.all fun r => vecB r.2.1 v3 && vecB r.2.1 v3s) = true ∧
    (vector1Rows.all fun r => vecB r.2.1 v1) = true ∧ vUnused v2 true true false true false false = false ∧
    vUnused v2s true true false true false false = false ∧ vUnused v3 true true true true false false = false ∧
    vUnused v3s true true true true false false = false ∧ vUnused v1 true false false false false false = false := by decide +kernel

theorem test_lane_corners : fMax 0x7FC00001#32 0x3F800000#32 = 0x3F800000#32 ∧ fNeg 0x7FC00001#32 = 0xFFC00001#32 ∧
    fAdd 0x3F800000#32 0x33800000#32 = 0x3F800000#32 ∧ fAdd 0x3F800001#32 0x33800000#32 = 0x3F800002#32 ∧
    fMul 0x7F000000#32 0x40000000#32 = 0x7F800000#32 ∧ fSub 0x3F800000#32 0x3F800000#32 = 0#32 := by decide +kernel

theorem wit_LaneArithmetic : isNaN32 0x7FC00001#32 = true ∧ isNaN32 0xFF800001#32 = true ∧ isNaN32 0x7F800000#32 = false := by decide

theorem wit_LaneMovesAndConversionsIssue :
    let e : FmtV := ⟨7#5, 31#5, 0#5, 0#5, 0#1, 0#1, 63#6, 0#2, 0#2, 0#20⟩; let i : FmtV := ⟨31#5, 0#5, 7#5, 0#5, 0#1, 0#1, 63#6, 0#2, 0#2, 0#20⟩
    let c : FmtV := ⟨31#5, 30#5, 0#5, 1#5, 0#1, 1#1, 31#6, 0#2, 1#2, 0#20⟩; let x : FmtV := ⟨31#5, 30#5, 0#5, 1#5, 0#1, 1#1, 32#6, 0#2, 0#2, 0#20⟩
    let y : FmtV := ⟨31#5, 30#5, 0#5, 1#5, 0#1, 0#1, 0#6, 0#2, 3#2, 0#20⟩; let z : FmtV := ⟨31#5, 30#5, 0#5, 9#5, 0#1, 0#1, 0#6, 0#2, 0#2, 0#20⟩
    (Issues (vecAt 0x10#6 0x0E#6 e) sid0 (e.word 0x10#6 0x0E#6) ∧ noneWaits (vecAt 0x10#6 0x0E#6 e) sid0 [7] ∧
      vUnused e true false false false false true = false ∧ ((vecAt 0x10#6 0x0E#6 e).stall sid0.num).vReady [127] = true) ∧
    (Issues (vecAt 0x10#6 0x0F#6 i) sid0 (i.word 0x10#6 0x0F#6) ∧ noneWaits (vecAt 0x10#6 0x0F#6 i) sid0 [7] ∧
      vUnused i false true false false false true = false ∧ ((vecAt 0x10#6 0x0F#6 i).stall sid0.num).vReady [127] = true ∧
      ((vecAt 0x10#6 0x0F#6 i).stall sid0.num).vFree [127] = true) ∧
    (Issues (vecAt 0x10#6 0x10#6 c) sid0 (c.word 0x10#6 0x10#6) ∧ Issues (vecAt 0x10#6 0x11#6 c) sid0 (c.word 0x10#6 0x11#6) ∧
      Fmt.ofCode 1 = some .h16 ∧ Rnd.ofRM 1 = some .rtz ∧ vUnused c true false true false true true = false ∧
      ((vecAt 0x10#6 0x10#6 c).stall sid0.num).vFree (upFrom 124 (packRegs .h16)) = true ∧
      ((vecAt 0x10#6 0x11#6 c).stall sid0.num).vReady (upFrom 120 (packRegs .h16)) = true ∧
      ((vecAt 0x10#6 0x10#6 c).stall sid0.num).vReady (quadRegs 30) = true ∧ ((vecAt 0x10#6 0x11#6 c).stall sid0.num).vFree (quadRegs 31) = true) ∧
    (Issues (vecAt 0x10#6 0x10#6 x) sid0 (x.word 0x10#6 0x10#6) ∧ vUnused x true false true false true true = false) ∧
    (Issues (vecAt 0x10#6 0x11#6 y) sid0 (y.word 0x10#6 0x11#6) ∧ vUnused y true false true false true true = false) ∧
    (Issues (vecAt 0x10#6 0x10#6 z) sid0 (z.word 0x10#6 0x10#6) ∧ vUnused z true false true false true true = false ∧ Fmt.ofCode 9 = none) := by
  refine ⟨⟨issues_of ?_, none_waits ?_, ?_, ?_⟩, ⟨issues_of ?_, none_waits ?_, ?_, ?_, ?_⟩,
    ⟨issues_of ?_, issues_of ?_, ?_, ?_, ?_, ?_, ?_, ?_, ?_⟩,
    ⟨issues_of ?_, ?_⟩, ⟨issues_of ?_, ?_⟩, issues_of ?_, ?_, ?_⟩ <;> decide +kernel

/-- 64 lanes of 1.0. -/
def ones : List Word32 := List.replicate 64 0x3F800000#32

theorem wit_QuadResultsAreWritten : let k : OpKind := .vec (zipW (fun i l => (i, l)) (quadRegs 31) (linesOfLanes ones)) none (some 31) ones
    let b : OpKind := .pb (zipW (fun i l => (i, l)) (quadRegs 31) (linesOfLanes ones)) 31 ones
    ones.length = 64 ∧ firstDue (fun k => match k with | .vec .. => true | _ => false) ((inFlight Stall.fresh k).stall sid0.num).ops
      = some ⟨0, 3, 0, k⟩ ∧
    firstDue (fun k => match k with | .pb .. => true | _ => false) ((inFlight Stall.fresh b).stall sid0.num).ops = some ⟨0, 3, 0, b⟩ := by
  decide +kernel

theorem test_scale_sees_a_result : let k : OpKind := .vec (zipW (fun i l => (i, l)) (quadRegs 31) (linesOfLanes ones)) none (some 31) ones
    (((after (exec (.vectorWriteback sid0) (inFlight { Stall.fresh with scales := [(5, ⟨0#32, 7#32, 1, 30, 31⟩)] } k))).stall sid0.num).scale 5)
      = ⟨0x3F800000#32, 7#32, 1, 30, 31⟩ := by decide +kernel

/-- A sound image of a price table at the start of stock: zeros but for HI = 1.0 (03_formats.md R134). -/
def priceMem : List Host.Cell := [(stockAddr sid0.num 6, 0x80), (stockAddr sid0.num 7, 0x3F)]

/-- A loaded slot. -/
def loadedSlot : UserSlot := ⟨0#32, 0x3F800000#32, 0x43800000#32, List.replicate 768 0#32⟩

theorem price_image : (userSlotOf (({ inFlight fullStall (.pbld 15 0) with mem := priceMem } : State).bytes (stockAddr sid0.num 0) 3136)).isSome = true := by
  decide +kernel

theorem wit_PriceTableIsLoaded : ((inFlight fullStall (.pbld 15 0)).stall sid0.num).ops = [⟨0, 3, 0, .pbld 15 0⟩] ∧
    ∃ u, userSlotOf (({ inFlight fullStall (.pbld 15 0) with mem := priceMem } : State).bytes (stockAddr sid0.num 0) 3136) = some u :=
  ⟨by decide +kernel, Option.isSome_iff_exists.mp price_image⟩

/-- A word of the price board on a slot, with user slot 15 loaded. -/
def pbAt (fn : BitVec 6) (f : FmtV) : State :=
  { stateAt { fullStall with user := [(15, loadedSlot)], s := [(2, 32#64)] } (f.word 0x12#6 fn) with mem := priceMem }

/-- A word of the price board. -/
def pbF (qd qa lane : Nat) : FmtV := ⟨BitVec.ofNat 5 qd, BitVec.ofNat 5 qa, 0#5, 0#5, 0#1, 0#1, BitVec.ofNat 6 lane, 0#2, 0#2, 0#20⟩

theorem wit_PriceBoardIssues : let t := (pbAt 0x00#6 (pbF 31 30 11)).stall sid0.num
    (∀ x ∈ [(0x00#6, pbF 31 30 11), (0x01#6, pbF 31 30 11), (0x00#6, pbF 31 30 15), (0x01#6, pbF 31 30 12), (0x00#6, pbF 31 30 12),
        (0x02#6, pbF 0 1 15), (0x02#6, pbF 0 2 15), (0x02#6, pbF 0 1 11)].map fun (y : BitVec 6 × FmtV) =>
          (pbAt y.1 y.2, y.2.word 0x12#6 y.1, [y.2.qa.toNat]), Ready x) ∧
    ([pbF 31 30 11, pbF 31 30 15, pbF 31 30 12, pbF 0 1 15, pbF 0 2 15, pbF 0 1 11].all fun f =>
      decide (f.lane.toNat < 16) && !vUnused f true false false false false true) = true ∧
    t.vReady (quadRegs 30) = true ∧ t.vFree (quadRegs 31) = true ∧ t.pbNext ≤ issueCy (pbAt 0x00#6 (pbF 31 30 11)) sid0 ∧
    t.slotLoading 11 = false ∧ t.slotLoading 15 = false ∧ t.slotLoading 12 = false ∧ tfind t.user 15 = some loadedSlot ∧ tfind t.user 12 = none ∧
    t.ops = [] ∧ (t.sreg 1).toNat % 2 ^ 18 = 0 ∧ (t.sreg 2).toNat % 2 ^ 18 % 64 ≠ 0 ∧
    (userSlotOf ((pbAt 0x02#6 (pbF 0 1 15)).bytes (stockAddr sid0.num 0) 3136)).isSome = true :=
  ⟨ready_all (by decide +kernel), by decide +kernel⟩

theorem wit_PriceBoardBounds : isNaN32 0x7FC00001#32 = true ∧ (2 ^ (fxBits - 150) : Nat) ≤ (2 ^ (fxBits - 150) : Int).natAbs ∧
    (2 ^ (fxBits - 150) : Int).natAbs ≤ fxMaxFin.natAbs ∧ fxMaxFin.natAbs < (fxMaxFin + 1).natAbs := by decide +kernel

/-- SCL words with S_SCL 31: every kind of attachment, RD, ROLL, CLR, PROP. -/
def scl (qa qb qc lane : Nat) : FmtV :=
  ⟨31#5, BitVec.ofNat 5 qa, BitVec.ofNat 5 qb, BitVec.ofNat 5 qc, 0#1, 0#1, BitVec.ofNat 6 lane, 0#2, 0#2, 0#20⟩

theorem wit_ScaleInstructions :
    (∀ x ∈ [(0x00#6, scl 0 0 0 0), (0x00#6, scl 1 30 31 0), (0x00#6, scl 2 15 0 0), (0x00#6, scl 3 0 0 63), (0x00#6, scl 4 0 0 0), (0x01#6, scl 7 0 0 0),
        (0x02#6, scl 0 0 0 0), (0x03#6, scl 0 0 0 0), (0x04#6, scl 7 0 8 0), (0x04#6, scl 7 0 9 0)].map fun (y : BitVec 6 × FmtV) =>
          (vecAt 0x14#6 y.1 y.2, y.2.word 0x14#6 y.1, [y.2.qa.toNat]), Ready x) ∧
    ([scl 0 0 0 0, scl 1 30 31 0, scl 2 15 0 0, scl 3 0 0 63, scl 4 0 0 0].all fun f => !vRsv f && f.bs = 0#1 && f.sen = 0#1 && f.rm = 0#2) = true ∧
    vUnused (scl 7 0 0 0) true false false false false false = false ∧ vUnused (scl 0 0 0 0) false false false false false false = false ∧
    vUnused (scl 7 0 8 0) true false true false false false = false ∧ vUnused (scl 7 0 9 0) true false true false false false = false ∧
    (scl 1 30 31 0).qb.toNat ≤ (scl 1 30 31 0).qc.toNat ∧ (scl 2 15 0 0).qb.toNat < 16 ∧ 3 < (scl 4 0 0 0).qa.toNat ∧
    Fmt.ofCode 8 ≠ none ∧ Fmt.ofCode 9 = none ∧ ((vecAt 0x14#6 0x00#6 (scl 0 0 0 0)).stall sid0.num).scaleQuiet (fullStall.scale 31) = true :=
  ⟨ready_all (by decide +kernel), by decide +kernel⟩

theorem test_roll : let f := scl 0 0 0 0
    (((after (exec (.sclRoll sid0 f) (stateAt { fullStall with scales := [(31, ⟨5#32, 6#32, 1, 2, 3⟩)] } (f.word 0x14#6 0x02#6)))).stall sid0.num).scale 31)
      = ⟨0#32, 5#32, 1, 2, 3⟩ := by decide +kernel

/-! ## The porter and the mesh (statements PrtGoStartsAStream to MeshFlitCrosses) -/

/-- Bytes of a descriptor: (byte, bits, value) triples at rising places (05_porter.md Table PRT.2). -/
def descLine (l : List (Nat × Nat)) : Line := BitVec.ofNat 512 (sumNat (l.map fun p => p.2 * 2 ^ (8 * p.1)))

/-- A packed raw copy of 16 binary32 elements of VA 0 to stock offset 64, one chunk, FILLED tally 5. -/
def dCopy : Line := descLine [(8, 64), (16, 16), (18, 1), (20, 1), (22, 1), (24, 1), (48, 0x10000), (56, 0x45)]
/-- The same with COUNT4 = 0. -/
def dBad : Line := descLine [(8, 64), (16, 16), (18, 1), (20, 1), (22, 1), (48, 0x10000), (56, 0x45)]

/-- The worked case's descriptor at stall (11, 21) of CD2. -/
def dWorked : Line :=
  descLine [(0, 0x4000000000), (8, 0x70), (16, 512), (18, 24), (20, 1), (22, 1), (24, 1), (32, 512), (48, 0x00010022), (52, 0x173CA106), (56, 0x001C6345)]

theorem test_worked_descriptor : let d := descOf dWorked
    (d.dkind, d.dspace, [d.x0, d.y0, d.x1, d.y1], d.filled, d.fillen, d.freed) = (2, 1, [8, 20, 15, 23], 5, true, 6) ∧
    (d.freeden, d.nb, d.cb, d.rawCopy, d.receivers, d.lines) = (true, 2, 512, true, 32, 192) := by decide +kernel

theorem test_worked_prt_go : FmtPrtGo.word 0x20#6 0x00#6 ⟨40#7, 3#5, 0#40⟩ = 0x8005030000000000#64 := by decide +kernel

/-- A slot that runs. -/
def runSlot (d : Line) : Slot := { Slot.idle with state := .running, desc := some (descOf d), goSeq := 4, streamId := 9 }

/-- PRT.GO next, its descriptor in v127; with no slot FREE. -/
def goF : FmtPrtGo := ⟨127#7, 31#5, 0#40⟩
def goAt (d : Line) (p : StallPort) : State := stateOf { fullStall with v := [(127, d)] } p (goF.word 0x20#6 0x00#6)
def busyPort : StallPort := { StallPort.fresh with slots := (upFrom 0 8).map fun i => (i, runSlot dCopy), goSeq := 5 }

theorem wit_PrtGoStartsAStream :
    (∀ x ∈ [goAt dCopy StallPort.fresh, goAt dCopy busyPort, goAt dBad StallPort.fresh].map fun y => (y, goF.word 0x20#6 0x00#6, [31]), Ready x) ∧
    ([goAt dCopy StallPort.fresh, goAt dCopy busyPort, goAt dBad StallPort.fresh].all fun y => (y.stall sid0.num).vReady [127]) = true ∧
    ((goAt dCopy StallPort.fresh).port sid0.num).freeSlot = some 0 ∧ ((goAt dCopy busyPort).port sid0.num).freeSlot = none ∧
    lowestCode (descCauses (goAt dCopy StallPort.fresh) sid0.num (descOf dCopy)) = none ∧
    lowestCode (descCauses (goAt dBad StallPort.fresh) sid0.num (descOf dBad)) = some 0x0402 :=
  ⟨ready_all (by decide +kernel), by decide +kernel⟩

theorem wit_LowestFreeSlot : ({ StallPort.fresh with slots := [(0, runSlot dCopy)] } : StallPort).freeSlot = some 1 := by decide +kernel

theorem wit_PrtKillStatDrain : let k : FmtPrtKill := ⟨7#3, 0#49⟩; let q : FmtPrtStat := ⟨7#3, 0#4, 31#5, 0#40⟩; let d : FmtPrtDrain := ⟨0#52⟩
    let at_ := fun (p : StallPort) (w : Word64) (r : List Nat) => (stateOf Stall.fresh p w, w, r)
    (∀ x ∈ [at_ busyPort (k.word 0x20#6 0x01#6) [], at_ StallPort.fresh (k.word 0x20#6 0x01#6) [], at_ busyPort (q.word 0x20#6 0x02#6) [31],
        at_ busyPort (d.word 0x20#6 0x03#6) [], at_ StallPort.fresh (d.word 0x20#6 0x03#6) []], Ready x) ∧
    (busyPort.slot 7).state = .running ∧ (StallPort.fresh.slot 7).state ≠ .running ∧ (busyPort.slot 7).streamId < 2 ^ 16 ∧
    busyPort.allFree = false ∧ StallPort.fresh.allFree = true :=
  ⟨ready_all (by decide +kernel), by decide +kernel⟩

theorem test_prt_stat : let q : FmtPrtStat := ⟨7#3, 0#4, 31#5, 0#40⟩
    ((after (exec (.prtStat sid0 q) (stateOf Stall.fresh busyPort (q.word 0x20#6 0x02#6)))).stall sid0.num).sreg 31 = 0x901#64 := by decide +kernel

/-- Context 1 with one 2 MiB crate at VA 0, in HBM at 2 MiB, its A bit set. -/
def mapped (s : State) : State :=
  { s with
    ctxs := [(1, { Ctx.none with state := .running, root := some 0x10000 })]
    ledger := { s.ledger with
      tabs := [(0x10000, mkPtr 0x11000), (0x11000, mkPtr 0x12000), (0x12000, mkPtr 0x13000),
               (0x13000, mkLeaf 0 true false false true true ⟨3, 0x200000, 0⟩)]
      crates := [⟨1, 0, true⟩], hbmUsed := [⟨1, 1⟩, ⟨32, 32⟩], tabUnits := [(1, 1, 0x3000)] } }

/-- Slots 0 and 1 run, slot 0 served last; the cache holds the crate. -/
def reqPort : StallPort :=
  { StallPort.fresh with slots := [(0, runSlot dCopy), (1, runSlot dCopy)], last := 0, goSeq := 5, xcache := [(3, 0)] }

theorem wit_PorterIssuesARequest :
    State.porterRuns State.reset sid0.num = false ∧
    (let s := mapped (stateOf Stall.fresh reqPort 0#64)
     let due := fun j => max (max s.now (s.port sid0.num).reqNext) ((s.port sid0.num).slot j).due
     (s.porterRuns sid0.num && ((upFrom 0 8).all fun i => !s.orphanFlow sid0.num i) && (s.eligible sid0.num 1).isSome &&
      decide (1 = ((s.port sid0.num).last + 1 + 0) % 8) && (upFrom 0 8).all fun j => decide (due 1 ≤ due j)) = true) ∧
    (let s := mapped (stateOf Stall.fresh { reqPort with last := 7, slots := [(0, { runSlot dCopy with due := 5 }), (1, runSlot dCopy)] } 0#64)
     let due := fun j => max (max s.now (s.port sid0.num).reqNext) ((s.port sid0.num).slot j).due
     (s.porterRuns sid0.num && ((upFrom 0 8).all fun i => !s.orphanFlow sid0.num i) && (s.eligible sid0.num 1).isSome &&
      decide (1 = ((s.port sid0.num).last + 1 + 1) % 8) && (s.eligible sid0.num 0).isSome && decide (due 1 < due 0)) = true) ∧
    (let s := stateAt Stall.fresh 0#64
     (s.porterRuns sid0.num && (upFrom 0 8).all fun i => !s.orphanFlow sid0.num i && (s.eligible sid0.num i).isNone) = true) := by decide +kernel

theorem test_request_is_round_robin :
    ((after (exec (.porterRequest sid0) (mapped (stateOf Stall.fresh reqPort 0#64)))).reqs.map fun r => (r.slot, r.addr, r.stage)) = [(1, 0x200000, .spine)] := by
  decide +kernel

/-- One request of slot 0, with its answer. -/
def reqOf (st : Stage) (w : Option Line) : Req := ⟨11, sid0.num, 0, 4, 0, 16, 0, 0x200000, w, 0, st, false, [], [], none⟩
def answered (st : Stage) (w : Option Line) (n : Nat) : State :=
  { stateOf Stall.fresh { reqPort with slots := [(0, { runSlot dCopy with outstanding := 1, run := 1, inFlight := n })] } 0#64 with reqs := [reqOf st w] }

theorem wit_RawCopiedLineArrives : let s := answered (.data 5#512) none 0; let q := (s.port sid0.num).slot 0; let d := descOf dCopy
    Memory.wf s.mem = true ∧ s.findReq sid0.num 11 = some (reqOf (.data 5#512) none) ∧ q.desc = some d ∧ q.goSeq = 4 ∧ q.state = .running ∧
    (s.port sid0.num).deliv.length < 16 ∧ d.dkind = 0 ∧ d.dspace = 0 ∧ d.rawCopy = true ∧ d.tagen = false ∧ 16 * d.sbits = 512 ∧
    (0 : Nat) = 16 * 0 ∧ q.skipTo ≤ 0 := by decide +kernel

theorem test_line_arrives_in_its_ring :
    (after (exec (.porterLineArrival sid0 11 .none .none) (answered (.data 5#512) none 0))).mem = [(stockAddr sid0.num 64, 5)] := by decide +kernel

theorem wit_ErrorResponseStopsTheStream :
    (let s := answered (.err 0x0601) none 0
     s.findReq sid0.num 11 = some (reqOf (.err 0x0601) none) ∧ s.arriveRoom (reqOf (.err 0x0601) none) = true ∧
     ((s.port sid0.num).slot 0).goSeq = 4 ∧ ((s.port sid0.num).slot 0).state = .running ∧ (s.stall sid0.num).status = .running) ∧
    (let s := answered (.err 0x0601) (some 0#512) 1
     s.findReq sid0.num 11 = some (reqOf (.err 0x0601) (some 0#512)) ∧ ((s.port sid0.num).slot 0).goSeq = 4 ∧
     ((s.port sid0.num).slot 0).state = .running ∧ (s.stall sid0.num).status = .running) := by decide +kernel

theorem wit_WriteIsAcknowledged : let s := answered .ack (some 0#512) 2
    s.findReq sid0.num 11 = some (reqOf .ack (some 0#512)) ∧ ((s.port sid0.num).slot 0).desc = some (descOf dCopy) ∧
    ((s.port sid0.num).slot 0).goSeq = 4 ∧ ((s.port sid0.num).slot 0).state = .running ∧ 1 < ((s.port sid0.num).slot 0).inFlight := by
  decide +kernel

/-- A line that waits for v127. -/
def delivering (t : Stall) : State := stateOf t { StallPort.fresh with deliv := [⟨sid0.num, 0, 4, 0, 127, 5#512⟩] } 0#64

theorem wit_RegisterLineIsDelivered : ((delivering Stall.fresh).port sid0.num).deliv = ⟨sid0.num, 0, 4, 0, 127, 5#512⟩ :: [] ∧
    ((delivering Stall.fresh).stall sid0.num).regBusy 127 = false ∧
    ((delivering { Stall.fresh with ops := [⟨0, 3, 0, .vst 127 0 1 0⟩] }).stall sid0.num).regBusy 127 = true := by decide +kernel

/-- A flit at the stall's east output: a signal, and a line of slot 0 for the neighbour. -/
def flitOf (l : Payload) : Flit := ⟨sid0.num, 1, 4, l⟩
def dEast : Line := dCopy + BitVec.ofNat 512 (9 * 2 ^ (8 * 52))
def flitState (l : Payload) : State :=
  { stateOf Stall.fresh { reqPort with slots := [(0, { runSlot dEast with inFlight := 1 })] } 0#64 with
    flits := [flitOf l], sigs := [⟨2, sid0.num, 5, 24577, 1, 1, false⟩] }

theorem wit_MeshFlitCrosses : let p : Payload := .line sid0.num 0 4 0 (descOf dEast) 5#512
    let full := (flitState p).setPort 24577 { StallPort.fresh with deliv := List.replicate 16 ⟨sid0.num, 0, 4, 0, 0, 0#512⟩ }
    ((flitState (.sig 2)).nextFlit sid0.num 1 = some (flitOf (.sig 2)) ∧ neighbour sid0.num 1 = some 24577) ∧
    (full.nextFlit sid0.num 1 = some (flitOf p) ∧ 16 ≤ (full.port 24577).deliv.length) ∧
    ((flitState p).nextFlit sid0.num 1 = some (flitOf p) ∧ ((flitState p).port 24577).deliv.length < 16 ∧ (descOf dEast).dkind = 1 ∧
      (descOf dEast).dspace = 0 ∧ Memory.wf (flitState p).mem = true ∧ (((flitState p).port sid0.num).slot 0).goSeq = 4 ∧
      (((flitState p).port sid0.num).slot 0).state = .running ∧ (flitState p).fenced 24577 = false ∧ ((flitState p).stall sid0.num).status = .running) := by
  decide +kernel

theorem test_mesh_line_is_written_at_the_neighbour :
    (after (exec (.meshFlit sid0 1 .none) (flitState (.line sid0.num 0 4 0 (descOf dEast) 5#512)))).mem = [(stockAddr 24577 64, 5)] := by decide +kernel

/-! ## Tallies (statements TallyInstructions to SignalIsApplied) -/

/-- Tally 63 of the stall as given. -/
def tlyPort (t : Tally) : StallPort := { StallPort.fresh with tallies := [(63, t)] }
/-- Stall, tally 63, next word and its registers. -/
def tlyAt (t : Tally) (w : Word64) (regs : List Nat) : State × Word64 × List Nat := (stateOf (stallS 5#64 0x404#64) (tlyPort t) w, w, regs)

theorem wit_TallyInstructions :
    let hi : Tally := { Tally.zero with value := 5 }; let orph : Tally := { Tally.zero with orph := true }; let sat : Tally := { Tally.zero with sat := true }
    let ra : Tally := { Tally.zero with ra := true }; let net : Tally := { Tally.zero with value := 5, mode := true }
    let wait := FmtTWait.word 0x21#6 0x03#6 ⟨63#6, 3#5, 1#16, 0#25⟩; let waitv := FmtTWaitV.word 0x21#6 0x04#6 ⟨63#6, 3#5, 1#5, 0#36⟩
    let take := fun n => FmtTTake.word 0x21#6 0x05#6 ⟨63#6, 3#5, n, 0#25⟩
    (∀ x ∈ [tlyAt hi (FmtTSet.word 0x21#6 0x00#6 ⟨63#6, 1#5, 1#1, 0#40⟩) [1], tlyAt hi (FmtTSet.word 0x21#6 0x00#6 ⟨63#6, 1#5, 0#1, 0#40⟩) [1],
        tlyAt hi (FmtTAdd.word 0x21#6 0x01#6 ⟨63#6, 0xFFFF#16, 0#30⟩) [], tlyAt hi wait [3], tlyAt orph wait [3], tlyAt sat wait [3],
        tlyAt Tally.zero wait [3], tlyAt hi waitv [3, 1], tlyAt ra waitv [3, 1], tlyAt orph waitv [3, 1], tlyAt Tally.zero waitv [3, 1],
        tlyAt net (take 5#16) [3], tlyAt hi (take 5#16) [3], tlyAt net (take 6#16) [3], tlyAt net (take 0#16) [3],
        tlyAt { net with orph := true } (take 6#16) [3], tlyAt hi (FmtTReg.word 0x21#6 0x06#6 ⟨63#6, 3#5, 0#41⟩) [3],
        tlyAt hi (FmtTReg.word 0x21#6 0x07#6 ⟨63#6, 1#5, 0#41⟩) [1], tlyAt hi (FmtTReg.word 0x21#6 0x07#6 ⟨63#6, 2#5, 0#41⟩) [2]], Ready x) ∧
    (stallS 5#64 0x404#64).gate 63 ≤ hi.value ∧ Tally.zero.value < (stallS 5#64 0x404#64).gate 63 ∧ 5 < 1024 ∧ 5 % 4 ≠ 3 ∧ 1024 ≤ 0x404 ∧
    ((stateAt Stall.fresh 0#64).ctx (5 / 4 % 64)).state ≠ .free :=
  ⟨ready_all (by decide +kernel), by decide +kernel⟩

theorem test_wait_counts_its_gate : let f : FmtTWait := ⟨63#6, 3#5, 7#16, 0#25⟩
    ((after (exec (.tlyWait sid0 f) (stateOf Stall.fresh (tlyPort { Tally.zero with value := 1 }) (f.word 0x21#6 0x03#6)))).stall sid0.num).gate 63 = 8 := by
  decide +kernel

theorem wit_TallyWord : ({ Tally.zero with value := 2 ^ 32 - 1, orph := true } : Tally).ownerIn 63 < 64 := by decide +kernel

theorem wit_SignalIsSent : let w := fun (o : Nat) => FmtTSig.word 0x21#6 0x02#6 ⟨1#5, 1#16, BitVec.ofNat 1 o, 0#30⟩
    let st := fun (id : Nat) (p : StallPort) (o : Nat) => (stateOf (stallS (BitVec.ofNat 64 id) 0#64) p (w o), w o, [1])
    let far := 2 ^ 42 + 2 ^ 41 + 64 * 4160 + 5
    let busy : StallPort := { StallPort.fresh with slots := [(0, { runSlot dCopy with inFlight := 1 })] }
    (∀ x ∈ [st (5120 * 64) StallPort.fresh 0, st far StallPort.fresh 0, st far StallPort.fresh 1, st far busy 1], Ready x) ∧
    tallyIdBad (5120 * 64) = true ∧ tallyIdBad far = false ∧ bitAt far 41 = true ∧ neighbourDir sid0.num (bitsAt far 6 17) = none ∧
    (busy.slots.all fun q => decide (q.2.inFlight = 0)) = false :=
  ⟨ready_all (by decide +kernel), by decide +kernel⟩

theorem wit_AmountsOfOneCy : (2 ^ 32 - 1 : Nat) < 2 ^ 32 ∧ (0 : Int) ≤ ((2 ^ 32 - 1 : Nat) : Int) + 0 ∧ ((2 ^ 32 - 1 : Nat) : Int) + 0 < 2 ^ 32 ∧
    (2 ^ 32 : Int) ≤ ((2 ^ 32 - 1 : Nat) : Int) + ([1, 0] : List Int).foldl (· + ·) 0 ∧ ((5 : Nat) : Int) + ([2, -8] : List Int).foldl (· + ·) 0 < 0 := by decide

theorem test_amounts : ({ Tally.zero with value := 2 ^ 32 - 2 } : Tally).apply [1, -5, 1] =
      ⟨{ Tally.zero with value := 2 ^ 32 - 1, sat := true }, true, none, 1⟩ ∧
    (({ Tally.zero with value := 3, mode := true } : Tally).apply [2, -6]).tally = { Tally.zero with value := 3, mode := true, under := true } := by
  decide +kernel

/-- A signal for tally 5 of the stall, of its context and of another. -/
def sigState (c : Nat) : State := { stateAt { Stall.fresh with started := true } 0#64 with sigs := [⟨2, 24577, 5, sid0.num, c, 1, true⟩] }

theorem wit_SignalIsApplied : (sigState 1).forwarded ⟨2, 24577, 5, sid0.num, 1, 1, true⟩ = sid0.num ∧
    (sigState 1).sigLands sid0.num ⟨2, 24577, 5, sid0.num, 1, 1, true⟩ = true ∧ ((sigState 1).port sid0.num).pend = [] ∧
    (sigState 2).forwarded ⟨2, 24577, 5, sid0.num, 2, 1, true⟩ = sid0.num ∧
    (sigState 2).sigLands sid0.num ⟨2, 24577, 5, sid0.num, 2, 1, true⟩ = false ∧
    (sigState 2).sigSaved sid0.num ⟨2, 24577, 5, sid0.num, 2, 1, true⟩ = false := by decide +kernel

/-! ## Reckoning units and the ledger's instructions (statements ReckonInstructions to LedgerFunctions) -/

/-- A port with binding 7 as given; AW pending at PC 0 where asked. -/
def rckPort (x : Binding) (aw : Option Nat) : StallPort := { StallPort.fresh with rb := [(7, x)], aw := aw }
/-- A stall whose s1 holds an ID of this module's unit 3 and context 1, s2 a reserved bit. -/
def rckStall : Stall := stallS (BitVec.ofNat 64 (3 + 2 ^ 26 + 2 ^ 27)) (BitVec.ofNat 64 (2 ^ 35))
/-- A stall with binding 7 as given, its next word, its register. -/
def rckAt (x : Binding) (aw : Option Nat) (w : Word64) (r : Nat) : State × Word64 × List Nat := (stateOf rckStall (rckPort x aw) w, w, [r])

theorem wit_ReckonInstructions :
    let ok : Binding := ⟨3 + 2 ^ 26 + 2 ^ 27, 1, 2, false, true⟩; let waits : Binding := ⟨3 + 2 ^ 26 + 2 ^ 27, 1, 0, false, true⟩
    let orph : Binding := ⟨3 + 2 ^ 26 + 2 ^ 27, 1, 0, true, true⟩
    let b := fun (r : Nat) => FmtRck.word 0x22#6 0x00#6 ⟨7#3, BitVec.ofNat 5 r, 0#44⟩
    let g := fun (fn : BitVec 6) => FmtRck.word 0x22#6 fn ⟨7#3, 3#5, 0#44⟩
    (∀ x ∈ [rckAt ok none (b 1) 1, rckAt ok none (b 2) 2, rckAt ok none (g 0x01#6) 3, rckAt Binding.none none (g 0x01#6) 3,
        rckAt ok none (g 0x02#6) 3, rckAt waits none (g 0x02#6) 3, rckAt orph none (g 0x02#6) 3, rckAt Binding.none none (g 0x02#6) 3,
        rckAt ok none (g 0x03#6) 3, rckAt ok (some 0) (g 0x03#6) 3, rckAt waits (some 0) (g 0x03#6) 3], Ready x) ∧
    (rckIdBad (3 + 2 ^ 26 + 2 ^ 27) = false ∧ rckIdBad (2 ^ 35) = true) ∧ (ok.valid = true ∧ Binding.none.valid = false) ∧
    (genDone ok ∧ ¬ genDone waits) ∧ State.reset.rckModule ok.id = State.reset.mod.id :=
  ⟨ready_all (by decide +kernel), by decide +kernel, by decide +kernel, by unfold genDone; decide +kernel, by decide +kernel⟩

theorem test_rck_arr_sends_lgen : let f : FmtRck := ⟨7#3, 3#5, 0#44⟩
    let t := after (exec (.rckArr sid0 f) (stateOf rckStall (rckPort ⟨3 + 2 ^ 26 + 2 ^ 27, 3, 2, false, true⟩ none) (f.word 0x22#6 0x01#6)))
    (t.arrivals.map fun a => (a.unit, a.tag, a.ctxField), ((t.port sid0.num).binding 7).lgen, (t.stall sid0.num).sreg 3) = ([(3, 3, 1)], 0, 3#64) := by
  decide +kernel

/-- A unit that context 1 owns, of N participants. -/
def unitOf (n arrived parked : Nat) (pen bellm pending : Bool) : Machine.Unit :=
  { Machine.Unit.free with n := n, arrived := arrived, parked := parked, pen := pen, bellm := bellm, owner := 1, assigned := true, pending := pending, parent := 2 ^ 26 }
def rckState (u : Machine.Unit) (l : List Arrival) : State := { openState with units := [(255, u)], arrivals := l, answers := [⟨4, 255, 0⟩], ctxs := [(1, { Ctx.none with state := .running })] }

theorem wit_ReckonConfiguration : let f : FmtRckCfg := ⟨4#5, 5#5, 0#5, 6#5, 0#32⟩; let w := f.word 0x22#6 0x04#6
    let id := 255 + 2 ^ 26 + 2 ^ 27
    let s := fun (i c : Nat) => { stateAt { Stall.fresh with s := [(4, BitVec.ofNat 64 i), (5, BitVec.ofNat 64 c)] } w with units := [(255, unitOf 0 0 0 false false false)] }
    (∀ x ∈ [s id 1, s (2 ^ 35) 1, s id 0].map fun y => (y, w, [4, 5, 0, 6]), Ready x) ∧ (s id 1).rckCfgStatus 1 id 1 0 = 0 ∧
    rckIdBad id = false ∧ rckIdBad (2 ^ 35) = true ∧ (s id 0).rckCfgStatus 1 id 0 0 ≠ 0 :=
  ⟨ready_all (by decide +kernel), by decide +kernel⟩

/-- One arrival of tag `t` at unit 255. -/
def arrOf (t ctx : Nat) : Arrival := ⟨9, 255, t, ctx, sid0.num, 1, none, 0⟩

/-- What every clause of UnitCountsArrivals asks. -/
def unitB (s : State) (a : Arrival) : Bool :=
  let x := s.unit a.unit
  s.arrivals = [a] && s.unitHere a.unit && x.assigned && !x.orph && a.ctxField = x.owner && a.child.isNone && a.fromModule = s.mod.id &&
    decide (a.tag < 4) && decide (x.gen < 4) && x.n ≠ 0 && !x.pending && decide (x.arrived < x.n) && x.kids.isEmpty && x.kidsNext.isEmpty && x.mods.isEmpty

theorem wit_UnitCountsArrivals :
    (unitB (rckState (unitOf 2 0 0 false false false) [arrOf 0 1]) (arrOf 0 1) = true ∧ 0 + 1 < 2) ∧
    (unitB (rckState (unitOf 2 1 1 false false false) [arrOf 0 1]) (arrOf 0 1) = true ∧ 1 + 1 = 2 ∧ 1 < 2) ∧
    unitB (rckState (unitOf 1 0 0 false true false) [arrOf 0 1]) (arrOf 0 1) = true ∧
    (unitB (rckState (unitOf 1 0 0 true false false) [arrOf 0 1]) (arrOf 0 1) = true ∧
      (rckState (unitOf 1 0 0 true false false) [arrOf 0 1]).rckModule (2 ^ 26) = 0) ∧
    (unitB (rckState (unitOf 2 0 1 false false false) [arrOf 1 1]) (arrOf 1 1) = true ∧ (arrOf 1 1).tag = (0 + 1) % 4 ∧ 1 < 2) ∧
    (unitB (rckState (unitOf 2 0 2 false false false) [arrOf 1 1]) (arrOf 1 1) = true ∧ 2 ≤ 2) ∧
    (unitB (rckState (unitOf 2 0 0 false false false) [arrOf 2 1]) (arrOf 2 1) = true ∧ (arrOf 2 1).tag = (0 + 2) % 4) ∧
    (unitB (rckState (unitOf 2 0 0 false false false) [arrOf 3 1]) (arrOf 3 1) = true ∧ (arrOf 3 1).tag = (0 + 3) % 4) := by decide +kernel

theorem test_last_arrival_releases :
    let t := after (exec (.rckArrival 255 [9]) (rckState (unitOf 2 1 1 false false false) [arrOf 0 1]))
    ((t.unit 255).gen, (t.unit 255).arrived, (t.unit 255).parked, t.casts.map fun c => (c.unit, c.gen, c.orphan)) = (1, 1, 0, [(255, 0, false)]) := by
  decide +kernel

theorem wit_StrayArrivalIsDropped : (rckState Machine.Unit.free [arrOf 0 1]).arrivals = [arrOf 0 1] ∧
    ((rckState Machine.Unit.free [arrOf 0 1]).unit 255).assigned = false ∧ ({ rckState Machine.Unit.free [] with deadDies := [15] } : State).unitHere 255 = false ∧
    (arrOf 0 2).ctxField ≠ ((rckState (unitOf 1 0 0 false false false) []).unit 255).owner := by decide +kernel

/-- A broadcast for binding 7, held by a stall and by a saved image. -/
def castState (o : Bool) : State :=
  let p := rckPort ⟨3 + 2 ^ 26, 1, 0, false, true⟩ none
  { stateOf Stall.fresh p 0#64 with
    casts := [⟨6, 3, 1, o, 0⟩]
    ctxs := [(2, { Ctx.none with state := .saved, images := [⟨5, 5, 0, 0, 0, Stall.fresh, p, [], []⟩] })] }

theorem wit_BroadcastReachesBindings : (castState true).casts = [⟨6, 3, 1, true, 0⟩] ∧
    heard 0 ⟨6, 3, 1, false, 0⟩ ⟨3 + 2 ^ 26, 1, 0, false, true⟩ = ⟨3 + 2 ^ 26, 1, 2, false, true⟩ := by decide +kernel

theorem test_broadcast_reaches_an_image : let t := after (exec (.rckCompletion 6) (castState false))
    (((t.port sid0.num).binding 7).cpl, ((t.ctx 2).images.map fun i => (i.port.binding 7).cpl)) = (2, [2]) := by decide +kernel

theorem wit_ParentAnswerReleases :
    (let s := rckState (unitOf 2 2 1 true false true) []
     s.answers = [⟨4, 255, 0⟩] ∧ (s.unit 255).pending = true ∧ (s.unit 255).pen = true ∧ (s.unit 255).gen = 0 ∧ (s.unit 255).kids = [] ∧
     (s.unit 255).mods = [] ∧ (s.unit 255).parked < (s.unit 255).n) ∧
    (let s := rckState (unitOf 2 1 1 true false false) []
     s.answers = [⟨4, 255, 0⟩] ∧ (s.unit 255).pending = false) := by decide +kernel

/-- Port 15 holds one message of a class; the hall is modules 0 to 15. -/
def gotMsg (cls : Nat) (m : Msg) (s : State) : State :=
  { s with fab := { s.fab with ports := [(15, { WPort.off with state := 2, width := 8, rx := [(cls, [m])] })] }, live := [(0x13008, 16)] }

theorem gets_of {s : State} {p cls : Nat} {m : Msg} (h : (s.headMsg p cls = some m ∧ (m.dest = s.mod.id ∨ m.cls = 3))) : Gets s p cls m := ⟨h.1, h.2⟩

/-- A message of a type from a module to this one. -/
def reqMsg (ty src addr : Nat) : Msg := mkMsg ty 0 0 0 0 src 1 0 addr none []

theorem wit_RemoteSynchronisation :
    let sig := reqMsg 6 15 (5 + 64 * sid0.num + 1 * 2 ^ 23); let out := reqMsg 6 16 (5 + 64 * sid0.num); let no := reqMsg 6 15 (64 * 5120)
    let arr := reqMsg 7 15 255; let far := reqMsg 7 16 255; let cpl := reqMsg 8 15 255; let alien := reqMsg 8 16 255
    (Gets (gotMsg 0 sig openState) 15 0 sig ∧ (gotMsg 0 sig openState).inHall sig.src = true ∧ namesStall (bitsAt sig.addr 6 17) = true ∧ sig.ty = 6) ∧
    (Gets (gotMsg 0 out openState) 15 0 out ∧ (gotMsg 0 out openState).inHall out.src = false) ∧
    (Gets (gotMsg 0 no openState) 15 0 no ∧ namesStall (bitsAt no.addr 6 17) = false) ∧
    (Gets (gotMsg 0 arr openState) 15 0 arr ∧ (gotMsg 0 arr openState).inHall arr.src = true ∧ arr.ty = 7) ∧
    (Gets (gotMsg 0 far openState) 15 0 far ∧ (gotMsg 0 far openState).inHall far.src = false) ∧
    (Gets (gotMsg 0 cpl openState) 15 0 cpl ∧ cpl.ty = 8 ∧ (gotMsg 0 cpl openState).inHall cpl.src = true) ∧
    (Gets (gotMsg 0 alien openState) 15 0 alien ∧ alien.ty = 8 ∧ (gotMsg 0 alien openState).inHall alien.src = false) := by
  refine ⟨⟨gets_of ?_, ?_, ?_, ?_⟩, ⟨gets_of ?_, ?_⟩, ⟨gets_of ?_, ?_⟩, ⟨gets_of ?_, ?_, ?_⟩, ⟨gets_of ?_, ?_⟩, ⟨gets_of ?_, ?_, ?_⟩,
    gets_of ?_, ?_, ?_⟩ <;> decide +kernel

theorem wit_LedgerInstructionsIssue :
    let a : FmtAlloc := ⟨3#5, 1#5, 2#5, 1#1, 3#3, 0#2, 1#1, 0#4, 1#1, 0#25⟩; let f : FmtFree := ⟨3#5, 1#5, 2#5, 1#1, 0#36⟩
    let h : FmtHint := ⟨3#5, 1#5, 2#5, 1#1, 3#3, 0#2, 1#1, 0#4, 0#26⟩
    ∀ x ∈ [a.word 0x24#6 0x00#6, f.word 0x24#6 0x01#6, h.word 0x24#6 0x02#6].map fun w => (stateAt Stall.fresh w, w, [3, 1, 2]), Ready x :=
  ready_all (by decide +kernel)

/-- Arguments over one 2 MiB crate of context 1. -/
def ldgArgs (va count : Nat) : LdgArgs := ⟨1, va, count, true, 3, 1, true, 0, true, true, false⟩

theorem wit_LedgerFunctions : let s := mapped openState
    (s.allocFn (ldgArgs 0x200000 1)).2 = 0 ∧ (s.allocFn (ldgArgs 0 1)).2 ≠ 0 ∧ (s.freeFn (ldgArgs 0 1)).2 = 0 ∧ (s.hintFn (ldgArgs 0 1)).2 = 0 ∧
    (s.freeFn (ldgArgs 0x200000 1)).2 = 1 ∧ (s.hintFn (ldgArgs 0x200000 1)).2 ≠ 0 ∧ (ldgArgs 1 1).va % crateBytes true ≠ 0 ∧
    2 ^ 56 < (ldgArgs (2 ^ 56 - 0x200000) 2).va + 2 * crateBytes true ∧ (s.allocFn (ldgArgs (2 ^ 56 - 0x200000) 2)).2 = 2 := by decide +kernel

/-! ## Memory and the dray (statements Translation to StorageDrains) -/

/-- The tables of `mapped` with another leaf. -/
def leafed (leaf : Nat) (s : State) : State :=
  let m := mapped s
  { m with ledger := { m.ledger with tabs := tput m.ledger.tabs 0x13000 leaf } }

/-- A hall of 16 modules, the ledger's DDR5 region of 1,024 units, and routes of every module over port 15, which is UP and owned. -/
def halled (s : State) : State :=
  { s with
    live := [(0x12000, ddrBase % 2 ^ 32), (0x12004, ddrBase / 2 ^ 32), (0x12008, 1024), (0x13008, 16)]
    fab := { s.fab with ports := [(15, { WPort.off with state := 2, width := 8, owned := true })], routes := List.replicate 272 31 } }

theorem wit_Translation : let l := fun (t : Nat) (w mv : Bool) (a : Nat) => mkLeaf 0 w false mv false false ⟨t, a, 0⟩
    let s := halled openState; let far := mkLeaf 0 true false false false false ⟨6, 0x200000, 5⟩
    (mapped s).walk 1 0x200000 = .unmapped ∧ (leafed 7 s).walk 1 0 ≠ .unmapped ∧
    (leafed (l 7 true false 0) s).walk 1 0 = .bad 0x13000 0 ∧
    (leafed (l 3 false false 0x200000) s).walk 1 0x1FFFFF = .leaf 0x13000 (l 3 false false 0x200000) true ∧ eW (l 3 false false 0x200000) = false ∧
    (leafed (l 0 true false 0) s).walk 1 0 = .leaf 0x13000 (l 0 true false 0) true ∧
    (leafed (l 4 true false (ddrBase + 0x200000)) s).walk 1 0 = .leaf 0x13000 (l 4 true false (ddrBase + 0x200000)) true ∧
    (leafed (l 3 true true 0x200000) s).walk 1 0 = .leaf 0x13000 (l 3 true true 0x200000) true ∧ eMove (l 3 true true 0x200000) = true ∧
    (leafed (l 2 true false depotBase) s).walk 1 0 = .leaf 0x13000 (l 2 true false depotBase) true ∧
    (leafed far s).walk 1 0 = .leaf 0x13000 far true ∧ eModule far = 5 ∧ s.unreachable 5 = false ∧ s.lostStores.contains (eStore far) = false ∧
    ({ leafed far s with lostStores := [⟨6, 0x200000, 5⟩] } : State).lostStores.contains (eStore far) = true ∧
    ({ leafed far s with deadDies := [15] } : State).walk 1 0 = .leaf 0x13000 far true ∧
    ({ leafed far s with deadDies := [15] } : State).unreachable 5 = true := by decide +kernel

theorem test_sealed_crate_off_its_slot_is_refused :
    (leafed (mkLeaf 0 true false false false false ⟨4, ddrBase + 0x10000, 0⟩) (halled openState)).walk 1 0 = .bad 0x13000 0 := by decide +kernel

/-- A slot that waits for the translation of VA 0, over a given leaf. -/
def asking (leaf : Nat) : State := leafed leaf (stateOf Stall.fresh { reqPort with xcache := [] } 0#64)

theorem wit_TranslationOfARead :
    let s := asking (mkLeaf 0 true false false false false ⟨3, 0x200000, 0⟩); let q := (s.port sid0.num).slot 1
    q.state = .running ∧ q.allIssued = false ∧ q.desc = some (descOf dCopy) ∧ (s.stall sid0.num).status = .running ∧
    ((descOf dCopy).piece q.run q.line).va = 0 ∧
    s.translate 1 0 false false = .ok 0x200000 0x13000 (mkLeaf 0 true false false true false ⟨3, 0x200000, 0⟩) ∧
    (asking 0).translate 1 0 false false = .refuse 0x0701 ∧
    (asking (mkLeaf 0 true false false false false ⟨0, 0, 0⟩)).translate 1 0 false false = .place ⟨1, 0, true⟩ false := by decide +kernel

/-- A request of stall `k` to an address, at a stage. -/
def mreq (id k addr : Nat) (st : Stage) (w : Option Line) : Req := ⟨id, k, 0, 4, 0, 16, 0, addr, w, 0, st, false, [], [], none⟩
def rs (l : List Req) : State := { openState with reqs := l }

theorem wit_SpineAcceptsRoundRobin : let r := mreq 11 sid0.num 0x200000 .spine none; let s := rs [r]
    let full := rs ((upFrom 0 32).map fun i => mreq i sid0.num 0x200000 .port none)
    let mine := fun (r : Req) => decide (dieOf r.sid = 3) && decide (rowOf r.sid = 0)
    ((s.reqs.filter fun r => mine r && r.inPort).length < 32 ∧ (s.reqs.filter fun r => mine r && r.inSlot).length < 32 ∧
      s.reqs.find? (fun x => mine x && x.atSpine && decide (xOf x.sid % 32 = (31 + 1 + 0) % 32)) = some r) ∧
    32 ≤ (full.reqs.filter fun r => mine r && r.inPort).length := by decide +kernel

theorem wit_DepotAdmission : let d := mreq 11 sid0.num (depotBase + 3 * 2 ^ 28) .port none; let e := mreq 11 sid0.num 0x200000 .port none
    let b := mreq 11 sid0.num (cfgBase - 0) .port none
    let cut := { rs [e] with failedLinks := (upFrom 0 256) }
    (rs [d]).physBad d.addr = false ∧ (rs [d]).way d = some (false, []) ∧ (rs [d]).queueAt d 3 = (0, 0) ∧
    (rs [e]).way e = some (false, [2, 1, 0]) ∧ (rs [e]).queueAt e 3 = (1, 17) ∧
    (rs [b]).physBad b.addr = true ∧ cut.target e.addr = .die 0 ∧ cut.way e = none := by decide +kernel

/-- One request in a queue of slice 31 of CD3. -/
def queued (q addr : Nat) (w : Option Line) : Req := mreq 11 sid0.num addr (.queue 3 31 q) w
def qs (q addr : Nat) (w : Option Line) (b : Bool) : State :=
  { rs [queued q addr w] with dieMem := [(3, { DieMem.fresh with depotCeBell := b })] }

theorem wit_DepotBankServes : (qs 15 depotBase (some 5#512) true).inQueue 3 31 15 = queued 15 depotBase (some 5#512) :: [] ∧
    (qs 15 depotBase none false).inQueue 3 31 15 = queued 15 depotBase none :: [] ∧ (rs []).inQueue 3 31 15 = [] ∧
    ((qs 15 depotBase none true).dmem 3).depotCeBell = true ∧ ((qs 15 depotBase none false).dmem 3).depotCeBell = false := by decide +kernel

theorem test_bank_writes_a_line :
    (after (exec (.depotBankAccess 3 31 15 .none) (qs 15 depotBase (some 5#512) true))).mem = [(depotBase, 5)] := by decide +kernel

theorem wit_HbmServes : let q := mreq 9 sid0.num 0x7C0 (.queue 3 31 16) none
    let a := mreq 10 sid0.num 0x7C0 (.tracker 3 31) none; let b := mreq 11 sid0.num 0x7C0 (.tracker 3 31) none
    (rs [a, b, q]).inQueue 3 31 16 = [q] ∧ ((rs [a, b, q]).inTracker 3 31).length < 128 ∧ (∀ x ∈ (rs [a, b, q]).reqs, x.seq = q.seq → x = q) ∧
    (∀ x ∈ (rs [a, b, q]).inTracker 3 31, x.seq ≠ 8) ∧ (rs [a, b]).inQueue 3 31 16 = [] ∧ (rs [a, b]).inTracker 3 31 = [a, b] ∧
    ([a, b].find? fun x => x.seq = 11) = some b ∧ ([a, b].find? fun z => z.addr / 64 = b.addr / 64) = some a ∧
    ([a, b].find? fun x => x.seq = 10) = some a ∧ ([a, b].find? fun z => z.addr / 64 = a.addr / 64) = some a := by decide +kernel

theorem wit_StockWindowIsRelayed : let r := queued 18 (stockAddr sid0.num 196544) none
    let s := fun (fd : List Nat) => { stateAt Stall.fresh 0#64 with reqs := [r], fencedDoms := fd }
    (s []).inQueue 3 31 18 = r :: [] ∧ (r.addr % 2 ^ 46 - stockWin) / 0x40000 = sid0.num ∧ (s []).fenced sid0.num = false ∧
    ((s []).stall sid0.num).status = .running ∧ (s (upFrom 0 320)).fenced sid0.num = true := by decide +kernel

/-- A request in the edge queue of slice 31 of CD3 that is to pass dies 2, 1 and 0, and 32 that fill the edge port it wants. -/
def onWay : Req := { queued 17 0x200000 none with route := [2, 1, 0] }
def crowd : List Req := (upFrom 100 32).map fun i => mreq i sid0.num 0x200000 (.edge 2 0) none

theorem wit_EdgeForwards : let h : Req := { queued 17 ddrBase none with stage := .queue 0 31 17 }
    let down := fun (s : State) (k : Nat) => (s.failedLinks.contains k || s.failing.contains k)
    let cut := { rs [onWay] with failing := upFrom 0 512 }; let dead := { rs [onWay] with deadDies := [2] }; let full := rs (onWay :: crowd)
    (rs [onWay]).inQueue 3 31 17 = onWay :: [] ∧ onWay.route = 2 :: [1, 0] ∧ down (rs [onWay]) 35 = false ∧
    (rs [onWay]).deadDies.contains 2 = false ∧ (rs [onWay]).edgeRoom onWay 2 0 0 false = true ∧
    cut.inQueue 3 31 17 = onWay :: [] ∧ down cut 35 = true ∧ dead.inQueue 3 31 17 = onWay :: [] ∧ down dead 35 = false ∧ dead.deadDies.contains 2 = true ∧
    full.inQueue 3 31 17 = onWay :: [] ∧ full.edgeRoom onWay 2 0 0 false = false ∧
    (rs [h]).inQueue 0 31 17 = h :: [] ∧ h.route = [] ∧ (rs [h]).target h.addr = .host ∧ down (rs [h]) 256 = false ∧
    ({ rs [h] with failing := [256] } : State).inQueue 0 31 17 = h :: [] ∧ ({ rs [h] with failing := [256] } : State).target h.addr = .host ∧
    down { rs [h] with failing := [256] } 256 = true := by decide +kernel

/-- The link from CD3 to CD2 is crossed to the west, so that the request stands at the east edge of CD2 (Table DEP.5). -/
theorem test_request_goes_one_die_on : ((after (exec (.edgeForward 3 31) (rs [onWay]))).reqs.map fun r => (r.stage, r.route, r.path)) =
    [(.edge 2 0, [1, 0], [64])] := by decide +kernel

/-- A DDR5 read that left its die in cy 7 and stands somewhere on its way. -/
def ddrRead (st : Stage) : Req := { mreq 11 sid0.num ddrBase st none with left := some 7 }

theorem wit_LinksAndTimeouts : State.reset.mod.state = 2 ∧ ({ openState with mod := { openState.mod with state := 1 } } : State).mod.state < 2 ∧
    ∀ st ∈ [Stage.host 7, .edge 2 1, .queue 1 31 17], (rs [ddrRead st]).reqs.find? (fun x => x.seq = 11) = some (ddrRead st) ∧
      (rs [ddrRead st]).target (ddrRead st).addr = .host ∧ (ddrRead st).left = some 7 ∧ (ddrRead st).answered = false := by decide +kernel

theorem test_ddr_timeout : ((after (exec (.ddrTimeout 11) (rs [ddrRead (.edge 2 1)]))).now,
    ((after (exec (.ddrTimeout 11) (rs [ddrRead (.edge 2 1)]))).dmem 3).ddrTimeouts) = (1048583, 1) := by decide +kernel

theorem wit_PeaksAreCleared : openState.deadDies.contains 15 = false ∧ ({ openState with deadDies := [15] } : State).deadDies.contains 15 = true := by decide

/-- A tier with nothing in use has room. -/
theorem fit_nil {lo top n : Nat} (pick : Nat) (hn : 0 < n) (h : lo + n ≤ top) : ∃ i, fit [] lo top n pick = some i := by
  have hp : 0 < (top - lo) / n := Nat.div_pos (by omega) hn
  have hm : pick % ((top - lo) / n) + 1 ≤ (top - lo) / n := Nat.mod_lt _ hp
  have hle : (pick % ((top - lo) / n) + 1) * n ≤ top - lo := Nat.le_trans (Nat.mul_le_mul_right n hm) (Nat.div_mul_le_self _ _)
  rw [Nat.succ_mul] at hle
  refine ⟨lo + pick % ((top - lo) / n) * n, ?_⟩
  unfold fit
  simp only [Nat.ne_of_gt hp, if_false, fitFrom, meets, List.find?_nil]
  rw [if_neg (by omega)]

theorem takes_of {s : State} {tier die n : Nat} (hu : s.used tier = []) (hn : 0 < n) (h : (s.unitRange tier die).1 + n ≤ (s.unitRange tier die).2) :
    ∃ t i, s.takeUnits tier die n = some (t, i) := by
  obtain ⟨i, hi⟩ := fit_nil (Config.freeUnit s.freeCtr) hn h
  refine ⟨(s.useFree 1).setUsed tier (s.used tier ++ [⟨i, n⟩]), i, ?_⟩
  unfold State.takeUnits
  simp only [hu, hi]

/-- A crate that a translation waits for: nothing placed yet, or sealed; nothing used of any tier. -/
def demanded (leaf : Nat) (s : State) : State :=
  let m := leafed leaf s
  { m with ledger := { m.ledger with demands := [(⟨1, 0, true⟩, 3)], places := [(⟨1, 0, true⟩, 2, 15)], hbmUsed := [], depotUsed := [] } }

theorem wit_CrateIsPlaced : let e := mkLeaf 0 true false false false false ⟨0, 0, 0⟩; let s := demanded e openState
    s.ledger.demands.find? (fun d => d.1.ctx = 1 && d.1.va = 0) = some (⟨1, 0, true⟩, 3) ∧ s.leafOf ⟨1, 0, true⟩ = some (0x13000, e) ∧
    eTier e = 0 ∧ s.bell.held = false ∧ (demanded e State.reset).bell.held = true ∧ s.placeOf ⟨1, 0, true⟩ = (2, 15) ∧
    ∃ t0 u, s.takeUnits 2 15 (crateUnits true) = some (t0, u) := by
  refine ⟨?_, ?_, ?_, ?_, ?_, ?_, takes_of ?_ ?_ ?_⟩ <;> decide +kernel

theorem wit_TakenUnitsAreFree : ∃ t i, openState.takeUnits 2 15 32 = some (t, i) := by
  refine takes_of ?_ ?_ ?_ <;> decide +kernel

/-- The depot short of room: its free units below the water mark; one warm crate in it. -/
def short : State :=
  let m := leafed (mkLeaf 2 true false false false false ⟨2, depotBase, 0⟩) openState
  { m with ledger := { m.ledger with depotUsed := (upFrom 0 16).map fun d => ⟨4096 * d, 4000⟩ } }

theorem wit_DrayMakesRoom : short.bell.held = false ∧ State.reset.bell.held = true ∧
    (short.tierRoom 2).2 * 100 < bitsAt short.ldgPolicy 0 8 * (short.tierRoom 2).1 ∧
    ((short.tierRoom 2).2 + short.freeingUnits 2) * 100 < bitsAt short.ldgPolicy 8 8 * (short.tierRoom 2).1 ∧
    short.candidate 2 16 = some (⟨1, 0, true⟩, depotBase) ∧ short.lowerTier 2 true = some 3 := by decide +kernel

/-- A sealed crate that a translation waits for. -/
def sealedAt : Nat := mkLeaf 0 true false false false false ⟨4, ddrBase, 0⟩
def sealed : State := demanded sealedAt (halled openState)
/-- A body of zeros. -/
def zeroBody : List Byte := List.replicate 0x200000 0#8

theorem other_hdr : (List.replicate 64 0#8).take 48 ≠ sealHeader (leNat ((List.replicate 64 0#8).take 8)) 0 ⟨1, 0, true⟩ 1 := by decide +kernel

theorem length_zipW {α β γ : Type} (f : α → β → γ) : ∀ (a : List α) (b : List β), a.length = b.length → (zipW f a b).length = a.length
  | [], _, _ => by simp [zipW]
  | _ :: _, [], h => by simp at h
  | _ :: a, _ :: b, h => by simpa [zipW] using length_zipW f a b (by simpa using h)

theorem length_gcmTag (key iv aad ct : List Byte) : (gcmTag key iv aad ct).length = 16 := by
  unfold gcmTag
  rw [length_zipW] <;> simp [beBytes, gcmStream, length_leBytes]

/-- A sealed header of crate 0 of context 1 with the tag that its sealing gives. -/
def tagged (big : Bool) (v home : Nat) (ct : List Byte) : List Byte :=
  let h := sealHeader v home ⟨1, 0, big⟩ 1
  h ++ gcmTag openState.trust.crateKey (sealIv h) h ct

/-- An image so sealed opens wherever its version is the one asked for. -/
theorem tagged_opens {s : State} {big : Bool} {v home shadow : Nat} {check : Bool} (b : List Byte)
    (hk : s.trust.crateKey = openState.trust.crateKey)
    (hl : (sealHeader v home ⟨1, 0, big⟩ 1).length = 48) (hv : leNat ((sealHeader v home ⟨1, 0, big⟩ 1).take 8) = v)
    (h1 : home = 0x3FFFF → shadow < v) (h2 : home ≠ 0x3FFFF → v = shadow ∨ check = false) :
    ∃ l, s.openImage ⟨1, 0, big⟩ 1 home shadow check (tagged big v home b) b = .body v l := by
  have h48 : (tagged big v home b).take 48 = sealHeader v home ⟨1, 0, big⟩ 1 := by simp only [tagged]; rw [List.take_left' hl]
  have h8 : (tagged big v home b).take 8 = (sealHeader v home ⟨1, 0, big⟩ 1).take 8 := by
    rw [← h48]; simp [List.take_take]
  have ht : ((tagged big v home b).drop 48).take 16 =
      gcmTag openState.trust.crateKey (sealIv (sealHeader v home ⟨1, 0, big⟩ 1)) (sealHeader v home ⟨1, 0, big⟩ 1) b := by
    simp only [tagged]
    rw [List.drop_left' hl, List.take_of_length_le (Nat.le_of_eq (length_gcmTag ..))]
  refine ⟨fitBytes b.length (gcmCrypt openState.trust.crateKey (sealIv (sealHeader v home ⟨1, 0, big⟩ 1)) b), ?_⟩
  unfold State.openImage gcmOpen
  simp only [h48, h8, ht, hv, hk]
  by_cases hh : home = 0x3FFFF
  · have := h1 hh
    simp [hh, Nat.not_le.mpr this]
  · rcases h2 hh with h | h <;> simp [hh, h]

theorem wit_ImageOpensOnlyWhole (b : List Byte) (check : Bool) :
    (∃ l, openState.openImage ⟨1, 0, true⟩ 1 0x3FFFF 0 check (tagged true 1 0x3FFFF b) b = .body 1 l) ∧
    (∃ l, openState.openImage ⟨1, 0, true⟩ 1 0 0 check (tagged true 0 0 b) b = .body 0 l) :=
  ⟨tagged_opens b rfl (by decide +kernel) (by decide +kernel) (by decide) fun h => absurd rfl h,
   tagged_opens b rfl (by decide +kernel) (by decide +kernel) (by decide) fun _ => .inl rfl⟩

theorem wit_DrayImports : sealed.bell.held = false ∧ sealed.ledger.demands.find? (fun d => d.1.ctx = 1 && d.1.va = 0) = some (⟨1, 0, true⟩, 3) ∧
    sealed.leafOf ⟨1, 0, true⟩ = some (0x13000, sealedAt) ∧ eTier sealedAt = 4 ∧ zeroBody.length = crateBytes true ∧
    (∃ t0 u, sealed.takeUnits 3 0 (crateUnits true) = some (t0, u)) ∧
    sealed.openImage ⟨1, 0, true⟩ 1 0 0 true (List.replicate 64 0#8) zeroBody = .refuse 0x0704 [1] ∧
    sealed.mod.id = 0 ∧ sealed.shadow ⟨1, 0, true⟩ = 0 ∧ (∀ b, ∃ l, sealed.openImage ⟨1, 0, true⟩ 1 0 0 true (tagged true 0 0 b) b = .body 0 l) := by
  refine ⟨?_, ?_, ?_, ?_, List.length_replicate .., takes_of ?_ ?_ ?_, ?_, ?_, ?_,
    fun b => tagged_opens b rfl (by decide +kernel) (by decide +kernel) (by decide) (by decide)⟩
  · decide +kernel
  · decide +kernel
  · decide +kernel
  · decide +kernel
  · decide +kernel
  · decide +kernel
  · decide +kernel
  · unfold State.openImage; rw [if_pos other_hdr]
  · decide +kernel
  · decide +kernel

/-- A move of the crate from HBM to the depot; with a write still out; held. -/
def moveOf : Move := ⟨⟨1, 0, true⟩, .moving, ⟨3, 0x200000, 0⟩, ⟨2, depotBase, 0⟩, 0, false, none, [11], 3, false, 0⟩
def moving (s : State) : State := { mapped s with ledger := { (mapped s).ledger with moves := [moveOf] } }

theorem wit_MoveCopies : (moving openState).ledger.moves.find? (fun x => x.crate.ctx = 1 && x.crate.va = 0 && x.phase = .moving) = some moveOf ∧
    moveOf.isExport = false ∧ moveOf.src.tier = 3 ∧ moveOf.dst.tier = 2 ∧ (moving State.reset).bell.held = true ∧
    ((moving openState).reqs.any fun r => moveOf.fence.contains r.seq) = false ∧ (moving openState).bell.held = false ∧
    (∀ b ∈ (moving openState).crateBlocks moveOf.src true, (moving openState).lineCode 3 (0 * 2 ^ 46 + b) = 0) ∧
    ((moving openState).meetCrate 3 (engineId 3) (some 1) moveOf.src true [⟨0x200040, .double⟩]).2 = 0x0604 ∧
    ((moving (rs [mreq 11 sid0.num 0 .spine none])).reqs.any fun r => moveOf.fence.contains r.seq) = true := by decide +kernel

theorem wit_StorageDrains : let d : Drain := ⟨⟨2, depotBase, 0⟩, 32, [11]⟩
    let s := fun l => { rs l with ledger := { openState.ledger with drains := [d] } }
    (s []).ledger.drains[0]? = some d ∧ ((s []).reqs.any fun r => d.fence.contains r.seq) = false ∧
    ((s [mreq 11 sid0.num 0 .spine none]).reqs.any fun r => d.fence.contains r.seq) = true := by decide +kernel

/-! ## Weago messages (statements MessagesMove to ReturnIsImported) -/

/-- Routes of every module over port 15, UP and owned, which holds one message of a class. -/
def routed (cls : Nat) (m : Msg) (s : State) : State :=
  { s with
    fab := { s.fab with ports := [(15, { WPort.off with state := 2, width := 8, owned := true, rx := [(cls, [m])] })], routes := List.replicate 272 31 }
    live := [(0x13008, 16), (0x13024, 64)] }

theorem wit_MessagesMove : let m := reqMsg 6 15 5; let o := mkMsg 6 0 0 0 15 0 1 0 5 none []
    (gotMsg 0 m openState).headMsg 15 0 = some m ∧ (routed 0 m openState).egress o = some 15 ∧ (gotMsg 0 m openState).egress o = none := by decide +kernel

theorem wit_MessageFields : let m := mkMsg 15 3 31 1 (2 ^ 18 - 1) (2 ^ 18 - 1) 63 (2 ^ 14 - 1) (2 ^ 46 - 1) (some 1) []
    m.hops = 0 ∧ m.hops < 15 := by decide +kernel

/-- 2 MiB at 2 MiB lent to module 15 and opened. -/
def lending (s : State) : State := { s with fab := { s.fab with grants := [⟨15, 1, 0, true, 0x200000, true⟩] } }
def rdMsg (src n a : Nat) : Msg := mkMsg 1 0 n 0 0 src 1 7 a none []
def wrMsg (src a : Nat) (d : List Line) : Msg := mkMsg 2 0 d.length 0 0 src 1 7 a none d

theorem wit_RemoteAccess :
    let ok := fun (m : Msg) => Gets (lending (routed 0 m openState)) 15 0 m
    let lent := fun (m : Msg) => (upFrom 0 m.lines).all fun i => (lending (routed 0 m openState)).lent m.src (m.addr + 64 * i)
    let s1 := fun (m : Msg) => (lending (routed 0 m openState)).takeMsg 15 0
    let sound := fun (m : Msg) => (upFrom 0 m.lines).all fun i => (s1 m).lineCode 15 ((s1 m).mod.id * 2 ^ 46 + (m.addr + 64 * i)) = 0
    (ok (rdMsg 15 16 0x3FFC00) ∧ lent (rdMsg 15 16 0x3FFC00) = true ∧ (rdMsg 15 16 0x3FFC00).lines = 16 ∧
      (lending (routed 0 (rdMsg 15 16 0x3FFC00) openState)).inHall 15 = true ∧ sound (rdMsg 15 16 0x3FFC00) = true ∧
      ((s1 (rdMsg 15 16 0x3FFC00)).meetRemote 15 (rdMsg 15 16 0x3FFC00) [⟨0x3FFFC0, .double⟩]).2 = true) ∧
    (ok (rdMsg 15 16 0x3FFC40) ∧ lent (rdMsg 15 16 0x3FFC40) = false) ∧
    (ok (rdMsg 16 1 0x200000) ∧ (routed 0 (rdMsg 16 1 0x200000) openState).inHall 16 = false ∧
      (routed 0 (rdMsg 16 1 0x200000) openState).inHall 15 = true) ∧
    (ok (wrMsg 15 0x3FFFC0 [5#512]) ∧ lent (wrMsg 15 0x3FFFC0 [5#512]) = true ∧ sound (wrMsg 15 0x3FFFC0 [5#512]) = true ∧
      ((s1 (wrMsg 15 0x3FFFC0 [5#512])).meetRemote 15 (wrMsg 15 0x3FFFC0 [5#512]) [⟨0x3FFFC0, .double⟩]).2 = true) ∧
    (ok (wrMsg 15 0x400000 [5#512]) ∧ lent (wrMsg 15 0x400000 [5#512]) = false) ∧ ok (wrMsg 16 0x200000 [5#512]) := by
  refine ⟨⟨gets_of ?_, ?_, ?_, ?_, ?_, ?_⟩, ⟨gets_of ?_, ?_⟩, ⟨gets_of ?_, ?_, ?_⟩, ⟨gets_of ?_, ?_, ?_, ?_⟩, ⟨gets_of ?_, ?_⟩, gets_of ?_⟩ <;> decide +kernel

theorem test_remote_write_is_acknowledged :
    let t := after (exec (.wgoWr 15 []) (lending (routed 0 (wrMsg 15 0x3FFFC0 [5#512]) openState)))
    (t.byte 0x3FFFC0, (tget (t.wport 15).tx [] 1).map fun m => (m.ty, m.dest, m.tag)) = (5, [(4, 15, 7)]) := by decide +kernel

/-- A read of two lines that left for module 15 under tag 7, with the answer given. -/
def remoteState (m : Msg) : State :=
  let s := routed 1 m openState
  { s with
    fab := { s.fab with remotes := [⟨7, 15, 0x200000, 2, false, 0, [11, 12], some 3⟩] }
    reqs := [mreq 11 sid0.num (15 * 2 ^ 46 + 0x200000) (.remote 7) none, mreq 12 sid0.num (15 * 2 ^ 46 + 0x200040) (.remote 7) none] }
def rspMsg (ty src addr : Nat) (d : List Line) : Msg := mkMsg ty 1 d.length 0 0 src 1 7 addr none d

/-- The same with a write of a gather stall or reducer for the open message; and with a message without answer of the same tag in its
place. -/
def writeOut (m : Msg) : State :=
  let s := remoteState m
  { s with fab := { s.fab with remotes := [⟨7, 15, 0x200000, 1, true, 0, [], none⟩] }, reqs := [] }
def sentState (x : Msg) (m : Msg) : State :=
  let s := remoteState m
  { s with
    fab := { s.fab with remotes := [], sent := [⟨7, 15, some 1, 5, x⟩] }, reqs := []
    ledger := { s.ledger with moves := [⟨⟨1, 0, true⟩, .moving, ⟨6, 0, 15⟩, ⟨3, 0x200000, 0⟩, 3, false, none, [], 15, false, 0⟩] } }

theorem wit_RemoteAnswers : let r : Remote := ⟨7, 15, 0x200000, 2, false, 0, [11, 12], some 3⟩
    let ok := fun (m : Msg) => Gets (remoteState m) 15 1 m ∧ (remoteState m).remoteOf m = some r
    let f := crateMsg 8 15 0 1 ⟨1, 0, true⟩ 0; let e := rspMsg 5 15 2 []
    ok (rspMsg 3 15 0x200000 [5#512, 6#512]) ∧ ok (rspMsg 4 15 0x200000 []) ∧ ok (rspMsg 5 15 1 []) ∧
    (Gets (writeOut e) 15 1 e ∧ (writeOut e).remoteOf e = some ⟨7, 15, 0x200000, 1, true, 0, [], none⟩) ∧
    (Gets (remoteState (rspMsg 5 14 0 [])) 15 1 (rspMsg 5 14 0 []) ∧ (remoteState (rspMsg 5 14 0 [])).remoteOf (rspMsg 5 14 0 []) = none ∧
      (remoteState (rspMsg 5 14 0 [])).sentOf 7 = none) ∧
    (Gets (sentState f e) 15 1 e ∧ (sentState f e).remoteOf e = none ∧ (sentState f e).sentOf e.tag = some ⟨7, 15, some 1, 5, f⟩ ∧
      f.dest = e.src ∧ f.ty = 9 ∧ f.crateOp = 8 ∧ e.addr % 256 ≠ 1 ∧ (sentState f e).fab.held = [] ∧
      ((sentState f e).ledger.moves.find? fun z => z.crate = f.crate && z.phase = .moving && z.src.tier = 6) = (sentState f e).ledger.moves.head?) := by
  refine ⟨⟨gets_of ?_, ?_⟩, ⟨gets_of ?_, ?_⟩, ⟨gets_of ?_, ?_⟩, ⟨gets_of ?_, ?_⟩, ⟨gets_of ?_, ?_, ?_⟩, gets_of ?_, ?_, ?_, ?_, ?_, ?_, ?_, ?_, ?_⟩ <;>
    decide +kernel

/-- What lies at a lender that answers ERR 1 is lost. -/
theorem test_not_lent_any_more :
    let s := leafed (mkLeaf 0 true false false false false ⟨6, 0x200000, 15⟩) (remoteState (rspMsg 5 15 1 []))
    (after (exec (.wgoErr 15) s)).lostStores = [⟨6, 0x200000, 15⟩] := by decide +kernel

theorem test_second_line_answers_second_request :
    ((after (exec (.wgoRdr 15) (remoteState (rspMsg 3 15 0x200000 [5#512, 6#512])))).reqs.map fun r => r.stage) = [.data 5#512, .data 6#512] := by
  decide +kernel

theorem wit_RemoteTimeouts : (remoteState (rspMsg 4 14 0 [])).fab.remotes.find? (fun x => x.tag = 7) =
    some ⟨7, 15, 0x200000, 2, false, 0, [11, 12], some 3⟩ ∧ (remoteState (rspMsg 4 14 0 [])).fab.held = [] ∧
    (writeOut (rspMsg 4 14 0 [])).fab.remotes.find? (fun x => x.tag = 7) = some ⟨7, 15, 0x200000, 1, true, 0, [], none⟩ ∧
    (writeOut (rspMsg 4 14 0 [])).fab.held = [] := by decide +kernel

/-- A message for module 15 from module 14 with a number of hops. -/
def through (cls hops : Nat) : Msg := let m := mkMsg (if cls = 1 then 4 else 6) cls 0 0 15 14 1 7 5 none []; { m with hdr := m.hdr + BitVec.ofNat 128 (hops * 2 ^ 13) }

theorem wit_Forwarding : let st := fun (cls hops : Nat) => routed cls (through cls hops) openState
    let cut := fun (cls : Nat) => gotMsg cls (through cls 0) openState
    (st 0 15).headMsg 15 0 = some (through 0 15) ∧ (through 0 15).hops = 15 ∧ (through 0 15).dest ≠ (st 0 15).mod.id ∧
    (st 0 14).headMsg 15 0 = some (through 0 14) ∧ (through 0 14).hops = 14 ∧ ((st 0 14).takeMsg 15 0).egress (through 0 14).hop = some 15 ∧
    (cut 1).headMsg 15 1 = some (through 1 0) ∧ ((cut 1).takeMsg 15 1).egress (through 1 0).hop = none ∧ (through 1 0).cls = 1 ∧
    (let s := { st 2 0 with fab := { (st 2 0).fab with routes := (List.replicate 15 31) ++ List.replicate 257 0 } }
     s.headMsg 15 2 = some (through 2 0) ∧ (s.takeMsg 15 2).egress (through 2 0).hop = none ∧
     (s.takeMsg 15 2).egress (mkMsg 10 1 0 0 14 0 1 7 15 none []) = some 15) := by decide +kernel

theorem wit_NorouteMarksThePath : let m := mkMsg 10 1 0 0 0 14 1 7 15 none []; let n := mkMsg 10 1 0 0 0 14 1 8 15 none []
    let g := mkMsg 6 0 0 1 15 0 1 7 5 none []
    Gets (remoteState m) 15 1 m ∧ m.ty = 10 ∧ (remoteState m).fab.held = [] ∧ (remoteState m).sets = [] ∧
    (remoteState m).fab.remotes.find? (fun r => r.tag = 7 && r.dest = 15) = some ⟨7, 15, 0x200000, 2, false, 0, [11, 12], some 3⟩ ∧
    Gets (remoteState n) 15 1 n ∧ (remoteState n).fab.remotes.find? (fun r => r.tag = 8 && r.dest = 15) = none ∧ (remoteState n).sentOf 8 = none ∧
    Gets (sentState g m) 15 1 m ∧ (sentState g m).fab.remotes.find? (fun r => r.tag = 7 && r.dest = 15) = none ∧
    (sentState g m).sentOf m.tag = some ⟨7, 15, some 1, 5, g⟩ ∧ g.dest = 15 ∧ g.ty = 6 ∧ g.psel = 1 ∧ (sentState g m).fab.held = [] := by
  refine ⟨gets_of ?_, ?_, ?_, ?_, ?_, gets_of ?_, ?_, ?_, gets_of ?_, ?_, ?_, ?_, ?_, ?_, ?_⟩ <;> decide +kernel

/-- A crate message to this module about the 2 MiB crate at VA 0 of context 1. -/
def crMsg (op src arg : Nat) : Msg := crateMsg op 0 src 1 ⟨1, 0, true⟩ arg

theorem wit_RoomIsLent : let st := fun (m : Msg) => lending (routed 0 m openState); let ok := fun (m : Msg) => Gets (st m) 15 0 m ∧ m.ty = 9
    let full := fun (s : State) => { s with live := [(0x13008, 16), (0x13024, 63)] }
    let bare := fun (s : State) => { s with dieMem := (upFrom 0 16).map fun d => (d, { DieMem.fresh with absent := true }) }
    ((ok (crMsg 1 15 0) ∧ (crMsg 1 15 0).crateOp = 1 ∧ (st (crMsg 1 15 0)).inHall 15 = true ∧
        (st (crMsg 1 15 0)).lentUnits + crateUnits true ≤ (st (crMsg 1 15 0)).liveReg 0 0x13024) ∧
      ∃ t i, ((st (crMsg 1 15 0)).takeMsg 15 0).takeUnits 3 0 (crateUnits true) = some (t, i)) ∧
    (Gets (full (st (crMsg 1 15 0))) 15 0 (crMsg 1 15 0) ∧
      (full (st (crMsg 1 15 0))).liveReg 0 0x13024 < (full (st (crMsg 1 15 0))).lentUnits + crateUnits true) ∧
    (Gets (bare (st (crMsg 1 15 0))) 15 0 (crMsg 1 15 0) ∧ (bare (st (crMsg 1 15 0))).lentUnits + crateUnits true ≤ (bare (st (crMsg 1 15 0))).liveReg 0 0x13024 ∧
      ((bare (st (crMsg 1 15 0))).takeMsg 15 0).takeUnits 3 0 (crateUnits true) = none) ∧
    (ok (crMsg 11 15 0x200000) ∧ (crMsg 11 15 0x200000).crateOp = 11 ∧ (st (crMsg 11 15 0x200000)).fab.grants.find?
      (fun g => g.home = 15 && g.addr = (crMsg 11 15 0x200000).arg) = some ⟨15, 1, 0, true, 0x200000, true⟩) ∧
    (ok (crMsg 1 16 0) ∧ (st (crMsg 1 16 0)).inHall 16 = false ∧ ok (crMsg 11 16 0)) := by
  refine ⟨⟨⟨⟨gets_of ?_, ?_⟩, ?_, ?_, ?_⟩, takes_of ?_ ?_ ?_⟩, ⟨gets_of ?_, ?_⟩, ⟨gets_of ?_, ?_, ?_⟩, ⟨⟨gets_of ?_, ?_⟩, ?_, ?_⟩, ⟨gets_of ?_, ?_⟩, ?_,
    gets_of ?_, ?_⟩
  all_goals decide +kernel

/-- A PUT and a RETURN of two lines at image offset 1,024. -/
def imgMsg (op : Nat) : Msg := mkMsg 9 0 2 0 0 15 1 0 1024 (some (op + 16)) [5#512, 6#512]

theorem wit_ImageLinesArrive : (Gets (routed 0 (imgMsg 4) openState) 15 0 (imgMsg 4) ∧ (imgMsg 4).ty = 9 ∧ (imgMsg 4).crateOp = 4) ∧
    (Gets (routed 0 (imgMsg 9) openState) 15 0 (imgMsg 9) ∧ (imgMsg 9).crateOp = 9 ∧ (routed 0 (imgMsg 9) openState).inHall 15 = true) ∧ openState.fab.inbox = [] := by
  refine ⟨⟨gets_of ?_, ?_, ?_⟩, ⟨gets_of ?_, ?_, ?_⟩, ?_⟩ <;> decide +kernel

/-- The first line of the small crate's image, with a version and a home, or of zeros; the body of its 1,024 other lines, all zero. -/
def zeroLines : Tbl Line := (upFrom 1 1024).map fun i => (i, 0#512)
def bodyOf (l : Line) : List Byte := ((upFrom 0 1025).flatMap fun i => bytesOfLine (tget ((0, l) :: zeroLines) 0#512 i)).drop 64
def goodLine (v home : Nat) : Line := lineOfBytes (tagged false v home (bodyOf 0#512))

/-- A small crate whose image has come whole from module 15, for a grant not yet opened and for a fetch under way. -/
def smallMsg (op : Nat) : Msg := crateMsg op 0 15 1 ⟨1, 0, false⟩ 0
def backMove : Move := ⟨⟨1, 0, false⟩, .moving, ⟨6, 0, 15⟩, ⟨3, 0x200000, 0⟩, 3, false, none, [], 15, false, 0⟩
def imaged (op : Nat) (l : Line) : State :=
  let s := routed 0 (smallMsg op) openState
  { s with
    fab := { s.fab with grants := [⟨15, 1, 0, false, 0x200000, false⟩], inbox := [⟨15, 1, 0, false, (0, l) :: zeroLines⟩] }
    ledger := { s.ledger with moves := [backMove] } }

/-- The body does not depend on the first line. -/
theorem bodyOf_eq (l : Line) : bodyOf l = bodyOf 0#512 := by
  have h : ∀ x : Line, bodyOf x = (upFrom 1 1024).flatMap fun i => bytesOfLine (tget ((0, x) :: zeroLines) 0#512 i) := by
    intro x
    show ((bytesOfLine x ++ _).drop 64) = _
    rw [List.drop_left' (length_bytesOfLine x), List.flatMap_def]
  rw [h, h]
  have e : ∀ (m : List Nat), (∀ i ∈ m, i ≠ 0) → (m.flatMap fun i => bytesOfLine (tget ((0, l) :: zeroLines) 0#512 i)) =
      m.flatMap fun i => bytesOfLine (tget ((0, 0#512) :: zeroLines) 0#512 i) := by
    intro m hm
    induction m with
    | nil => rfl
    | cons a r ih =>
      have ha : (0 : Nat) ≠ a := fun x => hm a (by simp) x.symm
      simp only [List.flatMap_cons, ih fun i hi => hm i (by simp [hi])]
      simp [tget, tfind, ha]
  exact e _ (by decide +kernel)

theorem got_image (op : Nat) (h : (smallMsg op).src = 15 ∧ (smallMsg op).crate = ⟨1, 0, false⟩) (l : Line) (t : State)
    (ht : t.fab.inbox = (imaged op l).fab.inbox) : (t.gotImage (smallMsg op)).2 = some (bytesOfLine l, bodyOf 0#512) := by
  have hi : t.fab.inbox = [⟨15, 1, 0, false, (0, l) :: zeroLines⟩] := ht
  have hn : crateBytes false / 64 + 1 = 1025 := by decide
  have hall : ((upFrom 0 1025).all fun i => (tfind ((0, l) :: zeroLines) i).isSome) = true := by
    refine List.all_eq_true.mpr fun i hm => ?_
    by_cases h0 : (0 : Nat) = i
    · simp [tfind, h0]
    · have hm' : i ∈ upFrom 1 1024 := by
        rcases List.mem_cons.mp (show i ∈ 0 :: upFrom 1 1024 from hm) with e | e
        · exact absurd e.symm h0
        · exact e
      simp only [tfind, h0, if_false, zeroLines]
      rw [tfind_map_key (upFrom 1 1024) (fun _ => 0#512) hm']; rfl
  unfold State.gotImage
  simp only [h.1, h.2, hi]
  rw [List.find?_cons_of_pos (by rfl)]
  simp only [hn]
  rw [if_pos hall, ← bodyOf_eq l]
  have hf : ((upFrom 0 1025).flatMap fun i => bytesOfLine (tget ((0, l) :: zeroLines) 0#512 i)).take 64 = bytesOfLine l := by
    show ((bytesOfLine l ++ _).take 64) = _
    rw [List.take_left' (length_bytesOfLine l)]
  rw [hf]
  rfl

/-- An image whose header is zeros names no crate; one sealed opens where its version is the one asked for. -/
theorem zero_image_refused (s : State) (home shadow : Nat) (check : Bool) (b : List Byte) (hh : home < 16) :
    s.openImage ⟨1, 0, false⟩ 1 home shadow check (bytesOfLine 0#512) b = .refuse 0x0704 [1] := by
  have z : (List.range 16).all (fun h => (bytesOfLine 0#512).take 48 ≠ sealHeader (leNat ((bytesOfLine 0#512).take 8)) h ⟨1, 0, false⟩ 1) = true := by
    decide +kernel
  have := List.all_eq_true.mp z home (List.mem_range.mpr hh)
  unfold State.openImage
  rw [if_pos (by simpa using this)]

theorem good_image_opens (s : State) (hs : s.trust.crateKey = openState.trust.crateKey) :
    (∃ l, s.openImage ⟨1, 0, false⟩ 1 15 0 false (bytesOfLine (goodLine 0 15)) (bodyOf 0#512) = .body 0 l) ∧
    (∃ l, s.openImage ⟨1, 0, false⟩ 1 0 3 true (bytesOfLine (goodLine 3 0)) (bodyOf 0#512) = .body 3 l) := by
  have hb : ∀ v home, (sealHeader v home ⟨1, 0, false⟩ 1).length = 48 → bytesOfLine (goodLine v home) = tagged false v home (bodyOf 0#512) := by
    intro v home h
    exact bytesOfLine_lineOfBytes _ (by simp only [tagged]; rw [List.length_append, h, length_gcmTag])
  rw [hb 0 15 (by decide +kernel), hb 3 0 (by decide +kernel)]
  exact ⟨tagged_opens _ hs (by decide +kernel) (by decide +kernel) (fun h => absurd h (by decide)) fun _ => .inr rfl,
    tagged_opens _ hs (by decide +kernel) (by decide +kernel) (fun h => absurd h (by decide)) fun _ => .inl rfl⟩

theorem imaged_key (op : Nat) (l : Line) : (imaged op l).trust.crateKey = openState.trust.crateKey := rfl

theorem small_msg : (∀ op ∈ [5, 10, 8], (smallMsg op).ty = 9 ∧ (smallMsg op).crateOp = op ∧ (smallMsg op).src = 15 ∧ (smallMsg op).crate = ⟨1, 0, false⟩) ∧
    (∀ op ∈ [5, 10, 8], (imaged op 0#512).headMsg 15 0 = some (smallMsg op) ∧ ((smallMsg op).dest = (imaged op 0#512).mod.id ∨ (smallMsg op).cls = 3)) := by
  decide +kernel

theorem wit_LenderOpensImages : (∀ l, Gets (imaged 5 l) 15 0 (smallMsg 5)) ∧ (smallMsg 5).ty = 9 ∧ (smallMsg 5).crateOp = 5 ∧
    (∀ l, (imaged 5 l).fab.grants.find? (fun x => x.home = 15 && x.ctx = 1 && x.va = 0 && !x.opened) = some ⟨15, 1, 0, false, 0x200000, false⟩) ∧
    (∀ l, (((imaged 5 l).takeMsg 15 0).gotImage (smallMsg 5)).2 = some (bytesOfLine l, bodyOf 0#512)) ∧
    (imaged 5 0#512).openImage ⟨1, 0, false⟩ 1 15 0 false (bytesOfLine 0#512) (bodyOf 0#512) = .refuse 0x0704 [1] ∧
    (∃ x, (imaged 5 (goodLine 0 15)).openImage ⟨1, 0, false⟩ 1 15 0 false (bytesOfLine (goodLine 0 15)) (bodyOf 0#512) = .body 0 x) ∧
    ((routed 0 (smallMsg 5) openState).gotImage (smallMsg 5)).2 = none :=
  ⟨fun l => gets_of (small_msg.2 5 (by decide)), (small_msg.1 5 (by decide)).1, (small_msg.1 5 (by decide)).2.1,
    fun l => show ((imaged 5 0#512).fab.grants.find? _) = _ by decide +kernel,
    fun l => got_image 5 (small_msg.1 5 (by decide)).2.2 l _ rfl, zero_image_refused _ _ _ _ _ (by decide), (good_image_opens _ (imaged_key _ _)).1, by decide +kernel⟩

theorem wit_ReturnIsImported : (∀ l, Gets (imaged 10 l) 15 0 (smallMsg 10)) ∧ (smallMsg 10).ty = 9 ∧ (smallMsg 10).crateOp = 10 ∧
    (imaged 10 0#512).inHall 15 = true ∧
    (∀ l, (imaged 10 l).ledger.moves.find? (fun y => y.crate = ⟨1, 0, false⟩ && y.phase = .moving && y.src.tier = 6 && y.src.module = 15) = some backMove) ∧
    backMove.isExport = false ∧ backMove.dst.tier ≠ 4 ∧
    (∀ l, (((imaged 10 l).takeMsg 15 0).gotImage (smallMsg 10)).2 = some (bytesOfLine l, bodyOf 0#512)) ∧
    (imaged 10 0#512).openImage ⟨1, 0, false⟩ 1 0 3 true (bytesOfLine 0#512) (bodyOf 0#512) = .refuse 0x0704 [1] ∧
    (∃ x, (imaged 10 (goodLine 3 0)).openImage ⟨1, 0, false⟩ 1 0 3 true (bytesOfLine (goodLine 3 0)) (bodyOf 0#512) = .body 3 x) :=
  ⟨fun l => gets_of (small_msg.2 10 (by decide)), (small_msg.1 10 (by decide)).1, (small_msg.1 10 (by decide)).2.1, by decide +kernel,
    fun l => show ((imaged 10 0#512).ledger.moves.find? _) = _ by decide +kernel, by decide, by decide,
    fun l => got_image 10 (small_msg.1 10 (by decide)).2.2 l _ rfl, zero_image_refused _ _ _ _ _ (by decide), (good_image_opens _ (imaged_key _ _)).2⟩

theorem wit_LenderReturnsCrates : let own := fun (s : State) (m : Msg) => s.fab.grants.find? fun x => x.home = m.src && x.ctx = 1 && x.va = 0 && x.opened
    let m := crMsg 8 15 0; let s := lending (routed 0 m openState)
    (Gets s 15 0 m ∧ m.ty = 9 ∧ m.crateOp = 8 ∧ s.inHall 15 = true ∧ own s m = some ⟨15, 1, 0, true, 0x200000, true⟩ ∧
      (∀ b ∈ (s.takeMsg 15 0).crateBlocks ⟨3, 0x200000, 0⟩ true, (s.takeMsg 15 0).lineCode 15 (0 * 2 ^ 46 + b) = 0) ∧
      ((s.takeMsg 15 0).meetCrate 15 (engineId 15) none ⟨3, 0x200000, 0⟩ true [⟨0x200040, .double⟩]).2 ≠ 0) ∧
    (Gets (imaged 8 0#512) 15 0 (smallMsg 8) ∧ own (imaged 8 0#512) (smallMsg 8) = none ∧ (imaged 8 0#512).inHall 15 = true) ∧
    (Gets (routed 0 (crMsg 8 16 0) openState) 15 0 (crMsg 8 16 0) ∧ (routed 0 (crMsg 8 16 0) openState).inHall 16 = false) := by
  refine ⟨⟨gets_of ?_, ?_, ?_, ?_, ?_, ?_, ?_⟩, ⟨gets_of (small_msg.2 8 (by decide)), ?_, ?_⟩, gets_of ?_, ?_⟩ <;> decide +kernel

/-- An exchange of the mapped crate with module 15, its move, and a message of the lender. -/
def homeMove : Move := ⟨⟨1, 0, true⟩, .moving, ⟨3, 0x200000, 0⟩, ⟨6, 0x400000, 15⟩, 0, false, none, [], 0, false, 0⟩
def lentTo (op phase : Nat) : State :=
  let s := mapped (routed 0 (crMsg op 15 0x400000) openState)
  { s with fab := { s.fab with exchanges := [⟨15, ⟨1, 0, true⟩, phase, 0, none, 0⟩] }, ledger := { s.ledger with moves := [homeMove] } }

theorem wit_HomeFollowsTheExchange : (∀ x ∈ [(2, 0), (3, 0), (6, 2), (7, 2)], Gets (lentTo x.1 x.2) 15 0 (crMsg x.1 15 0x400000)) ∧
    ([(2, 0), (3, 0), (6, 2), (7, 2)].all fun x =>
      decide ((crMsg x.1 15 0x400000).ty = 9 ∧ (crMsg x.1 15 0x400000).crateOp = x.1 ∧ (crMsg x.1 15 0x400000).crate = ⟨1, 0, true⟩ ∧
        (lentTo x.1 x.2).inHall 15 = true ∧ (lentTo x.1 x.2).exchange ⟨1, 0, true⟩ = some ⟨15, ⟨1, 0, true⟩, x.2, 0, none, 0⟩ ∧
        ((lentTo x.1 x.2).leafOf ⟨1, 0, true⟩).map (fun p => eTier p.2) = some 3)) = true ∧
    (lentTo 3 0).ledger.moves.find? (fun y => y.crate = ⟨1, 0, true⟩ && y.evict && y.phase = .asked) = none ∧
    (∀ op ∈ [6, 7], (lentTo op 2).imageSent ⟨1, 0, true⟩ 15 = some ⟨15, ⟨1, 0, true⟩, 2, 0, none, 0⟩ ∧
      (lentTo op 2).ledger.moves.find? (fun y => y.crate = ⟨1, 0, true⟩ && !y.isExport && y.phase = .moving) = some homeMove) := by
  refine ⟨fun x hx => gets_of ?_, ?_, ?_, ?_⟩
  · revert x; decide +kernel
  all_goals decide +kernel

/-! ## The Weago link (statements TrainingSteps to TimeSync). What Falcon-1024, ML-KEM-1024 and SHAKE256 give is the model's free value
(log entry 12): of two clauses that differ in their verdict alone, one is met by these states whatever it is. -/

/-- Port 15 as given, every port enabled. -/
def ported (w : WPort) : State := { openState with fab := { openState.fab with ports := [(15, w)] }, live := [(0x13018, 0xFFFF), (0x13008, 16)] }
def training (step : Nat) : WPort := { WPort.off with state := 1, step := step, lanesOk := 255 }

/-- What a full retraining keeps. -/
def seqs : Seqs := ⟨9, 10, [], [], 4⟩

theorem wit_TrainingSteps :
    (openState.wport 15).state = 0 ∧ openState.portEnabled 15 = false ∧ (ported WPort.off).portEnabled 15 = true ∧ ((ported WPort.off).wport 15).state = 0 ∧
    ((ported (training 1)).wport 15).state = 1 ∧ ((ported (training 1)).wport 15).step = 1 ∧ widthOf 0x0E = 2 ∧ widthOf 0x06 = 0 ∧
    ((ported (training 2)).wport 15).fresh = true ∧ ((ported { training 2 with fresh := false }).wport 15).fresh = false ∧
    ((ported { training 4 with keyed := true }).wport 15).keyed = true ∧ ((ported { training 4 with keyed := true }).wport 15).kept = none ∧
    ((ported { training 4 with keyed := true, kept := some seqs }).wport 15).kept = some seqs ∧ openState.mod.session = false ∧
    (∀ m ∈ tget ((ported { training 4 with keyed := true }).wport 15).tx [] 3, m.ty ≠ 12) ∧ 1 < ((ported { WPort.off with state := 4 }).wport 15).state := by
  decide +kernel

theorem test_hello_gives_credit :
    ((after (exec (.portTraining 15 0 301) (ported (training 2)))).wport 15).credit = [(0, 8192), (1, 8192), (2, 8192), (3, 256)] ∧
    ((after (exec (.portTraining 15 0 301) (ported (training 2)))).wport 15).long = true ∧
    ((after (exec (.portTraining 15 0 300) (ported (training 2)))).wport 15).long = false := by decide +kernel

theorem wit_PortsRetrainAndReset : ((ported (training 1)).wport 15).state = 1 ∧ ((ported { WPort.off with state := 4 }).wport 15).state = 4 ∧
    (ported { WPort.off with state := 4 }).portEnabled 15 = true ∧ (ported { WPort.off with state := 4, barred := true }).portEnabled 15 = false ∧
    ((ported { WPort.off with state := 2 }).wport 15).state = 2 ∧ ((ported { WPort.off with state := 2 }).wport 15).kept = none ∧
    ((ported { WPort.off with state := 3, kept := some seqs }).wport 15).kept = some seqs ∧
    ((ported { WPort.off with state := 3 }).wport 15).state = 3 ∧ (openState.wport 15).state = 0 := by decide +kernel

/-- A live port with one block out and one message to send. -/
def b0 : Block := ⟨0, false, 9, 0, [0, 0, 0, 0], [reqMsg 6 0 5]⟩
def upPort : WPort :=
  { WPort.off with state := 2, width := 8, lanesOk := 255, epoch := 1, owned := true, base := 9, top := 10, next := 10, expect := 4, replay := [b0]
                   credit := [(0, 8192), (1, 8192), (2, 8192), (3, 256)], tx := [(0, [reqMsg 6 0 5])] }

/-- The same with a TSYNC request of number 7 to send, in epoch 0, and with no room for a block. -/
def syncPort : WPort := { upPort with tx := [(3, [mkMsg 11 3 0 0 0 5 0 0 7 (some 0) []])] }
def zeroPort : WPort := { upPort with epoch := 0 }
def fullPort : WPort := { upPort with replay := List.replicate 64 b0, top := 73, next := 73 }

theorem wit_BlockSlots : ((ported upPort).wport 15).live = true ∧ (openState.wport 15).live = false ∧
    upPort.next = upPort.top ∧ ({ upPort with next := 9 } : WPort).next ≠ ({ upPort with next := 9 } : WPort).top ∧
    ({ upPort with next := 9 } : WPort).replay[seqDist 9 9]? = some b0 ∧ (∀ m ∈ b0.msgs, m.ty ≠ 11) ∧ zeroPort.live = true ∧ zeroPort.next = zeroPort.top ∧
    fullPort.live = true ∧ fullPort.next = fullPort.top ∧ syncPort.live = true ∧
    (((after (exec (.blockSend 15 3) (ported syncPort))).wport 15).sent.head?.map fun b => b.msgs) = some [mkMsg 11 3 0 0 0 5 0 0 7 (some 0) []] ∧
    bitAt (mkMsg 11 3 0 0 0 5 0 0 7 (some 0) []).addr 8 = false ∧ (mkMsg 11 3 0 0 0 5 0 0 7 (some 0) []).addr % 256 = 7 := by decide +kernel

theorem test_block_joins_replay : let w := (after (exec (.blockSend 15 0) (ported upPort))).wport 15
    (w.top, w.replay.map fun b => b.seq, tget w.tx [] 0, tget w.credit 0 0) = (11, [9, 10], [], 8191) := by decide +kernel

/-! ### Sealed blocks -/

theorem xor_twice : ∀ (a k : List Byte), a.length ≤ k.length → zipW (· ^^^ ·) (zipW (· ^^^ ·) a k) k = a
  | [], _, _ => by simp [zipW]
  | _ :: _, [], h => by simp at h
  | a :: r, k :: q, h => by
    simp only [zipW]
    rw [xor_twice r q (by simpa using h), BitVec.xor_assoc, BitVec.xor_self, BitVec.xor_zero]

theorem length_xor : ∀ (a k : List Byte), a.length ≤ k.length → (zipW (· ^^^ ·) a k).length = a.length
  | [], _, _ => by simp [zipW]
  | _ :: _, [], h => by simp at h
  | _ :: r, _ :: q, h => by simpa [zipW] using length_xor r q (by simpa using h)

theorem length_flatMap_const {α β : Type} (f : α → List β) (n : Nat) (h : ∀ x, (f x).length = n) : ∀ l : List α, (l.flatMap f).length = l.length * n
  | [] => by simp
  | a :: r => by rw [List.flatMap_cons, List.length_append, h, length_flatMap_const f n h r, List.length_cons, Nat.succ_mul, Nat.add_comm]

theorem length_stream (key iv : List Byte) (n i : Nat) : ((upFrom i n).flatMap (gcmStream key iv)).length = n * 16 := by
  rw [length_flatMap_const (gcmStream key iv) 16 (fun _ => by simp [gcmStream, beBytes, length_leBytes]), length_upFrom]

theorem gcmCrypt_twice (key iv l : List Byte) : gcmCrypt key iv (gcmCrypt key iv l) = l ∧ (gcmCrypt key iv l).length = l.length := by
  have hk : l.length ≤ ((upFrom 2 (ceilDiv l.length 16)).flatMap (gcmStream key iv)).length := by
    rw [length_stream]; unfold ceilDiv; omega
  have hl : (gcmCrypt key iv l).length = l.length := length_xor _ _ hk
  refine ⟨?_, hl⟩
  have : gcmCrypt key iv (gcmCrypt key iv l) = zipW (· ^^^ ·) (gcmCrypt key iv l) ((upFrom 2 (ceilDiv l.length 16)).flatMap (gcmStream key iv)) := by
    rw [← hl]; rfl
  rw [this]
  exact xor_twice _ _ hk

theorem foldl_add_le (f g : Nat → Nat) (h : ∀ i, f i ≤ g i) : ∀ (l : List Nat) (x y : Nat), x ≤ y →
    (l.map f).foldl (· + ·) x ≤ (l.map g).foldl (· + ·) y
  | [], _, _, hx => hx
  | a :: r, _, _, hx => foldl_add_le f g h r _ _ (Nat.add_le_add hx (h a))

theorem reflect_lt (x : Nat) : reflect 32 x < 2 ^ 32 := by
  have h := foldl_add_le (fun i => if bitAt x i then 2 ^ (32 - 1 - i) else 0) (fun i => 2 ^ (32 - 1 - i)) (fun i => by split <;> simp)
    (upFrom 0 32) 0 0 (Nat.le_refl 0)
  have hg : ((upFrom 0 32).map fun i => 2 ^ (32 - 1 - i)).foldl (· + ·) 0 = 2 ^ 32 - 1 := by decide +kernel
  rw [hg] at h
  exact Nat.lt_of_le_of_lt h (by decide)

/-- The CRC is a 32-bit number. -/
theorem crc32c_lt (l : List Byte) : crc32c l < 2 ^ 32 := by
  unfold crc32c crcResult
  rw [if_pos rfl]
  exact Nat.xor_lt_two_pow (reflect_lt _) (by decide)

/-- The parts of what a slot brings where its CRC is right. -/
theorem slot_parts {h c tag : List Byte} (hh : h.length = 10) (hc : c.length = 7680) (ht : tag.length = 16) :
    let l := h ++ c ++ leBytes 4 (crc32c (h ++ c)) ++ tag
    l.length = 7710 ∧ l.take 10 = h ∧ (l.drop 10).take 7680 = c ∧ l.drop 7694 = tag ∧ leNat ((l.drop 7690).take 4) = crc32c (l.take 7690) := by
  intro l
  have hx : (h ++ c).length = 7690 := by simp [hh, hc]
  have h4 : (leBytes 4 (crc32c (h ++ c))).length = 4 := length_leBytes ..
  refine ⟨by simp [l, hh, hc, ht, h4], ?_, ?_, ?_, ?_⟩
  · simp only [l, List.append_assoc]; exact List.take_left' hh
  · simp only [l, List.append_assoc]; rw [List.drop_left' hh, List.take_left' hc]
  · simp only [l]; exact List.drop_left' (by simp [hh, hc, h4])
  · have e1 : l.take 7690 = h ++ c := by simp only [l, List.append_assoc (h ++ c)]; exact List.take_left' hx
    have e2 : (l.drop 7690).take 4 = leBytes 4 (crc32c (h ++ c)) := by
      simp only [l, List.append_assoc (h ++ c)]; rw [List.drop_left' hx, List.take_left' h4]
    rw [e1, e2, leNat_leBytes]
    exact Nat.mod_eq_of_lt (crc32c_lt _)

/-- A block whose fields fit their places, sealed and opened; what fits is computed block by block. -/
theorem opens_of {key iv : List Byte} {b : Block} (hk : bitsAt (leNat (leBytes 10 b.head)) 0 2 ≤ 1)
    (hb : Block.ofHead (leNat (leBytes 10 b.head)) (if bitsAt (leNat (leBytes 10 b.head)) 0 2 = 0 then msgsOf 480 b.flits else []) = b) :
    openBlock key iv true (sealBlock key iv b) = .block b := by
  have hf : b.flits.length = 7680 := by
    unfold Block.flits fitBytes
    rw [List.length_take, List.length_append, List.length_replicate]
    omega
  obtain ⟨p1, p2, p3, p4, p5⟩ := slot_parts (h := leBytes 10 b.head) (c := gcmCrypt key iv b.flits)
    (tag := gcmTag key iv (leBytes 10 b.head) (gcmCrypt key iv b.flits)) (length_leBytes ..) (by rw [(gcmCrypt_twice key iv b.flits).2, hf]) (length_gcmTag ..)
  have hs : sealBlock key iv b = leBytes 10 b.head ++ gcmCrypt key iv b.flits ++ leBytes 4 (crc32c (leBytes 10 b.head ++ gcmCrypt key iv b.flits)) ++
      gcmTag key iv (leBytes 10 b.head) (gcmCrypt key iv b.flits) := rfl
  rw [← hs] at p1 p2 p3 p4 p5
  unfold openBlock
  simp only [p1, p2, p3, p4, p5]
  simp only [gcmOpen, (gcmCrypt_twice key iv b.flits).1, if_true, hb]
  rw [if_neg (by simp; omega)]

/-- A slot whose CRC is right and whose tag is not. -/
def forgedSlot (key iv : List Byte) : List Byte :=
  zeros 10 ++ zeros 7680 ++ leBytes 4 (crc32c (zeros 10 ++ zeros 7680)) ++ (gcmTag key iv (zeros 10) (zeros 7680)).map (~~~ ·)

theorem byte_flips : ∀ a : Byte, ~~~a ≠ a := by decide +kernel

/-- A tag with every byte flipped is another tag. -/
theorem flipped_ne {g : List Byte} (hl : g.length = 16) : g.map (~~~ ·) ≠ g := by
  cases g with
  | nil => simp at hl
  | cons a r =>
    intro h
    exact byte_flips a (List.cons.inj h).1

theorem forged_of (key iv : List Byte) : openBlock key iv true (forgedSlot key iv) = .forged := by
  have hz : ∀ n, (zeros n).length = n := fun n => List.length_replicate ..
  obtain ⟨p1, p2, p3, p4, p5⟩ := slot_parts (h := zeros 10) (c := zeros 7680) (tag := (gcmTag key iv (zeros 10) (zeros 7680)).map (~~~ ·))
    (hz _) (hz _) (by rw [List.length_map, length_gcmTag])
  have hs : forgedSlot key iv = zeros 10 ++ zeros 7680 ++ leBytes 4 (crc32c (zeros 10 ++ zeros 7680)) ++ (gcmTag key iv (zeros 10) (zeros 7680)).map (~~~ ·) := rfl
  rw [← hs] at p1 p2 p3 p4 p5
  have hne := flipped_ne (length_gcmTag key iv (zeros 10) (zeros 7680))
  have h0 : bitsAt (leNat (zeros 10)) 0 2 = 0 := by decide +kernel
  unfold openBlock
  simp only [p1, p2, p3, p4, p5, h0]
  simp only [gcmOpen, hne, if_false]
  simp

/-- Blocks received: EXPECT is 4. -/
def inBlock (kind : Nat) (nak : Bool) (seq ack : Nat) (l : List Msg) : Block := ⟨kind, nak, seq, ack, [1, 2, 3, 4], l⟩
/-- A LINK message of a kind, as the extension cell gives it. -/
def linkIn (ext : Nat) : Msg := mkMsg 12 3 0 0 0 5 0 0 0 (some ext) []
/-- What a slot brings to a port that receives a block. -/
def slotOf (w : WPort) (b : Block) : List Byte := sealBlock w.key (blockIv w.epoch ((ported w).dirOf 15 false) w.brx) b

theorem slot_opens : ∀ b ∈ [inBlock 1 false 5 9 [], inBlock 0 false 4 9 [reqMsg 6 15 5], inBlock 0 false 4 9 [linkIn 2], inBlock 1 false 4 10 [], inBlock 1 true 4 9 []],
    ∀ w : WPort, openBlock w.key (blockIv w.epoch ((ported w).dirOf 15 false) w.brx) true (slotOf w b) = .block b := by
  intro b hb w
  have h : [inBlock 1 false 5 9 [], inBlock 0 false 4 9 [reqMsg 6 15 5], inBlock 0 false 4 9 [linkIn 2], inBlock 1 false 4 10 [], inBlock 1 true 4 9 []].all
      (fun b => decide (bitsAt (leNat (leBytes 10 b.head)) 0 2 ≤ 1 ∧
        Block.ofHead (leNat (leBytes 10 b.head)) (if bitsAt (leNat (leBytes 10 b.head)) 0 2 = 0 then msgsOf 480 b.flits else []) = b)) = true := by decide +kernel
  have hx := of_decide_eq_true (List.all_eq_true.mp h b hb)
  exact opens_of hx.1 hx.2

theorem wit_SealedBlocksOpen (key iv : List Byte) :
    openBlock key iv true (forgedSlot key iv) = .forged ∧
    (let b := inBlock 0 false 4 9 [reqMsg 6 15 5]
     b.kind ≤ 1 ∧ b.seq < 2 ^ 24 ∧ b.ack < 2 ^ 24 ∧ b.credits = [1, 2, 3, 4] ∧ cellSum b.msgs ≤ 480 ∧
     ∀ m ∈ b.msgs, m.ty ≠ 0 ∧ m.data.length = m.dataLines ∧ (m.hasExt = false → m.ext = 0#128)) ∧
    (let b := inBlock 1 false 5 9 []; b.kind = 1 ∧ b.msgs = []) := ⟨forged_of key iv, by decide +kernel, by decide +kernel⟩

theorem wit_BlocksAreReceived : upPort.live = true ∧ upPort.owned = true ∧ upPort.epoch ≠ 0 ∧ (ported upPort).wport 15 = upPort ∧
    (∀ l, ∃ k iv, openBlock k iv false l = .bad) ∧ WPort.off.live = false ∧
    (∀ k iv, ∃ l, openBlock k iv true l = .forged) ∧
    (upPort.authSlots.filter fun x => decide (upPort.rslots + 1 < x + 2 ^ 20)).length + 1 < (ported upPort).authMax ∧
    (let w := { upPort with authSlots := [0, 0, 0] }
     (ported w).authMax ≤ (w.authSlots.filter fun x => decide (w.rslots + 1 < x + 2 ^ 20)).length + 1) ∧
    (inBlock 1 false 5 9 []).seq ≠ upPort.expect ∧
    (inBlock 0 false 4 9 [reqMsg 6 15 5]).seq = upPort.expect ∧ (reqMsg 6 15 5).ok = true ∧ (linkIn 2).ok = true ∧ (linkIn 2).ty = 12 ∧
    zeroPort.live = true ∧ zeroPort.epoch = 0 ∧ zeroPort.expect = 4 := by
  refine ⟨by decide, by decide, by decide, by decide +kernel, fun l => ⟨[], [], by simp [openBlock]⟩, by decide, fun k iv => ⟨_, forged_of k iv⟩, ?_⟩
  decide +kernel

theorem wit_AcknowledgementsFreeBlocks : seqDist upPort.base (inBlock 1 false 4 10 []).ack ≤ seqDist upPort.base upPort.top ∧
    (inBlock 1 false 4 10 []).kind = 1 ∧ (inBlock 1 true 4 9 []).nak = true ∧ (inBlock 1 true 4 9 []).seq = upPort.expect ∧
    seqDist upPort.base (inBlock 1 true 4 9 []).ack ≤ seqDist upPort.base upPort.top ∧ (inBlock 1 false 4 10 []).credits = [1, 2, 3, 4] ∧
    upPort.rewind = none ∧ upPort.rewinds = [] ∧ 1 < (ported upPort).resendMax := by decide +kernel

theorem test_credit_returns : let w := (after (.next ((ported upPort).receiveBlock 15 (.block (inBlock 1 false 4 10 []))))).wport 15
    (w.base, w.replay, w.credit) = (10, [], [(0, 8196), (1, 8200), (2, 8204), (3, 272)]) := by decide +kernel

/-- A lane with 1,025 corrected symbols is worn, one with 1,024 is not (R328). -/
theorem test_lanes_wear : bitAt (upPort.received 0 0 [(7, 1025)]).worn 7 = true ∧ bitAt (upPort.received 0 0 [(7, 1024)]).worn 7 = false := by decide +kernel

theorem wit_ResendLimit : upPort.replay ≠ [] ∧ tget upPort.rewinds 0 upPort.base + 1 < (ported upPort).resendMax ∧
    (ported { upPort with rewinds := [(9, 15)] }).resendMax ≤ tget ({ upPort with rewinds := [(9, 15)] } : WPort).rewinds 0 9 + 1 ∧
    WPort.off.replay = [] := by decide +kernel

/-- A port with a LINK message received. -/
def linked (w : WPort) (ext : Nat) : State := ported { w with rx := [(3, [linkIn ext])] }
def lanesIn (ext : Nat) : Prop := Gets (linked upPort ext) 15 3 (linkIn ext)

theorem wit_LaneLoss : let lost := fun (w : WPort) (n : Nat) => Nat.lor n w.worn
    widthOf (Nat.land upPort.going (255 - lost upPort 0x0F)) = 4 ∧ widthOf (Nat.land upPort.going (255 - lost upPort 0x55)) = 0 ∧ lost upPort 0 = 0 ∧
    lost { upPort with worn := 8 } 0 ≠ 0 ∧ upPort.switch = none ∧ upPort.state = 2 ∧
    (let e := 2 + 0x0F * 16 + 40 * 2 ^ 16
     lanesIn e ∧ (linkIn e).ty = 12 ∧ (linkIn e).ext.toNat % 16 = 2 ∧ widthOf (Nat.land upPort.going (255 - bitsAt (linkIn e).ext.toNat 4 8)) ≠ 0) ∧
    (let e := 2 + 0x55 * 16 + 40 * 2 ^ 16
     lanesIn e ∧ (linkIn e).ext.toNat % 16 = 2 ∧ widthOf (Nat.land upPort.going (255 - bitsAt (linkIn e).ext.toNat 4 8)) = 0) ∧
    Gets (linked (training 3) 2) 15 3 (linkIn 2) ∧
    (let w : WPort := { upPort with state := 3, switch := some (40, 0xF0), btx := 40 }
     w.switch = some (40, 0xF0) ∧ w.state = 3 ∧ 40 ≤ w.btx ∧ ({ w with btx := 39 } : WPort).btx < 40) := by
  refine ⟨?_, ?_, ?_, ?_, ?_, ?_, ⟨gets_of ?_, ?_, ?_, ?_⟩, ⟨gets_of ?_, ?_, ?_⟩, gets_of ?_, ?_⟩ <;> decide +kernel

/-- A HELLO of a module with good lanes. -/
def helloExt (id lanes : Nat) : Nat := 1 + id * 16 + 7 * 2 ^ 54 + lanes * 2 ^ 58

theorem wit_HelloChoosesTheWidth :
    (Gets (linked (training 3) (helloExt 5 0xF0)) 15 3 (linkIn (helloExt 5 0xF0)) ∧ (linkIn (helloExt 5 0xF0)).ext.toNat % 16 = 1 ∧
      ((linked (training 3) (helloExt 5 0xF0)).wport 15).step = 3 ∧ widthOf (Nat.land 255 (bitsAt (helloExt 5 0xF0) 58 8)) = 4 ∧
      openState.mod.id < bitsAt (linkIn (helloExt 5 0xF0)).ext.toNat 4 18) ∧
    (let s := { linked (training 3) (helloExt 5 0xF0) with mod := { openState.mod with id := 9 } }
     Gets s 15 3 (linkIn (helloExt 5 0xF0)) ∧ 5 < s.mod.id) ∧ Gets (linked (training 2) (helloExt 5 0xF0)) 15 3 (linkIn (helloExt 5 0xF0)) ∧
    (Gets (linked (training 3) (helloExt 0 255)) 15 3 (linkIn (helloExt 0 255)) ∧ bitsAt (helloExt 0 255) 4 18 = openState.mod.id) ∧
    (Gets (linked (training 3) (helloExt 5 0x55)) 15 3 (linkIn (helloExt 5 0x55)) ∧ widthOf (Nat.land 255 (bitsAt (helloExt 5 0x55) 58 8)) = 0) := by
  refine ⟨⟨gets_of ?_, ?_, ?_, ?_, ?_⟩, ⟨gets_of ?_, ?_⟩, gets_of ?_, ⟨gets_of ?_, ?_⟩, gets_of ?_, ?_⟩ <;> decide +kernel

/-- A KEY fragment: item, index, count. -/
def keyExt (item i n : Nat) : Nat := 3 + item * 16 + i * 2 ^ 8 + n * 2 ^ 20 + 7 * 2 ^ 32

theorem wit_LinkKeysAgree : let up : WPort := { training 4 with certSeen := true }; let low : WPort := { training 4 with certSeen := true, peerId := 5 }
    ([(1, up), (2, up), (3, low), (2, training 4), (3, { low with certSeen := false })].all fun x => [0, 1].all fun i =>
      decide ((linked x.2 (keyExt x.1 i 2)).headMsg 15 3 = some (linkIn (keyExt x.1 i 2)) ∧ (linkIn (keyExt x.1 i 2)).cls = 3 ∧
        (linkIn (keyExt x.1 i 2)).ty = 12 ∧ (linkIn (keyExt x.1 i 2)).ext.toNat % 16 = 3 ∧ bitsAt (linkIn (keyExt x.1 i 2)).ext.toNat 4 4 = x.1 ∧
        x.2.state = 1 ∧ x.2.step = 4 ∧ (linked x.2 (keyExt x.1 i 2)).lower 15 = (x.1 = 3 : Bool) ∧
        (x.2.takeItem (linkIn (keyExt x.1 i 2))).2.isSome = (i = 1 : Bool))) = true := by decide +kernel

/-- A LINK message at a port that has messages to carry, in a session or not; the extension cell of an owner check of 96 bits. -/
def checked (session : Bool) (l : Tbl (List Msg)) (e : Nat) : State :=
  let s := linked { upPort with tx := l } e
  { s with mod := { s.mod with session := session } }
def waitingMsg : Msg := reqMsg 6 14 5
def ocExt (y : Nat) : Nat := 3 + 5 * 16 + 2 ^ 20 + y * 2 ^ 32
/-- The check that is the right one there. -/
def rightOc : List Byte := (checked true [] 0).ocBytes 15 (if (checked true [] 0).lower 15 then 1 else 0)

theorem leBytes_leNat (l : List Byte) : leBytes l.length (leNat l) = l := by
  unfold leBytes leNat
  have := unpackN_packN 8 (l.map BitVec.toNat)
  rw [List.length_map] at this
  rw [this]
  apply List.ext_getElem
  · simp
  · intro i h1 h2
    apply BitVec.eq_of_toNat_eq
    simp [l[i].isLt]

theorem linkIn_ext (e : Nat) : (linkIn e).ext.toNat = e % 2 ^ 128 := by simp [linkIn, mkMsg]

theorem ocExt_fields {y : Nat} (h : y < 2 ^ 96) : (linkIn (ocExt y)).ext.toNat % 16 = 3 ∧ bitsAt (linkIn (ocExt y)).ext.toNat 4 4 = 5 ∧
    bitsAt (linkIn (ocExt y)).ext.toNat 32 96 = y := by
  rw [linkIn_ext, bitsAt_eq, bitsAt_eq]
  unfold ocExt
  refine ⟨?_, ?_, ?_⟩ <;> omega

theorem rightOc_spec : rightOc.length = 12 ∧ leNat rightOc < 2 ^ 96 ∧ leBytes 12 (leNat rightOc) = rightOc ∧
    leBytes 12 ((leNat rightOc + 1) % 2 ^ 96) ≠ rightOc := by
  have hl : rightOc.length = 12 := by simp [rightOc, State.ocBytes, Config.shake]
  have hb : leBytes 12 (leNat rightOc) = rightOc := by rw [← hl]; exact leBytes_leNat _
  have hn : leNat rightOc < 2 ^ 96 := by
    have := leNat_leBytes 12 (leNat rightOc)
    rw [hb] at this
    rw [this]; exact Nat.mod_lt _ (by decide)
  refine ⟨hl, hn, hb, fun h => ?_⟩
  have := leNat_leBytes 12 ((leNat rightOc + 1) % 2 ^ 96)
  rw [h] at this
  omega

theorem linkIn_hdr (e : Nat) : (linkIn e).hdr = (linkIn 0).hdr := rfl

theorem linkIn_is (e : Nat) : (linkIn e).cls = 3 ∧ (linkIn e).ty = 12 := by
  unfold Msg.cls Msg.ty
  rw [linkIn_hdr]
  decide +kernel

theorem checked_gets (session : Bool) (l : Tbl (List Msg)) (e : Nat) : Gets (checked session l e) 15 3 (linkIn e) ∧
    (checked session l e).mod.session = session ∧ ((checked session l e).wport 15).state ≠ 1 ∧ ((checked session l e).wport 15).tx = l ∧
    (checked session l e).ocBytes 15 (if (checked session l e).lower 15 then 1 else 0) = rightOc ∧
    (checked session l e).ownerless waitingMsg = false := by
  have h : waitingMsg.cls = 0 ∧ waitingMsg.ty = 6 := by decide +kernel
  exact ⟨gets_of ⟨rfl, .inr (linkIn_is e).1⟩, rfl, (by show (2 : Nat) ≠ 1; decide), rfl, rfl, by simp [State.ownerless, h.1, h.2]⟩

theorem wit_OwnerChecks : (∀ y, y < 2 ^ 96 → (linkIn (ocExt y)).ext.toNat % 16 = 3 ∧ bitsAt (linkIn (ocExt y)).ext.toNat 4 4 = 5) ∧
    leBytes 12 (bitsAt (linkIn (ocExt (leNat rightOc))).ext.toNat 32 96) = rightOc ∧
    leBytes 12 (bitsAt (linkIn (ocExt ((leNat rightOc + 1) % 2 ^ 96))).ext.toNat 32 96) ≠ rightOc ∧ waitingMsg.cls = 0 ∧ waitingMsg.src ≠ 0 := by
  have hr := rightOc_spec
  refine ⟨fun y h => ⟨(ocExt_fields h).1, (ocExt_fields h).2.1⟩, ?_, ?_, by decide +kernel, by decide +kernel⟩
  · rw [(ocExt_fields hr.2.1).2.2, hr.2.2.1]
  · rw [(ocExt_fields (Nat.mod_lt _ (by decide))).2.2]; exact hr.2.2.2

/-- Hall mode, with port 15 as parent and UP; exchange 7 out, whose block left at local time 100; a stamp of 150 taken. -/
def hallState (cls3 : List Msg) : State :=
  { openState with
    fab := { openState.fab with
      ports := [(15, { upPort with rx := [(3, cls3)], slots := 255, stampsIn := [150] })]
      sync := { Sync.reset with open_ := some (7, 15, some 100), started := some (15, 0), quiet := 64 } }
    live := [(0x10004, 0x41), (0x1301C, 0x3E), (0x13008, 16)] }
def tsIn (addr : Nat) (a b : Nat) : Msg := mkMsg 11 3 0 0 0 5 0 0 addr (some (a + b * 2 ^ 64)) []

theorem wit_TimeSync : (hallState []).hallMode = true ∧ (hallState []).syncRoot = false ∧ openState.hallMode = false ∧
    (hallState []).syncParent = some (15, false) ∧ (hallState []).fab.sync.started = some (15, 0) ∧ ((hallState []).wport 15).slots < 0 + 256 ∧
    (let s := { hallState [] with fab := { (hallState []).fab with sync := Sync.reset } }
     s.syncParent = some (15, false) ∧ s.fab.sync.started = none) ∧
    ({ hallState [] with fab := { (hallState []).fab with ports := [] } } : State).syncParent = none ∧
    (Gets (hallState [tsIn 3 0 0]) 15 3 (tsIn 3 0 0) ∧ (tsIn 3 0 0).ty = 11 ∧ bitAt (tsIn 3 0 0).addr 8 = false ∧ (hallState []).inHall (tsIn 3 0 0).src = true) ∧
    (let s := { hallState [tsIn 3 0 0] with live := [] }
     Gets s 15 3 (tsIn 3 0 0) ∧ s.hallMode = false) ∧
    (Gets (hallState [tsIn 263 120 130]) 15 3 (tsIn 263 120 130) ∧ bitAt (tsIn 263 120 130).addr 8 = true ∧
      (hallState []).fab.sync.open_ = some ((tsIn 263 120 130).addr % 256, 15, some 100)) ∧
    (Gets (hallState [tsIn 264 120 130]) 15 3 (tsIn 264 120 130) ∧ bitAt (tsIn 264 120 130).addr 8 = true ∧
      (hallState []).fab.sync.open_ ≠ some ((tsIn 264 120 130).addr % 256, 15, some 100)) ∧
    (hallState []).fab.sync.samples = [] ∧ 64 ≤ (hallState []).fab.sync.quiet ∧ (hallState []).fab.sync.said = false ∧
    (hallState []).bell.locked = false ∧ ({ hallState [] with bell := { openState.bell with locked := true } } : State).bell.locked = true ∧
    openState.fab.sync.quiet < 64 := by
  refine ⟨?_, ?_, ?_, ?_, ?_, ?_, ?_, ?_, ⟨gets_of ?_, ?_, ?_, ?_⟩, ⟨gets_of ?_, ?_⟩, ⟨gets_of ?_, ?_, ?_⟩, ⟨gets_of ?_, ?_, ?_⟩, ?_, ?_, ?_, ?_, ?_, ?_⟩ <;>
    decide +kernel

/-- ((120 - 100) + (130 - 150)) / 2 and ((150 - 100) - (130 - 120)) / 2 (R353). -/
theorem test_offset : let y := (after (exec (.tsyncAnswer 15) (hallState [tsIn 263 120 130]))).fab.sync
    (y.offset, y.samples) = (0, [(0, 20)]) := by decide +kernel

theorem wit_SyncFilters : syncKept [(5, 20), (7, 28), (9, 29)] = [(5, 20), (7, 28)] := by decide +kernel

/-! ## Orders, contexts and plans (statements OrdersWait to ReportsAndPolicy) -/

/-- An order of context 1 in ring 63, taken in cy 1, with inline bytes from descriptor byte 36 and an argument block. -/
def orderOf (op : Nat) (inl args : List Byte) : Order := ⟨77, 63, op, false, false, 5, 1, true, 0, inl, args, 1⟩

/-- The order in front of its ring after a bell that latched in cy 92, decided a cy after it was taken; `f` makes the rest of the state. -/
def ordered (o : Order) (f : State → State) : State :=
  let s := f openState
  { s with rings := [(63, { Ring.off with state := 1, intake := [o] })], bell := { s.bell with count := 2, lastLatch := 92 } }

/-- Context 1 in a state, with stalls (0, 0) and (1, 0) of CD3. -/
def inCtx (st : CtxState) (s : State) : State :=
  { s with
    ctxs := [(1, { Ctx.none with state := st, assign := [sid0.num, 24577] })]
    stalls := [(sid0.num, { Stall.fresh with occ := some 1 }), (24577, { Stall.fresh with occ := some 1 })] }

theorem starts_of {s : State} {ring op : Nat} {o : Order} {rest : List Order} (h : ((s.ring ring).intake = o :: rest ∧ o.op = op ∧ o.taken + 90 < s.bell.lastLatch ∧
    (o.fence = true → (s.ring ring).started = []) ∧ s.bell.held = false ∧ (s.core s.bell.lead 1).state = 1 ∧
    ((s.mod.state ≠ 4 ∧ s.mod.state ≠ 5) ∨ op ∉ [0x06, 0x08, 0x10, 0x11, 0x30, 0x31]))) : Starts s ring op o rest :=
  ⟨h.1, h.2.1, h.2.2.1, h.2.2.2.1, h.2.2.2.2.1, h.2.2.2.2.2.1, h.2.2.2.2.2.2⟩

/-- The order may start in the state that `f` makes. -/
def StartsIn (op : Nat) (inl args : List Byte) (f : State → State) : Prop := Starts (ordered (orderOf op inl args) f) 63 op (orderOf op inl args) []

/-- What leaves `openState` alone but for contexts, stalls, units, squares, ledger and cores lets any order start. -/
theorem starts_open (op : Nat) (inl args : List Byte) (f : State → State) (h : (f openState).bell = openState.bell) (hc : (f openState).cores = openState.cores)
    (hm : (f openState).mod = openState.mod) : StartsIn op inl args f := by
  apply starts_of
  have hb : (ordered (orderOf op inl args) f).bell = { openState.bell with count := 2, lastLatch := 92 } := by
    show { (f openState).bell with count := 2, lastLatch := 92 } = _; rw [h]
  have hcc : (ordered (orderOf op inl args) f).core = openState.core := by funext d c; show tget (f openState).cores _ _ = _; rw [hc]; rfl
  have hmm : (ordered (orderOf op inl args) f).mod = openState.mod := hm
  refine ⟨rfl, rfl, ?_, fun _ => rfl, ?_, ?_, Or.inl ?_⟩
  · rw [hb]; show (1 : Nat) + 90 < 92; decide
  · rw [hb]; decide
  · rw [hb, hcc]; decide +kernel
  · rw [hmm]; decide

theorem wit_OrdersWait : let s := ordered (orderOf 0x00 [] []) id; let f : Order := { orderOf 0x06 [] [] with fence := true }
    (openState.ring 63).intake = [] ∧ (s.ring 63).intake = orderOf 0x00 [] [] :: [] ∧ (orderOf 0x00 [] []).op ≠ 0x01 ∧
    ({ s with bell := { s.bell with lastLatch := 91 } } : State).bell.lastLatch ≤ (orderOf 0x00 [] []).taken + 90 ∧
    ({ s with bell := { s.bell with held := true } } : State).bell.held = true ∧ (({ s with cores := [] } : State).core 3 1).state ≠ 1 ∧
    (let r := { s with rings := [(63, { Ring.off with state := 1, intake := [f], started := [{ f with id := 76 }] })] }
     (r.ring 63).intake = f :: [] ∧ f.fence = true ∧ (r.ring 63).started ≠ []) ∧
    ({ s with mod := { s.mod with state := 5 } } : State).mod.state = 5 ∧ 0x06 ∈ [0x06, 0x08, 0x10, 0x11, 0x30, 0x31] := by decide +kernel

/-- The order in a ring, whose completion ring has failed or not, of a module in a session or not. -/
def ending (broken session : Bool) (cidx : Nat) : State :=
  let s := ordered (orderOf 0x00 [] []) id
  { s with
    mod := { s.mod with session := session }
    rings := [(63, { Ring.off with state := 1, started := [orderOf 0x00 [] []], broken := broken, cidx := cidx })] }

theorem wit_CompletionRecord : (∀ b ∈ [false, true], ∀ v ∈ [false, true], (ending b v 7).findOrder 77 = some (orderOf 0x00 [] []) ∧ ((ending b v 7).ring 63).broken = b ∧
      (ending b v 7).mod.session = v ∧ ((ending b v 7).ring 63).cplSpent = false ∧ ((ending b v 7).ring 63).cidx < 4294967295 ∧
      (ending b v 7).ringUp 0 = true) ∧
    ((ending false true 4294967295).ring 63).cidx = 4294967295 ∧ ((ending false true 4294967295).ring 63).spent = false := by decide +kernel

theorem wit_CompletionFields : (orderOf 0x00 [] []).op < 256 ∧ (orderOf 0x00 [] []).seq < 2 ^ 32 := by decide

theorem test_completion_bytes : (cplBytes (orderOf 0x2A [] []) 3 0x0B07 9 0x1234 2 0).take 16 =
    [0x2A, 3, 0x07, 0x0B, 5, 0, 0, 0, 1, 63, 0, 0, 9, 0, 0, 0] := by decide +kernel

theorem wit_ContextOrders : (∀ op ∈ [0x00, 0x01, 0x02, 0x03, 0x09, 0x0C], StartsIn op [1, 2, 3, 4, 5, 6] [] (inCtx .created)) ∧ StartsIn 0x01 [] [] id ∧
    (openState.ctx 1).state = .free ∧ ((inCtx .created openState).ctx 1).state = .created ∧ ((inCtx .created openState).ctx 1).ending = none ∧
    ((inCtx .saved openState).ctx 1).state = .saved ∧ (∃ u root, (begun (ordered (orderOf 0x01 [] []) id) 63 (orderOf 0x01 [] []) []).newTable 1 4096 = some (u, root)) := by
  refine ⟨fun op _ => starts_open op _ _ _ rfl rfl rfl, starts_open _ _ _ _ rfl rfl rfl, ?_, ?_, ?_, ?_, ?_⟩
  · decide +kernel
  · decide +kernel
  · decide +kernel
  · decide +kernel
  · obtain ⟨t, u, h⟩ := takes_of (s := begun (ordered (orderOf 0x01 [] []) id) 63 (orderOf 0x01 [] []) []) (tier := 3) (die := 0) (n := 1) rfl (by decide) (by decide +kernel)
    have e : (begun (ordered (orderOf 0x01 [] []) id) 63 (orderOf 0x01 [] []) []).ledger.tabUnits = [] := rfl
    unfold State.newTable
    simp only [e, List.find?_nil, h]
    exact ⟨_, _, rfl⟩

theorem wit_ContextOrders_no_table : let o := orderOf 0x01 [] []
    (begun (ordered o fun s => { s with dieMem := (upFrom 0 16).map fun d => (d, { DieMem.fresh with absent := true }) }) 63 o []).newTable 1 4096 = none := by
  decide +kernel

theorem test_query : ((after (exec (.ctxQuery 63) (ordered (orderOf 0x0C [] []) (inCtx .created)))).out.filterMap fun w => match w with
    | .bytes _ l => some (leNat ((l.drop 24).take 8))
    | _ => none) = [0, 0x201] := by decide +kernel

/-- Bytes of an argument block: its first 64, then records of given widths. -/
def argBlock (head : List (Nat × Nat)) (recs : List (Nat × Nat)) : List Byte :=
  ((head.flatMap fun p => leBytes p.1 p.2) ++ List.replicate (64 - sumNat (head.map (·.1))) 0#8) ++ recs.flatMap fun p => leBytes p.1 p.2

/-- One fixed rectangle (x0, y0) to (x1, y1) of a die (12_clerk_firmware.md Table CLK.6). -/
def rectArg (die choose x0 y0 x1 y1 : Nat) : List Byte :=
  argBlock [(2, 1)] [(8, die + choose * 16 + x0 * 2 ^ 8 + y0 * 2 ^ 14 + x1 * 2 ^ 21 + y1 * 2 ^ 27)]

theorem wit_RegionOrders : let rs := fun (a : List Byte) => (begun (ordered (orderOf 0x04 [] a) (inCtx .created)) 63 (orderOf 0x04 [] a) []).regionStalls (orderOf 0x04 [] a)
    let s := inCtx .created openState; let x := s.ctx 1
    (∀ a st, StartsIn 0x04 [] a (inCtx st)) ∧ (∀ st, StartsIn 0x05 [] [] (inCtx st)) ∧
    rs (rectArg 15 0 63 79 63 79) = .inr [15 * 8192 + 79 * 64 + 63] ∧ [15 * 8192 + 79 * 64 + 63].filter (fun k => !x.assign.contains k) ≠ [] ∧
    rs (rectArg 3 0 0 0 1 0) = .inr [sid0.num, 24577] ∧ [sid0.num, 24577].filter (fun k => !x.assign.contains k) = [] ∧
    [sid0.num, 24577].filter (fun k => (s.stall k).occ ≠ some 1) = [] ∧
    rs (rectArg 3 0 0 0 0 80) = .inl 7 ∧ x.state = .created ∧ ((inCtx .saved openState).ctx 1).state = .saved := by
  refine ⟨fun a st => starts_open _ _ _ _ rfl rfl rfl, fun st => starts_open _ _ _ _ rfl rfl rfl, ?_, ?_, ?_, ?_, ?_, ?_, ?_, ?_⟩ <;> decide +kernel

/-- With no HBM present there is no save area. -/
theorem wit_RegionOrders_no_area : let o := orderOf 0x04 [] (rectArg 15 0 63 79 63 79)
    let f := fun (s : State) => { inCtx .created s with dieMem := (upFrom 0 16).map fun d => (d, { DieMem.fresh with absent := true }) }
    StartsIn 0x04 [] (rectArg 15 0 63 79 63 79) f ∧ (begun (ordered o f) 63 o []).regionStalls o = .inr [15 * 8192 + 79 * 64 + 63] ∧
    (begun (ordered o f) 63 o []).takeCrates (saveCrates 3) [] = none := by
  refine ⟨starts_open _ _ _ _ rfl rfl rfl, ?_, ?_⟩ <;> decide +kernel

theorem wit_RegionOrders_area : ∃ u a, (begun (ordered (orderOf 0x04 [] (rectArg 15 0 63 79 63 79)) (inCtx .created)) 63
    (orderOf 0x04 [] (rectArg 15 0 63 79 63 79)) []).takeCrates (saveCrates 3) [] = some (u, a) := by
  obtain ⟨t, u, h⟩ := takes_of (s := begun (ordered (orderOf 0x04 [] (rectArg 15 0 63 79 63 79)) (inCtx .created)) 63
    (orderOf 0x04 [] (rectArg 15 0 63 79 63 79)) []) (tier := 3) (die := 0) (n := 32) rfl (by decide) (by decide +kernel)
  have e : saveCrates 3 = 1 := by decide
  rw [e]
  unfold State.takeCrates
  simp only [h, State.takeCrates]
  exact ⟨_, _, rfl⟩

theorem wit_ChosenStallsAreFree : (inCtx .created openState).chooseRect [24578] ⟨3, true, 0, 0, 0, 0⟩ = some [24579] := by decide +kernel

/-- A plan of one entry at stall (0, 0) of CD3: 64 B of image at VA 0, loaded at 0. -/
def planArg (n x1 : Nat) : List Byte := argBlock [(2, n)] [(1, 3), (1, 0), (1, 0), (1, x1), (1, 0), (3, 0), (8, 0), (4, 64), (4, 0), (4, 0), (4, 0)]
def plan : PlanEntry := ⟨3, 0, 0, 0, 0, 0, 64, 0, 0, 0⟩

theorem wit_PlanDispatches_orders : (∀ a st, StartsIn 0x06 [] a (inCtx st)) ∧ planEntry (orderOf 0x06 [] (planArg 1 0)) 0 = plan ∧ plan.ok = true ∧
    plan.stalls = [sid0.num] ∧ (orderOf 0x06 [] (planArg 1 0)).arg 0 2 = 1 ∧ (orderOf 0x06 [] (planArg 1 0)).arg 2 6 = 0 ∧
    (orderOf 0x06 [] (planArg 1 0)).arg 16 48 = 0 ∧ (orderOf 0x06 [] (planArg 1 0)).arg 69 3 = 0 ∧ (orderOf 0x06 [] (planArg 17 0)).arg 0 2 = 17 ∧
    (inCtx .created openState).barred sid0.num = false ∧ (inCtx .created openState).planBusy sid0.num = false ∧
    (orderOf 0x06 [] (planArg 17 0)).arg 0 2 ≠ 0 ∧ ¬ (17 ≤ 16) ∧ plan.stalls.Nodup ∧
    ({ openState with heldDies := [3] } : State).barred sid0.num = true ∧ (openState.stall sid0.num).occ ≠ some 1 := by
  refine ⟨fun a st => starts_open _ _ _ _ rfl rfl rfl, ?_, ?_, ?_, ?_, ?_, ?_, ?_, ?_, ?_, ?_, ?_, ?_, ?_, ?_, ?_⟩ <;> decide +kernel

/-- A dispatch whose image stands in HBM, or nowhere. -/
def loadingPlan (leaf : Nat) : State :=
  { leafed leaf openState with
    dispatches := [⟨77, 1, [plan], 0, [], 0, false, []⟩], mem := (upFrom 0 64).map fun i => (0x200000 + i, 1#8) }

theorem wit_PlanDispatches_loader : let s := loadingPlan (mkLeaf 0 true false false true true ⟨3, 0x200000, 0⟩)
    let pieces := imagePieces 0 (64 / 4096 + 2) 64
    (s.dispatches.find? (fun x => x.order = 77 && !x.running) = some ⟨77, 1, [plan], 0, [], 0, false, []⟩ ∧ s.bell.held = false ∧ (s.core 3 0).state = 1 ∧
      Memory.wf s.mem = true ∧ [plan][0]? = some plan ∧ ([] : List Nat).contains 0 = false ∧ plan.die = 3 ∧ plan.len = 64 ∧ plan.load + 64 ≤ stockBytes) ∧
    (match s.loadImage 1 3 [] .refused 0 pieces [] with
      | .ok _ l => l == List.replicate 64 1#8
      | _ => false) = true ∧
    (match (loadingPlan 0).loadImage 1 3 [] .refused 0 pieces [] with
      | .refused _ va => va == 0
      | _ => false) = true ∧
    (match s.loadImage 1 3 [⟨32, .double⟩] .refused 0 pieces [] with
      | .refused t _ => (t.inc.log.head?.map fun (i : Incident) => i.code) == some 0x0604
      | _ => false) = true ∧
    (match (loadingPlan (mkLeaf 0 true false false false false ⟨0, 0, 0⟩)).loadImage 1 3 [] .refused 0 pieces [] with
      | .wait _ => true
      | _ => false) = true := by decide +kernel

/-- Context 1 saved, with one image of a stall. -/
def image : Image := ⟨sid0.num, sid0.num, 0xFF, 0xFF, 0, Stall.fresh, StallPort.fresh, [(0, 0)], []⟩
def savedCtx (st : CtxState) (held : List Nat) (s : State) : State :=
  { s with ctxs := [(1, { Ctx.none with state := st, images := [image] })], heldDies := held }

theorem wit_SaveAndRestoreOrders : (∀ st, StartsIn 0x07 [] [] (inCtx st)) ∧ (∀ st h, StartsIn 0x08 [] [] (savedCtx st h)) ∧
    ((savedCtx .saved [] openState).ctx 1).images = [image] ∧ (savedCtx .saved [] openState).barred sid0.num = false ∧
    (savedCtx .saved [3] openState).barred sid0.num = true := by
  refine ⟨fun st => starts_open _ _ _ _ rfl rfl rfl, fun st h => starts_open _ _ _ _ rfl rfl rfl, ?_, ?_, ?_⟩ <;> decide +kernel

theorem wit_SavesAndRestoresComplete : let s := inCtx .saving openState; let r := savedCtx .restoring [] openState
    (s.ctx 1).state = .saving ∧ s.bell.held = false ∧ s.stallsOf 1 = [sid0.num, 24577] ∧ (s.stallsOf 1).all (fun k => s.drained k) = true ∧
    (∀ k ∈ s.stallsOf 1, (s.core (dieOf k) 0).state = 1) ∧ (openState.ctx 1).state ≠ .saving ∧
    (r.ctx 1).state = .restoring ∧ (r.ctx 1).restored = false ∧ (∀ i ∈ (r.ctx 1).images, (r.core (dieOf i.stall) 0).state = 1) ∧
    (r.ctx 1).images = [image] := by decide +kernel

theorem test_save_takes_images : ((after (exec (.saveComplete 1) (inCtx .saving openState))).ctx 1).images.map (·.stall) = [sid0.num, 24577] := by decide +kernel

/-- Unit 255 of a context; every unit taken. -/
def unitsOf (c : Nat) (all : Bool) (s : State) : State :=
  let s1 := inCtx .created s
  let x := { Machine.Unit.free with assigned := true, owner := c }
  { s1 with units := if all then (upFrom 0 256).map fun i => (i, x) else [(255, x)] }

theorem wit_UnitOrders : (∀ l c a, StartsIn 0x0A l [] (unitsOf c a)) ∧ (∀ l c a, StartsIn 0x0B l [] (unitsOf c a)) ∧ StartsIn 0x0A [] [] id ∧ StartsIn 0x0B [] [] id ∧
    (orderOf 0x0A [255, 1] []).byte 36 = 255 ∧ bitAt ((orderOf 0x0A [255, 1] []).byte 37) 0 = true ∧ bitAt ((orderOf 0x0A [254, 0] []).byte 37) 0 = false ∧
    (unitsOf 1 false openState).unitHere 255 = true ∧ ((unitsOf 1 false openState).unit 255).owner = 1 ∧ ((unitsOf 1 false openState).unit 255).mods = [] ∧
    ((unitsOf 2 false openState).unit 255).owner ≠ 1 ∧ ((unitsOf 1 false openState).unit 0).assigned = false ∧
    ((upFrom 0 256).all fun v => ((unitsOf 2 true openState).unit v).assigned) = true := by
  refine ⟨fun l c a => starts_open _ _ _ _ rfl rfl rfl, fun l c a => starts_open _ _ _ _ rfl rfl rfl, starts_open _ _ _ _ rfl rfl rfl,
    starts_open _ _ _ _ rfl rfl rfl, ?_, ?_, ?_, ?_, ?_, ?_, ?_, ?_, ?_⟩ <;> decide +kernel

/-- The square of CD3 bound to context `c`. -/
def squareOfCtx (c : Nat) (s : State) : State := { inCtx .running s with squares := [{ sq with ctx := c }] }

theorem wit_SquareOrders : (∀ op c, StartsIn op [3, 0, 0] [] (squareOfCtx c)) ∧ (∀ op st, StartsIn op [3, 0, 0] [] (inCtx st)) ∧ StartsIn 0x12 [] [] id ∧ StartsIn 0x13 [] [] id ∧
    (squareOfCtx 1 openState).squareAt 3 0 0 = some { sq with ctx := 1 } ∧ (squareOfCtx 2 openState).squareAt 3 0 0 = some { sq with ctx := 2 } ∧
    ((squareOfCtx 1 openState).ctx 1).state = .running := by
  refine ⟨fun op c => starts_open _ _ _ _ rfl rfl rfl, fun op st => starts_open _ _ _ _ rfl rfl rfl, starts_open _ _ _ _ rfl rfl rfl,
    starts_open _ _ _ _ rfl rfl rfl, ?_, ?_, ?_⟩ <;> decide +kernel

/-- A stalled context whose quantum has run out beside a restore that needs its stall. -/
def rivalry : State :=
  { openState with
    bell := { openState.bell with count := 9 }
    stalls := [(sid0.num, { Stall.fresh with occ := some 1, status := .stopped 0x0206 3 })]
    ctxs := [(1, { Ctx.none with state := .running, quantum := 4 }), (2, { Ctx.none with state := .saved, restore := some 77, images := [image] })] }

theorem wit_ReportsAndPolicy : (rivalry.stall sid0.num).status = .stopped 0x0206 3 ∧ (rivalry.stall sid0.num).occ = some 1 ∧ (rivalry.core 3 0).state = 1 ∧
    (rivalry.ctx 1).state ≠ .free ∧ (rivalry.ctx 1).state ≠ .faulted ∧ (rivalry.ctx 1).cause = none ∧ (rivalry.core rivalry.bell.lead 1).state = 1 ∧
    1 ∈ rivalry.quantumOut ∧ (({ rivalry with cores := [] } : State).core 3 0).state ≠ 1 ∧ (({ rivalry with cores := [] } : State).core 3 1).state ≠ 1 ∧
    (({ rivalry with ctxs := [(1, { Ctx.none with state := .running, cause := some (0x0206, sid0.num) })] } : State).ctx 1).cause.isSome = true := by
  decide +kernel

/-! ## Orders of the ledger, gathers and reductions (statements AllocAndFreeOrders to AbortsFaultTheSet) -/

/-- The argument block of a ledger order: VA, COUNT, flags, CTX2, ADDR2, MODULE (11_host_rings.md Table HST.10). -/
def ldgBlock (va count flags ctx2 addr2 module : Nat) : List Byte := argBlock [(8, va), (2, count), (1, flags), (1, 0), (1, ctx2), (3, 0), (8, addr2), (3, module)] []
/-- What such an order finds as it starts. -/
def ldgOrd (op : Nat) (a : List Byte) : Order := orderOf op [] a
def ldgBegun (op : Nat) (a : List Byte) (f : State → State) : State := begun (ordered (ldgOrd op a) f) 63 (ldgOrd op a) []

/-- Contexts 1 and 2 with one 2 MiB crate of context 1 at VA 0, a stall of it, and nothing else; context 2 too. -/
def shared (s : State) : State :=
  let m := mapped s
  { m with
    ctxs := m.ctxs ++ [(2, { Ctx.none with state := .created, root := some 0x14000 })]
    stalls := [(sid0.num, { Stall.fresh with occ := some 1 }), (24577, { Stall.fresh with occ := some 1 })] }

theorem wit_AllocAndFreeOrders : (∀ op a, StartsIn op [] a shared) ∧ (∀ op a, StartsIn op [] a id) ∧
    ((ldgBegun 0x20 (ldgBlock 0x200000 1 0x81 0 0 0) shared).allocFn (orderArgs (ldgOrd 0x20 (ldgBlock 0x200000 1 0x81 0 0 0)))).2 = 0 ∧
    ((ldgBegun 0x20 (ldgBlock 0 1 1 0 0 0) shared).allocFn (orderArgs (ldgOrd 0x20 (ldgBlock 0 1 1 0 0 0)))).2 = 1 ∧
    ((ldgBegun 0x21 (ldgBlock 0 1 1 0 0 0) shared).freeFn (orderArgs (ldgOrd 0x21 (ldgBlock 0 1 1 0 0 0)))).2 = 0 ∧
    ((ldgBegun 0x21 (ldgBlock 0 1 0 0 0 0) shared).freeFn (orderArgs (ldgOrd 0x21 (ldgBlock 0 1 0 0 0 0)))).2 = 1 ∧
    (openState.ctx 1).state = .free := by
  refine ⟨fun op a => starts_open _ _ _ _ rfl rfl rfl, fun op a => starts_open _ _ _ _ rfl rfl rfl, ?_, ?_, ?_, ?_, ?_⟩ <;> decide +kernel

theorem test_alloc_order_maps_a_crate :
    ((after (exec (.allocOrder 63) (ordered (ldgOrd 0x20 (ldgBlock 0x200000 1 1 0 0 0)) shared))).leafOf ⟨1, 0x200000, true⟩).isSome = true := by decide +kernel

theorem wit_MappingOrders :
    let lend := fun (k : Nat) => ldgBlock 0x200000 1 0 0 k 0; let pub := fun (va : Nat) => ldgBlock va 1 1 0 ddrBase 0
    let shr := fun (va src : Nat) => ldgBlock va 1 1 2 src 0; let ex := fun (va : Nat) => ldgBlock va 1 1 0 ddrBase 0
    let ar := fun (a : List Byte) => orderArgs (ldgOrd 0x22 a)
    (∀ op a, StartsIn op [] a shared) ∧ (∀ op a, StartsIn op [] a id) ∧ (openState.ctx 1).state = .free ∧
    ((shared openState).ctx 1).state ≠ .free ∧ ((shared openState).ctx 2).state ≠ .free ∧
    (∀ a ∈ [lend 5120, lend sid0.num, pub 0, pub 0x200000, shr 0x200000 0, shr 0 0, ex 0, ex 0x200000], ¬ badRange (ar a).va (ar a).count (ar a).big) ∧
    (∀ a ∈ [ldgBlock 1 1 0 0 0 0, ldgBlock 0 0 0 0 0 0, ldgBlock (2 ^ 56 - 65536) 2 0 0 0 0], badRange (ar a).va (ar a).count (ar a).big) ∧
    (namesStall 5120 = false ∧ (ldgOrd 0x22 (lend 5120)).arg 16 8 % 2 ^ 17 = 5120) ∧
    ((ldgOrd 0x22 (lend sid0.num)).arg 16 8 % 2 ^ 17 = sid0.num ∧ (shared openState).fenced sid0.num = false ∧
      ((shared openState).stall sid0.num).occ = some 1 ∧ (∀ c ∈ (ar (lend sid0.num)).crates, (shared openState).overlaps c = false) ∧
      ((ldgBegun 0x22 (lend sid0.num) shared).mapCrates (mkLeaf 0 true false false false false ⟨1, stockAddr sid0.num 0, 0⟩) (ar (lend sid0.num)).crates).isSome = true) ∧
    (∃ c ∈ (ar (pub 0)).crates, (shared openState).overlaps c = true) ∧ (∀ c ∈ (ar (pub 0x200000)).crates, (shared openState).overlaps c = false) ∧
    ((ldgBegun 0x23 (pub 0x200000) shared).mapCrate ⟨1, 0x200000, true⟩ (mkLeaf 0 true false false false false ⟨5, ddrBase, 0⟩)).isSome = true ∧
    ((∀ c ∈ rangeCrates 2 0 1 true, ((shared openState).leafOf c).isNone = true) ∧ (∀ c ∈ rangeCrates 1 0 1 true, ((shared openState).leafOf c).isNone = false) ∧
      ((ldgBegun 0x24 (shr 0x200000 0) shared).leafSlots (ar (shr 0x200000 0)).crates).isSome = true) ∧
    ((∃ c ∈ (ar (ex 0x200000)).crates, ((shared openState).leafOf c).isNone = true) ∧ (∀ c ∈ (ar (ex 0)).crates, ((shared openState).leafOf c).isNone = false)) := by
  refine ⟨fun op a => starts_open _ _ _ _ rfl rfl rfl, fun op a => starts_open _ _ _ _ rfl rfl rfl, ?_, ?_, ?_, ?_, ?_, ?_, ?_, ?_, ?_, ?_, ?_, ?_⟩
  all_goals (try unfold badRange); decide +kernel

/-- A stock region that is lent already, a range that meets the mapped crate, and a module without HBM for a table. -/
def lentMap (s : State) : State :=
  let m := shared s
  { m with ledger := { m.ledger with
      crates := m.ledger.crates ++ [⟨1, 0x40000000, false⟩]
      tabs := tput (tput (tput m.ledger.tabs 0x12010 (mkPtr 0x15000)) 0x15000 (mkPtr 0x16000)) 0x16000
        (mkLeaf 0 true false false false false ⟨1, stockAddr sid0.num 0, 0⟩) } }
def bareMap (s : State) : State :=
  let m := shared s
  { m with dieMem := (upFrom 0 16).map fun d => (d, { DieMem.fresh with absent := true }), ledger := { m.ledger with tabUnits := [] } }

theorem wit_MappingOrders_lend : let lend := fun (va : Nat) => ldgBlock va 1 0 0 sid0.num 0; let ar := fun (a : List Byte) => orderArgs (ldgOrd 0x22 a)
    (∀ a, StartsIn 0x22 [] a lentMap) ∧ (∀ a, StartsIn 0x22 [] a bareMap) ∧
    (ar (lend 0x200000)).count = 1 ∧ (ar (lend 0x200000)).big = false ∧ ((lentMap openState).stall sid0.num).occ = some 1 ∧
    stockAddr sid0.num 0 ∈ (lentMap openState).lentStock ∧ stockAddr sid0.num 0 ∉ (shared openState).lentStock ∧
    (∃ c ∈ (ar (lend 0)).crates, (shared openState).overlaps c = true) ∧
    ((bareMap openState).stall sid0.num).occ = some 1 ∧ (∀ c ∈ (ar (lend (2 ^ 50))).crates, (bareMap openState).overlaps c = false) ∧
    (ldgBegun 0x22 (lend (2 ^ 50)) bareMap).mapCrates (mkLeaf 0 true false false false false ⟨1, stockAddr sid0.num 0, 0⟩) (ar (lend (2 ^ 50))).crates = none := by
  refine ⟨fun a => starts_open _ _ _ _ rfl rfl rfl, fun a => starts_open _ _ _ _ rfl rfl rfl, ?_, ?_, ?_, ?_, ?_, ?_, ?_, ?_, ?_⟩ <;> decide +kernel

/-- A share within one context has its source there. -/
theorem wit_MappingOrders_share : let a := ldgBlock 0x200000 1 1 1 0 0
    (ldgOrd 0x24 a).arg 12 1 % 64 = 1 ∧ (ldgOrd 0x24 a).arg 16 8 = 0 ∧ (∀ c ∈ rangeCrates 1 0 1 true, ((shared openState).leafOf c).isNone = false) ∧
    (∀ c ∈ (orderArgs (ldgOrd 0x24 a)).crates, (shared openState).overlaps c = false) := by decide +kernel

/-- IMPORT of the crate at VA 0, and of one there whose image is zeros; CAMPUS_COPY to module 5, cut off or not. -/
def importArgs (flags va module : Nat) : List Byte := ldgBlock va 1 flags 0 ddrBase module
/-- The crate at VA 0 public, with all of HBM free, or none of it there. -/
def publicly (s : State) : State :=
  let m := shared s
  { m with ledger := { m.ledger with tabs := tput m.ledger.tabs 0x13000 (mkLeaf 0 true false false false false ⟨5, ddrBase, 0⟩), hbmUsed := [] } }
def publiclyBare (s : State) : State := { publicly s with dieMem := (upFrom 0 16).map fun d => (d, { DieMem.fresh with absent := true }) }

theorem wit_ImportAndCopyOrders : let z : List Byte := List.replicate 0x10040 0#8
    (∀ op a, StartsIn op [] a shared) ∧ (∀ a, StartsIn 0x27 [] a fun s => routed 0 (reqMsg 6 15 5) (shared s)) ∧
    ((shared openState).ctx 1).state ≠ .free ∧ (∀ b : List Byte, b.length = 0x200000 → (tagged true 1 0x3FFFF b ++ b).length = 64 + crateBytes true) ∧
    z.length = 64 + crateBytes false ∧
    (orderArgs (ldgOrd 0x26 (importArgs 1 0 5))).count = 1 ∧ ¬ badRange 0 1 true ∧ ¬ badRange 0x10000 1 false ∧
    ((shared openState).leafOf ⟨1, 0x10000, false⟩ = none ∧ (shared openState).overlaps ⟨1, 0x10000, false⟩ = true) ∧
    ((shared openState).leafOf ⟨1, 0, true⟩).isNone = false ∧ (shared openState).ledger.ownerFloor = 0 ∧
    ((shared openState).openImage ⟨1, 0, false⟩ 1 0x3FFFF 0 true (z.take 64) (z.drop 64) = .refuse 0x0704 [1]) ∧
    (shared openState).sending 5 true = .unreachable ∧ (routed 0 (reqMsg 6 15 5) (shared openState)).sending 5 false ≠ .unreachable := by
  have hh : (sealHeader 1 0x3FFFF ⟨1, 0, true⟩ 1).length = 48 := by decide +kernel
  have hb : crateBytes true = 0x200000 := by decide
  refine ⟨fun op a => starts_open _ _ _ _ rfl rfl rfl, fun a => starts_open _ _ _ _ rfl rfl rfl, ?_, ?_, List.length_replicate .., ?_, ?_, ?_, ?_, ?_, ?_, ?_, ?_, ?_⟩
  · decide +kernel
  · intro b h
    simp only [tagged]
    rw [List.length_append, List.length_append, hh, length_gcmTag, h, hb]
  · decide +kernel
  · unfold badRange; decide
  · unfold badRange; decide
  · decide +kernel
  · decide +kernel
  · decide +kernel
  · have e : (List.replicate 64 0#8).take 48 ≠ sealHeader (leNat ((List.replicate 64 0#8).take 8)) 0x3FFFF ⟨1, 0, false⟩ 1 := by decide +kernel
    have z : (List.replicate 0x10040 (0#8 : Byte)).take 64 = List.replicate 64 0#8 := by rw [List.take_replicate]; rfl
    unfold State.openImage
    rw [z, if_pos e]
  · decide +kernel
  · decide +kernel

/-- An owner image sealed with the module's crate key opens (R283). -/
theorem wit_ImportOpens (b : List Byte) : ∃ l, (shared openState).openImage ⟨1, 0, true⟩ 1 0x3FFFF 0 true ((tagged true 1 0x3FFFF b ++ b).take 64)
    ((tagged true 1 0x3FFFF b ++ b).drop 64) = .body 1 l := by
  have hl : (tagged true 1 0x3FFFF b).length = 64 := by
    have hh : (sealHeader 1 0x3FFFF ⟨1, 0, true⟩ 1).length = 48 := by decide +kernel
    simp only [tagged]
    rw [List.length_append, hh, length_gcmTag]
  rw [List.take_left' hl, List.drop_left' hl]
  exact tagged_opens b rfl (by decide +kernel) (by decide +kernel) (by decide) fun h => absurd rfl h

theorem writeBlocks_ledger : ∀ (js : List Nat) (s : State) (a : Nat) (l : List Byte), (s.writeBlocks a l js).ledger = s.ledger
  | [], _, _, _ => rfl
  | _ :: r, s, a, l => (writeBlocks_ledger r _ a _).trans rfl

/-- Where the images land: in the crate's HBM, with no move left; in new HBM that the page commit will give; nowhere. -/
theorem wit_OwnerImagesLand (l : List Byte) : let c : Crate := ⟨1, 0, true⟩
    ((ldgBegun 0x26 (importArgs 1 0 5) shared).leafOf c).map (fun p => eTier p.2) = some 3 ∧ (ldgBegun 0x26 (importArgs 1 0 5) shared).ledger.moves = [] ∧
    (∃ u, (ldgBegun 0x26 (importArgs 1 0 5) shared).importInto c 0 true (some 77) l = some u ∧ ∀ m ∈ u.ledger.moves, m.order ≠ some 77) ∧
    ((ldgBegun 0x26 (importArgs 1 0 5) publicly).leafOf c).map (fun p => eTier p.2) = some 5 ∧
    (∃ u, (ldgBegun 0x26 (importArgs 1 0 5) publicly).importInto c 0 true (some 77) l = some u ∧ ∃ m ∈ u.ledger.moves, m.order = some 77) ∧
    ((publiclyBare openState).leafOf c).map (fun p => eTier p.2) = some 5 ∧ (publiclyBare openState).takeUnits 3 0 (crateUnits true) = none ∧
    (publiclyBare openState).importInto c 0 true (some 77) l = none := by
  have h1 : (ldgBegun 0x26 (importArgs 1 0 5) shared).leafOf ⟨1, 0, true⟩ = some (0x13000, mkLeaf 0 true false false true true ⟨3, 0x200000, 0⟩) := by decide +kernel
  have h2 : (ldgBegun 0x26 (importArgs 1 0 5) publicly).leafOf ⟨1, 0, true⟩ = some (0x13000, mkLeaf 0 true false false false false ⟨5, ddrBase, 0⟩) := by decide +kernel
  have h3 : (publiclyBare openState).leafOf ⟨1, 0, true⟩ = some (0x13000, mkLeaf 0 true false false false false ⟨5, ddrBase, 0⟩) := by decide +kernel
  have h4 : (publiclyBare openState).takeUnits 3 0 (crateUnits true) = none := by decide +kernel
  have t3 : eTier (mkLeaf 0 true false false true true ⟨3, 0x200000, 0⟩) = 3 := by decide +kernel
  have t5 : eTier (mkLeaf 0 true false false false false ⟨5, ddrBase, 0⟩) = 5 := by decide +kernel
  obtain ⟨t, i, ht⟩ := takes_of (s := ldgBegun 0x26 (importArgs 1 0 5) publicly) (tier := 3) (die := 0) (n := crateUnits true) rfl (by decide) (by decide +kernel)
  refine ⟨?_, rfl, ?_, ?_, ?_, ?_, h4, ?_⟩
  · rw [h1]; simp [t3]
  · unfold State.importInto
    simp only [h1, t3]
    refine ⟨_, rfl, ?_⟩
    have hm : ∀ v : State, v.ledger = (ldgBegun 0x26 (importArgs 1 0 5) shared).ledger → (v.recopy ⟨1, 0, true⟩).ledger.moves = [] := by
      intro v hv
      have : v.ledger.moves = [] := by rw [hv]; rfl
      simp [State.recopy, this]
    intro m hm'
    rw [hm _ (by
      have : (eStore (mkLeaf 0 true false false true true ⟨3, 0x200000, 0⟩)).tier = 3 := by decide +kernel
      unfold State.crateWrite; rw [if_pos this]; exact writeBlocks_ledger ..)] at hm'
    cases hm'
  · rw [h2]; simp [t5]
  · unfold State.importInto
    simp only [h2, t5, ht]
    exact ⟨_, rfl, _, List.mem_append_right _ (List.mem_singleton.mpr rfl), rfl⟩
  · rw [h3]; simp [t5]
  · unfold State.importInto; simp only [h3, t5, h4]; rfl

/-- A gather of two slots at VA 64 and 192 into VA 0, 64 B each, over stall (0, 0) of CD3; WAIT and DONE are its tally 5. `x1` = 1 asks for
both stalls, `flags` for SCALEN and DONEEN, `sc` is SCALE. -/
def gTally : Nat := 5 + 64 * 24576 + 2 ^ 41 + 2 ^ 42
def gatherArgs (dst slot0 rsv flags sc : Nat) (done : Bool) (x1 : Nat) : List Byte :=
  argBlock [(7, dst), (1, 0), (7, slot0), (1, 0), (4, 128), (2, 2), (1, flags), (1, rsv), (8, 64), (4, sc), (4, 0), (8, gTally), (8, if done then gTally else 0), (1, 3), (1, 0), (1, 0), (1, x1), (1, 0), (3, 0)] []
def gOf (a : List Byte) : Gather := ⟨77, 1, a, false, false, 0, []⟩
def gathering (a : List Byte) (s : State) : State :=
  { shared s with gathers := [{ gOf a with running := true }], mem := (upFrom 0 192).map fun i => (0x200040 + i, if i = 0 then 1#8 else 0#8) }
def gGood : List Byte := gatherArgs 0 64 0 2 0 true 1

/-- The same over another leaf of its crate, with the far modules reached over port 15, or in a next run over its lines. -/
def gatheringAt (leaf : Nat) (s : State) : State :=
  let m := routed 0 (reqMsg 6 15 5) (gathering gGood s)
  { m with ledger := { m.ledger with tabs := tput m.ledger.tabs 0x13000 leaf } }
/-- How a run ends: 0 all lines written and acknowledged, 1 all written, 2 one refused by another module, 3 a wait, 4 a refusal. -/
def runEnd (s : State) (g : Gather) (met : List Met) : Nat := match s.gatherLines g [] met g.acks (upFrom g.next (g.length / 64 - g.next)) with
  | .ok t acks => if (t.failedWrite acks).isSome then 2 else if t.awaits acks then 1 else 0
  | .wait _ _ _ => 3
  | .refuse _ _ _ _ => 4

theorem wit_Gathers : (∀ a, StartsIn 0x30 [] a shared) ∧ (shared openState).gatherCheck 1 (gOf gGood) = none ∧
    (shared openState).gatherCheck 1 (gOf (gatherArgs 0 64 1 2 0 true 1)) = some 1 ∧ (shared openState).gatherCheck 1 (gOf (gatherArgs 4 64 0 2 0 true 1)) = some 2 ∧
    (shared openState).gatherCheck 1 (gOf (gatherArgs 192 64 0 2 0 true 1)) = some 3 ∧ (shared openState).gatherCheck 1 (gOf (gatherArgs 0 64 0 2 0 true 2)) = some 4 ∧
    (let s := gathering gGood openState; let g : Gather := { gOf gGood with running := true }
     let far := mkLeaf 0 true false false false false ⟨6, 0x200000, 5⟩; let q : Gather := { g with next := 1, acks := [(7, 0)] }
     s.gathers.find? (fun x => x.order = g.order && x.running && !x.finished) = some g ∧ s.bell.held = false ∧ (s.ctx g.ctx).state = .running ∧
     runEnd s g [] = 0 ∧ runEnd s g [⟨64, .double⟩] = 4 ∧
     runEnd (gatheringAt (mkLeaf 0 true false false false false ⟨0, 0, 0⟩) openState) g [] = 3 ∧
     -- the line of another gather, sent to another module, not answered yet, and refused there
     runEnd { gatheringAt far openState with fab := { openState.fab with remotes := [⟨7, 5, 0, 1, true, 0, [], none⟩] } } q [] = 1 ∧
     runEnd { gatheringAt far openState with fab := { openState.fab with failedWrites := [(7, 2)] } } q [] = 2 ∧
     g.doneen = true ∧ (gOf (gatherArgs 0 64 0 1 0x40000000 false 0)).doneen = false ∧
     (gathering gGood State.reset).bell.held = true ∧ (({ gathering gGood openState with ctxs := [] } : State).ctx g.ctx).state = .free) := by
  refine ⟨fun a => starts_open _ _ _ _ rfl rfl rfl, ?_, ?_, ?_, ?_, ?_, ?_⟩ <;> decide +kernel

theorem wit_GatherLineSums : let s := gathering (gatherArgs 0 64 0 1 0x40000000 false 0) openState; let g := gOf (gatherArgs 0 64 0 1 0x40000000 false 0)
    Memory.wf s.mem = true ∧ g.nslot = 2 ∧ g.stalls.getD 0 0 = sid0.num ∧ (g.slot0, g.sstride, g.dst, g.scalen) = (64, 128, 0, true) ∧
    (match s.readVa 1 sid0.num 64 [] [] with
      | .ok t x => x = 1#512 && (match t.readVa 1 sid0.num 192 [] [] with
        | .ok u _ =>
          let w := u.engineTr 1 0 sid0.num 3 true
          decide (w.2 = .ok 0x200000 0x13000 (u.tabWord 0x13000)) && u.onDies 0x200000 && decide (w.1.lineCode 3 0x200000 = 0)
        | _ => false)
      | _ => false) = true := by decide +kernel

/-- 1.0 and 2.0 gathered with SCALE 2.0. -/
theorem test_gather_scales_the_sum : (after (exec (.gatherComplete 77 [] [] [])
      { gathering (gatherArgs 0 64 0 1 0x40000000 false 0) openState with
        mem := (upFrom 0 192).map fun i => (0x200040 + i, if i = 2 then 0x80#8 else if i = 3 then 0x3F#8 else if i = 131 then 0x40#8 else 0#8) })).line 0x200000 = 0x40C00000#512 := by
  decide +kernel

/-- A reduction set of two members (this is module 0 and member 0), bound by context 1, of one region of `len` bytes, with the given DONEEN. -/
def setDesc (len done : Nat) : List Byte :=
  argBlock [(7, 0), (1, 0), (8, 0), (8, len), (2, 2), (2, 0), (2, 0), (1, 1), (1, done * 2), (4, 0), (2, 1), (2, 9), (8, 0), (8, if done = 1 then gTally else 0)] []
def setOf (done fill : Nat) (bs : List Bucket) : RSet := ⟨9, 1, setDesc 2048 done, [(0, 1), (15, 1)], [sid0.num], fill, 0, 0, bs, [], [], [], [], false, none⟩
def bound (x : RSet) (s : State) : State := { shared s with sets := [x] }

theorem wit_ReductionOrders : let rel := { setOf 1 2 [] with release := some 70 }
    (∀ op i a, StartsIn op i a shared) ∧ (∀ op i a x, StartsIn op i a (bound x)) ∧
    (orderOf 0x32 [9, 0] []).inline 36 2 = 9 ∧ (bound (setOf 1 2 []) openState).findSet 9 = some (setOf 1 2 []) ∧ (shared openState).findSet 9 = none ∧
    (setOf 1 2 []).ctx = 1 ∧ (setOf 1 2 []).release = none ∧ (bound { setOf 1 2 [] with ctx := 2 } openState).findSet 9 = some { setOf 1 2 [] with ctx := 2 } ∧
    (bound rel openState).findSet 9 = some rel ∧ rel.release.isSome = true := by
  refine ⟨fun op i a => starts_open _ _ _ _ rfl rfl rfl, fun op i a x => starts_open _ _ _ _ rfl rfl rfl, ?_, ?_, ?_, ?_, ?_, ?_, ?_, ?_⟩ <;> decide +kernel

/-- The neighbours of a bound set are reached where the routes name an UP port (10_weago.md R337). -/
theorem wit_neighbours_reached : let s := routed 0 (reqMsg 6 15 5) (bound (setOf 1 2 []) openState)
    ∀ x ∈ s.sets, x.neighbours = [1, 1] ∧ ∀ i ∈ x.neighbours, i = x.self ∨ s.pathUsable (x.members.getD i (0, 0)).1 0 false = true := by decide +kernel

/-- A set of 0 groups' starts: member 1 of a region whose lines it starts none of. -/
def idleSet : RSet := { setOf 1 2 [] with desc := argBlock [(7, 0), (1, 0), (8, 0), (8, 0), (2, 2), (2, 0), (2, 0), (1, 1)] [] }

theorem wit_BucketsStartAndComplete : let k : Bucket := ⟨0, [], upFrom 0 32, [(7, 0)]⟩
    let st := fun (d : Nat) => bound (setOf d 2 [k]) openState
    (bound (setOf 1 0 []) openState).findSet 9 = some (setOf 1 0 []) ∧ (setOf 1 0 []).fill < (setOf 1 0 []).threshold 0 ∧
    (setOf 1 0 []).waiting = [] ∧ (setOf 1 0 []).outq = [] ∧ (bound (setOf 1 2 []) State.reset).setRuns (setOf 1 2 []) = false ∧
    ((bound (setOf 1 2 []) openState).setRuns (setOf 1 2 []) = true ∧ (setOf 1 2 []).threshold 0 ≤ (setOf 1 2 []).fill) ∧
    ((bound idleSet openState).findSet 9 = some idleSet ∧ (bound idleSet openState).setRuns idleSet = true ∧ idleSet.threshold 0 ≤ idleSet.fill ∧
      idleSet.waiting = [] ∧ idleSet.outq = [] ∧ idleSet.starts 0 = []) ∧
    (∀ d ∈ [0, 1], (st d).findSet 9 = some (setOf d 2 [k]) ∧ (setOf d 2 [k]).bucket 0 = some k ∧
      (st d).setRuns (setOf d 2 [k]) = true ∧ (setOf d 2 [k]).linesOf 0 ≤ k.written.length ∧ (setOf d 2 [k]).doneen = decide (d = 1) ∧
      (st d).failedWrite k.acks = none ∧ (st d).awaits k.acks = false) ∧
    (let s := { st 1 with fab := { openState.fab with remotes := [⟨7, 15, 0, 1, true, 0, [], none⟩] } }
     s.failedWrite k.acks = none ∧ s.awaits k.acks = true) ∧
    ({ st 1 with fab := { openState.fab with failedWrites := [(7, 2)] } } : State).failedWrite k.acks = some (0, 2) ∧
    (setOf 1 2 [⟨0, [], [], []⟩]).linesOf 0 = 32 := by decide +kernel

theorem wit_BucketThresholds : 0 < (setOf 1 0 []).lk ∧ (setOf 1 0 []).nbuckets = 1 ∧ ({ setOf 1 0 [] with desc := setDesc 0x200400 1 } : RSet).nbuckets = 3 := by
  decide +kernel

theorem test_last_bucket_is_short : (upFrom 0 3).map ({ setOf 1 0 [] with desc := setDesc 0x200400 1 } : RSet).threshold = [1024, 2048, 2049] := by decide +kernel

/-- An ordered write with a tag for stall (0, 0): kind 0 of bucket 0 of set 9, line 0. -/
def redMsg (setid l k : Nat) : Msg := mkMsg 2 2 2 0 0 15 1 0 (stockAddr k 0) none [BitVec.ofNat 512 (setid + 2 ^ 32 + l * 2 ^ 64), 5#512]
def reducing (m : Msg) (x : RSet) : State := routed 2 m (bound x openState)

theorem wit_ReductionLinesArrive : let x := setOf 1 0 []; let s := fun (m : Msg) => reducing m x
    let out : Msg := mkMsg 2 2 2 0 0 16 1 0 (stockAddr sid0.num 0) none [BitVec.ofNat 512 (9 + 2 ^ 32), 5#512]
    let stopped := { x with faulted := true }; let m := redMsg 9 0 sid0.num
    (∀ m ∈ [redMsg 9 0 sid0.num, redMsg 8 0 sid0.num, redMsg 9 0 24577, redMsg 9 1 sid0.num],
      (s m).headMsg 15 2 = some m ∧ m.dest = (s m).mod.id ∧ m.ty = 2 ∧ (s m).inHall m.src = true) ∧
    ((s out).headMsg 15 2 = some out ∧ out.ty = 2 ∧ (s out).inHall out.src = false) ∧
    ((redMsg 9 0 24577).addr - stockWin) / 0x40000 = 24577 ∧ (s (redMsg 9 0 24577)).sets.find? (fun x => x.reducers.contains 24577) = none ∧
    (m.addr - stockWin) / 0x40000 = sid0.num ∧ (s m).sets.find? (fun x => x.reducers.contains sid0.num) = some x ∧
    ((reducing m stopped).sets.find? (fun x => x.reducers.contains sid0.num) = some stopped ∧ stopped.faulted = true) ∧
    x.faulted = false ∧ x.reducers[0]? = some sid0.num ∧ x.expected 0 0 = some ((0, 0), 0) ∧ (s m).findSet 9 = some x ∧ x.waiting = [] ∧ x.outq = [] ∧
    x.bucket 0 = none ∧
    (m.data.getD 0 0#512).toNat = 9 + 2 ^ 32 ∧ bitsAt ((redMsg 8 0 sid0.num).data.getD 0 0#512).toNat 0 16 ≠ x.setid ∧
    bitsAt ((redMsg 9 1 sid0.num).data.getD 0 0#512).toNat 64 64 = 1 := by decide +kernel

theorem wit_AbortsFaultTheSet : (bound (setOf 1 0 []) openState).findSet 9 = some (setOf 1 0 []) ∧ (setOf 1 0 []).faulted = false ∧
    (bound { setOf 1 0 [] with faulted := true } openState).findSet 9 = some { setOf 1 0 [] with faulted := true } ∧
    ((bound (setOf 1 0 []) openState).ctx 1).state = .running ∧ ((bound (setOf 1 0 []) openState).ctx 1).cause = none := by decide +kernel

/-! ## Bell and hold (statements TripsDecideAHold to BellsLatch) -/

/-- The module in STANDBY. -/
def asleep (s : State) : State := { s with mod := { s.mod with state := 1 } }

theorem wit_TripsDecideAHold : openState.awake = true ∧ openState.deadDies.contains 15 = false ∧ openState.powerRuns = true ∧
    (asleep openState).awake = false ∧ ({ openState with deadDies := [15] } : State).deadDies.contains 15 = true := by decide +kernel

/-- The HOLD_REQ land at a level. -/
def landAt (b : Bool) (s : State) : State := { s with pkg := { s.pkg with holdReq := b } }

theorem wit_HoldReqDecidesAHold : (landAt false openState).pkg.holdReq = false ∧ (landAt false openState).awake = true ∧
    (landAt false openState).deadDies.contains openState.bell.lead = false ∧ (landAt true openState).pkg.holdReq = true := by decide +kernel

theorem wit_StarSymbolErrors : openState.awake = true ∧ openState.deadDies.contains 0 = false ∧ openState.bell.lead = 3 ∧
    ((upFrom 0 8).filter (bitAt (0b01000000#8 : BitVec 8).toNat)).length % 2 = 1 ∧ bitsAt (0b01000000#8 : BitVec 8).toNat 6 2 = 1 ∧
    bitsAt (0b01000000#8 : BitVec 8).toNat 1 4 = 0 ∧ ((upFrom 0 8).filter (bitAt (0b01000001#8 : BitVec 8).toNat)).length % 2 = 0 ∧
    ((upFrom 0 8).filter (bitAt (0b01000110#8 : BitVec 8).toNat)).length % 2 = 1 ∧ bitsAt (0b01000110#8 : BitVec 8).toNat 1 4 = 3 ∧
    ({ openState with deadDies := [15] } : State).deadDies.contains 15 = true := by decide +kernel

/-- A symbol of the lead die in flight, of a kind. -/
def symOf (k : SymKind) : Symbol := ⟨k, 3, 1, 1000, 1090, 1, [], Due.none⟩
def ringing (k : SymKind) (s : State) : State := { s with bell := { s.bell with symbols := [symOf k] } }

theorem wit_StarWords : (∀ x ∈ openState.bell.symbols, x.src ≠ 0 ∨ x.decided ≠ 5 ∨ x.kind = .slip) ∧ (∀ k ∈ [SymKind.bell, .hold, .release],
    (ringing k openState).bell.symbols = [symOf k] ∧ (symOf k).kind ≠ .slip) ∧ starWord 1 1 3 = 0b01100111 ∧ starWord 0 0 0 = 1 := by decide +kernel

theorem wit_BellWatchdogDecidesAHold : openState.awake = true ∧ openState.deadDies.contains 15 = false ∧ openState.bell.held = false ∧
    openState.bell.symbols = [] ∧ State.reset.bell.held = true ∧ (ringing .bell openState).bell.held = false ∧
    (ringing .bell openState).bell.symbols = [symOf .bell] ∧ (symOf .bell).kind = .bell := by decide +kernel

theorem wit_PowerCoreRequestsHolds : openState.awake = true ∧ openState.powerRuns = true ∧ openState.deadDies.contains openState.bell.lead = false ∧
    openState.pow.inputOut = false ∧ openState.pow.runPow ≠ 17 ∧ openState.pow.runTh ≠ 17 ∧
    ({ openState with pow := { openState.pow with runTh := 17 } } : State).pow.runTh = 17 ∧ (5801 < 4600 ∨ 5800 < 5801) := by decide +kernel

theorem wit_HoldLatches : Claim.Next (ringing .hold openState) (symOf .hold) ∧ (symOf .hold).kind = .hold ∧ (ringing .hold openState).mod.state = 3 ∧
    Claim.Next (ringing .hold State.reset) (symOf .hold) ∧ (ringing .hold State.reset).mod.state = 2 := by unfold Claim.Next; decide +kernel

theorem test_hold_latches_before_a_release_of_its_cy :
    let s := { openState with bell := { openState.bell with held := true, symbols := [symOf .release, symOf .hold] } }
    s.nextSymbol = some (symOf .hold) ∧ ((after (exec .holdLatch s)).bell.symbols, (after (exec .holdLatch s)).now) = ([], 1090) := by decide +kernel

theorem wit_ReleaseLatches : Claim.Next (ringing .release openState) (symOf .release) ∧ (symOf .release).kind = .release ∧
    (ringing .release openState).bell.held = false ∧ (ringing .release State.reset).bell.held = true ∧ Claim.Next (ringing .release State.reset) (symOf .release) ∧
    (ringing .release State.reset).mod.state = 2 := by unfold Claim.Next; decide +kernel

theorem wit_GoAndCause : let s := { State.reset with mod := { State.reset.mod with configValid := true }, conf := { State.reset.conf with hs := 1 } }
    (1#32 : BitVec 32).getLsbD 0 = true ∧ s.bell.held = true ∧ s.bell.cause = 0 ∧ s.mod.state = 2 ∧ s.conf.hs = 1 ∧ s.mod.configValid = true ∧ s.targetMode = 3 ∧
    (2#32 : BitVec 32).getLsbD 0 = false ∧ openState.bell.held = false ∧ s.hostPath = true ∧
    ({ s with failedLinks := [256, 264] } : State).hostPath = false := by decide +kernel

/-- Free run with the power core out of service; context 1 has a stall that runs, with an overrun policy; slips so far. -/
def freeRun (ovrFault : Bool) (slips : Nat) (st : Status) : State :=
  { openState with
    cores := [(13, ⟨1, 0, 0, 0⟩)], bell := { openState.bell with slipRun := slips }, stalls := [(sid0.num, { Stall.fresh with occ := some 1, status := st })]
    ctxs := [(1, { Ctx.none with state := .running, ovrFault := ovrFault })] }

theorem wit_DecisionsFallDue : ([freeRun false 0 .idle, freeRun true 0 .running, freeRun false 15 .running, freeRun false 0 .running].all fun s =>
      s.awake && s.bell.symbols.isEmpty && !s.bell.held && !s.hallMode && s.trust.act.isNone && s.bell.cause = 0 && !s.powerRuns && s.pow.s = 0 &&
      s.pow.level = 0 && decide (s.period + min s.bell.stretchNext 2147483647 ≤ 4294967295)) = true ∧
    (freeRun false 0 .idle).overruns 22500 = [] ∧ (freeRun true 0 .running).overruns 22500 = [(1, sid0.num)] ∧
    ((freeRun true 0 .running).ctx 1).ovrFault = true ∧ (freeRun false 15 .running).overruns 22500 = [(1, sid0.num)] ∧
    ((freeRun false 15 .running).ctx 1).ovrFault = false ∧ (freeRun false 15 .running).slipMax < 15 + 1 ∧ 0 + 1 ≤ (freeRun false 0 .running).slipMax ∧
    (freeRun false 0 .running).overruns 22500 = [(1, sid0.num)] := by decide +kernel

/-- A segment that ends 91 cy before the decision is complete, one that ends 90 cy before is not (01_bell.md R42). -/
theorem test_segment_end_edge : ((freeRun false 0 (.parked 0 false 22409)).overruns 22500, (freeRun false 0 (.parked 0 false 22410)).overruns 22500) = ([], [(1, sid0.num)]) := by
  decide +kernel

theorem wit_DecisionsWhileHeld : let s := { State.reset with bell := { State.reset.bell with go := some 5 } }
    ([s, State.reset].all fun s => s.awake && s.bell.symbols.isEmpty && s.bell.held && !s.hallMode && decide (s.period + min s.bell.stretchNext 2147483647 ≤ 4294967295)) = true ∧
    s.bell.go = some 5 ∧ s.hostPath = true ∧ s.bell.cause = 0 ∧ s.bell.holds = [] ∧ State.reset.bell.go = none ∧
    (let h := { s with bell := { s.bell with holds := [5, s.bell.nextD] } }
     5 ∈ h.bell.holds ∧ 5 ≤ 5 ∧ 5 < h.bell.nextD) ∧
    (let h := { s with bell := { s.bell with holds := [4, s.bell.nextD] } }
     ∀ c ∈ h.bell.holds, c < 5 ∨ h.bell.nextD ≤ c) := by decide +kernel

/-- A module with one stall of context 1, and a bell in flight; CONFIG_STATUS as given. -/
def barred (st : CtxState) (u : Status) (conf : Conf) : State :=
  ringing .bell { openState with conf := conf, stalls := [(sid0.num, { Stall.fresh with occ := some 1, status := u })], ctxs := [(1, { Ctx.none with state := st })] }

theorem plain_bar (st : CtxState) (u : Status) (conf : Conf) (hst : st = .running ∨ st = .created) (hc : conf.ringDie = 0) :
    PlainBell (barred st u conf) (symOf .bell) := by
  have hr : (barred st u conf).conf.ringDie = 0 := hc
  refine ⟨rfl, rfl, rfl, rfl, rfl, rfl, rfl, rfl, rfl, rfl, rfl, ?_, rfl, rfl, ⟨rfl, rfl, rfl, rfl⟩, ⟨rfl, rfl, rfl, rfl, rfl⟩, ?_, ?_⟩
  · rw [hr]; rfl
  · intro c
    by_cases h : c = 1
    · subst h
      have e : ((barred st u conf).ctx 1).state = st := rfl
      rw [e]
      rcases hst with rfl | rfl <;> simp
    · have e : (barred st u conf).ctx c = Ctx.none := by simp [State.ctx, tget, tfind, barred, ringing, Ne.symm h]
      rw [e]; decide
  · intro p hp; cases hp

theorem wit_BellsLatch : Claim.Next (ringing .bell State.reset) (symOf .bell) ∧ (ringing .bell State.reset).bell.held = true ∧
    (∀ u, PlainBell (barred .running u State.reset.conf) (symOf .bell) ∧ PlainBell (barred .created u State.reset.conf) (symOf .bell)) ∧
    State.reset.conf.status ≠ 2 ∧
    (let s := barred .running (.parked 64 false 0) State.reset.conf
     (s.stall sid0.num).occ = some 1 ∧ s.fenced sid0.num = false ∧ s.heldDies.contains (dieOf sid0.num) = false ∧
      (s.stall sid0.num).status = .parked 64 false 0 ∧ (s.ctx 1).state = .running ∧ (s.port sid0.num).allFree = true) ∧
    ((barred .created (.parked 0 true 0) State.reset.conf).stall sid0.num).status = .parked 0 true 0 ∧
    ((barred .created (.parked 0 false 0) State.reset.conf).ctx 1).state ≠ .running :=
  ⟨rfl, rfl, fun u => ⟨plain_bar _ u _ (.inl rfl) rfl, plain_bar _ u _ (.inr rfl) rfl⟩, by decide +kernel, by decide +kernel, rfl, by decide⟩

theorem test_bell_starts_a_segment : let t := after (exec .bellLatch (barred .running (.parked 64 false 0) State.reset.conf))
    ((t.stall sid0.num).status, (t.stall sid0.num).nextIssue, t.bell.count) = (.running, 1090, 1) := by decide +kernel

/-! ## The host interface (statements StagedRegisters to HeldInterruptsAreSent) -/

/-- Dies 2 and 11 are fenced, so that die 3 has no route to the host edge. -/
def cutOff : State := { openState with deadDies := [2, 11] }

theorem wit_StagedRegisters : HostReaches openState ∧ Routed openState 0xB0 ∧ Routed cutOff 0x120000 ∧
    (⟨0xB0, 0x0F10, 0x3F1F⟩ : StReg) ∈ stRegs ∧ (⟨0xA0, 3, 0x7⟩ : StReg) ∈ stRegs := by
  unfold HostReaches Routed; decide +kernel

theorem test_st_register_keeps_its_bits : (after (exec (.registerWrite (.write (cfgBase + 0xB0) 0xFFFFFFFF#32)) openState)).staged ⟨0xB0, 0x0F10, 0x3F1F⟩ = 0x3F1F := by
  decide +kernel

theorem wit_ReadOnlyRegisters : HostReaches openState ∧ Routed openState 0 ∧ HostReaches { openState with deadDies := [15] } ∧
    ({ openState with deadDies := [15] } : State).deadDies.contains 15 = true := by unfold HostReaches Routed; decide +kernel

theorem wit_BadHostMessages : HostReaches openState ∧ (0x3F0000000000 : Nat) ≤ 0x3FFFFFFFFFFF ∧ 0x3FFFFFFFFFFF % 4 ≠ 0 ∧
    HostReaches cutOff ∧ ¬ Routed cutOff (0x3F0000130000 - 0x3F0000000000) ∧ (asleep openState).awake = false ∧
    ({ openState with failedLinks := [256, 264] } : State).hostPath = false := by
  unfold HostReaches Routed; decide +kernel

/-- A header cell of the host: type, lines, tag, 4 B access, address, reserved bits. -/
def hostHead (type lines tag : Nat) (w4 : Bool) (addr rsv : Nat) : PkgHead := ⟨type, 0, lines, 16, 0, tag, 0, addr, w4, 0, rsv⟩
def hostWord (h : PkgHead) : BitVec 128 := BitVec.ofNat 128 h.cell

theorem wit_HeaderCells : (hostHead 15 31 16383 true (2 ^ 46 - 4) 255).malformed = true ∧ (hostHead 11 16 0 false 0 0).malformed = false ∧
    (⟨15, 3, 31, 31, 31, 2 ^ 14 - 1, 63, 2 ^ 46 - 1, true, 2 ^ 32 - 1, 255⟩ : PkgHead).cell = 2 ^ 128 - 1 := by decide +kernel

theorem wit_HostMessages : HostReaches openState ∧ openState.edgeUp 0 = true ∧ openState.edgeUp 5 = true ∧
    ({ openState with failedLinks := [256] } : State).edgeUp 0 = false ∧ HostReaches { openState with failedLinks := [256] } ∧
    openState.awaitsHost = false ∧ (PkgHead.ofCell (hostWord (hostHead 1 0 0 true 0x3F0000000000 0)).toNat).type = 1 ∧
    (PkgHead.ofCell (hostWord (hostHead 2 1 0 true 0x3F0000000000 0)).toNat).malformed = true ∧
    (PkgHead.ofCell (hostWord (hostHead 2 1 0 false 0x3EFFFFFFFFFC 0)).toNat) = hostHead 2 1 0 false 0x3EFFFFFFFFFC 0 ∧
    (hostHead 2 1 0 false 0x3EFFFFFFFFFC 0).malformed = false := by unfold HostReaches; decide +kernel

/-- A message outside the permitted set is dropped with 0x0A09; an empty cell is no message. -/
theorem test_host_messages : ((after (exec (.registerWrite (.message 8 (hostWord (hostHead 11 0 0 false 0 0)))) openState)).inc.log.map (·.code),
    (after (exec (.registerWrite (.message 8 0)) openState)).inc.log.map (·.code)) = ([0x0A09, 0x0D0B], [0x0D0B]) := by decide +kernel

/-- Ring 63 has written records up to index 20 of its ring of 16, with the page asked for; broken or not. -/
def written63 (b : Bool) : State :=
  { openState with rings := [(63, { Ring.off with state := 1, broken := b, ctail := 20 })], conf := { openState.conf with dbOut := true } }
def errCell (j : Nat) : BitVec 128 := hostWord (hostHead 5 0 63 false ((written63 false).cplBase 63 + 64 * j) 0)

theorem wit_RefusedCompletions : (∀ b, HostReaches (written63 b) ∧ (written63 b).edgeUp 8 = true ∧ (written63 b).awaitsHost = true) ∧
    (∀ j ∈ [0, 15], PkgHead.ofCell (errCell j).toNat = hostHead 5 0 63 false ((written63 false).cplBase 63 + 64 * j) 0 ∧
      (hostHead 5 0 63 false ((written63 false).cplBase 63 + 64 * j) 0).malformed = false) ∧
    ((written63 true).ring 63).broken = true ∧ ((written63 false).ring 63).state ≠ 0 ∧ (written63 false).ringSize 63 = 16 ∧
    entryAt 20 16 3 = 19 ∧ entryAt 20 16 4 = 4 ∧ (written63 false).ring 63 = { Ring.off with state := 1, ctail := 20 } := by
  unfold HostReaches; decide +kernel

theorem test_completion_refused : let r := (after (exec (.registerWrite (.message 8 (errCell 3))) (written63 false))).ring 63
    (r.state, r.cause, r.lost) = (3, 0x07, 1) := by decide +kernel

theorem test_misaligned_access : (after (exec (.registerWrite (.read 0x3F0000000002)) openState)).out.take 1 = [.err 3] := by decide +kernel

/-- A handshake that runs on version `n`; one that ended in `hs`. -/
def shaking (hs : Nat) (n : Option Nat) : State := { State.reset with conf := { State.reset.conf with hs := hs, hsRun := n } }

theorem wit_VersionHandshake : (shaking 0 none).awake = true ∧ (shaking 0 none).hostPath = true ∧ (shaking 1 none).conf.hs = 1 ∧ (shaking 0 (some 0)).trust.image.ifMin ≤ 0 ∧
    0 ≤ (shaking 0 (some 0)).trust.image.ifMax ∧ (shaking 0 (some 65535)).trust.image.ifMax < 65535 := by decide +kernel

/-- A route image of one module, with no route; a staging image that keeps every rule where its period is at least 2,250. -/
def routeImg : List Byte := leBytes 2 1 ++ leBytes 2 1 ++ leBytes 4 256 ++ List.replicate 8 0#8 ++ List.replicate 1028 0#8
def copied (period : Nat) (r : StReg) : Nat := if r.off = 0x13014 then crc32c routeImg else if r.off = 0x10000 then period else if r.off = 0x13008 then 1 else
  if r.off = 0x1300C then ddrBase % 2 ^ 32 else if r.off = 0x13010 then ddrBase / 2 ^ 32 else r.dflt
def copyOf (period : Nat) : Tbl Nat := stRegs.map fun r => (r.off, copied period r)
def crcOf (period : Nat) : Nat := crc32c (imageBytes (copyOf period))
/-- A commit of it under check, with a given handshake and stored CRC; before a first commit or after. -/
def checking (hs period crc : Nat) (valid : Bool) : State :=
  { openState with
    mod := { openState.mod with configValid := valid }, conf := { openState.conf with status := 1, hs := hs, copy := copyOf period, crc := crc } }

theorem first_zero : ∀ l : List (Bool × Nat), (∀ p ∈ l, p.1 = false) → firstStatus l = 0
  | [], _ => rfl
  | (b, n) :: r, h => by
    have hb : b = false := h (b, n) (List.mem_cons_self ..)
    subst hb
    exact first_zero r fun p hp => h p (List.mem_cons_of_mem _ hp)

theorem tget_map_off (f : StReg → Nat) : ∀ (l : List StReg) (k : Nat) (r : StReg), l.find? (fun x => x.off = k) = some r → tget (l.map fun x => (x.off, f x)) 0 k = f r
  | [], _, _, h => by cases h
  | x :: l, k, r, h => by
    by_cases e : x.off = k
    · rw [List.find?_cons_of_pos (by simpa using e)] at h
      cases h
      simp [tget, tfind, e]
    · rw [List.find?_cons_of_neg (by simpa using e)] at h
      have := tget_map_off f l k r h
      simpa [tget, tfind, e] using this

theorem leNat_zeros : ∀ n, leNat (List.replicate n 0#8) = 0
  | 0 => rfl
  | n + 1 => by
    have := leNat_zeros n
    simp only [leNat, List.replicate_succ, List.map_cons, packN_cons] at this ⊢
    rw [this]; rfl

/-- Every entry of the route image is zero. -/
theorem route_entries : ∀ e ∈ routeEntries 1 routeImg, e = 0 := by
  intro e he
  simp only [routeEntries, List.mem_map] at he
  obtain ⟨i, -, rfl⟩ := he
  have hd : routeImg.drop (16 + 4 * i) = List.replicate (1028 - 4 * i) 0#8 := by
    unfold routeImg
    rw [← List.drop_drop, List.drop_left' (by simp [length_leBytes]), List.drop_replicate]
  unfold fieldAt
  rw [hd, List.take_replicate, leNat_zeros]

theorem no_entry (f : Nat → Bool) (h : f 0 = false) : (routeEntries 1 routeImg).any f = false := by
  rw [List.any_eq_false]
  intro e he
  rw [route_entries e he, h]
  decide

/-- The CRC of the route image is the one in the copy; the rest of rule 10 is computed. -/
theorem route_ok (s : State) (h : s.conf.copy = copyOf 22500) : s.rule10 (.bytes routeImg) = false := by
  have c : ∀ k, s.copied k = tget (copyOf 22500) 0 k := fun k => by unfold State.copied; rw [h]
  have h3 : tget (copyOf 22500) 0 0x13014 = crc32c routeImg :=
    (tget_map_off (copied 22500) stRegs 0x13014 ⟨0x13014, 0, 0xFFFFFFFF⟩ (by decide +kernel)).trans (if_pos rfl)
  have h4 : routeImg.take (routeLen 1) = routeImg := List.take_of_length_le (by decide +kernel)
  have h5 : (tget (copyOf 22500) 0 0x13008, tget (copyOf 22500) 0 0x1300C + tget (copyOf 22500) 0 (0x1300C + 4) * 2 ^ 32, tget (copyOf 22500) 0 0x13000 - tget (copyOf 22500) 0 0x13004) =
      (1, ddrBase, 0) := by decide +kernel
  simp only [Prod.mk.injEq] at h5
  unfold State.rule10 State.copied2
  simp only [c, h5.1, h5.2.1, h5.2.2, h3, h4, HostMem.data]
  have h6 : (!inDdr ddrBase (routeLen 1) || decide (routeImg.length < routeLen 1)) = false := by decide +kernel
  have h7 : (fieldAt routeImg 0 2 = 1 ∧ fieldAt routeImg 2 2 = 1 ∧ fieldAt routeImg 4 4 = 256 ∧ fieldAt routeImg 8 8 = 0) ∧
      (bitAt ((routeEntries 1 routeImg).getD 0 0) 4 || bitAt ((routeEntries 1 routeImg).getD 0 0) 9) = false := by
    decide +kernel
  rw [h6, no_entry (fun e => decide (e >>> 10 ≠ 0)) (by decide), h7.2]
  simp [h7.1]

theorem good_commit (v : Bool) : firstStatus ((checking 1 22500 (crcOf 22500) v).commitRules (.bytes routeImg)) = 0 := by
  apply first_zero
  unfold State.commitRules
  simp only [List.forall_mem_cons, List.not_mem_nil, false_implies, implies_true, and_true]
  refine ⟨?_, ?_, ?_, ?_, ?_, ?_, ?_, ?_, ?_, route_ok _ rfl, ?_, ?_⟩
  · cases v <;> decide +kernel
  · simp [checking, crcOf]
  rotate_left 7
  · have e : (checking 1 22500 (crcOf 22500) v).copied 0x13008 = 1 := by cases v <;> decide +kernel
    unfold State.rule11
    simp only [e, HostMem.data]
    exact no_entry _ (by simp [bitAt])
  all_goals (cases v <;> decide +kernel)

theorem wit_CommitsAreChecked : openState.awake = true ∧ openState.hostPath = true ∧ openState.conf.status ≠ 1 ∧ openState.conf.status ≠ 2 ∧ openState.conf.hs ≠ 1 ∧
    (checking 1 22500 0 true).conf.status = 1 ∧ ((checking 1 22500 0 true).core 3 1).state = 1 ∧ 
    (checking 1 2249 (crcOf 2249) true).copied 0x10000 < 2250 ∧ (∀ n, (checking 1 2249 n true).conf.crc = n) ∧
    (∀ v, firstStatus ((checking 1 22500 (crcOf 22500) v).commitRules (.bytes routeImg)) = 0) :=
  ⟨by decide, by decide, by decide, by decide, by decide, rfl, by decide +kernel, by decide +kernel, fun _ => rfl, good_commit⟩

/-- A PENDING commit whose ledger region is as given. -/
def pendingConf (checked size : Nat) : Conf := { State.reset.conf with status := 2, hs := 1, checked := checked, copy := tput (copyOf 22500) 0x12008 size }

theorem wit_CommitsApplyAtTheBell : let s := fun (c n : Nat) => barred .running .idle (pendingConf c n)
    (∀ c n, PlainBell (s c n) (symOf .bell) ∧ (s c n).conf.status = 2) ∧ (symOf .bell).decided = 1000 ∧
    (∀ p ∈ (s 999 0).markedRules, p.1 = false) ∧ (s 999 0).conf.checked < 1000 ∧ firstStatus (s 999 1).markedRules = 6 ∧ 1000 ≤ (s 1000 0).conf.checked :=
  ⟨fun c n => ⟨plain_bar _ _ _ (.inl rfl) rfl, rfl⟩, rfl, by decide +kernel, by decide +kernel, by decide +kernel, by decide +kernel⟩

/-- Rings 0 (OFF) and 63 (RUNNING), with the doorbell page asked for. -/
def ringOf (eseq toFetch : Nat) : Ring := { Ring.off with state := 1, eseq := eseq, toFetch := toFetch }
def ringing63 (r : Ring) (s : State) : State := { s with rings := [(63, r)], conf := { s.conf with dbOut := true } }
/-- A doorbell page that gives ring 63 a tail of `n`. -/
def page (n : Nat) : List Byte := List.replicate 504 0#8 ++ leBytes 4 n ++ leBytes 4 0

theorem wit_DoorbellSamples : let s := ringing63 (ringOf 0 0) openState
    s.conf.dbOut = true ∧ s.sends = true ∧ ({ s with failedLinks := [256, 264] } : State).sends = false ∧ openState.conf.dbOut = false ∧ (s.ring 0).state ≠ 1 ∧ (s.ring 63).state = 1 ∧ s.ringSize 63 = 16 ∧
    s.ringSize 63 < fieldAt (page 17) (8 * 63) 4 ∧ fieldAt (page 16) (8 * 63) 4 ≤ s.ringSize 63 ∧ s.conf.dbRefused = false := by decide +kernel

theorem test_doorbell_takes_sixteen : let f := fun (n : Nat) => ((after (exec (.doorbellRead (.bytes (page n)) [] none) (ringing63 (ringOf 0 0) openState))).ring 63)
    ((f 16).toFetch, (f 16).state, (f 17).toFetch, (f 17).state, (f 17).cause) = (16, 1, 0, 3, 0x06) := by decide +kernel

/-- A descriptor of ring 63: OP, T, SEQ, byte 2 and the tag. -/
def orderHead (op t seq rsv : Nat) : List Byte := leBytes 1 op ++ leBytes 1 t ++ leBytes 1 rsv ++ leBytes 1 0 ++ leBytes 4 seq ++ List.replicate 40 0#8
def orderDesc (op t seq rsv tag : Nat) : List Byte := orderHead op t seq rsv ++ leBytes 16 tag
def inSession (b : Bool) : State := let s := ringing63 (ringOf 5 2) openState; { s with mod := { s.mod with session := b } }
/-- The tag of such a descriptor. -/
def goodTag (op rsv : Nat) : Nat := (recordTag (inSession true).mod.orderKey 5 63 0 (orderHead op 1 5 rsv)).toNat

theorem head_length (op t seq rsv : Nat) : (orderHead op t seq rsv).length = 48 := by simp [orderHead, length_leBytes]

theorem desc_tag (op t seq rsv tag : Nat) (h : tag < 2 ^ 128) :
    fieldAt (orderDesc op t seq rsv tag) 48 16 = tag ∧ (orderDesc op t seq rsv tag).take 48 = orderHead op t seq rsv := by
  refine ⟨?_, List.take_left' (head_length ..)⟩
  unfold fieldAt orderDesc
  rw [List.drop_left' (head_length ..), List.take_of_length_le (by simp [length_leBytes]), leNat_leBytes, Nat.mod_eq_of_lt h]

/-- Ring 63 in a session, with the last SEQ to come. -/
def lastOrder : State := let s := ringing63 (ringOf 4294967295 2) openState; { s with mod := { s.mod with session := true } }

/-- What the fetch reads of a descriptor besides its tag hangs on its first 48 bytes alone. -/
theorem fetched (s : State) (op t seq rsv tag : Nat) (h1 : (s.ring 63).state = 1) (h2 : s.sends = true) (h3 : (s.ring 63).cidx < 4294967295)
    (h4 : 2 ≤ (s.ring 63).toFetch) (h : fieldAt (orderHead op t seq rsv) 24 8 = 0 ∧ fieldAt (orderHead op t seq rsv) 32 4 = 0) :
    Fetches s 63 (orderDesc op t seq rsv tag) := by
  refine ⟨h1, h2, h3, h4, by simp [orderDesc, head_length, length_leBytes], ?_⟩
  have e : ∀ lo n, lo + n ≤ 48 → fieldAt (orderDesc op t seq rsv tag) lo n = fieldAt (orderHead op t seq rsv) lo n := by
    intro lo n hl
    unfold fieldAt orderDesc
    rw [List.drop_append_of_le_length (by rw [head_length]; omega), List.take_append_of_le_length (by rw [List.length_drop, head_length]; omega)]
  exact ⟨by rw [e _ _ (by decide)]; exact h.1, by rw [e _ _ (by decide)]; exact h.2⟩

theorem wit_OrdersAreChecked : (inSession true).mod.session = true ∧ (inSession false).mod.session = false ∧
    (∀ op t seq rsv tag b, (op, t, seq, rsv) ∈ [(0, 0, 5, 0), (0, 1, 4, 0), (0, 1, 5, 0), (0, 1, 5, 1), (0x01, 0, 0, 0), (0, 0, 0, 1), (0, 0, 0, 0)] →
      Fetches (inSession b) 63 (orderDesc op t seq rsv tag)) ∧
    ((inSession true).ring 63).eseq = 5 ∧ (lastOrder.ring 63).eseq = 4294967295 ∧ (lastOrder.ring 63).spent = false ∧ lastOrder.mod.session = true ∧
    (∀ tag, Fetches lastOrder 63 (orderDesc 0 1 4294967295 0 tag)) ∧ 5 < 4294967295 ∧ ((inSession true).core 3 1).state ≠ 3 ∧ sessionless 0 = true ∧ sessionless 1 = false ∧ opKnown 0x3F = false := by
  refine ⟨rfl, rfl, ?_, rfl, rfl, rfl, rfl, fun tag => fetched lastOrder _ _ _ _ tag rfl (by decide +kernel) (by decide +kernel) (Nat.le_refl 2)
    (by decide +kernel), by decide, by decide +kernel, rfl, rfl, rfl⟩
  intro op t seq rsv tag b h
  refine fetched _ _ _ _ _ _ rfl (by cases b <;> decide +kernel) (by cases b <;> decide +kernel) (Nat.le_refl 2) ?_
  have all : (([(0, 0, 5, 0), (0, 1, 4, 0), (0, 1, 5, 0), (0, 1, 5, 1), (0x01, 0, 0, 0), (0, 0, 0, 1), (0, 0, 0, 0)] : List (Nat × Nat × Nat × Nat)).all fun x =>
      decide (fieldAt (orderHead x.1 x.2.1 x.2.2.1 x.2.2.2) 24 8 = 0 ∧ fieldAt (orderHead x.1 x.2.1 x.2.2.1 x.2.2.2) 32 4 = 0)) = true := by decide +kernel
  have := List.all_eq_true.mp all _ h
  simpa using this

/-- The tag of the last order verifies as well, and its format is good. -/
theorem wit_OrdersAreChecked_last : ∃ tag, fieldAt (orderDesc 0 1 4294967295 0 tag) 48 16 =
    (recordTag lastOrder.mod.orderKey 4294967295 63 0 ((orderDesc 0 1 4294967295 0 tag).take 48)).toNat ∧ formatBad (orderDesc 0 1 4294967295 0 0) [] = none := by
  refine ⟨(recordTag lastOrder.mod.orderKey 4294967295 63 0 (orderHead 0 1 4294967295 0)).toNat, ?_, by decide +kernel⟩
  have h := desc_tag 0 1 4294967295 0 (recordTag lastOrder.mod.orderKey 4294967295 63 0 (orderHead 0 1 4294967295 0)).toNat (BitVec.isLt _)
  rw [h.1, h.2]

/-- Tags that verify and that do not, in a session. -/
theorem wit_OrdersAreChecked_tags (op rsv : Nat) :
    (fieldAt (orderDesc op 1 5 rsv (goodTag op rsv)) 48 16 = (recordTag (inSession true).mod.orderKey 5 63 0 ((orderDesc op 1 5 rsv (goodTag op rsv)).take 48)).toNat) ∧
    (let x := (goodTag op rsv + 1) % 2 ^ 128
     fieldAt (orderDesc op 1 5 rsv x) 48 16 ≠ (recordTag (inSession true).mod.orderKey 5 63 0 ((orderDesc op 1 5 rsv x).take 48)).toNat) := by
  have hg : goodTag op rsv < 2 ^ 128 := BitVec.isLt _
  have h1 := desc_tag op 1 5 rsv (goodTag op rsv) hg
  have h2 := desc_tag op 1 5 rsv ((goodTag op rsv + 1) % 2 ^ 128) (Nat.mod_lt _ (by decide))
  refine ⟨by rw [h1.1, h1.2]; rfl, ?_⟩
  show fieldAt (orderDesc op 1 5 rsv ((goodTag op rsv + 1) % 2 ^ 128)) 48 16 ≠ _
  rw [h2.1, h2.2]
  show (goodTag op rsv + 1) % 2 ^ 128 ≠ goodTag op rsv
  omega

/-- The format of descriptors with a reserved byte set, and without (with a tag of 0). -/
theorem test_formats : (formatBad (orderDesc 0 1 5 1 0) [], formatBad (orderDesc 0 1 5 0 0) [], formatBad (orderDesc 1 0 0 0 0) [],
    formatBad (orderDesc 0x3F 0 0 0 0) []) = (some 2, none, none, some 0) := by decide +kernel

/-- Vector 65, held back since cy 0. -/
def gapped (v : Bool) : State := { openState with mod := { openState.mod with configValid := v }, intHeld := [65], intLast := [(65, 0)] }

theorem wit_HeldInterruptsAreSent : openState.intHeld.contains 65 = false ∧ (gapped true).intHeld.contains 65 = true ∧ (gapped true).mod.configValid = true ∧
    tfind (gapped true).intLast 65 = some 0 ∧ (gapped true).ringUp 0 = true ∧
    (gapped true).sends = true ∧ (gapped false).mod.configValid = false := by decide +kernel

/-! ## Trust and cores (statements EvidenceIsWritten to CoresFail) -/

/-- A trust order in front of its ring; its pending key, session, image and activation as given. -/
def trusting (session : Bool) (kem : Option (Nat × List Byte)) (t : Trust) (s : State) : State :=
  { s with mod := { s.mod with session := session }, trust := { t with kem := kem } }

theorem starts_trust (op : Nat) (inl args : List Byte) (b : Bool) (kem : Option (Nat × List Byte)) (t : Trust) : StartsIn op inl args (trusting b kem t) := by
  apply starts_of
  refine ⟨rfl, rfl, ?_, fun _ => rfl, rfl, ?_, Or.inl ?_⟩
  · show (1 : Nat) + 90 < 92; decide
  · show (openState.core 3 1).state = 1; decide +kernel
  · show (3 : Nat) ≠ 4 ∧ (3 : Nat) ≠ 5; decide

theorem wit_EvidenceIsWritten : (∀ op l a, StartsIn op l a id) ∧ bitAt ((orderOf 0x70 [1] []).byte 36) 0 = true ∧ bitAt ((orderOf 0x70 [0] []).byte 36) 0 = false :=
  ⟨fun op l a => starts_open op l a id rfl rfl rfl, by decide +kernel, by decide +kernel⟩

/-- The keys of a session whose ciphertext is zeros, for pending key 5 and empty evidence; its argument block: the ciphertext, 96 bytes of
WRAP, and their tag with each byte changed by `f`. -/
def sesKeys : List Byte :=
  Config.shake 64 (Config.kemDecap (Config.kemGen 5).2 (zeros 1568) ++ Config.shake 64 [] ++ zeros 1568 ++ ascii "TB80 session")
def sesArgs (f : Byte → Byte) : List Byte :=
  zeros 1568 ++ (zeros 96 ++ (gcmTag (sesKeys.take 32) (leBytes 12 0) (zeros 1568) (zeros 96)).map f)

/-- The block that SESSION_OPEN opens, from its argument block. -/
theorem ses_parts (f : Byte → Byte) : (sesArgs f).take 1568 = zeros 1568 ∧ ((sesArgs f).drop 1568).take 96 = zeros 96 ∧
    ((sesArgs f).drop 1664).take 16 = (gcmTag (sesKeys.take 32) (leBytes 12 0) (zeros 1568) (zeros 96)).map f := by
  have hz : ∀ n, (zeros n).length = n := fun n => List.length_replicate ..
  have hd : (sesArgs f).drop 1568 = zeros 96 ++ (gcmTag (sesKeys.take 32) (leBytes 12 0) (zeros 1568) (zeros 96)).map f := List.drop_left' (hz _)
  refine ⟨List.take_left' (hz _), by rw [hd, List.take_left' (hz _)], ?_⟩
  have h64 : (sesArgs f).drop 1664 = ((sesArgs f).drop 1568).drop 96 := by rw [List.drop_drop]
  rw [h64, hd, List.drop_left' (hz _), List.take_of_length_le (Nat.le_of_eq (by rw [List.length_map, length_gcmTag]))]

/-- One WRAP opens, another does not. -/
theorem wit_SessionsOpen_wrap :
    (gcmOpen (sesKeys.take 32) (leBytes 12 0) ((sesArgs id).take 1568) (((sesArgs id).drop 1568).take 96) (((sesArgs id).drop 1664).take 16)).isSome = true ∧
    gcmOpen (sesKeys.take 32) (leBytes 12 0) ((sesArgs (~~~ ·)).take 1568) (((sesArgs (~~~ ·)).drop 1568).take 96) (((sesArgs (~~~ ·)).drop 1664).take 16) = none := by
  obtain ⟨a1, a2, a3⟩ := ses_parts id
  obtain ⟨b1, b2, b3⟩ := ses_parts (~~~ ·)
  rw [a1, a2, a3, b1, b2, b3]
  refine ⟨by simp [gcmOpen], ?_⟩
  unfold gcmOpen
  rw [if_neg (flipped_ne (length_gcmTag ..))]

theorem wit_SessionsOpen : (∀ b k a, StartsIn 0x72 [] a (trusting b k Trust.reset)) ∧ (trusting true none Trust.reset openState).mod.session = true ∧
    (trusting false none Trust.reset openState).trust.kem = none ∧ (trusting false (some (5, [])) Trust.reset openState).trust.kem = some (5, []) ∧
    ((inSession false).ring 63).eseq ≠ 0 ∧ (let r := (ringing63 { ringOf 5 2 with state := 3, cause := 0x0A } openState).ring 63;
      r.eseq ≠ 0 ∧ r.state = 3 ∧ r.cause = 0x0A) ∧ (∀ f, (orderOf 0x72 [] (sesArgs f)).args = sesArgs f) := by
  refine ⟨fun b k a => starts_trust _ _ _ _ _ _, ?_, ?_, ?_, ?_, ?_, fun _ => rfl⟩ <;> decide +kernel

theorem wit_SessionsClose : StartsIn 0x73 [] [] (trusting true none Trust.reset) := starts_trust _ _ _ _ _ _

/-- An image that passes every check but its signature, which the model leaves free (log entry 12): four components of 64 B. -/
def fwHeader : List Byte :=
  ascii "TBFW" ++ leBytes 2 1 ++ leBytes 1 3 ++ leBytes 1 4 ++ leBytes 4 7 ++ leBytes 2 0 ++ leBytes 2 9 ++ leBytes 4 16448 ++ List.replicate 44 0#8 ++
    ([1, 2, 3, 4].flatMap fun k => leBytes 1 k ++ leBytes 3 0 ++ leBytes 4 (4096 * k) ++ leBytes 4 64 ++ List.replicate 20 0#8)
def fwBytes : List Byte := fwHeader ++ List.replicate 16256 0#8
/-- The argument block of FW_STAGE: SRC, LENGTH. -/
def stageArgs (n : Nat) : List Byte := argBlock [(8, ddrBase), (4, n)] []

theorem fw_length : fwBytes.length = 16448 := by
  have h : fwHeader.length = 192 := by decide +kernel
  rw [fwBytes, List.length_append, h, List.length_replicate]

theorem wit_FirmwareOrders : (∀ op a b k t, StartsIn op [] a (trusting b k t)) ∧ Trust.reset.act = none ∧ ({ Trust.reset with act := some 5 } : Trust).act.isSome = true ∧
    (imageOfBytes ([] : List Byte)).check = 1 ∧ Trust.reset.staged = none ∧ ({ Trust.reset with staged := some (FwImage.blank 0) } : Trust).staged.isSome = true ∧
    ((orderOf 0x74 [] (stageArgs 16448)).arg 8 4 = 16448 ∧ fwBytes.take 16448 = fwBytes) ∧ Trust.reset.slot = 0 := by
  refine ⟨fun op a b k t => starts_trust _ _ _ _ _ _, rfl, rfl, rfl, rfl, rfl, ⟨by decide +kernel, List.take_of_length_le (Nat.le_of_eq fw_length)⟩, rfl⟩

theorem check_of (l : List Byte) : (imageOfBytes l).check = imageCheck l := rfl

theorem wit_FirmwareOrders_image (h : Config.falconOk (Config.fwKey 3) (imageM fwBytes) ((fwBytes.drop 2048).take 1280) = true) : (imageOfBytes fwBytes).check = 0 := by
  rw [check_of]
  have c : [0, 1, 2, 3].map (compOf fwBytes) = [(1, 4096, 64), (2, 8192, 64), (3, 12288, 64), (4, 16384, 64)] := by decide +kernel
  have f : fieldAt fwBytes 16 4 = 16448 ∧ fwBytes.take 4 = ascii "TBFW" ∧ fieldAt fwBytes 4 2 = 1 ∧ fieldAt fwBytes 6 1 = 3 ∧ fieldAt fwBytes 7 1 = 4 := by decide +kernel
  have z : (notZero ((fwBytes.drop 20).take 44) || notZero ((fwBytes.drop 192).take 1856) || notZero ((fwBytes.drop 3328).take 768)
      || [0, 1, 2, 3].any fun c => notZero ((fwBytes.drop (65 + 32 * c)).take 3) || notZero ((fwBytes.drop (76 + 32 * c)).take 20)) = false := by decide +kernel
  unfold imageCheck
  rw [c, f.1, f.2.1, f.2.2.1, f.2.2.2.1, f.2.2.2.2, fw_length, z, h]
  rfl

/-- A module whose activation 77 is pending, its staged image and reload as given, with a HOLD in flight. -/
def activating (reload : Option Nat) (s : State) : State :=
  { ringing .hold s with trust := { s.trust with act := some 77, staged := some (FwImage.blank 0), reloading := reload } }
def actOrder : Order := orderOf 0x75 [] []

theorem numbered_actOrder : OrdersNumbered (activating none (ordered actOrder id)) := ⟨by decide +kernel, by decide +kernel, by decide +kernel⟩

theorem wit_HoldCancelsActivation : let s := activating none (ordered actOrder id)
    Claim.Next s (symOf .hold) ∧ (symOf .hold).kind = .hold ∧ s.trust.act = some 77 ∧ s.trust.reloading = none ∧ OrdersNumbered s ∧
    s.findOrder 77 = some actOrder ∧ (s.ring 63).broken = false ∧ s.ringUp 0 = true :=
  ⟨rfl, rfl, rfl, rfl, numbered_actOrder, by decide +kernel, by decide +kernel, by decide +kernel⟩

theorem wit_HoldCancelsActivation_session : let s := { activating none (ordered actOrder id) with mod := { (ordered actOrder id).mod with session := true } }
    s.mod.session = true ∧ (s.ring 63).cplSpent = false ∧ (symOf .hold).kind = .hold ∧ s.trust.act = some 77 := by decide +kernel

theorem wit_ActivationEnds : let s := fun (st n : Nat) => { activating (some 0) (ordered actOrder id) with decisions := n, cores := tput openState.cores 60 ⟨st, 0, 1, 0⟩ }
    (s 1 7).trust.act = some 77 ∧ (s 1 7).trust.reloading = some 0 ∧ (s 1 7).trust.staged = some (FwImage.blank 0) ∧ (s 1 7).coreOut = none ∧
    (s 2 7).coreOut = some 60 ∧ (s 2 7).eighthLatch 0 = false ∧ (s 2 9).eighthLatch 0 = true ∧ (s 2 9).coreOut = some 60 ∧
    (∀ x ∈ selectorOf openState.flash.sel0, x.1 < 2 ^ 32 - 1) ∧ (∀ x ∈ selectorOf openState.flash.sel1, x.1 < 2 ^ 32 - 1) := by decide +kernel

/-- At the eighth decision itself the latch comes 90 cy later. -/
theorem test_eighth_latch : let s := fun (n : Nat) => { openState with decisions := 8, now := n, bell := { openState.bell with lastD := 1000 } }
    ((s 1089).eighthLatch 0, (s 1090).eighthLatch 0) = (false, true) := by decide

/-- A core in a state since decision 0, after some decisions; context 1 on the die. -/
def cored (die core st n : Nat) (s : State) : State := { s with decisions := n, cores := tput s.cores (4 * die + core) ⟨st, 0, 1, 0⟩ }

theorem wit_CoresRestart : openState.awake = true ∧ (openState.core 15 0).state = 1 ∧ (openState.core 3 3).state = 1 ∧
    openState.deadDies.contains openState.bell.lead = false := by decide +kernel

theorem wit_CoresAreKicked : (openState.core 15 0).state ≠ 2 ∧ ((cored 0 0 2 0 openState).core 0 0).state = 2 ∧ (cored 0 0 2 0 openState).conf.ringDie = 0 ∧
    (cored 0 0 2 0 openState).ringUp 0 = true ∧ ((cored 3 1 2 0 (cored 0 0 2 0 openState)).core 3 1).state = 2 ∧
    ((cored 3 1 2 0 (cored 0 0 2 0 openState)).core 0 0).state ≠ 1 ∧
    (let s := { cored 0 0 2 0 openState with intHeld := [64, 65], intLast := [(65, openState.now)] }
     s.mod.configValid = true ∧ s.intHeld.Nodup ∧ s.gapOver 64 = true ∧ s.gapOver 65 = false ∧ s.intHeld ≠ []) := by decide +kernel

theorem wit_CoresFail : let s := fun (core n : Nat) => cored 3 core 2 n (ordered actOrder (inCtx .running))
    ([0, 1, 2].all fun k => decide (((s k 8).core 3 k).state = 2 ∧ (s k 9).eighthLatch ((s k 9).core 3 k).fired = true ∧ (s k 7).eighthLatch ((s k 7).core 3 k).fired = false ∧
      (s k 8).trust.reloading = none ∧ (s k 8).pow.dieResetting.contains 3 = false)) = true ∧
    tfind (s 0 8).stalls sid0.num = some { Stall.fresh with occ := some 1 } ∧ dieOf sid0.num = 3 ∧ ((s 0 8).ctx 1).state = .running ∧
    ((s 0 8).ctx 1).cause = none ∧ OrdersNumbered (s 1 8) ∧
    (moveOf ∈ (moving (s 0 9)).ledger.moves ∧ moveOf.engine = 3 ∧ moveOf.phase = .moving ∧ ((moving (s 0 9)).core 3 0).state = 2) :=
  ⟨by decide +kernel, by decide +kernel, by decide, by decide +kernel, by decide +kernel, ⟨by decide +kernel, by decide +kernel, by decide +kernel⟩, by decide +kernel⟩

/-! ## Power, boot and resets (statements RailsGoOff to DomainsArePowered) -/

/-- The module in another state (0 OFF, 1 STANDBY, 2 HELD). -/
def inMode (n : Nat) (s : State) : State := { s with mod := { s.mod with state := n } }

theorem wit_RailsGoOff : (inMode 0 openState).mod.state = 0 ∧ openState.mod.state ≠ 0 ∧ openState.awake = true := by decide

theorem test_reset_n_low_empties_the_module : let t := after (exec .resetNLow (inCtx .running openState))
    (t.mod.state, t.stalls, t.bell.count, t.pkg.bootStage) = (1, [], 0, t.pkg.bootStage) := by decide +kernel

/-- What a boot may find: dies whose self-test failed, lane flights other than 9 cy. -/
def reportOf (flights : List (Nat × Nat × Int)) (bad : List Nat) : BootReport := ⟨flights, bad, [], [], [], 0, true, true⟩
def report (bad : List Nat) : BootReport := reportOf [] bad
def standby (a b : FwImage) : State := { inMode 1 State.reset with flash := { State.reset.flash with slotA := a, slotB := b } }

theorem wit_Boots : openState.mod.state ≠ 1 ∧ (standby (FwImage.blank 0) (FwImage.blank 0)).mod.state = 1 ∧ (standby (FwImage.blank 0) (FwImage.blank 0)).pkg.flashSelN = true ∧
    ({ standby (FwImage.blank 0) (FwImage.blank 0) with pkg := { State.reset.pkg with flashSelN := false } } : State).pkg.flashSelN = false ∧
    badLanes (report []) [] = [] ∧ badLanes (reportOf [(15, 3, -20), (3, 15, 43)] []) [] = [] ∧ badLanes (reportOf [(15, 3, 44)] []) [] = [(15, 3)] ∧
    badLanes (reportOf [(15, 3, -21)] []) [] = [(15, 3)] ∧ badLanes (report (upFrom 0 16)) (upFrom 0 16) = [] ∧ badLanes (report [3]) [3] = [] ∧
    (standby (FwImage.blank 0) (FwImage.blank 0)).pkg.bootStage ≠ 13 ∧
    ({ standby (FwImage.blank 0) (FwImage.blank 0) with pkg := { State.reset.pkg with bootStage := 13 } } : State).pkg.bootStage = 13 ∧ firstSound (report (upFrom 0 16)) = none ∧ firstSound (report [3]) = some 4 ∧
    (let ok := fun (a b : FwImage) (n : Nat) => (flashImage (standby a b).flash ((flashSelected (standby a b).flash + n) % 2)).check
     ok (FwImage.blank 0) (FwImage.blank 1) 0 = 0 ∧ ok (FwImage.blank 1) (FwImage.blank 0) 0 ≠ 0 ∧ ok (FwImage.blank 1) (FwImage.blank 0) 1 = 0 ∧
      ok (FwImage.blank 1) (FwImage.blank 2) 1 ≠ 0) := by decide +kernel

/-- The election order of R34 in full, and that it is a permutation of the dies. -/
theorem test_election_order : electionOrder = [3, 4, 11, 12, 2, 5, 10, 13, 1, 6, 9, 14, 0, 7, 8, 15] := by decide

theorem wit_WarmClears : openState.awake = true ∧ ((inSession true).ring 63).state = 1 ∧
    (({ inSession true with rings := [(63, { ringOf 5 2 with ohead := 9 })] } : State).ring 63).ohead ≠ 0 := by decide +kernel

/-- A die that is busy, fenced, held, under reset. -/
theorem wit_DieResets : let busy := fun (s : State) (n : Nat) => s.stalls.any fun p => dieOf p.1 = n && p.2.occ.isSome
    ({ openState with deadDies := [15] } : State).deadDies.contains 15 = true ∧ openState.deadDies.contains 15 = false ∧
    bitsAt (0xC1EA0001#32 : BitVec 32).toNat 16 16 = 0xC1EA ∧ bitAt (0xC1EA0001#32 : BitVec 32).toNat 0 = true ∧ bitsAt (1#32 : BitVec 32).toNat 16 16 ≠ 0xC1EA ∧
    openState.pow.dieResetAsked.contains 15 = false ∧ busy (inCtx .running openState) 3 = true ∧ busy openState 3 = false ∧ openState.bell.lead = 3 ∧
    ({ openState with heldDies := [15] } : State).heldDies.contains 15 = true ∧
    (busy openState 15 = false ∧ 15 ≠ openState.bell.lead ∧ 15 ≠ openState.conf.ringDie ∧ openState.heldDies.contains 15 = false) ∧
    openState.pow.dieResetting.contains 15 = false ∧ ({ openState with pow := { openState.pow with dieResetting := [15] } } : State).pow.dieResetting.contains 15 = true := by
  decide +kernel

/-- Domain 319 (19 of CD15) as given. -/
def domained (d : Domain) (s : State) : State := { s with pow := { s.pow with domains := [(319, d)], replanDue := true } }
def noPower (s : State) : State := { s with cores := [] }

theorem wit_CanariesFire : let d := fun (n : Nat) (due : Option Nat) => { Domain.fresh with vcode := n, due := due }
    let s := fun (n : Nat) (due : Option Nat) => domained (d n due) openState
    openState.awake = true ∧ (asleep openState).awake = false ∧ ({ openState with fencedDoms := [319] } : State).domFenced 15 19 = true ∧
    (s 199 none).domFenced 15 19 = false ∧ (noPower (s 199 none)).powerRuns = false ∧ (s 199 none).powerRuns = true ∧ ((s 199 none).dom 319).vcode < 200 ∧
    ((s 199 none).dom 319).canaryBell ≠ some (s 199 none).bell.count ∧
    ((domained { d 16 none with canaryBell := some 0 } openState).dom 319).canaryBell = some 0 ∧ openState.bell.count = 0 ∧
    200 ≤ ((s 200 none).dom 319).vcode ∧ ((s 200 none).dom 319).due = none ∧ ((s 200 (some 1)).dom 319).due.isSome = true := by decide +kernel

/-- A re-plan of domain 319: its VPASS; every domain but those of CD15 is fenced. -/
def replanning (v : Option Nat) : State := { domained { Domain.fresh with vpass := v } openState with deadDies := upFrom 0 15, fencedDoms := upFrom 300 19 }

theorem wit_Replans : openState.awake = true ∧ openState.powerRuns = true ∧ openState.pow.replanDue = false ∧ (replanning none).pow.replanDue = true ∧
    (replanning none).domFenced (319 / 20) (319 % 20) = false ∧ ((replanning none).dom 319).due = none ∧ ((replanning none).dom 319).vpass = none ∧
    max (184 + (replanning (some 184)).guardCodes + ceilDiv (32768 - 32768) 64) 0 = 200 ∧ max (185 + (replanning (some 185)).guardCodes + ceilDiv (32768 - 32768) 64) 0 = 201 ∧
    (replanning none).domFenced (318 / 20) (318 % 20) = true ∧ (replanning (some 0)).pow.logDue = [] ∧
    ((after (exec (.replan [] true) (replanning (some 184)))).dom 319).vcode ≠ ((replanning (some 184)).dom 319).vcode := by decide +kernel

/-- With VPASS 0 and no ageing the domain keeps code 16. -/
theorem wit_Replans_nothing :
    (after (exec (.replan [] true) (replanning (some 0)))).pow.domains = [(319, Domain.fresh)] ∧ (replanning (some 0)).pow.domains = [(319, Domain.fresh)] := by decide +kernel

theorem test_replan_caps : let d := fun (v : Nat) => ((replanning (some v)).planDom 319 1).dom 319
    (d 184, d 185) = ({ Domain.fresh with vpass := some 184, vcode := 200 }, { Domain.fresh with vpass := some 185, vcode := 200, due := some 1 }) := by
  decide +kernel

theorem wit_DomainsArePowered : let s := { openState with pow := { openState.pow with exit := some 100, powered := upFrom 0 19 } }
    ({ openState with fencedDoms := [319] } : State).domFenced 15 19 = true ∧ openState.domOccupied 319 = [] ∧ openState.domFenced 15 19 = false ∧
    openState.pow.exit = none ∧ s.pow.exit = some 100 ∧ s.pow.powered.length = 19 ∧ s.pow.powered.length ≠ 18 := by decide +kernel

/-- CD15 under reset: measured as given, its domain 19 becomes due or nothing does. -/
def underReset : State := { openState with pow := { openState.pow with dieResetting := [15] } }
def trimsOf (ok19 : Bool) : List DomainTrim := (upFrom 0 20).map fun k => ⟨15, k, some 5, 32768, decide (k ≠ 19) || ok19⟩
def newFences (ok19 : Bool) : Bool :=
  let t := after (execDieResetDone 15 (trimsOf ok19) true underReset)
  (upFrom 0 320).any fun i => (t.dom i).due.isSome && (underReset.dom i).due.isNone

theorem wit_DieResets_fences : underReset.pow.dieResetting.contains 15 = true ∧ newFences true = false ∧ newFences false = true := by decide +kernel

/-! ## Check units and queues (statements CheckUnitsStart to QueueErrors) -/

/-- Check unit 3 of CD15 as given. -/
def checkUnit (c : CheckUnit) (s : State) : State := { s with cus := [(63, c)] }
/-- A unit of a width and mode that watches slot `i` of stall (0, 0) of its die, stream ID 0. -/
def cuOf (width mode i : Nat) : CheckUnit := { CheckUnit.fresh with cfg := width + mode * 512, snoop := i * 8192 }

theorem wit_CheckUnitsStart : UnitUp openState 15 ∧
    (let c := cuOf 64 0 0; 8 ≤ c.width ∧ c.width ≤ 64 ∧ c.poly < 2 ^ c.width ∧ c.init < 2 ^ c.width ∧ c.xorout < 2 ^ c.width) ∧
    (cuOf 8 0 0).width = 8 ∧ (cuOf 7 0 0).width < 8 ∧ 64 < (cuOf 65 0 0).width := by unfold UnitUp; decide +kernel

theorem test_start_refuses_seven_bits : let t := after (exec (.start 15 3) (checkUnit (cuOf 7 0 0) openState))
    ((t.cu 15 3).status, t.inc.log.head?.map fun i => (i.code, i.detail)) = (64, some (0x0E06, [1])) := by decide +kernel

theorem wit_FeedWrites : UnitUp openState 15 ∧ (cuOf 8 1 0).mode = 1 ∧ 8 ≤ (cuOf 8 1 0).width ∧ (cuOf 64 1 0).width ≤ 64 ∧ (cuOf 8 3 0).mode ≠ 1 := by
  unfold UnitUp; decide +kernel

/-- The four bytes "1234" by one word write give the register that they give byte by byte. -/
theorem test_feed_word_is_low_byte_first : ((after (exec (.feedW 15 3 0x34333231#32) (checkUnit (cuOf 16 1 0) openState))).cu 15 3).fed = 4 ∧
    ((after (exec (.feedW 15 3 0x34333231#32) (checkUnit { cuOf 16 1 0 with poly := 0x1021, state := 0xFFFF } openState))).cu 15 3).state =
      crcFeeds 16 0x1021 false 0xFFFF (ascii "1234") := by decide +kernel

/-- Stall (0, 0) of CD15 with a stream in slot 7. -/
def streaming (c : CheckUnit) : State :=
  { checkUnit c openState with ports := [(15 * 8192, { StallPort.fresh with slots := [(7, runSlot dCopy)] })] }

theorem wit_SnoopsAttach : UnitUp openState 15 ∧ 5120 ≤ ({ cuOf 32 2 0 with snoop := 5120 } : CheckUnit).stall ∧ (cuOf 32 2 7).stall < 5120 ∧ (cuOf 32 2 7).mode = 2 ∧
    (cuOf 32 1 7).mode ≠ 2 ∧ (streaming (cuOf 32 2 0)).snooped 15 (cuOf 32 2 0) = none ∧
    ((streaming (cuOf 32 2 7)).snooped 15 (cuOf 32 2 7)) = some (runSlot dCopy, descOf dCopy) ∧
    ({ cuOf 32 2 7 with fed := 65 } : CheckUnit).fed % 64 ≠ 0 ∧ ({ cuOf 32 2 7 with fed := 128 } : CheckUnit).fed % 64 = 0 := by unfold UnitUp; decide +kernel

/-- An attached unit that waits for line 0, which has come. -/
def snooping (pub : Bool) (g : Nat) (more : Bool) : CheckUnit :=
  { cuOf 64 2 7 with attached := true, goSeq := some g, window := (0, (5#512, pub)) :: if more then [(1, (6#512, true))] else [] }

theorem wit_SnoopedLinesAreFed : (cuOf 64 2 7).attached = false ∧ (snooping true 4 false).attached = true ∧
    tfind (snooping false 4 false).window (snooping false 4 false).nextLine = some (5#512, false) ∧
    tfind (snooping true 4 true).window (snooping true 4 true).nextLine = some (5#512, true) ∧ 8 ≤ (snooping true 4 true).width ∧ (snooping true 4 true).width ≤ 64 ∧
    (tdel (snooping true 3 false).window 0 = [] ∧ some (((streaming (snooping true 3 false)).port (15 * 8192)).slot 7).goSeq ≠ (snooping true 3 false).goSeq) ∧
    (tdel (snooping true 4 true).window 0 ≠ []) := by decide +kernel

theorem wit_QueueErrors : UnitUp openState 15 ∧ HostReaches openState ∧ ((ported upPort).wport 15).state ≠ 0 := by unfold UnitUp HostReaches; decide +kernel

/-! ## The module sideband (statements SidebandReads to ExtestHolds) -/

theorem wit_SidebandReads : (inMode 0 openState).mod.state = 0 ∧ openState.mod.state ≠ 0 ∧ (0x7FFF#16 : BitVec 16).toNat < 0x8000 ∧ openState.pkg.i3cIndex + 0x8000 ≤ 0x8000 ∧
    (0x800F#16 : BitVec 16).toNat = 0x8000 + 15 ∧ ({ openState with pkg := { openState.pkg with i3cIndex := identityIndex 15 } } : State).pkg.i3cIndex = identityIndex 15 ∧
    openState.flashOut = false := by decide

theorem wit_SidebandIndices : 2 ≤ (inMode 2 openState).mod.state ∧ (inMode 1 openState).mod.state < 2 := by decide

theorem test_mod_state_by_sideband : ((upFrom 4 4).map openState.i3cByte) = [3 + 8, 0, 0, 0] := by decide +kernel

theorem wit_DynamicAddresses : openState.mod.state ≠ 0 ∧ (0x34#7 : BitVec 7).toNat = 0x34 + openState.pkg.addrPins ∧ (0x35#7 : BitVec 7).toNat ≠ 0x34 + openState.pkg.addrPins ∧
    openState.pkg.dynAddr = none ∧ ({ openState with pkg := { openState.pkg with dynAddr := some 8 } } : State).pkg.dynAddr.isSome = true := by decide

theorem wit_FlashIsSwitched : openState.pkg.rails = true ∧ openState.mod.state ≠ 1 ∧
    (let s := { inMode 1 openState with pkg := { openState.pkg with rails := false } }; s.pkg.rails = false ∧ s.mod.state = 1 ∧ s.pkg.flashSelN = true) := by decide

/-- The TAP out of reset, in a mode. -/
def tapped (n : Nat) : State := { inMode n openState with pkg := { openState.pkg with trstN := true } }

theorem wit_TapInstructions : TapRuns (tapped 3) ∧ 2 ≤ (tapped 3).mod.state ∧ TapRuns (tapped 1) ∧ (tapped 1).mod.state < 2 ∧ ¬ TapRuns (tapped 0) ∧ ¬ TapRuns { openState with pkg := { openState.pkg with trstN := false } } := by
  unfold TapRuns; decide

theorem test_idcode_ends_extest : (after (exec .idcode { tapped 3 with pkg := { (tapped 3).pkg with ir := 4, extest := some 5, cells := true } })).extesting = false := by
  decide +kernel

theorem wit_ExtestHolds : TapRuns (tapped 3) ∧ (tapped 3).awake = true ∧ (tapped 3).deadDies.contains (tapped 3).bell.lead = false ∧ (tapped 3).pkg.extest = none ∧
    (let s := { tapped 3 with pkg := { (tapped 3).pkg with extest := some 5 } }; s.pkg.extest = some 5 ∧ s.pkg.cells = false) := by unfold TapRuns; decide +kernel

/-! ## Where commands complete (statement CommandsComplete)

Its conditions are those of the statements above, which their witnesses meet; those that it narrows are met here. -/

theorem wit_CommandsComplete_words : let f : FmtTcSet := ⟨15#4, 1#5, 2#5, 0#38⟩; let s := stateAt Stall.fresh (f.word 0x18#6 0x00#6)
    Issues s sid0 (f.word 0x18#6 0x00#6) ∧ noneWaits s sid0 [f.sa.toNat, f.sb.toNat] ∧ (s.stall sid0.num).sreg f.sa.toNat = 0#64 ∧
    (s.stall sid0.num).sreg f.sb.toNat = 0#64 ∧ (s.stall sid0.num).ops = [] ∧ (scl 7 0 0 0).qa ≠ 0#5 ∧ Fmt.ofCode 8 ≠ none := by
  refine ⟨issues_of ?_, none_waits ?_, ?_, ?_, ?_, ?_, ?_⟩ <;> decide +kernel

theorem wit_CommandsComplete_events :
    (let s := mapped (stateOf Stall.fresh { reqPort with slots := [(1, runSlot dCopy)] } 0#64)
     s.porterRuns sid0.num = true ∧ ((upFrom 0 8).all fun j => !s.orphanFlow sid0.num j && (j = 1 || (s.eligible sid0.num j).isNone)) = true ∧
      (s.eligible sid0.num 1).isSome = true) ∧
    (let a := mreq 11 sid0.num 0x7C0 (.tracker 3 31) none; (rs [a]).inQueue 3 31 16 = [] ∧ (rs [a]).inTracker 3 31 = [a]) ∧
    (let r := mreq 11 sid0.num 0x200000 .spine none; (rs [r]).reqs = [r] ∧ dieOf r.sid = 3 ∧ rowOf r.sid = 0) ∧
    (let r := ddrRead (.host 7); (rs [r]).reqs = [r] ∧ (rs [r]).target r.addr = .host ∧ r.left = some 7 ∧ r.answered = false) := by decide +kernel

theorem wit_CommandsComplete_messages : let n := mkMsg 10 1 0 0 0 14 1 8 15 none []
    let s := { remoteState n with fab := { (remoteState n).fab with remotes := [] } }
    Gets s 15 1 n ∧ s.fab.held = [] ∧ s.sets = [] ∧ s.sentOf n.tag = none ∧
    (remoteState n).fab.remotes = [⟨7, 15, 0x200000, 2, false, 0, [11, 12], some 3⟩] ∧
    (∀ k iv, openBlock k iv true [] = .bad) := by
  refine ⟨gets_of ?_, ?_, ?_, ?_, ?_, fun _ _ => by simp [openBlock]⟩ <;> decide +kernel

end Sys2Proof.Tests
end

section
/-! PROOF. Faulty star symbols (01_bell.md R31): when a receive port finds a symbol faulty, and the hold that it then sources. -/
namespace Sys2Proof.Machine
open Sys2Proof.Claim

/-! ## Holds that are decided -/

/-- A die that works, in a module whose rails are on, puts its HOLD on the star. -/
theorem decideHold_of_awake (s : State) (die cause cy : Nat) (hawake : s.awake = true) (halive : s.deadDies.contains die = false) :
    s.decideHold die cause cy = { s with bell := withHold s.bell die cause cy } := by
  rcases decideHold_cases s die cause cy with ⟨-, -, heq⟩ | ⟨hoff | hdead, -⟩
  · exact heq
  · exact absurd (hoff.symm.trans hawake) (by decide)
  · exact absurd (hdead.symm.trans halive) (by decide)

/-- Reports leave the bell unit, the clock and all that a program can see as they were. -/
theorem holds_of_sameButReports {s t u : State} {die cause delay : Nat} (h : Holds s t die cause delay) (hsame : SameButReports t u) :
    Holds s u die cause delay := by
  rw [hsame.eq]
  exact h

/-- A hold source of Table BELL.5 that also reports: the HOLD is decided and one incident is recorded, both at that die. -/
theorem decideHold_raiseDie_holds_records (s : State) (die cause delay code : Nat) (detail : List Nat) (hawake : s.awake = true)
    (halive : s.deadDies.contains die = false) :
    let t := (s.decideHold die cause (s.now + delay)).raiseDie code die detail
    Holds s t die cause delay ∧ Records s t code die detail := by
  rw [decideHold_of_awake s die cause _ hawake halive]
  obtain ⟨hsame, hlog⟩ := raiseDie_same { s with bell := withHold s.bell die cause (s.now + delay) } code die detail
  have hheld : Holds s { s with bell := withHold s.bell die cause (s.now + delay) } die cause delay :=
    ⟨rfl, rfl, rfl, rfl, rfl, rfl, rfl, rfl, rfl, rfl⟩
  exact ⟨holds_of_sameButReports hheld hsame, hlog⟩

/-! ## Symbols that arrive -/

/-- The three errors of R31: even parity, a BELL or RELEASE of a die that does not lead, a fenced die's lane. -/
theorem badSymbol_iff (s : State) (lane sym : Nat) :
    s.badSymbol lane sym = true ↔
      onesOf sym % 2 = 0 ∨ ((bitsAt sym 6 2 = 1 ∨ bitsAt sym 6 2 = 3) ∧ bitsAt sym 1 4 ≠ s.bell.lead) ∨ s.deadDies.contains lane = true := by
  simp [State.badSymbol, or_assoc]

/-- A faulty symbol at a die that works sources a hold there and is recorded. -/
theorem execStarSymbol_of_bad {s : State} {die lane : Fin 16} {sym : BitVec 8} (hawake : s.awake = true)
    (halive : s.deadDies.contains die.val = false) (hbad : s.badSymbol lane.val sym.toNat = true) :
    execStarSymbol die lane sym s =
      .next ((s.decideHold die.val causeStar (s.now + 5)).raiseDie 0x0104 die.val [lane.val, sym.toNat]) := by
  unfold execStarSymbol
  rw [if_neg (by rw [hawake, halive, hbad]; decide)]

/-- A symbol without fault leaves the module as it is. -/
theorem execStarSymbol_of_good {s : State} {lane : Fin 16} {sym : BitVec 8} (die : Fin 16)
    (hgood : s.badSymbol lane.val sym.toNat = false) : execStarSymbol die lane sym s = .next s := by
  unfold execStarSymbol
  rw [if_pos (by rw [hgood, Bool.not_false, Bool.or_true])]

/-- STAR_SYMBOL's meaning is that of a receive port. -/
theorem exec_starSymbol (die lane : Fin 16) (sym : BitVec 8) (s : State) :
    exec (.starSymbol die lane sym) s = execStarSymbol die lane sym s := rfl

/-- Settles O46: a symbol is faulty exactly when one of R31's three errors stands, and a faulty one is a hold source that reports. -/
theorem starSymbolErrors : Obligations.StarSymbolErrors := by
  unfold Obligations.StarSymbolErrors Claim.StarSymbolErrors
  intro s die lane sym hawake halive ones ty bad
  have hiff : s.badSymbol lane.val sym.toNat = true ↔ bad := badSymbol_iff s lane.val sym.toNat
  rw [exec_starSymbol]
  constructor
  · intro hbad
    exact ⟨_, execStarSymbol_of_bad hawake halive (hiff.mpr hbad),
      decideHold_raiseDie_holds_records s die.val causeStar 5 0x0104 [lane.val, sym.toNat] hawake halive⟩
  · intro hgood
    exact execStarSymbol_of_good die (Bool.eq_false_iff.mpr (mt hiff.mp hgood))

end Sys2Proof.Machine
end

section
/-! PROOF. Words that stop a stall (02_stall.md R63, R65, R67, R68): unlisted words, reserved bits, a PC past stock, and the fetch of
the next word's line. -/
namespace Sys2Proof.Machine
open Sys2Proof.Claim

/-! ## The causes of a fault -/

/-- After a cause that holds, one with no lower code makes no difference. -/
theorem lowestCode_skip {c : Nat} {p : Bool × Nat} (hp : c ≤ p.2) (l : List (Bool × Nat)) :
    lowestCode ((true, c) :: p :: l) = lowestCode ((true, c) :: l) := by
  simp [lowestCode, Nat.min_eq_left hp]

/-- A cause that holds and comes first is the one reported, where no other has a lower code (R106). -/
theorem lowestCode_of_head {c : Nat} {l : List (Bool × Nat)} (hle : ∀ p ∈ l, c ≤ p.2) : lowestCode ((true, c) :: l) = some c := by
  induction l with
  | nil => rfl
  | cons p r ih =>
    obtain ⟨hp, hr⟩ := List.forall_mem_cons.mp hle
    exact (lowestCode_skip hp r).trans (ih hr)

/-- Causes come before waits and the effect (R65). -/
theorem issueIf_of_lowestCode {causes : List (Bool × Nat)} {c : Nat} (h : lowestCode causes = some c) (ready : Bool) (go : Issue) :
    issueIf causes ready go = .fault c [] := by
  simp [issueIf, h]

/-- Once its scalar operands are there, a local instruction issues by its causes. -/
theorem issueLocal_of_sReady {t : Stall} {srcs : List Nat} (h : t.sReady srcs = true) (causes : List (Bool × Nat)) (ready : Bool)
    (go : Issue) : issueLocal t srcs causes ready go = issueIf causes ready go := by
  simp [issueLocal, h]

/-! ## What the executor meets at a PC -/

/-- A stall that issues a word may issue. -/
theorem mayIssue_of_issues {s : State} {sid : StallId} {w : Word64} (h : Issues s sid w) : s.mayIssue sid.num = true := by
  simp [State.mayIssue, h.isOpen, h.notHeld, h.notFenced, h.running, h.atNoSquare, -List.contains_eq_mem, h.dieUp]

/-- A word whose line is not in the buffer cannot be read. -/
theorem wordAt_of_not_holdsLine {t : Stall} {pc : Nat} (h : t.holdsLine (pc / 64) = false) : t.wordAt pc = none := by
  simpa [Stall.wordAt, Stall.holdsLine] using h

/-- A PC past stock faults before any word is looked for (R65). -/
theorem issueAt_past_stock {s : State} {sid : StallId} (word : Word64) (f : State → Nat → Stall → Issue)
    (hm : s.mayIssue sid.num = true) (hp : stockBytes ≤ (s.stall sid.num).pc) :
    s.issueAt sid word f = (s.at (s.stall sid.num).nextIssue).stallFault sid.num 0x0205 [] := by
  simp [State.issueAt, hm, hp]

/-- Where the buffer lacks the line at the PC, issue only requests it (R63). -/
theorem issueAt_of_not_holdsLine {s : State} {sid : StallId} (word : Word64) (f : State → Nat → Stall → Issue)
    (hm : s.mayIssue sid.num = true) (hp : (s.stall sid.num).pc < stockBytes)
    (hline : (s.stall sid.num).holdsLine ((s.stall sid.num).pc / 64) = false) :
    s.issueAt sid word f = (s.at (s.stall sid.num).nextIssue).setStall sid.num
      ((s.stall sid.num).request ((s.stall sid.num).pc / 64) (issueCy s sid)) := by
  simp [State.issueAt, hm, Nat.not_le.mpr hp, wordAt_of_not_holdsLine hline, issueCy]

/-- A stock line that the buffer lacks is on its way once it has been requested (R63). -/
theorem request_requests {t : Stall} {l : Nat} (now : Nat) (hline : t.holdsLine l = false) (hl : l < 3072) :
    (t.request l now).fetchReq.any (fun r => r.1 = l) = true := by
  unfold Stall.request
  by_cases hreq : t.fetchReq.any (fun r => r.1 = l) = true
  · rw [hreq, Bool.or_true, Bool.true_or, if_pos rfl]
    exact hreq
  · rw [if_neg (by simpa [hline, Nat.not_le.mpr hl] using hreq)]
    simp

/-! ## Precise faults -/

/-- The report of a stall's incident, and the record that it leaves. -/
theorem raiseStall_same (s : State) (code k : Nat) (detail : List Nat) :
    SameButReports s (s.raiseStall code k detail) ∧
    (s.raiseStall code k detail).inc.log = ⟨code, dieOf k, (s.stall k).occ, k, (s.stall k).pc, s.bell.count, detail⟩ :: s.inc.log :=
  raise_same ..

/-- Reports leave every stall as it was. -/
theorem stall_of_sameButReports {s t : State} (h : SameButReports s t) (j : Nat) : t.stall j = s.stall j := by
  rw [h.eq]
  rfl

/-- Reports leave memory, porters, contexts, units and the ledger as they were. -/
theorem storage_of_sameButReports {s t : State} (h : SameButReports s t) :
    t.mem = s.mem ∧ t.ports = s.ports ∧ t.ctxs = s.ctxs ∧ t.units = s.units ∧ t.ledger = s.ledger := by
  rw [h.eq]
  exact ⟨rfl, rfl, rfl, rfl, rfl⟩

/-- A command that faults the stall at its issue cy stops it there and reports it, and does nothing else (R65). -/
theorem stopsWith_of_stallFault {s : State} {sid : StallId} {c : Instr} {code : Nat} {detail : List Nat}
    (hexec : exec c s = .next ((s.at (s.stall sid.num).nextIssue).stallFault sid.num code detail)) : StopsWith s sid c code detail := by
  obtain ⟨hsame, hlog⟩ := raiseStall_same (s.at (s.stall sid.num).nextIssue) code sid.num detail
  have hstorage := storage_of_sameButReports hsame
  exact ⟨_, hexec, stall_setStall_self .., fun j hj => (stall_setStall_ne _ _ hj).trans (stall_of_sameButReports hsame j), hlog,
    hstorage⟩

/-- An instruction whose word the stall issues, and whose own function finds a fault, stops the stall with it. -/
theorem stopsWith_of_fault {s : State} {sid : StallId} {w : Word64} {c : Instr} {f : State → Nat → Stall → Issue} {code : Nat}
    {detail : List Nat} (h : Issues s sid w) (hexec : exec c s = .next (s.issueAt sid w f))
    (hfault : f (s.at (s.stall sid.num).nextIssue) sid.num (s.stall sid.num) = .fault code detail) : StopsWith s sid c code detail := by
  refine stopsWith_of_stallFault (hexec.trans ?_)
  rw [issueAt_go s sid w f (mayIssue_of_issues h) h.inStock h.fetched, hfault]

/-- An instruction that looks at its causes first stops the stall with the first of them, where it holds and no other is lower. -/
theorem stops_of_issueIf {s : State} {sid : StallId} {w : Word64} {c : Instr} {f : State → Nat → Stall → Issue} {b : Bool} {code : Nat}
    {l : List (Bool × Nat)} {ready : Bool} {go : Issue} (h : Issues s sid w) (hexec : exec c s = .next (s.issueAt sid w f))
    (hf : f (s.at (s.stall sid.num).nextIssue) sid.num (s.stall sid.num) = issueIf ((b, code) :: l) ready go)
    (hb : b = true) (hle : ∀ p ∈ l, code ≤ p.2) : Stops s sid c code := by
  subst hb
  exact stopsWith_of_fault h hexec (hf.trans (issueIf_of_lowestCode (lowestCode_of_head hle) ready go))

/-- The same for an instruction that waits for scalar results first, none of which is outstanding. -/
theorem stops_of_issueLocal {s : State} {sid : StallId} {w : Word64} {c : Instr} {f : State → Nat → Stall → Issue} {b : Bool} {code : Nat}
    {l : List (Bool × Nat)} {srcs : List Nat} {ready : Bool} {go : Issue} (h : Issues s sid w) (hnone : noneWaits s sid srcs)
    (hexec : exec c s = .next (s.issueAt sid w f))
    (hf : f (s.at (s.stall sid.num).nextIssue) sid.num (s.stall sid.num) = issueLocal (s.stall sid.num) srcs ((b, code) :: l) ready go)
    (hb : b = true) (hle : ∀ p ∈ l, code ≤ p.2) : Stops s sid c code :=
  stops_of_issueIf h hexec (hf.trans (issueLocal_of_sReady hnone _ ready go)) hb hle

/-! ## The three parts of the statement -/

/-- ILLEGAL_OPCODE's meaning. -/
theorem exec_illegalOpcode (sid : StallId) (w : Word64) (s : State) : exec (.illegalOpcode sid w) s = execIllegalOpcode sid w s := rfl

/-- NOP's meaning: its word is issued. -/
theorem exec_nop (sid : StallId) (f : FmtC) (s : State) :
    exec (.nop sid f) s = .next (s.issueAt sid (f.word 0x00#6 0x00#6) (nopIssue f)) := rfl

/-- A word that no command spells faults at issue (R68). -/
theorem execIllegalOpcode_of_none {sid : StallId} {w : Word64} (s : State) (h : decodeWord sid w = none) :
    execIllegalOpcode sid w s = .next (s.issueAt sid w fun _ _ _ => .fault 0x0201 []) := by
  simp [execIllegalOpcode, h]

/-- A word that some command spells leaves the machine as it is (log entry 20). -/
theorem execIllegalOpcode_of_some {sid : StallId} {w : Word64} {i : Instr} (s : State) (h : decodeWord sid w = some i) :
    execIllegalOpcode sid w s = .next s := by
  simp [execIllegalOpcode, h]

/-- A word is unlisted exactly where no command spells it. -/
theorem illegalWord : Claim.IllegalWord := by
  intro s sid w h
  constructor
  · intro hnone
    exact stopsWith_of_fault h ((exec_illegalOpcode ..).trans (execIllegalOpcode_of_none s hnone)) rfl
  · intro hsome
    obtain ⟨i, hi⟩ := Option.ne_none_iff_exists'.mp hsome
    exact (exec_illegalOpcode ..).trans (execIllegalOpcode_of_some s hi)

/-- Each of these instructions has its reserved bits as its first and lowest cause. -/
theorem reservedBitsStop : Claim.ReservedBitsStop := by
  intro s sid
  refine ⟨fun f hr => ⟨fun h => ?nop, fun h => ?fence⟩, fun f hr h => ?j, fun f hr hn h => ?add, fun f hr hn h => ?brEq,
    fun f hr hn h => ?vld, fun f hr h => ?rel, fun f hr hn h => ?tcGet⟩
  case nop => exact stops_of_issueIf h rfl rfl (by simpa [or_assoc] using hr) (by simp)
  case fence => exact stops_of_issueIf h rfl rfl (by simpa [or_assoc] using hr) (by simp)
  case j => exact stops_of_issueIf h rfl rfl (by simpa [or_assoc] using hr) (by simp)
  case add => exact stops_of_issueLocal h hn rfl rfl (by simpa using hr) (by simp)
  case brEq => exact stops_of_issueLocal h hn rfl rfl (by simpa using hr) (by simp)
  case vld => exact stops_of_issueLocal h hn rfl rfl (by simpa using hr) (by simp)
  case rel => exact stops_of_issueIf h rfl rfl (by simpa [or_assoc] using hr) (by simp)
  case tcGet => exact stops_of_issueLocal h hn rfl rfl (by simpa using hr) (by simp)

/-- Before any word is read the executor looks whether the PC lies in stock, and whether the buffer holds its line. -/
theorem fetchOfTheNextWord : Claim.FetchOfTheNextWord := by
  intro s sid f hm
  constructor
  · intro hpast
    exact stopsWith_of_stallFault ((exec_nop sid f s).trans (congrArg _ (issueAt_past_stock _ _ hm hpast)))
  · intro hstock hline
    have hl : (s.stall sid.num).pc / 64 < 3072 := by
      unfold stockBytes at hstock
      omega
    refine ⟨_, (exec_nop sid f s).trans (congrArg _ (issueAt_of_not_holdsLine _ _ hm hstock hline)), rfl, rfl,
      fun j hj => stall_setStall_ne _ _ hj, ?_, ?_⟩
    · rw [stall_setStall_self, request_same]
    · rw [stall_setStall_self]
      exact request_requests _ hline hl

/-- Settles O10: each of these words, and a PC past stock, is a fault found at issue; a line that the buffer lacks is requested. -/
theorem wordsThatStop : Obligations.WordsThatStop := by
  unfold Obligations.WordsThatStop
  exact ⟨illegalWord, reservedBitsStop, fetchOfTheNextWord⟩

end Sys2Proof.Machine
end

section
/-! PROOF. Staging and the version handshake (11_host_rings.md R363, R364, R367): a write of an ST register stays in the staging image, and a
driver's version is compared once it is written. -/
namespace Sys2Proof.Machine
open Sys2Proof.Claim

/-! ## The staging image (R364) -/

/-- Offsets rise strictly along a list of registers, from `lo` on. -/
def ascendsFrom : Nat → List StReg → Bool
  | _, [] => true
  | lo, r :: l => decide (lo ≤ r.off) && ascendsFrom (r.off + 1) l

theorem le_of_ascendsFrom : ∀ {l : List StReg} {lo : Nat}, ascendsFrom lo l = true → ∀ r ∈ l, lo ≤ r.off
  | [], _, _, _, hr => by cases hr
  | x :: l, lo, h, r, hr => by
    simp only [ascendsFrom, Bool.and_eq_true, decide_eq_true_eq] at h
    obtain ⟨hx, hl⟩ := h
    rcases List.mem_cons.mp hr with rfl | hr
    · exact hx
    · have := le_of_ascendsFrom hl r hr
      omega

theorem pairwise_of_ascendsFrom : ∀ {l : List StReg} {lo : Nat}, ascendsFrom lo l = true → l.Pairwise fun a b => a.off < b.off
  | [], _, _ => .nil
  | x :: l, lo, h => by
    simp only [ascendsFrom, Bool.and_eq_true, decide_eq_true_eq] at h
    exact .cons (fun r hr => le_of_ascendsFrom h.2 r hr) (pairwise_of_ascendsFrom h.2)

/-- The ST registers stand in ascending address. -/
theorem stRegs_ascend : stRegs.Pairwise fun a b => a.off < b.off := pairwise_of_ascendsFrom (lo := 0) (by decide +kernel)

/-- Every ST register stands at a multiple of 4 in the lead die's pages. -/
theorem stReg_place : ∀ r ∈ stRegs, r.off % 4 = 0 ∧ r.off < 0x14000 := by decide +kernel

/-- In a list in ascending address each register is the one found at its offset. -/
theorem find?_off_of_mem : ∀ {l : List StReg} {r : StReg}, l.Pairwise (fun a b => a.off < b.off) → r ∈ l →
    l.find? (fun x => x.off = r.off) = some r
  | x :: l, r, hl, hr => by
    obtain ⟨hx, hrest⟩ := List.pairwise_cons.mp hl
    rcases List.mem_cons.mp hr with rfl | hr
    · exact List.find?_cons_of_pos (by simp)
    · rw [List.find?_cons_of_neg (by simpa using Nat.ne_of_lt (hx r hr))]
      exact find?_off_of_mem hrest hr

theorem stRegAt_of_mem {r : StReg} (hr : r ∈ stRegs) : stRegAt r.off = some r := find?_off_of_mem stRegs_ascend hr

/-- A value listed with its register's offset is found there. -/
theorem tget_image (f : StReg → Nat) (r : StReg) : ∀ l : List StReg, l.find? (fun x => x.off = r.off) = some r →
    tget (l.map fun x => (x.off, f x)) 0 r.off = f r
  | [], h => by cases h
  | x :: l, h => by
    by_cases hx : x.off = r.off
    · rw [List.find?_cons_of_pos (by simpa using hx)] at h
      cases h
      simp [tget, tfind]
    · rw [List.find?_cons_of_neg (by simpa using hx)] at h
      simpa [tget, tfind, hx] using tget_image f r l h

/-- The staging image holds the staged value of every ST register. -/
theorem tget_stagingImage (s : State) {r : StReg} (hr : r ∈ stRegs) : tget s.stagingImage 0 r.off = s.staged r :=
  tget_image s.staged r stRegs (stRegAt_of_mem hr)

theorem staged_putReg_self (s : State) (r : StReg) (v : Nat) : ({ s with regs := tput s.regs r.off v } : State).staged r = v := by
  simp [State.staged]

theorem staged_putReg_ne (s : State) {r q : StReg} (v : Nat) (h : q.off ≠ r.off) :
    ({ s with regs := tput s.regs r.off v } : State).staged q = s.staged q := by
  simp [State.staged, State.liveReg, tget_tput_ne _ _ _ h]

/-! ## Accesses of the host to the ST registers (R363) -/

theorem hostPath_of_reaches {s : State} (h : HostReaches s) : s.hostPath = true := by
  simpa [State.hostPath] using h.2

/-- An access to an ST register on a die that can be reached is carried out. -/
theorem hostAccess_staged {s : State} {r : StReg} (hr : r ∈ stRegs) (hroute : Routed s r.off) (edge cell : Nat) (f : State → State) :
    s.hostAccess edge cell (cfgBase + r.off) f = f s := by
  obtain ⟨hword, hlow⟩ := stReg_place r hr
  unfold State.hostAccess
  rw [if_neg (by unfold cfgTop cfgBase; omega), if_neg (by unfold cfgBase; omega), Nat.add_sub_cancel_left]
  have hgo : ¬ (!s.deadDies.contains (s.servedBy r.off) && (s.routeHost (s.servedBy r.off)).isNone) = true := by
    rcases hroute with hdead | hsome
    · rw [hdead, Bool.not_true, Bool.false_and]; decide
    · rw [Option.isNone_eq_false_iff.mpr hsome, Bool.and_false]; decide
  exact if_neg hgo

/-- A write of an ST register keeps its ST bits in the staging image. -/
theorem writeReg_staged (s : State) {r : StReg} (hr : r ∈ stRegs) (v : Nat) :
    s.writeReg r.off v = { s with regs := tput s.regs r.off (v &&& r.mask) } := by
  have hlow := (stReg_place r hr).2
  unfold State.writeReg State.writeLead
  rw [if_neg (by omega), if_neg (by omega), stRegAt_of_mem hr]

/-- The registers of a ring that stage read nothing else. -/
theorem readMod_ringReg (s : State) {i : Nat} (hi : i < 64) : ∀ r ∈ ringRegs i, s.readMod r.off = 0 := by
  have hread : ∀ k, k < 0x14 → s.readMod (0x100 + 0x20 * i + k) = 0 := by
    intro k hk
    unfold State.readMod State.readRing
    have hmod : (0x100 + 0x20 * i + k - 0x100) % 32 = k := by omega
    rw [if_neg (by omega), if_pos (by omega), hmod, if_neg (by omega), if_neg (by omega)]
  simp only [ringRegs, List.forall_mem_cons, List.not_mem_nil, false_implies, implies_true, and_true]
  exact ⟨hread 0 (by decide), hread 4 (by decide), hread 8 (by decide), hread 12 (by decide), hread 16 (by decide)⟩

/-- A read of the module's first page gives the ST fields as staged, and the other fields beside them. -/
theorem readReg_of_first_page (s : State) {off : Nat} (h : off < 4096) : s.readReg off = s.readStaged off + s.readMod off := by
  have hpage : off / 4096 = 0 := by omega
  unfold State.readReg
  rw [if_neg (by omega), if_neg (by omega), hpage]
  exact congrArg _ (if_pos (by omega))

/-- A read of an ST register gives its staged value; MOD_POWER_CTRL reads BUSY beside it (Table PWR.10). -/
theorem readReg_staged (s : State) {r : StReg} (hr : r ∈ stRegs) (hbusy : r.off ≠ 0xA0) : s.readReg r.off = s.staged r := by
  have hstaged : s.readStaged r.off = s.staged r := by rw [State.readStaged, stRegAt_of_mem hr]
  rw [← hstaged]
  have hcases := hr
  simp only [stRegs, List.mem_append, List.mem_flatMap, mem_upFrom] at hcases
  rcases hcases with (hmod | ⟨i, ⟨-, hi⟩, hring⟩) | hpages
  · obtain ⟨hlow, hread⟩ : r.off < 4096 ∧ s.readMod r.off = if r.off = 0xA0 then 256 * b2n s.busyExit else 0 := by
      simp only [List.mem_cons, List.not_mem_nil, or_false] at hmod
      rcases hmod with rfl | rfl | rfl | rfl | rfl | rfl | rfl | rfl | rfl | rfl | rfl | rfl | rfl | rfl | rfl <;>
        exact ⟨by decide, rfl⟩
    rw [readReg_of_first_page s hlow, hread, if_neg hbusy, Nat.add_zero]
  · have hlow : r.off < 4096 := by
      simp only [ringRegs, List.mem_cons, List.not_mem_nil, or_false] at hring
      rcases hring with rfl | rfl | rfl | rfl | rfl <;> simp only <;> omega
    rw [readReg_of_first_page s hlow, readMod_ringReg s (by omega) r hring, Nat.add_zero]
  · simp only [List.mem_cons, List.not_mem_nil, or_false] at hpages
    rcases hpages with rfl | rfl | rfl | rfl | rfl | rfl | rfl | rfl | rfl | rfl | rfl | rfl | rfl | rfl | rfl | rfl <;> rfl

/-- Over a path that reaches the module an access of the host is carried out. -/
theorem exec_write_of_reaches {s : State} (h : HostReaches s) (addr : Nat) (v : BitVec 32) : exec (.registerWrite (.write addr v)) s =
    .next (s.hostWrite s.conf.ringDie (s.hostCell true addr v.toNat) addr v.toNat) :=
  if_neg (by rw [h.1, hostPath_of_reaches h]; decide)

theorem exec_read_of_reaches {s : State} (h : HostReaches s) (addr : Nat) : exec (.registerWrite (.read addr)) s =
    .next (s.hostRead s.conf.ringDie (s.hostCell false addr 0) addr) :=
  if_neg (by rw [h.1, hostPath_of_reaches h]; decide)

theorem hostWrite_staged {s : State} {r : StReg} (hreach : HostReaches s) (hr : r ∈ stRegs) (hroute : Routed s r.off) (edge cell v : Nat) :
    s.hostWrite edge cell (cfgBase + r.off) v =
      answered { s with regs := tput s.regs r.off (v &&& r.mask) } (.ackReg (cfgBase + r.off)) := by
  rw [State.hostWrite, hostAccess_staged hr hroute, Nat.add_sub_cancel_left, writeReg_staged s hr]
  exact if_pos (hostPath_of_reaches hreach)

theorem hostRead_staged {s : State} {r : StReg} (hreach : HostReaches s) (hr : r ∈ stRegs) (hroute : Routed s r.off) (hbusy : r.off ≠ 0xA0)
    (edge cell : Nat) : s.hostRead edge cell (cfgBase + r.off) = answered s (.reg (cfgBase + r.off) (s.staged r)) := by
  rw [State.hostRead, hostAccess_staged hr hroute, Nat.add_sub_cancel_left, readReg_staged s hr hbusy]
  exact if_pos (hostPath_of_reaches hreach)

/-- Writes and reads of the staging image. -/
theorem stagedRegisters : Claim.StagedRegisters := by
  intro s r v hreach hr hroute
  constructor
  · refine ⟨{ s with regs := tput s.regs r.off (v.toNat &&& r.mask) }, ?_, rfl, staged_putReg_self s r _,
      fun q _ hq => staged_putReg_ne s _ hq⟩
    rw [exec_write_of_reaches hreach, hostWrite_staged hreach hr hroute]
  · intro hbusy
    rw [exec_read_of_reaches hreach, hostRead_staged hreach hr hroute hbusy]

/-! ## The version handshake (R367) -/

theorem apart_refl (s : State) : Apart s s := ⟨rfl, rfl, rfl, rfl, rfl, rfl, rfl, rfl⟩

/-- Reports change nothing that a program can see. -/
theorem apart_of_sameButReports {s t u : State} (h : SameButReports t u) (hst : Apart s t) : Apart s u := by
  rw [h.eq]
  exact hst

theorem gate_of_cutOff {s : State} (h : s.awake = false ∨ s.hostPath = false) : (s.awake && s.hostPath) = false := by
  rwa [Bool.and_eq_false_iff]

theorem exec_modDrvIf (v : BitVec 32) (s : State) :
    exec (.modDrvIf v) s = .next (if s.awake && s.hostPath then s.writeDrvIf v.toNat else s) := rfl

theorem writeDrvIf_of_accepted {s : State} (h : s.conf.hs = 1) (v : Nat) : s.writeDrvIf v = s := if_pos h

theorem exec_handshake_none {s : State} (h : s.conf.hsRun = none) : exec .handshake s = .next s := by
  show execHandshake s = _
  rw [execHandshake, h]

/-- A version in the image's range is accepted, and the host is interrupted. -/
theorem exec_handshake_accepted {s : State} {n : Nat} (h : s.conf.hsRun = some n) (hlo : s.trust.image.ifMin ≤ n)
    (hhi : n ≤ s.trust.image.ifMax) :
    exec .handshake s = .next (({ s with conf := { s.conf with hsRun := none, hs := 1 } } : State).interrupt 65) := by
  show execHandshake s = _
  simp [execHandshake, h, hlo, hhi]

/-- A version outside the image's range is refused with 0x0A01, and the host is interrupted. -/
theorem exec_handshake_refused {s : State} {n : Nat} (h : s.conf.hsRun = some n)
    (hout : n < s.trust.image.ifMin ∨ s.trust.image.ifMax < n) :
    exec .handshake s = .next ((({ s with conf := { s.conf with hsRun := none, hs := 2 } } : State).raiseMod 0x0A01
      [n, s.trust.image.ifMin, s.trust.image.ifMax]).interrupt 65) := by
  have hno : (decide (s.trust.image.ifMin ≤ n) && decide (n ≤ s.trust.image.ifMax)) = false := by
    simp only [Bool.and_eq_false_iff, decide_eq_false_iff_not, Nat.not_le]
    exact hout
  show execHandshake s = _
  simp [execHandshake, h, hno]

/-- An incident of the module with the interrupt that follows it. -/
theorem raiseMod_interrupt_same (s : State) (code : Nat) (detail : List Nat) (vector : Nat) :
    SameButReports s ((s.raiseMod code detail).interrupt vector) ∧ Records s ((s.raiseMod code detail).interrupt vector) code 0xFF detail := by
  obtain ⟨hsame, hlog⟩ := raiseMod_same s code detail
  obtain ⟨hint, hinc⟩ := interrupt_same (s.raiseMod code detail) vector
  exact ⟨hsame.trans hint, by rw [Records, hinc, hlog]⟩

/-- MOD_DRV_IF and the comparison of a driver's version. -/
theorem versionHandshake : Claim.VersionHandshake := by
  intro s v
  refine ⟨fun hcut => ?cut, fun hawake hpath hs => ?fresh, fun hs => ?accepted, exec_handshake_none, fun n hrun =>
    ⟨fun hlo hhi => ?inside, fun hout => ?outside⟩⟩
  case cut => rw [exec_modDrvIf, gate_of_cutOff hcut]; rfl
  case fresh => rw [exec_modDrvIf, hawake, hpath, State.writeDrvIf, if_neg hs]; rfl
  case accepted => rw [exec_modDrvIf, writeDrvIf_of_accepted hs, ite_self]
  case inside =>
    obtain ⟨hsame, hinc⟩ := interrupt_same { s with conf := { s.conf with hsRun := none, hs := 1 } } 65
    exact ⟨_, exec_handshake_accepted hrun hlo hhi, by rw [hsame.eq], hinc, by rw [hsame.eq], apart_of_sameButReports hsame (apart_refl s)⟩
  case outside =>
    obtain ⟨hsame, hrec⟩ := raiseMod_interrupt_same { s with conf := { s.conf with hsRun := none, hs := 2 } } 0x0A01
      [n, s.trust.image.ifMin, s.trust.image.ifMax] 65
    exact ⟨_, exec_handshake_refused hrun hout, by rw [hsame.eq], hrec, by rw [hsame.eq], apart_of_sameButReports hsame (apart_refl s)⟩

end Sys2Proof.Machine
end

section
/-! PROOF. Commits (11_host_rings.md R369 to R372): the copy of the staging image, its check against the rules, and what a commit that is
applied changes. -/
namespace Sys2Proof.Machine
open Sys2Proof.Claim

/-! ## The check of a commit (R369, R370) -/

theorem exec_modCommit (v : BitVec 32) (s : State) :
    exec (.modCommit v) s = .next (if s.awake && s.hostPath then s.writeCommit v.toNat else s) := rfl

theorem exec_modCommit_of_open {s : State} (hawake : s.awake = true) (hpath : s.hostPath = true) (v : BitVec 32) :
    exec (.modCommit v) s = .next (s.writeCommit v.toNat) := by
  rw [exec_modCommit, hawake, hpath]; rfl

theorem firstStatus_cons_false (n : Nat) (l : List (Bool × Nat)) : firstStatus ((false, n) :: l) = firstStatus l := rfl

/-- A list of rules of which none is broken has no first broken one. -/
theorem firstStatus_eq_zero : ∀ {l : List (Bool × Nat)}, (∀ p ∈ l, p.1 = false) → firstStatus l = 0
  | [], _ => rfl
  | (b, n) :: l, h => by
    obtain ⟨hb, hl⟩ := List.forall_mem_cons.mp h
    rw [show b = false from hb, firstStatus_cons_false]
    exact firstStatus_eq_zero hl

theorem commitRules_handshake {s : State} (route : HostMem) (h : s.conf.hs ≠ 1) : firstStatus (s.commitRules route) = 1 := by
  simp [State.commitRules, firstStatus, h]

theorem commitRules_crc {s : State} (route : HostMem) (h : s.conf.hs = 1) (hcrc : crc32c (imageBytes s.conf.copy) ≠ s.conf.crc) :
    firstStatus (s.commitRules route) = 2 := by
  simp [State.commitRules, firstStatus, h, hcrc]

theorem commitRules_period {s : State} (route : HostMem) (h : s.conf.hs = 1) (hcrc : crc32c (imageBytes s.conf.copy) = s.conf.crc)
    (hp : s.copied 0x10000 < 2250) : firstStatus (s.commitRules route) = 3 := by
  simp [State.commitRules, firstStatus, h, hcrc, hp]

theorem execCommitCheck_of_idle {s : State} (route : HostMem) (h : s.conf.status ≠ 1) : exec (.commitCheck route) s = .next s :=
  if_pos (.inl h)

section
variable {s : State} {route : HostMem} (hstatus : s.conf.status = 1) (hcore : (s.core s.bell.lead 1).state = 1)
include hstatus hcore

/-- A check that finds a broken rule refuses the commit at stage 0, after the report of a route image that came too late. -/
theorem execCommitCheck_of_broken (h : firstStatus (s.commitRules route) ≠ 0) : exec (.commitCheck route) s =
    .next ((s.hostLate route (s.copied2 0x1300C)).refuseCommit (firstStatus (s.commitRules route)) 0) := by
  show execCommitCheck route s = _
  rw [execCommitCheck, if_neg (by simp [hstatus, hcore])]
  split
  · next h0 => exact absurd h0 h
  · rfl

/-- A check that finds none leaves the commit PENDING with the routes read, and applies it one cy later where it is the first. -/
theorem execCommitCheck_of_kept (h : firstStatus (s.commitRules route) = 0) : ∃ r, exec (.commitCheck route) s =
    .next (let t : State := { s with conf := { s.conf with status := 2, checked := s.now, routes := r } }
      if s.mod.configValid then t else (t.at (t.now + 1)).applyCommit) := by
  refine ⟨match route.data with
    | some l => routeEntries (s.copied 0x13008) l
    | none => [], ?_⟩
  show execCommitCheck route s = _
  rw [execCommitCheck, if_neg (by simp [hstatus, hcore]), h]
  cases s.mod.configValid <;> rfl

end

theorem hostLate_of_ne {h : HostMem} (hne : h ≠ .late) (s : State) (a : Nat) : s.hostLate h a = s := if_neg hne

theorem SameButReports.dieMem {s t : State} {m : Tbl DieMem} (h : SameButReports { s with dieMem := m } t) :
    SameButReports { s with dieMem := t.dieMem } t := by
  have hm : t.dieMem = m := congrArg State.dieMem h.eq
  rw [hm]
  exact h

/-- A read that did not come in time is counted at its die and reported. -/
theorem hostLate_same (s : State) (h : HostMem) (a : Nat) :
    SameButReports { s with dieMem := (s.hostLate h a).dieMem } (s.hostLate h a) := by
  unfold State.hostLate
  split
  · exact SameButReports.dieMem (raise_same ..).1
  · exact .refl s

/-- What is reported of it is 0x0608. -/
theorem hostLate_log (s : State) (a : Nat) : ∃ i, (s.hostLate .late a).inc.log = i :: s.inc.log ∧ i.code = 0x0608 :=
  ⟨_, (raise_same ..).2, rfl⟩

/-- A refused commit is marked so with its rule, and one incident and the host's interrupt tell of it. -/
theorem refuseCommit_same (s : State) (n stage : Nat) :
    SameButReports { s with conf := { s.conf with status := 4, rule := n, copy := [], routes := [] } } (s.refuseCommit n stage) ∧
    Records s (s.refuseCommit n stage) 0x0A02 0xFF [n, stage] :=
  raiseMod_interrupt_same { s with conf := { s.conf with status := 4, rule := n, copy := [], routes := [] } } 0x0A02 [n, stage] 65

/-! ## The application of a commit (R371, R372) -/

/-- Everything but the ports, the reduction sets, the faults they report and the reports is as it was. -/
structure SameButSets (s t : State) : Prop where
  eq : t = { s with
    fab := t.fab, sets := t.sets, aborts := t.aborts, ctxs := t.ctxs, asks := t.asks
    inc := t.inc, out := t.out, outWait := t.outWait, intLast := t.intLast, intHeld := t.intHeld }

theorem SameButSets.refl (s : State) : SameButSets s s := ⟨rfl⟩

theorem SameButSets.trans {s t u : State} (h : SameButSets s t) (g : SameButSets t u) : SameButSets s u := by
  constructor; rw [g.eq, h.eq]

theorem SameButReports.sets {s t : State} (h : SameButReports s t) : SameButSets s t := by
  constructor; rw [h.eq]

theorem SameButSets.of_fab {s t : State} {f : Fabric} (h : t = { s with fab := f }) : SameButSets s t := by
  subst h; exact ⟨rfl⟩

theorem reportFault_same (s : State) (c code k : Nat) : SameButSets s (s.reportFault c code k) := by
  rcases reportFault_cases s c code k with ⟨-, heq⟩ | ⟨-, -, -, heq⟩
  · rw [heq]; exact .refl s
  · rw [heq]; exact ⟨rfl⟩

theorem faultSet_same (s : State) (x : RSet) (code : Nat) (detail : List Nat) : SameButSets s (s.faultSet x code detail) := by
  unfold State.faultSet
  split
  · exact .refl s
  · have hset : SameButSets s (s.setSet { x with faulted := true }) := ⟨rfl⟩
    have hraise := (raise_same (s.setSet { x with faulted := true }) code 0xFF (some x.ctx) x.setid 0xFFFFFFFF detail).1.sets
    exact ((hset.trans hraise).trans ⟨rfl⟩).trans (reportFault_same ..)

theorem loseMember_same (s : State) (x : RSet) : SameButSets s (s.loseMember x) := by
  unfold State.loseMember
  split
  · exact faultSet_same ..
  · exact .refl s

theorem foldl_loseMember_same : ∀ (l : List RSet) (s : State), SameButSets s (l.foldl State.loseMember s)
  | [], s => .refl s
  | x :: l, s => (loseMember_same s x).trans (foldl_loseMember_same l _)

theorem loseMembers_of_noSets {s : State} (h : s.sets = []) : s.loseMembers = s := by
  rw [State.loseMembers, h]; rfl

theorem portOff_same (s : State) (p : Nat) : SameButSets s (s.portOff p) :=
  SameButSets.trans ⟨rfl⟩ (foldl_loseMember_same ..)

theorem portOff_of_noSets {s : State} (h : s.sets = []) (p : Nat) : s.portOff p = s.setWport p ((s.wport p).discard 0 s.now) :=
  loseMembers_of_noSets h

/-- Port `p` with the bar of R327 lifted. -/
def State.liftBar (s : State) (p : Nat) : State := if (s.wport p).barred then s.setWport p { s.wport p with barred := false } else s

/-- One port after a commit. -/
def State.applyPort (s : State) (p : Nat) : State :=
  if ((s.liftBar p).wport p).state ≠ 0 ∧ !(s.liftBar p).portEnabled p then (s.liftBar p).portOff p else s.liftBar p

/-- A commit takes the ports one after another. -/
theorem applyPorts_cons (s : State) (p : Nat) (l : List Nat) : s.applyPorts (p :: l) = (s.applyPort p).applyPorts l := rfl

theorem liftBar_same (s : State) (p : Nat) : s.liftBar p = { s with fab := (s.liftBar p).fab } := by
  unfold State.liftBar
  split <;> rfl

theorem applyPort_same (s : State) (p : Nat) : SameButSets s (s.applyPort p) := by
  have hbar : SameButSets s (s.liftBar p) := .of_fab (liftBar_same s p)
  unfold State.applyPort
  split
  · exact hbar.trans (portOff_same ..)
  · exact hbar

theorem applyPorts_same : ∀ (l : List Nat) (s : State), SameButSets s (s.applyPorts l)
  | [], s => .refl s
  | p :: l, s => (applyPort_same s p).trans (applyPorts_same l _)

/-- Without reduction sets the commit of a port changes the Weago endpoint alone. -/
theorem applyPort_of_noSets {s : State} (h : s.sets = []) (p : Nat) : s.applyPort p = { s with fab := (s.applyPort p).fab } := by
  have hbar := liftBar_same s p
  have hsets : (s.liftBar p).sets = [] := by rw [hbar]; exact h
  unfold State.applyPort
  split
  · rw [portOff_of_noSets hsets, hbar]; rfl
  · exact hbar

theorem applyPorts_of_noSets : ∀ (l : List Nat) {s : State}, s.sets = [] → s.applyPorts l = { s with fab := (s.applyPorts l).fab }
  | [], _, _ => rfl
  | p :: l, s, h => by
    have hport := applyPort_of_noSets h p
    have hrest := applyPorts_of_noSets l (s := s.applyPort p) (by rw [hport]; exact h)
    rw [applyPorts_cons, hrest, hport]

theorem completeAll_same (status inc : Nat) : ∀ (l : List Order) (s : State), SameButRings s (s.completeAll status inc l)
  | [], s => .refl s
  | _ :: l, s => (complete_same s ..).trans (completeAll_same status inc l _)

theorem applyRing_same (s : State) (i : Nat) : SameButRings s (s.applyRing i) := by
  unfold State.applyRing
  dsimp only
  split
  · split
    · exact setRing_same ..
    · exact .refl s
  · split
    · exact ((setRing_same ..).trans (completeAll_same ..)).trans (settleRing_same ..)
    · split
      · exact setRing_same ..
      · exact .refl s

theorem applyRings_same : ∀ (l : List Nat) (s : State), SameButRings s (s.applyRings l)
  | [], s => .refl s
  | i :: l, s => (applyRing_same s i).trans (applyRings_same l _)

theorem offerAll_same : ∀ (l : List Incident) (s : State), SameButReports s (s.offerAll l)
  | [], s => .refl s
  | i :: l, s => (incOffer_same s i).1.trans (offerAll_same l _)

/-- The staged fields made live, before ports, rings and held incidents follow (R371). -/
def State.committed (s : State) : State := { s with
  live := s.conf.copy
  mod := { s.mod with id := s.copied 0x13000, configValid := true }
  fab := { s.fab with routes := s.conf.routes }
  conf := { s.conf with status := 3, rule := 0, applied := (s.conf.applied + 1) % 65536, copy := [], routes := [] }
  inc := { s.inc with broken := s.inc.broken && !(s.changes 0x40 || s.changes 0x44 || s.changes 0x48) } }

/-- Held incidents offered to an incident ring that is enabled (R373). -/
def State.offerHeld (s : State) : State :=
  if s.incRing ∧ !s.inc.held.isEmpty then ({ s with inc := { s.inc with held := [] } } : State).offerAll s.inc.held else s

/-- A commit: the fields, the ports, the rings, the held incidents, the host's interrupt. -/
theorem applyCommit_eq (s : State) : s.applyCommit =
    ((s.committed.applyPorts (upFrom 0 16)).applyRings (upFrom 0 64)).offerHeld.interrupt 65 := rfl

theorem offerHeld_same (s : State) : SameButReports s s.offerHeld := by
  unfold State.offerHeld
  split
  · exact SameButReports.trans ⟨rfl⟩ (offerAll_same ..)
  · exact .refl s

/-- After the ports, a commit changes rings and reports alone. -/
theorem applyCommit_same (s : State) : SameButRings (s.committed.applyPorts (upFrom 0 16)) s.applyCommit := by
  rw [applyCommit_eq]
  exact (applyRings_same ..).trans ((offerHeld_same _).trans (interrupt_same _ 65).1).rings

/-- What a commit makes live, and how it is marked. -/
theorem applyCommit_config (s : State) : s.applyCommit.live = s.conf.copy ∧ s.applyCommit.mod = s.committed.mod ∧
    s.applyCommit.conf = s.committed.conf ∧ s.applyCommit.now = s.now ∧ s.applyCommit.bell = s.bell := by
  rw [(applyCommit_same s).eq, (applyPorts_same (upFrom 0 16) s.committed).eq]
  exact ⟨rfl, rfl, rfl, rfl, rfl⟩

/-- MOD_COMMIT and the check of a commit. -/
theorem commitsAreChecked : Claim.CommitsAreChecked := by
  intro s v route
  refine ⟨fun hcut => ?cut, fun hawake hpath hbusy => ?overrun, fun hawake hpath h1 h2 => ?copied, execCommitCheck_of_idle route,
    fun hstatus hcore => ⟨fun n hn hne => ?refused, commitRules_handshake route, commitRules_crc route, commitRules_period route,
      fun h0 hvalid => ?pending, fun h0 hvalid => ?applied⟩⟩
  case cut => rw [exec_modCommit, gate_of_cutOff hcut]; rfl
  case overrun => rw [exec_modCommit_of_open hawake hpath, State.writeCommit, if_pos hbusy]
  case copied =>
    rw [exec_modCommit_of_open hawake hpath, State.writeCommit, if_neg (not_or.mpr ⟨h1, h2⟩)]
    exact ⟨_, rfl, rfl, rfl, rfl, rfl, fun r hr => tget_stagingImage s hr⟩
  case refused =>
    subst hn
    have hlate := hostLate_same s route (s.copied2 0x1300C)
    obtain ⟨hsame, hrec⟩ := refuseCommit_same (s.hostLate route (s.copied2 0x1300C)) (firstStatus (s.commitRules route)) 0
    have hapart : Apart s (s.hostLate route (s.copied2 0x1300C)) := apart_of_sameButReports hlate (apart_refl s)
    refine ⟨_, execCommitCheck_of_broken hstatus hcore hne, by rw [hsame.eq], by rw [hsame.eq], ?_, ?_, ?_, ?_, fun hne => ?_, fun hl => ?_⟩
    · rw [hsame.eq, hlate.eq]
    · rw [hsame.eq, hlate.eq]
    · rw [hsame.eq, hlate.eq]
    · exact apart_of_sameButReports hsame hapart
    · rwa [hostLate_of_ne hne] at hrec ⊢
    · subst hl
      obtain ⟨i, hlog, hcode⟩ := hostLate_log s (s.copied2 0x1300C)
      rw [Records, hlog] at hrec
      exact ⟨i, _, hrec, hcode, rfl⟩
  case pending =>
    obtain ⟨r, hr⟩ := execCommitCheck_of_kept hstatus hcore h0
    exact ⟨r, by rw [hr, hvalid]; rfl⟩
  case applied =>
    obtain ⟨r, hr⟩ := execCommitCheck_of_kept hstatus hcore h0
    rw [hvalid] at hr
    obtain ⟨hlive, hmod, hconf, hnow, -⟩ := applyCommit_config
      (({ s with conf := { s.conf with status := 2, checked := s.now, routes := r } } : State).at (s.now + 1))
    refine ⟨_, hr, ?_, hlive, ?_, ?_, ?_, ?_⟩
    · exact congrArg Conf.status hconf
    · exact congrArg Mod.configValid hmod
    · exact congrArg Mod.id hmod
    · exact hnow.trans (by simp)
    · exact congrArg Conf.applied hconf

end Sys2Proof.Machine
end

section
/-! PROOF. A PENDING commit at a bell (11_host_rings.md R371, 01_bell.md Table BELL.4): with nothing else asked for, what comes before the
bell's step 2 leaves all that the commit is checked against, and what comes after leaves what the commit made. -/
namespace Sys2Proof.Machine
open Sys2Proof.Claim

/-! ## Work that waits for a bell -/

/-- No work waits for a bell: no squares, sets, orders, restores, ended contexts or tallies to be aligned. -/
structure Quiet (s : State) : Prop where
  noExit : s.pow.exit = none
  noSquares : s.squares = []
  noSets : s.sets = []
  noSqReqs : s.sqReqs = []
  noBinds : s.binds = []
  noGathers : s.gathers = []
  noDispatches : s.dispatches = []
  noRestore : ∀ c, (s.ctx c).state ≠ .restoring
  noRoot : ∀ c, (s.ctx c).state = .free → (s.ctx c).root = none
  noRealign : ∀ p ∈ s.ports, ∀ q ∈ p.2.tallies, q.2.ra = false

/-- No crate is mapped, and no page waits for a bell. -/
structure NoPages (l : Ledger) : Prop where
  free : l.pendFree = []
  pol : l.pendPol = []
  share : l.pendShare = []
  moves : l.moves = []
  crates : l.crates = []

theorem quiet_of_plainBell {s : State} {x : Symbol} (h : PlainBell s x) : Quiet s := by
  obtain ⟨hreqs, hbinds, hgathers, hdispatches⟩ := h.noAsked
  exact ⟨h.noExit, h.noSquares, h.noSets, hreqs, hbinds, hgathers, hdispatches, fun c => (h.noCtxWork c).1, fun c => (h.noCtxWork c).2,
    h.noRealign⟩

theorem noPages_of_plainBell {s : State} {x : Symbol} (h : PlainBell s x) : NoPages s.ledger := by
  obtain ⟨hfree, hpol, hshare, hmoves, hcrates⟩ := h.noPages
  exact ⟨hfree, hpol, hshare, hmoves, hcrates⟩

/-! ## Up to the commit -/

/-- What latching a bell changes before its step 2: the clock, the bell unit and what lasts for one bell. -/
structure SameButTurn (s t : State) : Prop where
  eq : t = { s with
    now := t.now, bell := t.bell, stalls := t.stalls, dieMem := t.dieMem, failedLinks := t.failedLinks, failing := t.failing
    fab := { s.fab with badPaths := t.fab.badPaths, sync := t.fab.sync }
    pow := { s.pow with dieResetAsked := t.pow.dieResetAsked, replanDue := t.pow.replanDue } }

theorem SameButTurn.trans {s t u : State} (h : SameButTurn s t) (g : SameButTurn t u) : SameButTurn s u := by
  constructor; rw [g.eq, h.eq]

theorem SameButTurn.quiet {s t : State} (h : SameButTurn s t) (hq : Quiet s) : Quiet t := by
  rw [h.eq]
  exact { hq with }

theorem SameButTurn.ledger {s t : State} (h : SameButTurn s t) : t.ledger = s.ledger := by
  rw [h.eq]

theorem anySealed_of_noPages {s : State} (h : NoPages s.ledger) : s.anySealed = false := by
  rw [State.anySealed, h.crates]; rfl

/-- Without crates rule 6 looks at the staged region alone. -/
theorem SameButTurn.rule6 {s t : State} (h : SameButTurn s t) (hs : NoPages s.ledger) : t.rule6 = s.rule6 := by
  have ht : NoPages t.ledger := h.ledger.symm ▸ hs
  unfold State.rule6
  rw [anySealed_of_noPages ht, anySealed_of_noPages hs, h.eq]
  rfl

/-- Without crates rule 36 looks at the contexts alone. -/
theorem SameButTurn.rule36 {s t : State} (h : SameButTurn s t) (hs : NoPages s.ledger) : t.rule36 = s.rule36 := by
  unfold State.rule36
  rw [h.ledger, hs.crates, h.eq]
  rfl

/-- The marked rules hang on nothing that a bell changes before its step 2. -/
theorem SameButTurn.markedRules {s t : State} (h : SameButTurn s t) (hs : NoPages s.ledger) : t.markedRules = s.markedRules := by
  unfold State.markedRules
  rw [h.rule6 hs, h.rule36 hs, h.eq]
  rfl

theorem parityDies_of_counts {s : State} {x : Symbol} (hcounts : s.bell.dieCount = []) (hbp : x.bp = (s.bell.count + 1) % 2) :
    s.parityDies x = [] := by
  simp [State.parityDies, hcounts, hbp]

theorem latchSymbol_same (s : State) (x : Symbol) : SameButTurn s (s.latchSymbol x) := ⟨rfl⟩

theorem nextBell_same (s : State) : SameButTurn s s.nextBell := ⟨rfl⟩

/-- Without links that fail, and with the ring engine on a die that it can use, none is marked failed and the engine stays. -/
theorem failLinks_same {s : State} (hfail : s.failing = []) (hedge : s.ringUp s.conf.ringDie = true) (d : Nat) :
    s.failLinks d = { s with failedLinks := s.failedLinks ++ [], failing := [] } := by
  unfold State.failLinks
  rw [hfail]
  refine if_neg (fun hmove => ?_)
  have hup : ({ s with failedLinks := s.failedLinks ++ [], failing := [] } : State).ringUp s.conf.ringDie = true := by
    rw [List.append_nil]; exact hedge
  simp only [List.filter_nil, Bool.and_eq_true, Bool.not_eq_true'] at hmove
  exact absurd (hup.symm.trans hmove.1) (by decide)

theorem takeFences_nil (s : State) : s.takeFences [] = s := if_pos rfl

theorem beginActivation_of_restless (s : State) : s.beginActivation false = s := if_neg (by simp)

theorem fenceSets_of_noSets {s : State} (h : s.sets = []) : s.fenceSets s.sets = s := by
  rw [h]; rfl

/-- Step 1 with nothing due to it. -/
theorem bellStep1_same {s : State} {x : Symbol} (hq : Quiet s) (hfaults : x.faults = []) (hdue : x.due = Due.none)
    (hfail : s.failing = []) (hedge : s.ringUp s.conf.ringDie = true) : ∃ t, s.bellStep1 x = (t, []) ∧ SameButTurn s t ∧
    t.bell = s.bell := by
  have hlinks : SameButTurn s (s.failLinks x.decided) := by rw [failLinks_same hfail hedge]; exact ⟨rfl⟩
  have hbell : (s.failLinks x.decided).bell = s.bell := by rw [failLinks_same hfail hedge]
  refine ⟨{ s.failLinks x.decided with pow := { (s.failLinks x.decided).pow with
    dieResetAsked := (s.failLinks x.decided).pow.dieResetAsked.filter fun d => !([] : List Nat).contains d } }, ?_, hlinks.trans ⟨rfl⟩, hbell⟩
  unfold State.bellStep1
  simp only [hfaults, hdue, Due.none, State.overrunFaults, takeFences_nil, fenceSets_of_noSets (hlinks.quiet hq).noSets,
    State.resetDies, State.faultReported, State.endAsked, Bool.false_eq_true, if_false, beginActivation_of_restless]

/-! ## The commit itself -/

/-- What a commit changes on a module without reduction sets: the configuration, the ports, the rings and the reports. -/
structure SameButConfig (s t : State) : Prop where
  eq : t = { s with
    live := t.live, mod := t.mod, conf := t.conf, fab := t.fab, rings := t.rings
    inc := t.inc, out := t.out, outWait := t.outWait, intLast := t.intLast, intHeld := t.intHeld }

theorem SameButConfig.refl (s : State) : SameButConfig s s := ⟨rfl⟩

theorem SameButConfig.trans {s t u : State} (h : SameButConfig s t) (g : SameButConfig t u) : SameButConfig s u := by
  constructor; rw [g.eq, h.eq]

theorem SameButRings.config {s t : State} (h : SameButRings s t) : SameButConfig s t := by
  constructor; rw [h.eq]

theorem SameButConfig.bell {s t : State} (h : SameButConfig s t) : t.bell = s.bell := by
  rw [h.eq]

theorem SameButConfig.ledger {s t : State} (h : SameButConfig s t) : t.ledger = s.ledger := by
  rw [h.eq]

theorem SameButConfig.quiet {s t : State} (h : SameButConfig s t) (hq : Quiet s) : Quiet t := by
  rw [h.eq]
  exact { hq with }

theorem SameButConfig.of_fab {s t : State} {f : Fabric} (h : t = { s with fab := f }) : SameButConfig s t := by
  subst h; exact ⟨rfl⟩

theorem applyCommit_sameConfig {s : State} (h : s.sets = []) : SameButConfig s s.applyCommit :=
  have hfields : SameButConfig s s.committed := ⟨rfl⟩
  have hports : SameButConfig s.committed (s.committed.applyPorts (upFrom 0 16)) := .of_fab (applyPorts_of_noSets _ h)
  (hfields.trans hports).trans (applyCommit_same s).config

theorem refuseCommit_sameConfig (s : State) (n stage : Nat) : SameButConfig s (s.refuseCommit n stage) :=
  SameButConfig.trans ⟨rfl⟩ (refuseCommit_same s n stage).1.rings.config

theorem applyPending_of_kept {s : State} {d : Nat} (hstatus : s.conf.status = 2) (hd : s.conf.checked < d)
    (hkept : firstStatus s.markedRules = 0) : s.applyPending d = s.applyCommit := by
  rw [State.applyPending, if_pos ⟨hstatus, hd⟩, hkept]
  rfl

theorem applyPending_of_broken {s : State} {d n : Nat} (hstatus : s.conf.status = 2) (hd : s.conf.checked < d)
    (hbroken : firstStatus s.markedRules = n) (hn : n ≠ 0) : s.applyPending d = s.refuseCommit n 1 := by
  rw [State.applyPending, if_pos ⟨hstatus, hd⟩]
  split
  · next h0 => exact absurd (hbroken.symm.trans h0) hn
  · rw [hbroken]

theorem applyPending_of_young {s : State} {d : Nat} (hd : d ≤ s.conf.checked) : s.applyPending d = s :=
  if_neg fun h => absurd h.2 (Nat.not_lt.mpr hd)

theorem applyPending_sameConfig {s : State} (h : s.sets = []) (d : Nat) : SameButConfig s (s.applyPending d) := by
  unfold State.applyPending
  split
  · split
    · exact applyCommit_sameConfig h
    · exact refuseCommit_sameConfig ..
  · exact .refl s

/-- No commit changes the module's mode by itself. -/
theorem applyPending_mode (s : State) (d : Nat) : (s.applyPending d).mod.state = s.mod.state := by
  unfold State.applyPending
  split
  · split
    · obtain ⟨-, hmod, -⟩ := applyCommit_config s
      rw [hmod]; rfl
    · rw [(refuseCommit_same ..).1.eq]
  · rfl

/-- The configuration, its commit and the bell unit are as they were. -/
structure SameCommit (s t : State) : Prop where
  live : t.live = s.live
  bell : t.bell = s.bell
  status : t.conf.status = s.conf.status
  rule : t.conf.rule = s.conf.rule
  applied : t.conf.applied = s.conf.applied

theorem SameCommit.trans {s t u : State} (h : SameCommit s t) (g : SameCommit t u) : SameCommit s u :=
  ⟨g.live.trans h.live, g.bell.trans h.bell, g.status.trans h.status, g.rule.trans h.rule, g.applied.trans h.applied⟩

/-- An OPEN module that is to stay OPEN keeps its mode. -/
theorem applyTarget_of_open {s : State} (hopen : s.mod.state = 3) (htarget : s.targetMode = 3) : s.applyTarget = s :=
  if_pos (.inr (hopen.trans htarget.symm))

theorem setMode_sameConfig (s : State) (n : Nat) : SameButConfig s (s.setMode n) ∧ SameCommit s (s.setMode n) := by
  obtain ⟨-, hsame, -⟩ := setMode_same s n
  rw [hsame.eq]
  exact ⟨⟨rfl⟩, ⟨rfl, rfl, rfl, rfl, rfl⟩⟩

/-- A committed TARGET moves an OPEN module by a change of mode alone. -/
theorem applyTarget_sameConfig {s : State} (hopen : s.mod.state = 3) :
    SameButConfig s s.applyTarget ∧ SameCommit s s.applyTarget := by
  unfold State.applyTarget
  rw [hopen]
  dsimp only
  split
  · exact ⟨.refl s, rfl, rfl, rfl, rfl, rfl⟩
  · split
    · exact setMode_sameConfig ..
    · exact setMode_sameConfig ..

/-! ## After the commit -/

/-- What the steps after the commit change with nothing asked for: stalls and contexts that start or settle, the ledger's count of bells,
the ask for the doorbell page, telemetry. -/
structure SameButStart (s t : State) : Prop where
  eq : t = { s with
    stalls := t.stalls, ctxs := t.ctxs, gathers := t.gathers, ledger := t.ledger, pow := t.pow
    conf := { s.conf with dbOut := t.conf.dbOut } }

theorem SameButStart.trans {s t u : State} (h : SameButStart s t) (g : SameButStart t u) : SameButStart s u := by
  constructor; rw [g.eq, h.eq]

theorem SameButStart.inc {s t : State} (h : SameButStart s t) : t.inc = s.inc := by
  rw [h.eq]

theorem SameButStart.commit {s t : State} (h : SameButStart s t) : SameCommit s t := by
  rw [h.eq]
  exact ⟨rfl, rfl, rfl, rfl, rfl⟩

theorem realignStalls_of_none : ∀ (l : List (Nat × StallPort)) (s : State), (∀ p ∈ l, ∀ q ∈ p.2.tallies, q.2.ra = false) →
    s.realignStalls l = s
  | [], _, _ => rfl
  | (k, p) :: l, s, h => by
    obtain ⟨hp, hl⟩ := List.forall_mem_cons.mp h
    have hany : (p.tallies.any fun q => q.2.ra) = false := List.any_eq_false.mpr fun q hq => by simp [hp q hq]
    rw [State.realignStalls, hany, Bool.and_false]
    exact realignStalls_of_none l s hl

theorem bellStep3_of_quiet {s : State} {x : Symbol} (hq : Quiet s) (hdue : x.due = Due.none) : s.bellStep3 x = s := by
  unfold State.bellStep3
  rw [hdue, realignStalls_of_none s.ports s hq.noRealign, ite_self]
  rfl

theorem moveLeaves_of_noRestore {s : State} (h : ∀ c, (s.ctx c).state ≠ .restoring) : ∀ l : List Nat, s.moveLeaves l = s
  | [] => rfl
  | c :: l => by
    rw [State.moveLeaves, if_neg fun hc => h c hc.1]
    exact moveLeaves_of_noRestore h l

theorem finishKill_of_noRoot {s : State} (h : ∀ c, (s.ctx c).state = .free → (s.ctx c).root = none) : ∀ l : List Nat, s.finishKill l = s
  | [] => rfl
  | c :: l => by
    rw [State.finishKill, if_neg fun hc => hc.2 (h c hc.1)]
    exact finishKill_of_noRoot h l

theorem resumeAll_of_noRestore {s : State} (h : ∀ c, (s.ctx c).state ≠ .restoring) : ∀ l : List Nat, s.resumeAll l = s
  | [] => rfl
  | c :: l => by
    rw [State.resumeAll]
    dsimp only
    rw [if_neg fun hc => h c hc.1]
    exact resumeAll_of_noRestore h l

/-- A page commit without pages due changes the ledger alone: it counts a bell. -/
theorem pageCommit_of_noPages {s : State} (h : NoPages s.ledger) (d : Nat) : ∃ l, s.pageCommit d = { s with ledger := l } := by
  unfold State.pageCommit
  simp only [h.free, h.pol, h.share, h.moves, h.crates, List.filter_nil, List.map_nil, sortCrates, sortBy, List.foldl_nil, State.commitFrees,
    State.commitPols, State.commitShares, State.commitMoveEnds, State.commitMoveStarts, State.sweepA]
  split <;> exact ⟨_, rfl⟩

theorem settleCtx_same (s : State) (c : Nat) : SameButStart s (s.settleCtx c) := by
  unfold State.settleCtx
  dsimp only
  split <;> exact ⟨rfl⟩

theorem settleCtxs_same : ∀ (l : List Nat) (s : State), SameButStart s (s.settleCtxs l)
  | [], _ => ⟨rfl⟩
  | c :: l, s => (settleCtx_same s c).trans (settleCtxs_same l _)

theorem bellStep4_of_quiet {s : State} (hq : Quiet s) (hp : NoPages s.ledger) (x : Symbol) :
    ∃ l, s.bellStep4 x = { s with ledger := l } := by
  obtain ⟨l, hl⟩ := pageCommit_of_noPages hp x.decided
  refine ⟨l, ?_⟩
  rw [State.bellStep4, moveLeaves_of_noRestore hq.noRestore, hl]
  exact finishKill_of_noRoot (s := { s with ledger := l }) hq.noRoot _

/-- Steps 5 and 6 run through lists; on an empty one they do nothing. -/
theorem step5_nil (s : State) : s.noteSquares [] = s ∧ s.unbindSquares [] = s ∧ s.doneUnbinds [] = s ∧ s.restoreSquares [] = s ∧
    s.bindAsked [] = s := ⟨rfl, rfl, rfl, rfl, rfl⟩

theorem step6_nil (s : State) : s.startSaves [] = s ∧ s.occupyRestored [] = s ∧ (∀ d, s.startDispatches d [] = s) ∧
    s.bindSets [] = s ∧ s.startGathers [] = s ∧ s.releaseSets [] = s := ⟨rfl, rfl, fun _ => rfl, rfl, rfl, rfl⟩

theorem savesNow_of_noneDue (s : State) {x : Symbol} (hdue : x.due = Due.none) : s.savesNow x = [] := by
  rw [State.savesNow, hdue]; rfl

theorem bellStep5_of_quiet {s : State} {x : Symbol} (hq : Quiet s) (hdue : x.due = Due.none) : s.bellStep5 x [] = s := by
  have hunbind : s.unbindNow x = [] := by rw [State.unbindNow, hq.noSquares]; rfl
  unfold State.bellStep5
  simp only [savesNow_of_noneDue s hdue, hunbind, hdue, Due.none, step5_nil, hq.noSqReqs, List.filter_nil, List.foldl_nil,
    Bool.false_eq_true, if_false]

theorem endExit_of_none {s : State} (h : s.pow.exit = none) : s.endExit = s := by
  rw [State.endExit, h]

theorem bellStep6_of_quiet {s : State} {x : Symbol} (hq : Quiet s) (hdue : x.due = Due.none) : SameButStart s (s.bellStep6 x) := by
  unfold State.bellStep6
  simp only [savesNow_of_noneDue s hdue, hdue, Due.none, step6_nil, resumeAll_of_noRestore hq.noRestore, endExit_of_none hq.noExit,
    hq.noDispatches, hq.noBinds, hq.noGathers, hq.noSets, List.filter_nil]
  refine SameButStart.trans ⟨?_⟩ (settleCtxs_same ..)
  simp only [hq.noDispatches, hq.noBinds, hq.noSets]

theorem bellStep7_same (s : State) : SameButStart s s.bellStep7 := by
  unfold State.bellStep7
  split <;> exact ⟨rfl⟩

theorem capture_same (s : State) : SameButStart s s.capture := ⟨rfl⟩

/-- Steps 3 to 8 of a bell with nothing asked for. -/
theorem laterSteps_same {s : State} {x : Symbol} (hq : Quiet s) (hp : NoPages s.ledger) (hdue : x.due = Due.none) :
    SameButStart s ((((s.bellStep3 x).bellStep4 x).bellStep5 x []).bellStep6 x).bellStep7.capture := by
  obtain ⟨l, hl⟩ := bellStep4_of_quiet hq hp x
  have hq' : Quiet { s with ledger := l } := { hq with }
  rw [bellStep3_of_quiet hq hdue, hl, bellStep5_of_quiet hq' hdue]
  have hpages : SameButStart s { s with ledger := l } := ⟨rfl⟩
  exact ((hpages.trans (bellStep6_of_quiet hq' hdue)).trans (bellStep7_same _)).trans (capture_same _)

/-! ## The whole bell -/

/-- A bell that latches on a module that is not held runs the bell actions. -/
theorem exec_bellLatch_of_plain {s : State} {x : Symbol} (h : PlainBell s x) :
    exec .bellLatch s = .next ((s.latchSymbol x).bellActions x) := by
  show execBellLatch s = _
  have hfirst : s.nextSymbol = some x := h.first
  unfold execBellLatch
  simp only [hfirst, h.kind]
  exact congrArg _ (if_neg (by simp [State.latchSymbol, h.notHeld]))

/-- Before its step 2 a plain bell counts itself and leaves what a commit is checked against; after it, what the commit left. -/
theorem bellActions_of_plain {s : State} {x : Symbol} (h : PlainBell s x) : ∃ b, SameButTurn s b ∧ b.bell.count = s.bell.count + 1 ∧
    SameButStart (b.applyPending x.decided).applyTarget ((s.latchSymbol x).bellActions x) := by
  have hturn : SameButTurn s (s.latchSymbol x).nextBell := (latchSymbol_same s x).trans (nextBell_same _)
  have hparity : (s.latchSymbol x).parityDies x = [] := parityDies_of_counts h.counts h.parity
  have hnone : (s.latchSymbol x).raiseParity x [] = s.latchSymbol x := rfl
  obtain ⟨b, hb, hstep, hbell⟩ := bellStep1_same (hturn.quiet (quiet_of_plainBell h)) h.faults h.due h.noLinks h.edge
  have hsame := hturn.trans hstep
  have hopen : (b.applyPending x.decided).mod.state = 3 := by rw [applyPending_mode, hsame.eq]; exact h.isOpen
  have hquiet := hsame.quiet (quiet_of_plainBell h)
  have hconfig := (applyPending_sameConfig hquiet.noSets x.decided).trans (applyTarget_sameConfig hopen).1
  have hledger : (b.applyPending x.decided).applyTarget.ledger = s.ledger := hconfig.ledger.trans hsame.ledger
  refine ⟨b, hsame, by rw [hbell]; rfl, ?_⟩
  unfold State.bellActions
  simp only [hparity, hnone, hb]
  rw [loseMembers_of_noSets (hconfig.quiet hquiet).noSets]
  exact laterSteps_same (hconfig.quiet hquiet) (hledger ▸ noPages_of_plainBell h) h.due

/-- A PENDING commit at a plain bell. -/
theorem commitsApplyAtTheBell : Claim.CommitsApplyAtTheBell := by
  intro s x h hstatus
  obtain ⟨b, hturn, hcount, hrest⟩ := bellActions_of_plain h
  have hrules : b.markedRules = s.markedRules := hturn.markedRules (noPages_of_plainBell h)
  have hconf : b.conf = s.conf := by rw [hturn.eq]
  have hlive : b.live = s.live := by rw [hturn.eq]
  have hlog : b.inc = s.inc := by rw [hturn.eq]
  have hopen : b.mod.state = 3 := by rw [hturn.eq]; exact h.isOpen
  have htarget : b.targetMode = 3 := by rw [hturn.eq]; exact h.target
  have hbstatus : b.conf.status = 2 := by rw [hconf]; exact hstatus
  have hsets : b.sets = [] := (hturn.quiet (quiet_of_plainBell h)).noSets
  have hpend : (b.applyPending x.decided).mod.state = 3 := (applyPending_mode ..).trans hopen
  have hcommit : SameCommit (b.applyPending x.decided) ((s.latchSymbol x).bellActions x) :=
    (applyTarget_sameConfig hpend).2.trans hrest.commit
  have hbell : ((s.latchSymbol x).bellActions x).bell = b.bell :=
    hcommit.bell.trans (applyPending_sameConfig hsets x.decided).bell
  refine ⟨_, exec_bellLatch_of_plain h, by rw [hbell, hcount], fun hold hkept => ?applied, fun hold n hn hne => ?refused, fun hyoung => ?waits⟩
  case applied =>
    rw [applyPending_of_kept hbstatus (by rw [hconf]; exact hold) (by rw [hrules]; exact firstStatus_eq_zero hkept)] at hcommit
    obtain ⟨hl, -, hc, -, -⟩ := applyCommit_config b
    rw [hcommit.live, hcommit.status, hcommit.rule, hcommit.applied, hl, hc, State.committed, hconf]
    exact ⟨rfl, rfl, rfl, rfl⟩
  case refused =>
    have hbroken := applyPending_of_broken hbstatus (by rw [hconf]; exact hold) (hrules ▸ hn) hne
    obtain ⟨hsame, hrec⟩ := refuseCommit_same b n 1
    have hstays : (b.refuseCommit n 1).applyTarget = b.refuseCommit n 1 :=
      applyTarget_of_open (by rw [hsame.eq]; exact hopen) (by rw [hsame.eq]; exact htarget)
    rw [hbroken] at hcommit hrest
    rw [hstays] at hrest
    refine ⟨?_, ?_, ?_, ?_⟩
    · rw [hcommit.live, hsame.eq, hlive]
    · rw [hcommit.status, hsame.eq]
    · rw [hcommit.rule, hsame.eq]
    · rw [Records, hlog] at hrec
      rw [Records, hrest.inc, hbell]
      exact hrec
  case waits =>
    rw [applyPending_of_young (by rw [hconf]; exact hyoung)] at hcommit
    exact ⟨hcommit.live.trans hlive, hcommit.status.trans hbstatus⟩

/-- Settles O51: staging, the handshake, the check of a commit and its application, as these four statements give them (in OFF and
STANDBY, and with both paths lost, no access is taken: log entry 62). -/
theorem commits : Obligations.Commits := by
  unfold Obligations.Commits
  exact ⟨stagedRegisters, versionHandshake, commitsAreChecked, commitsApplyAtTheBell⟩

end Sys2Proof.Machine
end

section
/-! PROOF. What the module has told the host (11_host_rings.md R385 to R389): reports, completions and interrupts put records in the log and
writes in the output, and take none back. -/
namespace Sys2Proof.Machine

/-! ## Reports -/

/-- Records of the log and writes to the host only come on top of those that stand. -/
structure OnlyAdds (s t : State) : Prop where
  log : s.inc.log <:+ t.inc.log
  out : s.out <:+ t.out
  wait : s.outWait <:+ t.outWait

theorem OnlyAdds.refl (s : State) : OnlyAdds s s := ⟨List.suffix_rfl, List.suffix_rfl, List.suffix_rfl⟩

theorem OnlyAdds.trans {s t u : State} (h : OnlyAdds s t) (g : OnlyAdds t u) : OnlyAdds s u :=
  ⟨h.log.trans g.log, h.out.trans g.out, h.wait.trans g.wait⟩

theorem OnlyAdds.of_eq {s t : State} (hlog : t.inc.log = s.inc.log) (hout : t.out = s.out) (hwait : t.outWait = s.outWait) : OnlyAdds s t :=
  ⟨hlog ▸ List.suffix_rfl, hout ▸ List.suffix_rfl, hwait ▸ List.suffix_rfl⟩

/-- A step before it that touches neither the log nor the output. -/
theorem OnlyAdds.after {s t u : State} (h : OnlyAdds t u) (hlog : t.inc.log = s.inc.log) (hout : t.out = s.out)
    (hwait : t.outWait = s.outWait) : OnlyAdds s u :=
  ⟨hlog ▸ h.log, hout ▸ h.out, hwait ▸ h.wait⟩

/-- A write that has gone out, or waits to, still does. -/
theorem OnlyAdds.mem_writes {s t : State} (h : OnlyAdds s t) {w : HostWrite} (hw : w ∈ s.out ++ s.outWait) : w ∈ t.out ++ t.outWait :=
  List.mem_append.mpr ((List.mem_append.mp hw).imp (h.out.subset ·) (h.wait.subset ·))

theorem emit_adds (s : State) (l : List HostWrite) : OnlyAdds s (s.emit l) := by
  unfold State.emit
  split
  · exact .refl s
  · split
    · exact ⟨List.suffix_rfl, List.suffix_append .., List.suffix_rfl⟩
    · exact ⟨List.suffix_rfl, List.suffix_rfl, List.suffix_append ..⟩

/-- With a host edge left, what is written goes out or waits to. -/
theorem mem_emit {s : State} (hup : s.ringUp 0 = true ∨ s.ringUp 8 = true) {l : List HostWrite} {w : HostWrite} (hw : w ∈ l) :
    w ∈ (s.emit l).out ++ (s.emit l).outWait := by
  have hpath : (!s.ringUp 0 && !s.ringUp 8) = false := by rcases hup with h | h <;> simp [h]
  unfold State.emit
  rw [hpath, if_neg Bool.false_ne_true]
  split
  · exact List.mem_append_left _ (List.mem_append_left _ hw)
  · exact List.mem_append_right _ (List.mem_append_left _ hw)

theorem interrupt_adds (s : State) (v : Nat) : OnlyAdds s (s.interrupt v) := by
  unfold State.interrupt
  split
  · exact .refl s
  · split
    · exact (emit_adds ..).after rfl rfl rfl
    · split
      · exact .refl s
      · exact .of_eq rfl rfl rfl

theorem incWrite_adds (s : State) (i : Incident) : OnlyAdds s (s.incWrite i) := by
  unfold State.incWrite
  dsimp only
  generalize hu : ({ s with inc := _ } : State) = u
  exact ((emit_adds ..).trans (interrupt_adds ..)).after (by rw [← hu]) (by rw [← hu]) (by rw [← hu])

theorem incLose_adds (s : State) : OnlyAdds s s.incLose := by
  unfold State.incLose
  dsimp only
  split
  · exact (emit_adds ..).after rfl rfl rfl
  · exact .of_eq rfl rfl rfl

theorem incPut_adds (s : State) (i : Incident) : OnlyAdds s (s.incPut i) := by
  unfold State.incPut
  split
  · exact (incWrite_adds ..).trans (incLose_adds _)
  · exact incWrite_adds ..

theorem incLast_adds (s : State) (i : Incident) : OnlyAdds s (s.incLast i) := by
  have hfull (t : State) : OnlyAdds t { t with inc := { t.inc with full := true } } := .of_eq rfl rfl rfl
  unfold State.incLast
  dsimp only
  split
  · exact .refl s
  · split
    · exact (incPut_adds ..).trans (hfull _)
    · exact hfull s

theorem incOffer_adds (s : State) (i : Incident) : OnlyAdds s (s.incOffer i) := by
  unfold State.incOffer
  split
  · exact incLose_adds s
  · split
    · exact (incPut_adds ..).trans (incLast_adds ..)
    · exact (incLast_adds ..).trans (incLose_adds _)

theorem raise_adds (s : State) (code die : Nat) (ctx : Option Nat) (whre pc : Nat) (detail : List Nat) :
    OnlyAdds s (s.raise code die ctx whre pc detail) := by
  have hlog : OnlyAdds s { s with inc := { s.inc with log := ⟨code, die, ctx, whre, pc, s.bell.count, detail⟩ :: s.inc.log } } :=
    ⟨List.suffix_cons .., List.suffix_rfl, List.suffix_rfl⟩
  unfold State.raise
  dsimp only
  split
  · exact hlog.trans (incOffer_adds ..)
  · split <;> exact hlog.trans (.of_eq rfl rfl rfl)

theorem setMode_adds (s : State) (n : Nat) : OnlyAdds s (s.setMode n) := by
  unfold State.setMode
  split
  · exact .refl s
  · exact ((raise_adds ..).trans (interrupt_adds ..)).after rfl rfl rfl

theorem settleEmergency_adds (s : State) : OnlyAdds s s.settleEmergency := by
  unfold State.settleEmergency
  dsimp only
  split
  · exact .refl s
  · split
    · exact (raise_adds ..).after rfl rfl rfl
    · split
      · exact (raise_adds ..).after rfl rfl rfl
      · exact .of_eq rfl rfl rfl

/-! ## Completions -/

theorem setRing_adds (s : State) (i : Nat) (r : Ring) : OnlyAdds s (s.setRing i r) := .of_eq rfl rfl rfl

theorem stopRing_adds (s : State) (i code : Nat) (detail : List Nat) : OnlyAdds s (s.stopRing i code detail) :=
  (setRing_adds ..).trans (raise_adds ..)

theorem spendRing_adds (s : State) (i : Nat) : OnlyAdds s (s.spendRing i) := by
  unfold State.spendRing
  dsimp only
  split
  · exact .refl s
  · split
    · exact (setRing_adds ..).trans (raise_adds ..)
    · exact (setRing_adds ..).trans (stopRing_adds ..)

theorem settleRing_adds (s : State) (i : Nat) : OnlyAdds s (s.settleRing i) := by
  unfold State.settleRing
  dsimp only
  split
  · exact setRing_adds ..
  · exact .refl s

/-- What follows a completion's record: the interrupt that the order asks for, and the stop of a ring whose indices have run out. -/
def State.afterCpl (s : State) (o : Order) (last : Bool) : State :=
  if last then (if o.intr then s.interrupt o.ring else s).spendRing o.ring else if o.intr then s.interrupt o.ring else s

theorem afterCpl_adds (s : State) (o : Order) (last : Bool) : OnlyAdds s (s.afterCpl o last) := by
  have hint : OnlyAdds s (if o.intr then s.interrupt o.ring else s) := by
    split
    · exact interrupt_adds ..
    · exact .refl s
  unfold State.afterCpl
  split
  · exact hint.trans (spendRing_adds ..)
  · exact hint

/-- Whether the completion record of an order can be written (R378, R382). -/
def State.cplLost (s : State) (o : Order) : Bool := (s.ring o.ring).broken || (s.mod.session && (s.ring o.ring).cplSpent)

theorem writeCpl_of_lost {s : State} {o : Order} (h : s.cplLost o = true) (status inc result detail : Nat) :
    s.writeCpl o status inc result detail = s.setRing o.ring { s.ring o.ring with lost := (s.ring o.ring).lost + 1 } := if_pos h

/-- A record that can be written: the ring's counters go on and its orders stay, the record goes to the host with the status entry. -/
theorem writeCpl_of_kept {s : State} {o : Order} (h : s.cplLost o = false) (status inc result detail : Nat) :
    ∃ (r : Ring) (last : Bool) (a tag : Nat) (sts : HostWrite), s.writeCpl o status inc result detail =
      ((s.setRing o.ring r).emit [sts, HostWrite.bytes a (cplBytes o status inc (s.ring o.ring).cidx result s.bell.count detail ++
        leBytes 16 tag)]).afterCpl o last ∧
      r.started = (s.ring o.ring).started ∧ r.intake = (s.ring o.ring).intake := by
  unfold State.writeCpl
  exact ⟨_, _, _, _, _, if_neg (Bool.eq_false_iff.mp h), rfl, rfl⟩

theorem writeCpl_adds (s : State) (o : Order) (status inc result detail : Nat) : OnlyAdds s (s.writeCpl o status inc result detail) := by
  cases h : s.cplLost o with
  | true => rw [writeCpl_of_lost h]; exact setRing_adds ..
  | false =>
    obtain ⟨r, last, a, tag, sts, heq, -, -⟩ := writeCpl_of_kept h status inc result detail
    rw [heq]
    exact ((setRing_adds ..).trans (emit_adds ..)).trans (afterCpl_adds ..)

/-- The ring of an order without it. -/
def Ring.without (r : Ring) (id : Nat) : Ring :=
  { r with started := r.started.filter (fun x => x.id ≠ id), intake := r.intake.filter (fun x => x.id ≠ id) }

theorem complete_of_found {s : State} {id : Nat} {o : Order} (h : s.findOrder id = some o) (status inc result detail : Nat) :
    s.complete id status inc result detail =
      ((s.setRing o.ring ((s.ring o.ring).without id)).writeCpl o status inc result detail).settleRing o.ring := by
  unfold State.complete
  rw [h]
  rfl

theorem complete_of_missing {s : State} {id : Nat} (h : s.findOrder id = none) (status inc result detail : Nat) :
    s.complete id status inc result detail = s := by
  unfold State.complete
  rw [h]

theorem complete_adds (s : State) (id status inc result detail : Nat) : OnlyAdds s (s.complete id status inc result detail) := by
  cases h : s.findOrder id with
  | none => rw [complete_of_missing h]; exact .refl s
  | some o =>
    rw [complete_of_found h]
    exact ((setRing_adds ..).trans (writeCpl_adds ..)).trans (settleRing_adds ..)

theorem completeAll_adds (status inc : Nat) : ∀ (l : List Order) (s : State), OnlyAdds s (s.completeAll status inc l)
  | [], s => .refl s
  | _ :: l, s => (complete_adds s ..).trans (completeAll_adds status inc l _)

/-- A record that is not lost goes to the host, where a host edge is left. -/
theorem writeCpl_writes {s : State} {o : Order} (hkept : s.cplLost o = false) (hup : s.ringUp 0 = true ∨ s.ringUp 8 = true)
    (status inc result detail : Nat) :
    ∃ a tag, HostWrite.bytes a (cplBytes o status inc (s.ring o.ring).cidx result s.bell.count detail ++ leBytes 16 tag) ∈
      (s.writeCpl o status inc result detail).out ++ (s.writeCpl o status inc result detail).outWait := by
  obtain ⟨r, last, a, tag, sts, heq, -, -⟩ := writeCpl_of_kept hkept status inc result detail
  rw [heq]
  refine ⟨a, tag, (afterCpl_adds ..).mem_writes (mem_emit ?_ (List.mem_cons_of_mem _ (List.mem_singleton_self _)))⟩
  exact hup

/-- So does the record of an order that ends. -/
theorem complete_writes {s : State} {id : Nat} {o : Order} (h : s.findOrder id = some o) (hkept : s.cplLost o = false)
    (hup : s.ringUp 0 = true ∨ s.ringUp 8 = true) (status inc result detail : Nat) :
    ∃ a tag, HostWrite.bytes a (cplBytes o status inc (s.ring o.ring).cidx result s.bell.count detail ++ leBytes 16 tag) ∈
      (s.complete id status inc result detail).out ++ (s.complete id status inc result detail).outWait := by
  have hring : (s.setRing o.ring ((s.ring o.ring).without id)).ring o.ring = (s.ring o.ring).without id := ring_setRing_self ..
  have hlost : (s.setRing o.ring ((s.ring o.ring).without id)).cplLost o = false := by
    rw [State.cplLost, hring]
    exact hkept
  obtain ⟨a, tag, hw⟩ := writeCpl_writes hlost hup status inc result detail
  rw [hring] at hw
  rw [complete_of_found h]
  exact ⟨a, tag, (settleRing_adds ..).mem_writes hw⟩

end Sys2Proof.Machine
end

section
/-! PROOF. A HOLD and a pending activation (13_trust.md R440): the activation is cancelled and reported, and where the table of rings stands
in rising order its order leaves the rings with a completion record. -/
namespace Sys2Proof.Machine
open Sys2Proof.Claim

/-! ## Orders that have left their ring -/

/-- The entries of the rings' table stand in rising order of ring number (`Tbl`). -/
def RingsAscend (s : State) : Prop := (s.rings.map (·.1)).Pairwise (· < ·)

/-- No ring holds an order of this number. -/
def State.lacksOrder (s : State) (id : Nat) : Prop := ∀ p ∈ s.rings, ∀ y ∈ p.2.started ++ p.2.intake, y.id ≠ id

theorem mem_tput {α : Type} {k : Nat} {v : α} {p : Nat × α} : ∀ {t : Tbl α}, p ∈ tput t k v → p = (k, v) ∨ p ∈ t
  | [], h => .inl (List.mem_singleton.mp h)
  | (a, w) :: r, h => by
    unfold tput at h
    split at h
    · exact List.mem_cons.mp h
    · split at h
      · exact (List.mem_cons.mp h).imp_right (List.mem_cons_of_mem _)
      · rcases List.mem_cons.mp h with rfl | h
        · exact .inr (List.mem_cons_self ..)
        · exact (mem_tput h).imp_right (List.mem_cons_of_mem _)

/-- In a table in rising order only the entry written stands under its key. -/
theorem mem_tput_of_ascend {α : Type} {k : Nat} {v : α} {p : Nat × α} : ∀ {t : Tbl α}, (t.map (·.1)).Pairwise (· < ·) →
    p ∈ tput t k v → p = (k, v) ∨ (p ∈ t ∧ p.1 ≠ k)
  | [], _, h => .inl (List.mem_singleton.mp h)
  | (a, w) :: r, hasc, h => by
    obtain ⟨hhead, hrest⟩ := List.pairwise_cons.mp hasc
    have habove : ∀ q ∈ r, a < q.1 := fun q hq => hhead _ (List.mem_map_of_mem hq)
    unfold tput at h
    split at h
    · rename_i hlt
      rcases List.mem_cons.mp h with rfl | h
      · exact .inl rfl
      · refine .inr ⟨h, ?_⟩
        rcases List.mem_cons.mp h with rfl | h
        · exact Nat.ne_of_gt hlt
        · exact Nat.ne_of_gt (Nat.lt_trans hlt (habove p h))
    · split at h
      · rename_i heq
        rcases List.mem_cons.mp h with rfl | h
        · exact .inl rfl
        · exact .inr ⟨List.mem_cons_of_mem _ h, heq ▸ Nat.ne_of_gt (habove p h)⟩
      · rename_i hne
        rcases List.mem_cons.mp h with rfl | h
        · exact .inr ⟨List.mem_cons_self .., hne⟩
        · exact (mem_tput_of_ascend hrest h).imp_right fun ⟨hp, hk⟩ => ⟨List.mem_cons_of_mem _ hp, hk⟩

theorem mem_of_tfind {α : Type} {k : Nat} {v : α} : ∀ {t : Tbl α}, tfind t k = some v → (k, v) ∈ t
  | [], h => nomatch h
  | (a, w) :: r, h => by
    unfold tfind at h
    split at h
    · rename_i heq
      rw [← heq, ← Option.some.inj h]
      exact List.mem_cons_self ..
    · exact List.mem_cons_of_mem _ (mem_of_tfind h)

theorem lacksOrder_ring {s : State} {id : Nat} (h : s.lacksOrder id) (i : Nat) : ∀ y ∈ (s.ring i).started ++ (s.ring i).intake, y.id ≠ id := by
  unfold State.ring tget
  cases hfind : tfind s.rings i with
  | none => exact fun y hy => nomatch hy
  | some r => exact h _ (mem_of_tfind hfind)

/-- A ring written with orders it had leaves the orders of the rings as they are. -/
theorem lacksOrder_setRing {s : State} {id : Nat} (h : s.lacksOrder id) (i : Nat) {r : Ring} (hstarted : r.started = (s.ring i).started)
    (hintake : r.intake = (s.ring i).intake) : (s.setRing i r).lacksOrder id := by
  intro p hp
  rcases mem_tput hp with rfl | hp
  · rw [hstarted, hintake]
    exact lacksOrder_ring h i
  · exact h p hp

theorem lacksOrder_of_sameButReports {s t : State} {id : Nat} (hsame : SameButReports s t) (h : s.lacksOrder id) : t.lacksOrder id := by
  unfold State.lacksOrder
  rw [hsame.eq]
  exact h

theorem lacksOrder_stopRing {s : State} {id : Nat} (h : s.lacksOrder id) (i code : Nat) (detail : List Nat) :
    (s.stopRing i code detail).lacksOrder id :=
  lacksOrder_of_sameButReports (raise_same ..).1 (lacksOrder_setRing h i rfl rfl)

theorem lacksOrder_spendRing {s : State} {id : Nat} (h : s.lacksOrder id) (i : Nat) : (s.spendRing i).lacksOrder id := by
  unfold State.spendRing
  dsimp only
  split
  · exact h
  · split
    · exact lacksOrder_of_sameButReports (raise_same ..).1 (lacksOrder_setRing h i rfl rfl)
    · refine lacksOrder_stopRing (lacksOrder_setRing h i ?_ ?_) i _ _
      · rfl
      · rfl

theorem lacksOrder_settleRing {s : State} {id : Nat} (h : s.lacksOrder id) (i : Nat) : (s.settleRing i).lacksOrder id := by
  unfold State.settleRing
  dsimp only
  split
  · exact lacksOrder_setRing h i rfl rfl
  · exact h

theorem lacksOrder_afterCpl {s : State} {id : Nat} (h : s.lacksOrder id) (o : Order) (last : Bool) : (s.afterCpl o last).lacksOrder id := by
  have hint : (if o.intr then s.interrupt o.ring else s).lacksOrder id := by
    split
    · exact lacksOrder_of_sameButReports (interrupt_same ..).1 h
    · exact h
  unfold State.afterCpl
  split
  · exact lacksOrder_spendRing hint o.ring
  · exact hint

theorem lacksOrder_writeCpl {s : State} {id : Nat} (h : s.lacksOrder id) (o : Order) (status inc result detail : Nat) :
    (s.writeCpl o status inc result detail).lacksOrder id := by
  cases hlost : s.cplLost o with
  | true => rw [writeCpl_of_lost hlost]; exact lacksOrder_setRing h o.ring rfl rfl
  | false =>
    obtain ⟨r, last, a, tag, sts, heq, hstarted, hintake⟩ := writeCpl_of_kept hlost status inc result detail
    rw [heq]
    exact lacksOrder_afterCpl (lacksOrder_of_sameButReports (emit_same ..).1 (lacksOrder_setRing h o.ring hstarted hintake)) o last

theorem mem_of_findOrder {s : State} {id : Nat} {o : Order} (h : s.findOrder id = some o) :
    o.id = id ∧ ∃ p ∈ s.rings, o ∈ p.2.started ++ p.2.intake := by
  obtain ⟨p, hp, ho⟩ := List.exists_of_findSome?_eq_some h
  exact ⟨by simpa using List.find?_some ho, p, hp, List.mem_of_find?_eq_some ho⟩

theorem id_ne_of_mem_without {r : Ring} {id : Nat} {y : Order} (h : y ∈ (r.without id).started ++ (r.without id).intake) : y.id ≠ id := by
  simp only [Ring.without, List.mem_append, List.mem_filter, decide_eq_true_eq] at h
  exact h.elim And.right And.right

/-- Among orders that share no number, the number tells the order. -/
theorem eq_of_id_eq {y z : Order} : ∀ {l : List Order}, (l.map (·.id)).Nodup → y ∈ l → z ∈ l → y.id = z.id → y = z
  | [], _, hy, _, _ => nomatch hy
  | x :: l, hnodup, hy, hz, hid => by
    obtain ⟨hx, hrest⟩ := List.nodup_cons.mp hnodup
    rcases List.mem_cons.mp hy with rfl | hyl
    · rcases List.mem_cons.mp hz with rfl | hzl
      · rfl
      · exact absurd (List.mem_map.mpr ⟨z, hzl, hid.symm⟩) hx
    · rcases List.mem_cons.mp hz with rfl | hzl
      · exact absurd (List.mem_map.mpr ⟨y, hyl, hid⟩) hx
      · exact eq_of_id_eq hrest hyl hzl hid

/-- Once the order of a number has left the ring it names, no ring holds one: numbers are not shared, and every order stands at home. -/
theorem lacksOrder_without {s : State} {id : Nat} {o : Order} (hasc : RingsAscend s) (hnum : OrdersNumbered s)
    (hfind : s.findOrder id = some o) : (s.setRing o.ring ((s.ring o.ring).without id)).lacksOrder id := by
  obtain ⟨hid, q, hq, ho⟩ := mem_of_findOrder hfind
  intro p hp y hy hyid
  rcases mem_tput_of_ascend hasc hp with rfl | ⟨hp, hne⟩
  · exact id_ne_of_mem_without hy hyid
  · have hyo : y = o := eq_of_id_eq hnum.unique (List.mem_flatMap.mpr ⟨p, hp, hy⟩) (List.mem_flatMap.mpr ⟨q, hq, ho⟩)
      (hyid.trans hid.symm)
    exact hne (hnum.home p hp o (hyo ▸ hy)).symm

/-- An order that ends leaves the rings. -/
theorem lacksOrder_complete {s : State} {id : Nat} {o : Order} (hasc : RingsAscend s) (hnum : OrdersNumbered s)
    (hfind : s.findOrder id = some o) (status inc result detail : Nat) : (s.complete id status inc result detail).lacksOrder id := by
  rw [complete_of_found hfind]
  exact lacksOrder_settleRing (lacksOrder_writeCpl (lacksOrder_without hasc hnum hfind) o _ _ _ _) o.ring

/-! ## The latch of a HOLD -/

/-- Everything but the clock, the bell unit, the power core, the mode and the reports is as it was, and so is the bell number. -/
structure SameButHold (s t : State) : Prop where
  eq : t = { s with
    now := t.now, bell := t.bell, pow := t.pow, mod := { s.mod with state := t.mod.state }
    inc := t.inc, out := t.out, outWait := t.outWait, intLast := t.intLast, intHeld := t.intHeld }
  count : t.bell.count = s.bell.count

theorem SameButHold.refl (s : State) : SameButHold s s := ⟨rfl, rfl⟩

theorem SameButHold.trans {s t u : State} (h : SameButHold s t) (g : SameButHold t u) : SameButHold s u := by
  refine ⟨?_, g.count.trans h.count⟩
  rw [g.eq, h.eq]

theorem SameButHold.after {s t u : State} (g : SameButHold t u) (h : SameButHold s t) : SameButHold s u := h.trans g

theorem SameButReports.hold {s t : State} (h : SameButReports s t) : SameButHold s t := by
  constructor
  · rw [h.eq]
  · rw [h.eq]

theorem thermalMax_same (s : State) : SameButHold s s.thermalMax := by
  unfold State.thermalMax
  split <;> exact ⟨rfl, rfl⟩

theorem setMode_hold (s : State) (n : Nat) : SameButHold s (s.setMode n) := by
  obtain ⟨hmod, hsame, -⟩ := setMode_same s n
  refine hsame.hold.after ?_
  rw [hmod]
  exact ⟨rfl, rfl⟩

theorem settleEmergency_same (s : State) : SameButHold s s.settleEmergency := by
  unfold State.settleEmergency
  dsimp only
  split
  · exact .refl s
  · split
    · exact (raise_same ..).1.hold.after ⟨rfl, rfl⟩
    · split
      · exact (raise_same ..).1.hold.after ⟨rfl, rfl⟩
      · exact ⟨rfl, rfl⟩

/-- The hold of a HOLD symbol in effect, with its causes. -/
def State.holdSet (s : State) (x : Symbol) : State :=
  let t := s.latchSymbol x
  { t with bell := { t.bell with
    cause := orBits t.bell.cause x.cause, held := true
    symbols := t.bell.symbols.filter fun y => !(y.kind = .release && y.latch = x.latch) } }

/-- What a HOLD does before it comes to a pending activation: the hold, 0x0109, S_th after a thermal trip. -/
def State.holdBegins (s : State) (x : Symbol) : State :=
  let t := (s.holdSet x).raiseDie 0x0109 x.src [x.cause]
  if bitAt x.cause 1 then t.thermalMax else t

/-- What a HOLD does after that: an OPEN module is HELD, and the emergency level follows. -/
def State.holdEnds (s : State) : State := (if s.mod.state = 3 then s.setMode 2 else s).settleEmergency

theorem holdLatch_eq (s : State) (x : Symbol) : s.holdLatch x = ((s.holdBegins x).cancelActivation x.cause).holdEnds := rfl

theorem holdBegins_same (s : State) (x : Symbol) : SameButHold s (s.holdBegins x) := by
  have hset : SameButHold s (s.holdSet x) := ⟨rfl, rfl⟩
  have hraise := hset.trans (raiseDie_same (s.holdSet x) 0x0109 x.src [x.cause]).1.hold
  unfold State.holdBegins
  dsimp only
  split
  · exact hraise.trans (thermalMax_same _)
  · exact hraise

theorem holdEnds_same (s : State) : SameButHold s s.holdEnds := by
  unfold State.holdEnds
  split
  · exact (setMode_hold ..).trans (settleEmergency_same _)
  · exact settleEmergency_same s

theorem holdEnds_adds (s : State) : OnlyAdds s s.holdEnds := by
  unfold State.holdEnds
  split
  · exact (setMode_adds ..).trans (settleEmergency_adds _)
  · exact settleEmergency_adds s

theorem SameButHold.trust {s t : State} (h : SameButHold s t) : t.trust = s.trust := by rw [h.eq]
theorem SameButHold.flash {s t : State} (h : SameButHold s t) : t.flash = s.flash := by rw [h.eq]
theorem SameButHold.rings {s t : State} (h : SameButHold s t) : t.rings = s.rings := by rw [h.eq]
theorem SameButHold.session {s t : State} (h : SameButHold s t) : t.mod.session = s.mod.session := by rw [h.eq]
theorem SameButHold.ringUp {s t : State} (h : SameButHold s t) (d : Nat) : t.ringUp d = s.ringUp d := by rw [h.eq]; rfl

/-- No activation is pending. -/
def Trust.withoutActivation (k : Trust) : Trust := { k with act := none, deferred := false, deferLogged := false }

/-- A module whose activation a HOLD has taken back and reported, before its order completes. -/
def State.activationDropped (s : State) (cause : Nat) : State :=
  ({ s with trust := s.trust.withoutActivation } : State).raiseMod 0x0C08 [cause]

theorem activationDropped_same (s : State) (cause : Nat) :
    SameButReports { s with trust := s.trust.withoutActivation } (s.activationDropped cause) ∧
    (s.activationDropped cause).inc.log = ⟨0x0C08, 0xFF, none, 0, 0xFFFFFFFF, s.bell.count, [cause]⟩ :: s.inc.log := raiseMod_same ..

theorem cancelActivation_of_pending {s : State} {id : Nat} (hact : s.trust.act = some id) (hnot : s.trust.reloading = none) (cause : Nat) :
    s.cancelActivation cause = (s.activationDropped cause).complete id stCancelled 0x0C08 0 0 := by
  unfold State.cancelActivation
  rw [hact, hnot]
  rfl

theorem exec_holdLatch_of_next {s : State} {x : Symbol} (hnext : s.nextSymbol = some x) (hkind : x.kind = .hold) :
    exec .holdLatch s = .next (s.holdLatch x) := by
  show execHoldLatch s = _
  rw [execHoldLatch, hnext]
  exact if_pos hkind

/-- The latch of a HOLD in its three parts, where an activation is pending. -/
theorem holdLatch_of_pending {s : State} {id : Nat} (hact : s.trust.act = some id) (hnot : s.trust.reloading = none) (x : Symbol) :
    s.holdLatch x = (((s.holdBegins x).activationDropped x.cause).complete id stCancelled 0x0C08 0 0).holdEnds := by
  have htrust := (holdBegins_same s x).trust
  rw [holdLatch_eq, cancelActivation_of_pending (htrust ▸ hact) (htrust ▸ hnot)]

/-- What a HOLD leaves of a pending activation that no bell has begun: nothing but the staged image, and 0x0C08 in the log. -/
theorem holdLatch_cancels {s : State} {id : Nat} (hact : s.trust.act = some id) (hnot : s.trust.reloading = none) (x : Symbol) :
    (s.holdLatch x).trust = s.trust.withoutActivation ∧ (s.holdLatch x).flash = s.flash ∧
      ∃ i ∈ (s.holdLatch x).inc.log, i.code = 0x0C08 ∧ i.detail = [x.cause] := by
  rw [holdLatch_of_pending hact hnot]
  have hbegins := holdBegins_same s x
  generalize s.holdBegins x = b at hbegins ⊢
  obtain ⟨hdropped, hlog⟩ := activationDropped_same b x.cause
  generalize b.activationDropped x.cause = d at hdropped hlog ⊢
  have hcomplete := complete_same d id stCancelled 0x0C08 0 0
  have hadds := (complete_adds d id stCancelled 0x0C08 0 0).trans (holdEnds_adds _)
  generalize d.complete id stCancelled 0x0C08 0 0 = c at hcomplete hadds ⊢
  have hends := holdEnds_same c
  refine ⟨?_, ?_, _, hadds.log.subset (hlog ▸ List.mem_cons_self ..), rfl, rfl⟩
  · rw [hends.trust, hcomplete.eq, hdropped.eq, ← hbegins.trust]
  · rw [hends.flash, hcomplete.eq, hdropped.eq, ← hbegins.flash]

/-- With the rings in rising order, the order of the cancelled activation leaves them, and its record goes to the host. -/
theorem holdLatch_ends_order {s : State} {id : Nat} {o : Order} (hact : s.trust.act = some id) (hnot : s.trust.reloading = none)
    (x : Symbol) (hasc : RingsAscend s) (hnum : OrdersNumbered s) (hfind : s.findOrder id = some o) :
    (s.holdLatch x).lacksOrder id ∧ (s.cplLost o = false → (s.ringUp 0 = true ∨ s.ringUp 8 = true) → ∃ a tag,
      HostWrite.bytes a (cplBytes o stCancelled 0x0C08 (s.ring o.ring).cidx 0 s.bell.count 0 ++ leBytes 16 tag) ∈
        (s.holdLatch x).out ++ (s.holdLatch x).outWait) := by
  rw [holdLatch_of_pending hact hnot]
  have hbegins := holdBegins_same s x
  generalize s.holdBegins x = b at hbegins ⊢
  have hdropped := (activationDropped_same b x.cause).1
  generalize b.activationDropped x.cause = d at hdropped ⊢
  have hrings : d.rings = s.rings := by rw [hdropped.eq]; exact hbegins.rings
  have hring : d.ring o.ring = s.ring o.ring := by rw [State.ring, hrings]; rfl
  have hcount : d.bell.count = s.bell.count := by rw [hdropped.eq]; exact hbegins.count
  have hsession : d.mod.session = s.mod.session := by rw [hdropped.eq]; exact hbegins.session
  have hup (n : Nat) : d.ringUp n = s.ringUp n := by rw [hdropped.eq]; exact hbegins.ringUp n
  have hfound : d.findOrder id = some o := by rw [State.findOrder, hrings]; exact hfind
  have hnum' : OrdersNumbered d := ⟨hrings ▸ hnum.keys, hrings ▸ hnum.home, hrings ▸ hnum.unique⟩
  have hasc' : RingsAscend d := by rw [RingsAscend, hrings]; exact hasc
  constructor
  · unfold State.lacksOrder
    rw [(holdEnds_same _).rings]
    exact lacksOrder_complete hasc' hnum' hfound _ _ _ _
  · intro hkept hpath
    obtain ⟨a, tag, hw⟩ := complete_writes hfound (by rw [State.cplLost, hring, hsession]; exact hkept) (by rw [hup, hup]; exact hpath)
      stCancelled 0x0C08 0 0
    rw [hring, hcount] at hw
    exact ⟨a, tag, (holdEnds_adds _).mem_writes hw⟩

end Sys2Proof.Machine
end

section
/-! PROOF. The firmware orders (13_trust.md R424, R438, R439, Table TRU.5): FW_STAGE, FW_ACTIVATE and FW_DISCARD from their start on. -/
namespace Sys2Proof.Machine
open Sys2Proof.Claim

/-! ## Orders that start -/

theorem mayStart_of_starts {s : State} {ring op : Nat} {o : Order} {rest : List Order} (h : Starts s ring op o rest) :
    s.mayStart (s.ring ring) o op = true := by
  have hfence : (!o.fence || (s.ring ring).started.isEmpty) = true := by
    cases hf : o.fence with
    | false => rfl
    | true => rw [h.fence hf]; rfl
  have hlate : (s.mod.state ≠ 4 ∧ s.mod.state ≠ 5) ∨ op ∉ lateOps := h.notLate
  simpa [State.mayStart, h.opIs, h.aBellSince, hfence, h.notHeld, h.scheduler] using hlate

/-- An order that starts meets its meaning in the state in which it has begun. -/
theorem onOrder_of_starts {s : State} {ring op : Nat} {o : Order} {rest : List Order} (h : Starts s ring op o rest)
    (f : Order → State → State) : s.onOrder ring op f = f o (begun s ring o rest) :=
  onOrder_starts s f h.next (mayStart_of_starts h)

/-- Nothing of the trust chapter has changed when an order has begun. -/
theorem begun_trust (s : State) (ring : Nat) (o : Order) (rest : List Order) : (begun s ring o rest).trust = s.trust := rfl

section
variable {s : State} {ring : Nat} {o : Order} {rest : List Order} {image : HostMem} {l : List Byte} {flashOk : Bool}

/-! ## FW_STAGE -/

theorem exec_fwStage_of_pending (h : Starts s ring 0x74 o rest) (hact : s.trust.act.isSome = true) :
    exec (.fwStage ring image flashOk) s = .next ((begun s ring o rest).complete o.id stRejected 0 3 0) := by
  show execFwStage ring image flashOk s = _
  rw [execFwStage, onOrder_of_starts h, begun_trust, if_pos hact]
  rfl

/-- Host memory does not answer with bytes: the access meets that, and the order fails with its code. -/
theorem exec_fwStage_of_noData (h : Starts s ring 0x74 o rest) (hact : s.trust.act = none) (himage : image.data = none) :
    ∃ who a : Nat, exec (.fwStage ring image flashOk) s = .next (((begun s ring o rest).hostMiss s.conf.ringDie who none a image).complete o.id
      stFailed (if image = .late then 0x0608 else 0x0706) 0 0) := by
  refine ⟨engineId s.conf.ringDie, s.mod.id * 2 ^ 46 + o.arg 0 8, ?_⟩
  show execFwStage ring image flashOk s = _
  rw [execFwStage, onOrder_of_starts h, begun_trust, if_neg (Option.not_isSome_iff_eq_none.mpr hact), himage]
  rfl

/-- An image that fails a check is refused with its number. -/
theorem exec_fwStage_of_refused (h : Starts s ring 0x74 o rest) (hact : s.trust.act = none)
    (hcheck : (imageOfBytes (l.take (o.arg 8 4))).check ≠ 0) :
    exec (.fwStage ring (.bytes l) flashOk) s =
      .next ((begun s ring o rest).stageRejected o (imageOfBytes (l.take (o.arg 8 4))).check) := by
  show execFwStage ring (.bytes l) flashOk s = _
  rw [execFwStage, onOrder_of_starts h, begun_trust, if_neg (Option.not_isSome_iff_eq_none.mpr hact)]
  exact congrArg _ (if_pos hcheck)

/-- A sound image is staged in the slot that does not run. -/
theorem exec_fwStage_of_sound (h : Starts s ring 0x74 o rest) (hact : s.trust.act = none)
    (hcheck : (imageOfBytes (l.take (o.arg 8 4))).check = 0) :
    exec (.fwStage ring (.bytes l) true) s = .next ((({ begun s ring o rest with
      trust := { s.trust with staged := some (imageOfBytes (l.take (o.arg 8 4))) } } : State).putIdle
        (imageOfBytes (l.take (o.arg 8 4)))).complete o.id stDone 0 0 0) := by
  show execFwStage ring (.bytes l) true s = _
  rw [execFwStage, onOrder_of_starts h, begun_trust, if_neg (Option.not_isSome_iff_eq_none.mpr hact)]
  exact congrArg _ ((if_neg fun hne => hne hcheck).trans (if_neg Bool.false_ne_true))

/-- Where the flash fails, some image stands in that slot, and none is staged. -/
theorem exec_fwStage_of_badFlash (h : Starts s ring 0x74 o rest) (hact : s.trust.act = none)
    (hcheck : (imageOfBytes (l.take (o.arg 8 4))).check = 0) :
    ∃ i, exec (.fwStage ring (.bytes l) false) s = .next (((({ begun s ring o rest with
      trust := { s.trust with staged := none } } : State).putIdle i).useFree 1).stageRejected o 8) := by
  refine ⟨{ imageOfBytes (l.take (o.arg 8 4)) with check := Config.freeLost s.freeCtr % 8 }, ?_⟩
  show execFwStage ring (.bytes l) false s = _
  rw [execFwStage, onOrder_of_starts h, begun_trust, if_neg (Option.not_isSome_iff_eq_none.mpr hact)]
  exact congrArg _ ((if_neg fun hne => hne hcheck).trans (if_pos rfl))

/-- The slot that runs keeps its image. -/
theorem putIdle_runs (s : State) (i : FwImage) : (s.trust.slot = 0 → (s.putIdle i).flash.slotA = s.flash.slotA) ∧
    (s.trust.slot ≠ 0 → (s.putIdle i).flash.slotB = s.flash.slotB) := by
  unfold State.putIdle
  exact ⟨fun h => by rw [if_pos h], fun h => by rw [if_neg h]⟩

/-- Bytes of host memory that are refused or late change no firmware. -/
theorem hostMiss_same (s : State) (d who : Nat) (ctx : Option Nat) (a : Nat) (image : HostMem) :
    SameButReports { s with dieMem := (s.hostMiss d who ctx a image).dieMem } (s.hostMiss d who ctx a image) := by
  unfold State.hostMiss
  split
  · exact SameButReports.dieMem (raise_same ..).1
  · exact SameButReports.dieMem (raise_same ..).1

/-- The state in which the order of a refused image fails: the order's, with 0x0C06 in the log. -/
theorem stageRejected_eq (s : State) (o : Order) (n : Nat) : ∃ t, s.stageRejected o n = t.complete o.id stFailed 0x0C06 0 n ∧
    SameButReports s t ∧ t.inc.log = ⟨0x0C06, s.bell.lead, none, 0, 0xFFFFFFFF, s.bell.count, [n]⟩ :: s.inc.log :=
  ⟨_, rfl, raise_same ..⟩

/-- No bytes are no image. -/
theorem check_nil : (imageOfBytes []).check = 1 := rfl

/-! ## FW_ACTIVATE and FW_DISCARD -/

theorem exec_fwActivate_of_pending (h : Starts s ring 0x75 o rest) (hact : s.trust.act.isSome = true) :
    exec (.fwActivate ring) s = .next ((begun s ring o rest).complete o.id stRejected 0 3 0) := by
  show execFwActivate ring s = _
  rw [execFwActivate, onOrder_of_starts h, begun_trust, if_pos hact]
  rfl

theorem exec_fwActivate_of_unstaged (h : Starts s ring 0x75 o rest) (hact : s.trust.act = none) (hstaged : s.trust.staged = none) :
    exec (.fwActivate ring) s = .next ((begun s ring o rest).complete o.id stRejected 0 4 0) := by
  show execFwActivate ring s = _
  rw [execFwActivate, onOrder_of_starts h, begun_trust, if_neg (Option.not_isSome_iff_eq_none.mpr hact), if_pos (by rw [hstaged]; rfl)]
  rfl

theorem exec_fwActivate_of_staged (h : Starts s ring 0x75 o rest) (hact : s.trust.act = none) (hstaged : s.trust.staged.isSome = true) :
    exec (.fwActivate ring) s =
      .next { begun s ring o rest with trust := { s.trust with act := some o.id, deferred := false, deferLogged := false } } := by
  have hne : ¬ s.trust.staged.isNone = true := by
    rw [← Option.not_isSome, hstaged]
    exact Bool.false_ne_true
  show execFwActivate ring s = _
  rw [execFwActivate, onOrder_of_starts h, begun_trust, if_neg (Option.not_isSome_iff_eq_none.mpr hact), if_neg hne]

theorem exec_fwDiscard_of_pending (h : Starts s ring 0x76 o rest) (hact : s.trust.act.isSome = true) :
    exec (.fwDiscard ring) s = .next ((begun s ring o rest).complete o.id stRejected 0 3 0) := by
  show execFwDiscard ring s = _
  rw [execFwDiscard, onOrder_of_starts h, begun_trust, if_pos hact]
  rfl

theorem exec_fwDiscard_of_idle (h : Starts s ring 0x76 o rest) (hact : s.trust.act = none) :
    exec (.fwDiscard ring) s =
      .next (({ begun s ring o rest with trust := { s.trust with staged := none } } : State).complete o.id stDone 0 0 0) := by
  show execFwDiscard ring s = _
  rw [execFwDiscard, onOrder_of_starts h, begun_trust, if_neg (Option.not_isSome_iff_eq_none.mpr hact)]
  rfl

end

/-- The firmware orders, as O54 states them. -/
theorem firmwareOrders : Claim.FirmwareOrders := by
  intro s ring o rest l flashOk
  refine ⟨fun c op hc hstarts hact => ?pending, fun hact => ⟨fun hstarts => ⟨fun hne => ?refused, fun h0 hok => ?staged, fun h0 hbad => ?flash,
    fun hnil => hnil ▸ check_nil, ?host, ?late⟩, fun hstarts => ⟨exec_fwActivate_of_unstaged hstarts hact, exec_fwActivate_of_staged hstarts hact⟩,
    fun hstarts => exec_fwDiscard_of_idle hstarts hact⟩⟩
  case pending =>
    simp only [List.mem_cons, List.not_mem_nil, or_false, Prod.mk.injEq] at hc
    rcases hc with ⟨rfl, rfl⟩ | ⟨rfl, rfl⟩ | ⟨rfl, rfl⟩
    · exact exec_fwStage_of_pending hstarts hact
    · exact exec_fwActivate_of_pending hstarts hact
    · exact exec_fwDiscard_of_pending hstarts hact
  case refused =>
    obtain ⟨t, heq, hsame, hlog⟩ := stageRejected_eq (begun s ring o rest) o (imageOfBytes (l.take (o.arg 8 4))).check
    refine ⟨t, ⟨(exec_fwStage_of_refused hstarts hact hne).trans (congrArg _ heq), hlog, apart_of_sameButReports hsame (apart_refl s)⟩, ?_, ?_⟩
    · rw [hsame.eq, begun_trust]
    · rw [hsame.eq]; rfl
  case staged =>
    subst hok
    exact exec_fwStage_of_sound hstarts hact h0
  case flash =>
    subst hbad
    obtain ⟨i, hexec⟩ := exec_fwStage_of_badFlash hstarts hact h0
    obtain ⟨hslotA, hslotB⟩ := putIdle_runs { begun s ring o rest with trust := { s.trust with staged := none } } i
    obtain ⟨t, heq, hsame, hlog⟩ := stageRejected_eq ((({ begun s ring o rest with
      trust := { s.trust with staged := none } } : State).putIdle i).useFree 1) o 8
    refine ⟨t, ⟨hexec.trans (congrArg _ heq), hlog, apart_of_sameButReports hsame (apart_refl s)⟩, ?_, fun hslot => ?_, fun hslot => ?_⟩
    · rw [hsame.eq]; rfl
    · rw [hsame.eq]
      exact hslotA hslot
    · rw [hsame.eq]
      exact hslotB hslot
  case host =>
    obtain ⟨who, a, hexec⟩ := exec_fwStage_of_noData (image := .refused) (flashOk := flashOk) hstarts hact rfl
    have hsame := hostMiss_same (begun s ring o rest) s.conf.ringDie who none a .refused
    exact ⟨_, hexec, by rw [hsame.eq, begun_trust], by rw [hsame.eq]; rfl⟩
  case late =>
    obtain ⟨who, a, hexec⟩ := exec_fwStage_of_noData (image := .late) (flashOk := flashOk) hstarts hact rfl
    have hsame := hostMiss_same (begun s ring o rest) s.conf.ringDie who none a .late
    exact ⟨_, hexec, by rw [hsame.eq, begun_trust], by rw [hsame.eq]; rfl⟩

end Sys2Proof.Machine
end

section
/-! PROOF. Slot selectors (13_trust.md R422): the selector written reads back, and the copy that is rewritten is the one that counts. -/
namespace Sys2Proof.Machine

/-! ## A selector read back -/

/-- A number written among other bytes reads back. -/
theorem fieldAt_leBytes (pre post : List Byte) (n x : Nat) (hx : x < 2 ^ (8 * n)) : fieldAt (pre ++ leBytes n x ++ post) pre.length n = x := by
  have htake : ((pre ++ leBytes n x ++ post).drop pre.length).take n = leBytes n x := by
    rw [List.append_assoc, List.drop_left]
    exact List.take_left' (length_leBytes n x)
  rw [fieldAt, htake, leNat_leBytes, Nat.mod_eq_of_lt hx]

theorem sum_map_le {f g : Nat → Nat} (h : ∀ i, f i ≤ g i) : ∀ l : List Nat, (l.map f).sum ≤ (l.map g).sum
  | [] => Nat.le_refl 0
  | i :: l => by
    rw [List.map_cons, List.map_cons, List.sum_cons, List.sum_cons]
    exact Nat.add_le_add (h i) (sum_map_le h l)

theorem reflect_lt (x : Nat) : reflect 32 x < 2 ^ 32 := by
  have hterm : ∀ i, (if bitAt x i then 2 ^ (32 - 1 - i) else 0) ≤ 2 ^ (32 - 1 - i) := fun i => by
    split
    · exact Nat.le_refl _
    · exact Nat.zero_le _
  calc reflect 32 x = ((upFrom 0 32).map fun i => if bitAt x i then 2 ^ (32 - 1 - i) else 0).sum := List.sum_eq_foldl.symm
    _ ≤ ((upFrom 0 32).map fun i => 2 ^ (32 - 1 - i)).sum := sum_map_le hterm _
    _ < 2 ^ 32 := by decide

theorem crc32c_lt (l : List Byte) : crc32c l < 2 ^ 32 := by
  unfold crc32c crcResult
  rw [if_pos rfl]
  exact Nat.xor_lt_two_pow (reflect_lt _) (by decide)

theorem selectorOf_selectorBytes {seq slot : Nat} (hseq : seq < 2 ^ 32) (hslot : slot ≤ 1) :
    selectorOf (selectorBytes seq slot) = some (seq, slot) := by
  have hbody : (leBytes 4 seq ++ leBytes 1 slot ++ leBytes 7 0).length = 12 := by simp [length_leBytes]
  unfold selectorBytes
  dsimp only
  generalize hcrc : crc32c (leBytes 4 seq ++ leBytes 1 slot ++ leBytes 7 0) = c
  have hlt : c < 2 ^ 32 := hcrc ▸ crc32c_lt _
  have hfirst := fieldAt_leBytes [] (leBytes 1 slot ++ leBytes 7 0 ++ leBytes 4 c) 4 seq hseq
  have hsecond := fieldAt_leBytes (leBytes 4 seq) (leBytes 7 0 ++ leBytes 4 c) 1 slot (by omega)
  have hzeros := fieldAt_leBytes (leBytes 4 seq ++ leBytes 1 slot) (leBytes 4 c) 7 0 (by decide)
  have hlast := fieldAt_leBytes (leBytes 4 seq ++ leBytes 1 slot ++ leBytes 7 0) [] 4 c hlt
  have htake : (leBytes 4 seq ++ leBytes 1 slot ++ leBytes 7 0 ++ leBytes 4 c).take 12 = leBytes 4 seq ++ leBytes 1 slot ++ leBytes 7 0 :=
    List.take_left' hbody
  simp only [List.append_assoc, List.nil_append, List.append_nil, List.length_nil, List.length_append, length_leBytes, Nat.reduceAdd]
    at hfirst hsecond hzeros hlast htake hcrc ⊢
  rw [selectorOf, hfirst, hsecond, hzeros, hlast, htake, hcrc, if_pos ⟨by simp [length_leBytes], rfl, hslot, rfl⟩]

/-! ## The copy that counts -/

theorem selectSlot_slots (f : Flash) (n : Nat) : (selectSlot f n).slotA = f.slotA ∧ (selectSlot f n).slotB = f.slotB := by
  unfold selectSlot
  dsimp only
  split <;> exact ⟨rfl, rfl⟩

theorem selectSlot_keeps_copy (f : Flash) (n : Nat) : (selectSlot f n).sel0 = f.sel0 ∨ (selectSlot f n).sel1 = f.sel1 := by
  unfold selectSlot
  dsimp only
  split
  · exact .inr rfl
  · exact .inl rfl

/-- The copy rewritten has the higher SEQ of the two, so that the selector names its slot. -/
theorem flashSelected_selectSlot {f : Flash} {n : Nat} (hn : n ≤ 1) (h0 : ∀ x ∈ selectorOf f.sel0, x.1 < 2 ^ 32 - 1)
    (h1 : ∀ x ∈ selectorOf f.sel1, x.1 < 2 ^ 32 - 1) : flashSelected (selectSlot f n) = n := by
  have hnew : ∀ k < 2 ^ 32 - 1, selectorOf (selectorBytes ((k + 1) % 4294967296) n) = some (k + 1, n) := fun k hk => by
    rw [Nat.mod_eq_of_lt (by omega)]
    exact selectorOf_selectorBytes (by omega) hn
  have hno : ∀ k, ¬ k + 1 < k := fun k => by omega
  unfold selectSlot flashSelected
  cases ha : selectorOf f.sel0 with
  | none =>
    cases hb : selectorOf f.sel1 with
    | none => simp [hb, selectorOf_selectorBytes, hn]
    | some b => simp [hb, hnew b.1 (h1 b hb), hno]
  | some a =>
    cases hb : selectorOf f.sel1 with
    | none => simp [ha, hnew a.1 (h0 a ha)]
    | some b =>
      rcases Nat.lt_or_ge b.1 a.1 with hlt | hle
      · simp [ha, Nat.not_le.mpr hlt, Nat.max_eq_left (Nat.le_of_lt hlt), hnew a.1 (h0 a ha)]
      · simp [hb, hle, hnew b.1 (h1 b hb), hno]

end Sys2Proof.Machine
end

section
/-! PROOF. The end of a session (13_trust.md R432, R435): lent storage, orders, messages that find no route and the sets that lose a member
change; stalls, memory, firmware and flash do not, and no record is taken back. -/
namespace Sys2Proof.Machine

/-! ## What messages without a route add -/

theorem sendMsg_adds (s : State) (m : Msg) : OnlyAdds s (s.sendMsg m) := by
  unfold State.sendMsg
  split
  · exact .of_eq rfl rfl rfl
  · exact raise_adds ..

theorem failCrate_adds (s : State) (m : Msg) : OnlyAdds s (s.failCrate m) := by
  unfold State.failCrate
  dsimp only
  split
  · exact .refl s
  · split
    · exact .refl s
    · split
      · exact (complete_adds ..).after rfl rfl rfl
      · exact .of_eq rfl rfl rfl

theorem undelivered_adds (s : State) (x : Sent) : OnlyAdds s (s.undelivered x) := by
  unfold State.undelivered
  split
  · exact (raise_adds ..).after rfl rfl rfl
  · split
    · exact failCrate_adds ..
    · exact .refl s

theorem lost_adds (s : State) (x : Sent) : OnlyAdds s (s.lost x) := by
  unfold State.lost
  split
  · exact undelivered_adds ..
  · exact (raise_adds ..).trans (undelivered_adds ..)

theorem sendFrom_adds (s : State) (die : Nat) (ctx : Option Nat) (whre : Nat) (m : Msg) : OnlyAdds s (s.sendFrom die ctx whre m).1 := by
  unfold State.sendFrom
  split
  · exact lost_adds ..
  · exact .of_eq rfl rfl rfl
  · exact (sendMsg_adds ..).after rfl rfl rfl

theorem reportFault_adds (s : State) (c code k : Nat) : OnlyAdds s (s.reportFault c code k) := by
  rcases reportFault_cases s c code k with ⟨-, heq⟩ | ⟨-, -, -, heq⟩
  · rw [heq]; exact .refl s
  · rw [heq]; exact .of_eq rfl rfl rfl

theorem faultSet_adds (s : State) (x : RSet) (code : Nat) (detail : List Nat) : OnlyAdds s (s.faultSet x code detail) := by
  unfold State.faultSet
  split
  · exact .refl s
  · have hraise : OnlyAdds s ((s.setSet { x with faulted := true }).raise code 0xFF (some x.ctx) x.setid 0xFFFFFFFF detail) :=
      (raise_adds ..).after rfl rfl rfl
    exact hraise.trans ((reportFault_adds ..).after rfl rfl rfl)

theorem loseMember_adds (s : State) (x : RSet) : OnlyAdds s (s.loseMember x) := by
  unfold State.loseMember
  split
  · exact faultSet_adds ..
  · exact .refl s

theorem foldl_loseMember_adds : ∀ (l : List RSet) (s : State), OnlyAdds s (l.foldl State.loseMember s)
  | [], s => .refl s
  | x :: l, s => (loseMember_adds s x).trans (foldl_loseMember_adds l _)

/-! ## What the end of a session leaves -/

/-- Everything but messages and their requests, orders, reduction sets with the contexts that they fault, the ledger and the reports is as it
was, and what has been reported stays. -/
structure SameButTraffic (s t : State) : Prop where
  eq : t = { s with
    fab := t.fab, reqs := t.reqs, sets := t.sets, aborts := t.aborts, ctxs := t.ctxs, asks := t.asks, rings := t.rings, ledger := t.ledger
    tlyRejects := t.tlyRejects, inc := t.inc, out := t.out, outWait := t.outWait, intLast := t.intLast, intHeld := t.intHeld }
  adds : OnlyAdds s t

theorem SameButTraffic.refl (s : State) : SameButTraffic s s := ⟨rfl, .refl s⟩

theorem SameButTraffic.trans {s t u : State} (h : SameButTraffic s t) (g : SameButTraffic t u) : SameButTraffic s u := by
  refine ⟨?_, h.adds.trans g.adds⟩
  rw [g.eq, h.eq]

/-- A step before it that touches no more than it does, and reports nothing. -/
theorem SameButTraffic.after {s t u : State} (g : SameButTraffic t u) (h : SameButTraffic s t) : SameButTraffic s u := h.trans g

theorem SameButReports.traffic {s t : State} (h : SameButReports s t) (hadds : OnlyAdds s t) : SameButTraffic s t := by
  refine ⟨?_, hadds⟩
  rw [h.eq]

theorem SameButSending.traffic {s t : State} (h : SameButSending s t) (hadds : OnlyAdds s t) : SameButTraffic s t := by
  refine ⟨?_, hadds⟩
  rw [h.eq]

theorem SameButSets.traffic {s t : State} (h : SameButSets s t) (hadds : OnlyAdds s t) : SameButTraffic s t := by
  refine ⟨?_, hadds⟩
  rw [h.eq]

/-- A change of the Weago endpoint alone. -/
theorem SameButTraffic.of_fab (s : State) (f : Fabric) : SameButTraffic s { s with fab := f } := ⟨rfl, .of_eq rfl rfl rfl⟩

theorem raiseMod_traffic (s : State) (code : Nat) (detail : List Nat) : SameButTraffic s (s.raiseMod code detail) :=
  (raiseMod_same ..).1.traffic (raise_adds ..)

theorem sendHeld_traffic : ∀ (l : List Sent) (s : State), SameButTraffic s (s.sendHeld l)
  | [], s => .refl s
  | x :: l, s => ((sendFrom_same s x.die x.ctx x.whre x.msg).traffic (sendFrom_adds ..)).trans (sendHeld_traffic l _)

theorem endRemote_traffic (s : State) (r : Remote) (ans : Nat → Stage) : SameButTraffic s (s.endRemote r ans) :=
  (sendHeld_traffic ..).after ⟨rfl, .of_eq rfl rfl rfl⟩

theorem loseMembers_traffic (s : State) : SameButTraffic s s.loseMembers :=
  (foldl_loseMember_same ..).traffic (foldl_loseMember_adds ..)

theorem noroute_traffic (s : State) (dest tag : Nat) : SameButTraffic s (s.noroute dest tag) := by
  refine SameButTraffic.trans ?_ (loseMembers_traffic _)
  split
  · exact (endRemote_traffic ..).after (.of_fab ..)
  · exact ((undelivered_same ..).traffic (undelivered_adds ..)).after (.of_fab ..)
  · exact .of_fab ..

theorem bounce_traffic (s : State) (m : Msg) : SameButTraffic s (s.bounce m) := by
  refine SameButTraffic.trans ?_ (raiseMod_traffic ..)
  split
  · split
    · exact noroute_traffic ..
    · exact ((sendMsg_same ..).sending.traffic (sendMsg_adds ..)).after (.of_fab ..)
  · exact .refl s

theorem bounceAll_traffic : ∀ (l : List Msg) (s : State), SameButTraffic s (s.bounceAll l)
  | [], s => .refl s
  | m :: l, s => (bounce_traffic s m).trans (bounceAll_traffic l _)

theorem disownAll_traffic : ∀ (l : List Nat) (s : State), SameButTraffic s (s.disownAll l)
  | [], s => .refl s
  | p :: l, s => ((bounceAll_traffic ..).after (.of_fab ..)).trans (disownAll_traffic l (s.disown p))

theorem endGrants_traffic : ∀ (l : List Grant) (s : State), SameButTraffic s (s.endGrants l)
  | [], s => .refl s
  | g :: l, s => by
    refine SameButTraffic.trans ?_ (endGrants_traffic l _)
    unfold State.drainStore
    split
    · exact ⟨rfl, .of_eq rfl rfl rfl⟩
    · exact .refl s

/-- No session is open, and its keys are gone. -/
def State.sessionErased (s : State) : State :=
  { s with mod := { s.mod with session := false, orderKey := 0 }, trust := { s.trust with crateKey := [], ownerId := [], close := none } }

theorem SameButTraffic.sessionErased {s t : State} (h : SameButTraffic s t) : SameButTraffic s.sessionErased t.sessionErased := by
  refine ⟨?_, h.adds.log, h.adds.out, h.adds.wait⟩
  unfold State.sessionErased
  rw [h.eq]

/-- Besides its keys, the close of a session changes traffic alone. -/
theorem closeSession_same (s : State) : SameButTraffic s.sessionErased s.closeSession := by
  have hgrants : SameButTraffic s (({ s with fab := { s.fab with grants := [] } } : State).endGrants s.fab.grants) :=
    (endGrants_traffic ..).after (.of_fab ..)
  have horders := hgrants.trans ((completeAll_same stDone 0 (s.rings.flatMap fun (p : Nat × Ring) => p.2.started.filter fun o => o.op = 0x73)
    _).sending.traffic (completeAll_adds ..))
  unfold State.closeSession
  dsimp only
  generalize State.completeAll _ _ _ _ = u at horders ⊢
  have herased : SameButTraffic s.sessionErased { u.sessionErased with ledger := { u.ledger with sealCount := 0 } } :=
    horders.sessionErased.trans ⟨rfl, .of_eq rfl rfl rfl⟩
  exact (herased.trans (disownAll_traffic ..)).trans ((interrupt_same ..).1.traffic (interrupt_adds ..))

/-- An open session is closed; with none open nothing happens. -/
def State.sessionClosed (s : State) : State := if s.mod.session then s.closeSession else s

/-- Firmware, flash and stalls are the same before and after, and nothing reported is taken back. -/
theorem sessionClosed_same (s : State) : s.sessionClosed.mod.session = false ∧ s.sessionClosed.stalls = s.stalls ∧
    s.sessionClosed.flash = s.flash ∧ (∃ crateKey ownerId close, s.sessionClosed.trust =
      { s.trust with crateKey := crateKey, ownerId := ownerId, close := close }) ∧ s.inc.log <:+ s.sessionClosed.inc.log := by
  unfold State.sessionClosed
  split
  · have h := closeSession_same s
    refine ⟨?_, ?_, ?_, ⟨[], [], none, ?_⟩, h.adds.log⟩
    · rw [h.eq]; rfl
    · rw [h.eq]; rfl
    · rw [h.eq]; rfl
    · rw [h.eq]; rfl
  · rename_i hopen
    exact ⟨Bool.eq_false_iff.mpr hopen, rfl, rfl, ⟨_, _, _, rfl⟩, List.suffix_rfl⟩

end Sys2Proof.Machine
end

section
/-! PROOF. The end of an activation (13_trust.md R441): with every core in service the staged image runs; a core out of service at the latch of
the eighth decision takes it back. -/
namespace Sys2Proof.Machine
open Sys2Proof.Claim

/-! ## Completion -/

/-- The staged image runs, and the selector names its slot. -/
def State.activated (s : State) (i : FwImage) : State :=
  { s with
    flash := selectSlot s.flash (1 - s.trust.slot)
    trust := { s.trust with
      image := i, slot := 1 - s.trust.slot, staged := none, act := none, deferred := false, deferLogged := false, reloading := none } }

/-- The driver's version has been checked against that image, 0x0C0A is recorded, and the order has completed. -/
def State.activationReported (s : State) (id : Nat) (i : FwImage) : State :=
  (((s.activated i).recheckVersion.raiseMod 0x0C0A [s.trust.image.version, i.version]).complete id stDone 0 0 0).interrupt 65

/-- Everything but the configuration interface, the bell unit, the rings and the reports is as it was. -/
structure SameButActivation (s t : State) : Prop where
  eq : t = { s with
    conf := t.conf, bell := t.bell, rings := t.rings
    inc := t.inc, out := t.out, outWait := t.outWait, intLast := t.intLast, intHeld := t.intHeld }

theorem SameButActivation.trans {s t u : State} (h : SameButActivation s t) (g : SameButActivation t u) : SameButActivation s u := by
  constructor
  rw [g.eq, h.eq]

theorem SameButRings.activation {s t : State} (h : SameButRings s t) : SameButActivation s t := by
  constructor
  rw [h.eq]

theorem decideHold_same (s : State) (die cause cy : Nat) : SameButActivation s (s.decideHold die cause cy) := by
  rcases decideHold_cases s die cause cy with ⟨-, -, heq⟩ | ⟨-, heq⟩
  · rw [heq]; exact ⟨rfl⟩
  · rw [heq]; exact ⟨rfl⟩

theorem recheckVersion_same (s : State) : SameButActivation s s.recheckVersion := by
  unfold State.recheckVersion
  dsimp only
  split
  · have hhold := SameButActivation.trans ⟨rfl⟩ (decideHold_same { s with conf := { s.conf with hs := 2 } } s.bell.lead 0 (s.now + 4))
    exact hhold.trans (interrupt_same ..).1.rings.activation
  · exact ⟨rfl⟩

theorem activationReported_same (s : State) (id : Nat) (i : FwImage) : SameButActivation (s.activated i) (s.activationReported id i) ∧
    ∃ r ∈ (s.activationReported id i).inc.log, r.code = 0x0C0A ∧ r.detail = [s.trust.image.version, i.version] := by
  unfold State.activationReported
  have hcheck := recheckVersion_same (s.activated i)
  generalize (s.activated i).recheckVersion = c at hcheck ⊢
  obtain ⟨hraise, hlog⟩ := raiseMod_same c 0x0C0A [s.trust.image.version, i.version]
  generalize c.raiseMod 0x0C0A [s.trust.image.version, i.version] = r at hraise hlog ⊢
  have hadds := (complete_adds r id stDone 0 0 0).trans (interrupt_adds _ 65)
  exact ⟨hcheck.trans (hraise.rings.trans ((complete_same ..).trans (interrupt_same ..).1.rings)).activation,
    _, hadds.log.subset (hlog ▸ List.mem_cons_self ..), rfl, rfl⟩

section
variable {s : State} {id d : Nat} {i : FwImage} (hact : s.trust.act = some id) (hreload : s.trust.reloading = some d)
include hact hreload

theorem exec_activationComplete_of_inService (hstaged : s.trust.staged = some i) (hcore : s.coreOut = none) :
    exec .activationComplete s = .next (s.activationReported id i).sessionClosed := by
  show execActivationComplete s = _
  rw [execActivationComplete, hact, hreload, hstaged, hcore]
  rfl

theorem exec_activationComplete_of_coreOut (hstaged : s.trust.staged = some i) {k : Nat} (hcore : s.coreOut = some k) :
    exec .activationComplete s = .next s := by
  show execActivationComplete s = _
  rw [execActivationComplete, hact, hreload, hstaged, hcore]
  rfl

/-! ## Reversal -/

theorem exec_activationReverted_of_inService (hcore : s.coreOut = none) : exec .activationReverted s = .next s := by
  show execActivationReverted s = _
  rw [execActivationReverted, hact, hreload, hcore]

theorem exec_activationReverted_of_early {k : Nat} (hcore : s.coreOut = some k) (hlatch : s.eighthLatch d = false) :
    exec .activationReverted s = .next s := by
  show execActivationReverted s = _
  rw [execActivationReverted, hact, hreload, hcore]
  exact if_pos (by rw [hlatch]; rfl)

theorem exec_activationReverted_of_latch {k : Nat} (hcore : s.coreOut = some k) (hlatch : s.eighthLatch d = true) :
    exec .activationReverted s = .next ((({ s.reloadCores with trust := { s.trust with
      act := none, deferred := false, deferLogged := false, reloading := none } } : State).raiseDie 0x0C09 (k / 4) [k % 4]).complete id
        stFailed 0x0C09 0 0) := by
  show execActivationReverted s = _
  rw [execActivationReverted, hact, hreload, hcore]
  exact if_neg (by rw [hlatch]; exact Bool.false_ne_true)

end

theorem eighthLatch_iff (s : State) (n : Nat) :
    s.eighthLatch n = true ↔ n + 8 < s.decisions ∨ (n + 8 = s.decisions ∧ s.bell.lastD + 90 ≤ s.now) := by
  simp [State.eighthLatch]

/-- The end of an activation, as O54 states it. -/
theorem activationEnds : Claim.ActivationEnds := by
  intro s id d i hact hreload hstaged
  refine ⟨fun hcore => ?complete, fun k hcore => ⟨exec_activationComplete_of_coreOut hact hreload hstaged hcore,
    exec_activationReverted_of_early hact hreload hcore, fun hlatch => ?reverted⟩,
    fun f n hn h0 h1 => ⟨selectSlot_slots f n, selectSlot_keeps_copy f n, flashSelected_selectSlot hn h0 h1⟩, eighthLatch_iff s⟩
  case complete =>
    obtain ⟨hsame, r, hr, hcode, hdetail⟩ := activationReported_same s id i
    obtain ⟨hsession, hstalls, hflash, ⟨crateKey, ownerId, close, htrust⟩, hlog⟩ := sessionClosed_same (s.activationReported id i)
    have hbefore : (s.activationReported id i).trust = (s.activated i).trust := by rw [hsame.eq]
    refine ⟨_, exec_activationComplete_of_inService hact hreload hstaged hcore, ?_, ?_, ?_, ?_, ?_, ?_, hsession,
      ⟨r, hlog.subset hr, hcode, hdetail⟩, ?_, exec_activationReverted_of_inService hact hreload hcore⟩
    · rw [htrust, hbefore]; rfl
    · rw [htrust, hbefore]; rfl
    · rw [htrust, hbefore]; rfl
    · rw [htrust, hbefore]; rfl
    · rw [htrust, hbefore]; rfl
    · rw [hflash, hsame.eq]; rfl
    · rw [hstalls, hsame.eq]; rfl
  case reverted =>
    obtain ⟨hsame, hlog⟩ := raiseDie_same ({ s.reloadCores with trust := { s.trust with
      act := none, deferred := false, deferLogged := false, reloading := none } } : State) 0x0C09 (k / 4) [k % 4]
    refine ⟨_, exec_activationReverted_of_latch hact hreload hcore hlatch, ?_, ?_, ?_, ?_, ?_, hlog,
      apart_of_sameButReports hsame (apart_refl s)⟩
    · rw [hsame.eq]
    · rw [hsame.eq]
    · rw [hsame.eq]; exact hstaged
    · rw [hsame.eq]
    · rw [hsame.eq]; rfl

end Sys2Proof.Machine
end

section
/-! PROOF. O54 (13_trust.md R440) asks that the order of a cancelled activation has left every entry of the table of rings, and nowhere that
this table stands in rising order of ring number. `tput` writes a ring in front of the first higher number: in a table out of order an entry
that still holds the order stays behind. The other parts are `firmwareOrders` and `activationEnds`, and R440 for tables in order is
`holdLatch_cancels` with `holdLatch_ends_order`. -/
namespace Sys2Proof.Machine
open Sys2Proof.Claim

/-- A HOLD for which an over-current comparator tripped. -/
def tripSymbol : Symbol := ⟨.hold, 0, 0, 0, 90, causeCurrent, [], Due.none⟩

/-- FW_ACTIVATE, taken and started by ring 3. -/
def ringThreeOrder : Order := ⟨77, 3, 0x75, false, false, 0, 0, false, 0, [], [], 0⟩

/-- Ring 3 with that order. -/
def ringThree : Ring := { Ring.off with started := [ringThreeOrder] }

/-- That order's activation pending, with these rings, and the HOLD in flight. -/
def activatingWith (rings : Tbl Ring) : State :=
  { State.reset with
    rings := rings
    bell := { State.reset.bell with symbols := [tripSymbol] }
    trust := { State.reset.trust with act := some 77 } }

/-- Rings 3 and 5, in rising order. -/
def ringsInOrder : Tbl Ring := [(3, ringThree), (5, Ring.off)]

/-- The same rings, with the higher number in front. -/
def ringsOutOfOrder : Tbl Ring := [(5, Ring.off), (3, ringThree)]

theorem ringsInOrder_numbered : OrdersNumbered (activatingWith ringsInOrder) := ⟨by decide, by decide, by decide⟩

theorem ringsOutOfOrder_numbered : OrdersNumbered (activatingWith ringsOutOfOrder) := ⟨by decide, by decide, by decide⟩

/-- In rising order the HOLD takes the order out of the rings. -/
theorem lacksOrder_of_ringsInOrder : ((activatingWith ringsInOrder).holdLatch tripSymbol).lacksOrder 77 := by
  have hasc : RingsAscend (activatingWith ringsInOrder) := by unfold RingsAscend; decide
  exact (holdLatch_ends_order rfl rfl tripSymbol hasc ringsInOrder_numbered (o := ringThreeOrder) rfl).1

/-- Out of order the completion puts ring 3 without its order in front of ring 5, and the entry behind it, with the order, stays. -/
theorem ringThree_mem_of_ringsOutOfOrder : (3, ringThree) ∈ ((activatingWith ringsOutOfOrder).holdLatch tripSymbol).rings := by
  decide +kernel

theorem not_lacksOrder_of_ringsOutOfOrder : ¬ ((activatingWith ringsOutOfOrder).holdLatch tripSymbol).lacksOrder 77 :=
  fun h => h _ ringThree_mem_of_ringsOutOfOrder ringThreeOrder (by decide) rfl

/-- The HOLD cancels the activation, and an entry of the table still holds its order. -/
theorem not_holdCancelsActivation : ¬ Claim.HoldCancelsActivation := by
  intro h
  obtain ⟨t, hlatch, -, -, -, -, -, hends⟩ := h (activatingWith ringsOutOfOrder) tripSymbol 77 rfl rfl rfl rfl
  have ht : (activatingWith ringsOutOfOrder).holdLatch tripSymbol = t :=
    Host.Outcome.next.inj ((exec_holdLatch_of_next rfl rfl).symm.trans hlatch)
  obtain ⟨hgone, -⟩ := hends ringThreeOrder ringsOutOfOrder_numbered rfl
  exact not_lacksOrder_of_ringsOutOfOrder (ht ▸ hgone)

/-- Refutes O54: in a table of rings out of rising order, the order of an activation that a HOLD cancels stays in an entry of its ring. -/
theorem not_firmware : ¬ Obligations.Firmware := by
  unfold Obligations.Firmware
  rintro ⟨-, hcancels, -⟩
  exact not_holdCancelsActivation hcancels

end Sys2Proof.Machine
end

section
/-! PROOF. The ageing log (14_power_ageing_resets.md R460, R461): the layout of a record, and what writing records changes, be they written
or not. -/
namespace Sys2Proof.Machine
open Sys2Proof.Claim

/-! ## A record's layout (Table PWR.4) -/

/-- A number cut to its field reads back from among other bytes. -/
theorem fieldAt_leBytes_mod (pre post : List Byte) (n x : Nat) : fieldAt (pre ++ (leBytes n x ++ post)) pre.length n = x % 2 ^ (8 * n) := by
  rw [fieldAt, List.drop_left, List.take_left' (length_leBytes n x), leNat_leBytes]

theorem length_flatMap_leBytes (n : Nat) (f : Nat → Nat) : ∀ l : List Nat, (l.flatMap fun i => leBytes n (f i)).length = l.length * n
  | [] => by rw [List.flatMap_nil, List.length_nil, List.length_nil, Nat.zero_mul]
  | i :: r => by
    rw [List.flatMap_cons, List.length_append, length_leBytes, length_flatMap_leBytes n f r, List.length_cons, Nat.succ_mul, Nat.add_comm]

/-- The fields that a reader of the log goes by, and the lengths of what stands between and behind them. -/
theorem logRecord_fields (s : State) (rseq kind replans : Nat) : ∃ mid rest, mid.length = 17 ∧ rest.length = 4070 ∧
    s.logRecord rseq kind replans = ascii "TBAG" ++ (leBytes 4 rseq ++ (mid ++ (leBytes 1 kind ++ rest))) := by
  unfold State.logRecord
  dsimp only
  generalize Config.falconSign _ _ _ = sig
  unfold State.logBody
  simp only [List.append_assoc]
  rw [← List.append_assoc (leBytes 8 serial), ← List.append_assoc (leBytes 8 s.bell.count)]
  refine ⟨_, _, ?_, ?_, rfl⟩
  · simp [length_leBytes]
  · simp only [List.length_append, length_leBytes, length_flatMap_leBytes, length_upFrom, fitBytes, List.length_take, List.length_replicate]
    omega

/-- A record is 4,096 bytes of its label, number, kind and the rest. -/
theorem logRecord_reads (s : State) (rseq kind replans : Nat) (hkind : kind < 256) :
    (s.logRecord rseq kind replans).length = 4096 ∧ (s.logRecord rseq kind replans).take 4 = ascii "TBAG" ∧
    fieldAt (s.logRecord rseq kind replans) 4 4 = rseq % 2 ^ 32 ∧ fieldAt (s.logRecord rseq kind replans) 25 1 = kind := by
  obtain ⟨mid, rest, hmid, hrest, heq⟩ := logRecord_fields s rseq kind replans
  have hlabel : (ascii "TBAG").length = 4 := by decide
  rw [heq]
  refine ⟨?length, List.take_left' hlabel, ?number, ?kind⟩
  case length => simp only [List.length_append, length_leBytes, hlabel, hmid, hrest]
  case number => exact fieldAt_leBytes_mod (ascii "TBAG") _ 4 rseq
  case kind =>
    have hpre : (ascii "TBAG" ++ (leBytes 4 rseq ++ mid)).length = 25 := by
      simp only [List.length_append, length_leBytes, hlabel, hmid]
    have hfield := fieldAt_leBytes_mod (ascii "TBAG" ++ (leBytes 4 rseq ++ mid)) rest 1 kind
    rw [hpre, Nat.mod_eq_of_lt (show kind < 2 ^ (8 * 1) from hkind)] at hfield
    simpa only [List.append_assoc] using hfield

/-! ## Writing records -/

/-- Everything but the ageing log, the kinds that wait for a retry and the reports is as it was. -/
structure SameButLog (s t : State) : Prop where
  eq : t = { s with
    freeCtr := t.freeCtr, flash := t.flash, pow := { s.pow with logDue := t.pow.logDue }
    inc := t.inc, out := t.out, outWait := t.outWait, intLast := t.intLast, intHeld := t.intHeld }

theorem SameButLog.refl (s : State) : SameButLog s s := ⟨rfl⟩

theorem SameButLog.trans {s t u : State} (h : SameButLog s t) (g : SameButLog t u) : SameButLog s u := by
  constructor; rw [g.eq, h.eq]

theorem SameButReports.log {s t : State} (h : SameButReports s t) : SameButLog s t := by
  constructor; rw [h.eq]

theorem SameButReports.flash {s t : State} (h : SameButReports s t) : t.flash = s.flash := by rw [h.eq]

theorem SameButReports.pow {s t : State} (h : SameButReports s t) : t.pow = s.pow := by rw [h.eq]

theorem SameButLog.dom {s t : State} (h : SameButLog s t) (i : Nat) : t.dom i = s.dom i := by rw [h.eq]; rfl

theorem SameButLog.apart {s t u : State} (h : SameButLog t u) (hst : Apart s t) : Apart s u := by
  rw [h.eq]
  exact hst

/-- A record that is written is the newest of the log. -/
theorem writeLog_record (s : State) {kind : Nat} (hkind : kind < 256) : LogRecord s (s.writeLog true kind) kind := by
  obtain ⟨hlength, hlabel, hnumber, hk⟩ :=
    logRecord_reads s (s.flash.log.records + 1) kind (s.flash.log.replans + b2n (kind = 2)) hkind
  exact ⟨rfl, _, _, rfl, hlength, hlabel, hnumber, hk, fun hroom => if_pos hroom⟩

/-- A record is told from the log alone. -/
theorem logRecord_of_flash {s u t : State} {kind : Nat} (h : u.flash = s.flash) (hrecord : LogRecord u t kind) : LogRecord s t kind := by
  unfold LogRecord at *
  rwa [h] at hrecord

/-- A record that cannot be written is kept for the next re-plan and reported. -/
theorem writeLog_failed (s : State) (kind : Nat) :
    SameButReports { s with pow := { s.pow with logDue := s.pow.logDue ++ [kind] } } (s.writeLog false kind) ∧
    Records s (s.writeLog false kind) 0x0D09 0xFF [0x3010000 + 4096 * (s.flash.log.records % 4080)] := raiseMod_same ..

theorem writeLog_same (s : State) (ok : Bool) (kind : Nat) : SameButLog s (s.writeLog ok kind) := by
  cases ok with
  | true => exact ⟨rfl⟩
  | false => exact SameButLog.trans ⟨rfl⟩ (writeLog_failed s kind).1.log

theorem writeLogs_same (ok : Bool) : ∀ (kinds : List Nat) (s : State), SameButLog s (s.writeLogs ok kinds)
  | [], s => .refl s
  | k :: r, s => (writeLog_same s ok k).trans (writeLogs_same ok r _)

theorem writeLogs_written : ∀ (kinds : List Nat) (s : State), (s.writeLogs true kinds).inc = s.inc ∧
    (s.writeLogs true kinds).pow = s.pow ∧ (s.writeLogs true kinds).flash.log.records = s.flash.log.records + kinds.length
  | [], _ => ⟨rfl, rfl, rfl⟩
  | k :: r, s => by
    obtain ⟨hinc, hpow, hrecords⟩ := writeLogs_written r (s.writeLog true k)
    refine ⟨hinc, hpow, hrecords.trans ?_⟩
    show s.flash.log.records + 1 + r.length = _
    rw [List.length_cons]; omega

theorem writeLogs_failed : ∀ (kinds : List Nat) (s : State), (s.writeLogs false kinds).flash = s.flash ∧
    (s.writeLogs false kinds).pow.logDue = s.pow.logDue ++ kinds
  | [], _ => ⟨rfl, (List.append_nil _).symm⟩
  | k :: r, s => by
    obtain ⟨hflash, hdue⟩ := writeLogs_failed r (s.writeLog false k)
    have hsame := (writeLog_failed s k).1
    refine ⟨hflash.trans hsame.flash, hdue.trans ?_⟩
    rw [hsame.pow]
    exact List.append_assoc _ [k] r

end Sys2Proof.Machine
end

section
/-! PROOF. Fences that become due, and canaries (14_power_ageing_resets.md R456). -/
namespace Sys2Proof.Machine
open Sys2Proof.Claim

/-! ## Changes of domains -/

/-- Everything but the domains and what is registered for the next bell is as it was. -/
structure SameButDomains (s t : State) : Prop where
  eq : t = { s with asks := t.asks, pow := { s.pow with domains := t.pow.domains } }

theorem SameButDomains.refl (s : State) : SameButDomains s s := ⟨rfl⟩

theorem SameButDomains.trans {s t u : State} (h : SameButDomains s t) (g : SameButDomains t u) : SameButDomains s u := by
  constructor; rw [g.eq, h.eq]

theorem SameButDomains.domFenced {s t : State} (h : SameButDomains s t) (n k : Nat) : t.domFenced n k = s.domFenced n k := by
  rw [h.eq]; rfl

theorem SameButDomains.guardCodes {s t : State} (h : SameButDomains s t) : t.guardCodes = s.guardCodes := by
  rw [h.eq]; rfl

/-- From `s` to `t` one domain is replaced, and nothing that a program can see changes. -/
structure OnlyDomain (s t : State) (i : Nat) (d : Domain) : Prop where
  self : t.dom i = d
  others : ∀ j, j ≠ i → t.dom j = s.dom j
  apart : Apart s t

theorem onlyDomain_setDom {s t : State} (hdoms : ∀ j, t.dom j = s.dom j) (hapart : Apart s t) (i : Nat) (d : Domain) :
    OnlyDomain s (t.setDom i d) i d :=
  ⟨dom_setDom_self .., fun j hj => (dom_setDom_ne t d hj).trans (hdoms j), hapart⟩

theorem SameButLog.onlyDomain {s t u : State} {i : Nat} {d : Domain} (h : SameButLog t u) (hone : OnlyDomain s t i d) : OnlyDomain s u i d :=
  ⟨(h.dom i).trans hone.self, fun j hj => (h.dom j).trans (hone.others j hj), h.apart hone.apart⟩

/-- A domain whose fence is due runs at code 200. -/
def Domain.fenceDue (d : Domain) (cause : Nat) : Domain := { d with due := some cause, vcode := 200 }

/-- The fence of a domain becomes due once, and not where the domain is fenced. -/
theorem makeDue_of_inService {s : State} {i : Nat} (cause : Nat) (hdue : (s.dom i).due = none) (hfenced : s.domFenced (i / 20) (i % 20) = false) :
    s.makeDue i cause = (s.ask (.fence i)).setDom i ((s.dom i).fenceDue cause) := by
  unfold State.makeDue
  dsimp only
  rw [if_neg (by rw [hdue, hfenced]; decide)]
  rfl

/-! ## Canaries -/

/-- A canary's firing counted for its die. -/
def State.countCanary (s : State) (die : Nat) : State := { s with pow := { s.pow with canaries := tmod s.pow.canaries 0 die satInc } }

theorem countCanary_apart (s : State) (die : Nat) : Apart s (s.countCanary die) := apart_refl s

/-- The domain after a canary below code 200, at this bell. -/
def Domain.raised (d : Domain) (bell : Nat) : Domain :=
  { d with vcode := d.vcode + 1, floor := d.vcode + 1, canaryBell := some bell }

/-- The state in which a canary at code 200 has made its domain's fence due. -/
def State.canaryDue (s : State) (die i : Nat) : State := ((s.countCanary die).ask (.fence i)).setDom i ((s.dom i).fenceDue 2)

theorem canaryDue_onlyDomain (s : State) (die i : Nat) : OnlyDomain s (s.canaryDue die i) i ((s.dom i).fenceDue 2) :=
  onlyDomain_setDom (s := s) (t := (s.countCanary die).ask (.fence i)) (fun _ => rfl) (countCanary_apart s die) i _

/-- The state in which a canary below code 200 has raised its domain's code. -/
def State.canaryRaised (s : State) (die i : Nat) : State := (s.countCanary die).setDom i ((s.dom i).raised s.bell.count)

theorem canaryRaised_onlyDomain (s : State) (die i : Nat) : OnlyDomain s (s.canaryRaised die i) i ((s.dom i).raised s.bell.count) :=
  onlyDomain_setDom (s := s) (t := s.countCanary die) (fun _ => rfl) (countCanary_apart s die) i _

theorem exec_canary (die : Fin 16) (domain : Fin 20) (logged : Bool) (s : State) :
    exec (.canary die domain logged) s = execCanary die domain logged s := rfl

section
variable {s : State} {die : Fin 16} {domain : Fin 20} {logged : Bool}

theorem exec_canary_of_idle (h : s.awake = false ∨ s.domFenced die.val domain.val = true) :
    exec (.canary die domain logged) s = .next s := by
  rw [exec_canary, execCanary]
  exact if_pos (by rcases h with h | h <;> rw [h] <;> simp)

section
variable (hawake : s.awake = true) (hfenced : s.domFenced die.val domain.val = false)
include hawake hfenced

theorem exec_canary_of_stopped (hstop : s.powerRuns = false) : exec (.canary die domain logged) s = .next (s.countCanary die.val) := by
  rw [exec_canary, execCanary]
  simp only [hawake, hfenced, hstop]
  rfl

theorem exec_canary_below (hruns : s.powerRuns = true) (hlow : (s.dom (20 * die.val + domain.val)).vcode < 200) :
    let i := 20 * die.val + domain.val
    let u := s.canaryRaised die.val i
    exec (.canary die domain logged) s = .next (if (s.dom i).canaryBell ≠ some s.bell.count then
      u.raiseDie 0x0D06 die.val [domain.val, (s.dom i).vcode + 1] else u) := by
  rw [exec_canary, execCanary]
  simp only [hawake, hfenced, hruns, Nat.not_le.mpr hlow]
  rfl

theorem exec_canary_at_top (hruns : s.powerRuns = true) (htop : 200 ≤ (s.dom (20 * die.val + domain.val)).vcode) :
    let i := 20 * die.val + domain.val
    exec (.canary die domain logged) s =
      .next (if (s.dom i).due.isSome then s.countCanary die.val else ((s.countCanary die.val).makeDue i 2).writeLog logged 3) := by
  rw [exec_canary, execCanary]
  simp only [hawake, hfenced, hruns, htop]
  rfl

/-- The first canary at code 200 makes the fence due and writes a record. -/
theorem exec_canary_first_at_top (hruns : s.powerRuns = true) (htop : 200 ≤ (s.dom (20 * die.val + domain.val)).vcode)
    (hdue : (s.dom (20 * die.val + domain.val)).due = none) :
    exec (.canary die domain logged) s = .next ((s.canaryDue die.val (20 * die.val + domain.val)).writeLog logged 3) := by
  have hdie : (20 * die.val + domain.val) / 20 = die.val := by omega
  have hdomain : (20 * die.val + domain.val) % 20 = domain.val := by omega
  have hmake : (s.countCanary die.val).makeDue (20 * die.val + domain.val) 2 = s.canaryDue die.val (20 * die.val + domain.val) :=
    makeDue_of_inService 2 hdue (by rw [hdie, hdomain]; exact hfenced)
  rw [exec_canary_at_top hawake hfenced hruns htop, if_neg (by rw [hdue]; decide), hmake]

end
end

/-- A canary raises the code, or makes the fence due at code 200. -/
theorem canariesFire : Claim.CanariesFire := by
  intro s die domain i d c
  refine ⟨exec_canary_of_idle, fun hawake hfenced => ⟨fun hstop => ?stopped, fun hruns hlow => ?below, fun hruns htop hdue => ?written,
    fun hruns htop hdue => ?failed, fun hruns htop hdue => ?again⟩⟩
  case stopped => exact ⟨_, exec_canary_of_stopped hawake hfenced hstop, rfl, rfl, rfl, countCanary_apart s _⟩
  case below =>
    have hexec := exec_canary_below (logged := true) hawake hfenced hruns hlow
    have hraised := canaryRaised_onlyDomain s die.val i
    by_cases hfirst : d.canaryBell = some s.bell.count
    · exact ⟨_, hexec.trans (congrArg _ (if_neg (not_not_intro hfirst))), hraised.self, hraised.others, fun _ => rfl,
        fun hne => absurd hfirst hne, hraised.apart⟩
    · obtain ⟨hsame, hlog⟩ := raiseDie_same (s.canaryRaised die.val i) 0x0D06 die.val [domain.val, d.vcode + 1]
      have hone := hsame.log.onlyDomain hraised
      exact ⟨_, hexec.trans (congrArg _ (if_pos hfirst)), hone.self, hone.others, fun h => absurd h hfirst, fun _ => hlog, hone.apart⟩
  case written =>
    have hone := (writeLog_same _ true 3).onlyDomain (canaryDue_onlyDomain s die.val i)
    exact ⟨_, exec_canary_first_at_top hawake hfenced hruns htop hdue, hone.self, hone.others,
      logRecord_of_flash rfl (writeLog_record (s.canaryDue die.val i) (by decide)), rfl, hone.apart⟩
  case failed =>
    have hone := (writeLog_same _ false 3).onlyDomain (canaryDue_onlyDomain s die.val i)
    obtain ⟨hsame, hlog⟩ := writeLog_failed (s.canaryDue die.val i) 3
    exact ⟨_, exec_canary_first_at_top hawake hfenced hruns htop hdue, hone.self, hsame.flash, congrArg Power.logDue hsame.pow, hlog,
      hone.apart⟩
  case again =>
    have hexec := exec_canary_at_top (logged := true) hawake hfenced hruns htop
    exact ⟨_, hexec.trans (congrArg _ (if_pos hdue)), fun _ => rfl, rfl, countCanary_apart s _⟩

end Sys2Proof.Machine
end

section
/-! PROOF. Re-plans (14_power_ageing_resets.md R455, R457): the code that plan() gives each domain, and the records that follow. -/
namespace Sys2Proof.Machine
open Sys2Proof.Claim

/-! ## plan() -/

/-- A domain in service with the code of plan(), or with its fence due where there is none. -/
def Domain.recoded (d : Domain) (guard cause : Nat) : Domain :=
  match d.plan guard with
  | none => d.fenceDue cause
  | some v => { d with vcode := v }

/-- What plan() makes of a domain. -/
def State.planned (s : State) (cause i : Nat) : Domain :=
  if s.domFenced (i / 20) (i % 20) || (s.dom i).due.isSome then s.dom i else (s.dom i).recoded s.guardCodes cause

/-- plan() on a domain replaces that domain, if anything. -/
theorem planDom_cases (s : State) (cause i : Nat) :
    (s.planDom i cause = s ∧ s.planned cause i = s.dom i) ∨
    ∃ a, s.planDom i cause = ({ s with asks := a } : State).setDom i (s.planned cause i) := by
  unfold State.planDom State.planned Domain.recoded
  dsimp only
  split
  · exact .inl ⟨rfl, rfl⟩
  · rename_i h
    obtain ⟨hfenced, hdue⟩ : s.domFenced (i / 20) (i % 20) = false ∧ (s.dom i).due = none := by simpa using h
    cases (s.dom i).plan s.guardCodes with
    | none => exact .inr ⟨_, makeDue_of_inService cause hdue hfenced⟩
    | some v => exact .inr ⟨s.asks, rfl⟩

theorem planDom_same (s : State) (cause i : Nat) : SameButDomains s (s.planDom i cause) := by
  rcases planDom_cases s cause i with ⟨h, -⟩ | ⟨a, h⟩ <;> rw [h]
  · exact .refl s
  · exact ⟨rfl⟩

theorem dom_planDom_self (s : State) (cause i : Nat) : (s.planDom i cause).dom i = s.planned cause i := by
  rcases planDom_cases s cause i with ⟨h, hp⟩ | ⟨a, h⟩ <;> rw [h]
  · exact hp.symm
  · exact dom_setDom_self ..

theorem dom_planDom_ne (s : State) (cause : Nat) {i j : Nat} (hj : j ≠ i) : (s.planDom i cause).dom j = s.dom j := by
  rcases planDom_cases s cause i with ⟨h, -⟩ | ⟨a, h⟩ <;> rw [h]
  exact dom_setDom_ne _ _ hj

/-- plan() looks at its own domain, the fences and the guard alone. -/
theorem planned_congr {s t : State} (h : SameButDomains s t) (cause : Nat) {i : Nat} (hi : t.dom i = s.dom i) :
    t.planned cause i = s.planned cause i := by
  unfold State.planned
  rw [h.domFenced, h.guardCodes, hi]

theorem planDoms_same (cause : Nat) : ∀ (l : List Nat) (s : State), SameButDomains s (s.planDoms cause l)
  | [], s => .refl s
  | i :: r, s => (planDom_same s cause i).trans (planDoms_same cause r _)

theorem dom_planDoms_of_notMem (cause : Nat) : ∀ (l : List Nat) (s : State) {j : Nat}, j ∉ l → (s.planDoms cause l).dom j = s.dom j
  | [], _, _, _ => rfl
  | i :: r, s, j, h => by
    obtain ⟨hi, hr⟩ := List.ne_and_not_mem_of_not_mem_cons h
    exact (dom_planDoms_of_notMem cause r _ hr).trans (dom_planDom_ne s cause hi)

/-- Each listed domain is planned once, as it stood at first. -/
theorem dom_planDoms_of_mem (cause : Nat) {j : Nat} {l : List Nat} (hl : l.Nodup) (hj : j ∈ l) (s : State) :
    (s.planDoms cause l).dom j = s.planned cause j := by
  induction l generalizing s with
  | nil => cases hj
  | cons i r ih =>
    obtain ⟨hi, hr⟩ := List.nodup_cons.mp hl
    show ((s.planDom i cause).planDoms cause r).dom j = _
    rcases List.mem_cons.mp hj with rfl | hj
    · rw [dom_planDoms_of_notMem cause r _ hi, dom_planDom_self]
    · have hne : j ≠ i := ne_of_mem_of_not_mem hj hi
      rw [ih hr hj, planned_congr (planDom_same s cause i) cause (dom_planDom_ne s cause hne)]

theorem planned_of_left {s : State} {i : Nat} (cause : Nat) (h : s.domFenced (i / 20) (i % 20) = true ∨ (s.dom i).due.isSome = true) :
    s.planned cause i = s.dom i := by
  unfold State.planned
  exact if_pos (by rwa [Bool.or_eq_true])

section
variable {s : State} {i : Nat} (cause : Nat) (hfenced : s.domFenced (i / 20) (i % 20) = false) (hdue : (s.dom i).due = none)
include hfenced hdue

theorem planned_of_inService : s.planned cause i = (s.dom i).recoded s.guardCodes cause := by
  unfold State.planned
  rw [if_neg (by rw [hfenced, hdue]; decide)]

theorem planned_of_noPass (hpass : (s.dom i).vpass = none) : s.planned cause i = (s.dom i).fenceDue cause := by
  have hplan : (s.dom i).plan s.guardCodes = none := by simp only [Domain.plan, hpass]
  rw [planned_of_inService cause hfenced hdue, Domain.recoded, hplan]

theorem planned_of_pass {p : Nat} (hpass : (s.dom i).vpass = some p) :
    let v := max (p + s.guardCodes + ceilDiv ((s.dom i).ratio0 - (s.dom i).ratio) 64) (s.dom i).floor
    (v ≤ 200 → s.planned cause i = { s.dom i with vcode := v }) ∧ (200 < v → s.planned cause i = (s.dom i).fenceDue cause) := by
  intro v
  have hplan : (s.dom i).plan s.guardCodes = if v > 200 then none else some v := by simp only [Domain.plan, hpass]; rfl
  rw [planned_of_inService cause hfenced hdue, Domain.recoded, hplan]
  constructor
  · intro hv
    rw [if_neg (Nat.not_lt.mpr hv)]
  · intro hv
    rw [if_pos hv]

end

/-! ## What a re-plan reports

The list of all 320 domains stands as a variable here: an equation between states that name it would be checked by running the plan. -/

/-- Listed domains whose fence is due in `t` and was not in `s`. -/
def fencesDue (all : List Nat) (s t : State) : Nat := (all.filter fun i => (t.dom i).due.isSome && (s.dom i).due.isNone).length

/-- Listed domains whose code differs from `s` to `t`. -/
def codesChanged (all : List Nat) (s t : State) : Nat := (all.filter fun i => (t.dom i).vcode ≠ (s.dom i).vcode).length

/-- The kinds of the records that a re-plan from `s` to `t` writes. -/
def replanKinds (all : List Nat) (s t : State) : List Nat :=
  s.pow.logDue ++ (if fencesDue all s t = 0 then [] else [3]) ++ (if codesChanged all s t = 0 then [] else [2])

theorem length_filter_eq_zero {α : Type} (p : α → Bool) (l : List α) : (l.filter p).length = 0 ↔ l.any p = false := by
  simp only [List.length_eq_zero_iff, List.filter_eq_nil_iff, List.any_eq_false]

theorem ite_length_filter {α β : Type} (p : α → Bool) (l : List α) (a b : β) :
    (if (l.filter p).length = 0 then a else b) = if l.any p then b else a := by
  simp only [length_filter_eq_zero]
  cases l.any p <;> rfl

/-- The kinds, told by whether some fence became due and some code changed. -/
theorem replanKinds_eq_any (all : List Nat) (s : State) {t u : State} (h : ∀ i, u.dom i = t.dom i) : replanKinds all s t =
    s.pow.logDue ++ (if all.any fun i => (u.dom i).due.isSome && (s.dom i).due.isNone then [3] else []) ++
      (if all.any fun i => (u.dom i).vcode ≠ (s.dom i).vcode then [2] else []) := by
  simp only [h]
  rw [replanKinds, fencesDue, codesChanged, ite_length_filter, ite_length_filter]

theorem no_changes_of_any (all : List Nat) (s : State) {t u : State} (h : ∀ i, u.dom i = t.dom i) :
    (codesChanged all s t = 0 ∧ fencesDue all s t = 0) ↔ ((all.any fun i => (u.dom i).due.isSome && (s.dom i).due.isNone) ||
      all.any fun i => (u.dom i).vcode ≠ (s.dom i).vcode) = false := by
  simp only [h]
  rw [codesChanged, fencesDue, length_filter_eq_zero, length_filter_eq_zero, Bool.or_eq_false_iff, and_comm]

/-- Where nothing is written, no code changed and no fence became due. -/
theorem no_changes_of_replanKinds {all : List Nat} {s t : State} (h : replanKinds all s t = []) :
    codesChanged all s t = 0 ∧ fencesDue all s t = 0 := by
  simp only [replanKinds, List.append_eq_nil_iff, ite_eq_left_iff, List.cons_ne_nil, imp_false, Decidable.not_not] at h
  exact ⟨h.2, h.1.2⟩

/-- The domains planned, the re-plan counted, and no record waiting for a retry. -/
def State.replanned (s : State) (all : List Nat) : State :=
  let t := s.planDoms 1 all
  { t with pow := { t.pow with replanDue := false, replans := satInc t.pow.replans, logDue := [] } }

/-- Everything but the domains, what is registered and the power core's account of re-plans is as it was. -/
theorem replanned_eq (s : State) (all : List Nat) : s.replanned all = { s with
    asks := (s.planDoms 1 all).asks
    pow := { s.pow with
      domains := (s.planDoms 1 all).pow.domains, replanDue := false, replans := satInc s.pow.replans, logDue := [] } } := by
  unfold State.replanned
  dsimp only
  rw [(planDoms_same 1 all s).eq]

theorem nodup_upFrom : ∀ n a : Nat, (upFrom a n).Nodup
  | 0, _ => .nil
  | n + 1, a => List.nodup_cons.mpr ⟨fun h => by have := (mem_upFrom.mp h).1; omega, nodup_upFrom n (a + 1)⟩

/-- 0x0D07 where a code changed or a fence became due from `s` on. -/
def State.reportReplan (t s : State) (all : List Nat) : State :=
  if codesChanged all s t = 0 ∧ fencesDue all s t = 0 then t else t.raiseMod 0x0D07 [codesChanged all s t, fencesDue all s t]

theorem reportReplan_same (t s : State) (all : List Nat) : SameButReports t (t.reportReplan s all) := by
  unfold State.reportReplan
  split
  · exact .refl t
  · exact (raiseMod_same ..).1

theorem reportReplan_reports {t s : State} {all : List Nat} (h : ¬ (codesChanged all s t = 0 ∧ fencesDue all s t = 0)) :
    ∃ j, (t.reportReplan s all).inc.log = j :: t.inc.log ∧ j.code = 0x0D07 := by
  rw [State.reportReplan, if_neg h]
  exact ⟨_, (raiseMod_same ..).2, rfl⟩

theorem exec_replan (ratios : List DomainTrim) (logged : Bool) (s : State) : exec (.replan ratios logged) s = execReplan ratios logged s := rfl

theorem exec_replan_of_notDue {s : State} (hdue : s.pow.replanDue = false) (ratios : List DomainTrim) (logged : Bool) :
    exec (.replan ratios logged) s = .next s := by
  rw [exec_replan, execReplan]
  exact if_pos (by rw [hdue, Bool.not_false, Bool.or_true])

/-! ## The whole re-plan -/

/-- The state after a re-plan of these domains: planned, reported, its records written or kept. -/
def State.afterReplan (s : State) (all : List Nat) (logged : Bool) : State :=
  ((s.replanned all).reportReplan s all).writeLogs logged (replanKinds all s (s.replanned all))

theorem exec_replan_of_due {s : State} {all : List Nat} (hall : upFrom 0 320 = all) (hawake : s.awake = true) (hruns : s.powerRuns = true)
    (hdue : s.pow.replanDue = true) (logged : Bool) : exec (.replan [] logged) s = .next (s.afterReplan all logged) := by
  rw [exec_replan, execReplan, if_neg (by rw [hawake, hruns, hdue]; decide), hall]
  rfl

theorem afterReplan_same (s : State) (all : List Nat) (logged : Bool) : SameButLog (s.replanned all) (s.afterReplan all logged) :=
  (reportReplan_same ..).log.trans (writeLogs_same ..)

theorem afterReplan_pow (s : State) (all : List Nat) (logged : Bool) :
    (s.afterReplan all logged).pow.replanDue = false ∧ (s.afterReplan all logged).pow.replans = satInc s.pow.replans := by
  rw [(afterReplan_same s all logged).eq, replanned_eq]
  exact ⟨rfl, rfl⟩

theorem afterReplan_apart (s : State) (all : List Nat) (logged : Bool) : Apart s (s.afterReplan all logged) := by
  refine (afterReplan_same s all logged).apart ?_
  rw [replanned_eq]
  exact apart_refl s

theorem dom_afterReplan (s : State) {all : List Nat} (hall : all.Nodup) (logged : Bool) {i : Nat} (hi : i ∈ all) :
    (s.afterReplan all logged).dom i = s.planned 1 i :=
  ((afterReplan_same s all logged).dom i).trans (dom_planDoms_of_mem 1 hall hi s)

theorem reportReplan_flash (s : State) (all : List Nat) : ((s.replanned all).reportReplan s all).flash = s.flash := by
  rw [(reportReplan_same ..).flash, replanned_eq]

theorem reportReplan_logDue (s : State) (all : List Nat) : ((s.replanned all).reportReplan s all).pow.logDue = [] := by
  rw [(reportReplan_same ..).pow, replanned_eq]

/-- A re-plan with nothing to write reports nothing. -/
theorem afterReplan_quiet {s : State} {all : List Nat} (hkinds : replanKinds all s (s.replanned all) = []) (logged : Bool) :
    (s.afterReplan all logged).inc = s.inc ∧ (s.afterReplan all logged).flash = s.flash ∧ (s.afterReplan all logged).pow.logDue = [] := by
  rw [State.afterReplan, hkinds, State.writeLogs]
  refine ⟨?_, reportReplan_flash s all, reportReplan_logDue s all⟩
  rw [State.reportReplan, if_pos (no_changes_of_replanKinds hkinds), replanned_eq]

/-- A re-plan whose records are written: their count, its report, and the record where there is one. -/
theorem afterReplan_written (s : State) (all : List Nat) :
    let kinds := replanKinds all s (s.replanned all)
    (s.afterReplan all true).flash.log.records = s.flash.log.records + kinds.length ∧ (s.afterReplan all true).pow.logDue = [] ∧
    (¬ (codesChanged all s (s.replanned all) = 0 ∧ fencesDue all s (s.replanned all) = 0) →
      ∃ j, (s.afterReplan all true).inc.log = j :: s.inc.log ∧ j.code = 0x0D07) ∧
    (∀ k, kinds = [k] → k < 256 → LogRecord s (s.afterReplan all true) k) := by
  intro kinds
  obtain ⟨hinc, hpow, hrecords⟩ := writeLogs_written kinds ((s.replanned all).reportReplan s all)
  refine ⟨by rw [State.afterReplan, hrecords, reportReplan_flash], by rw [State.afterReplan, hpow, reportReplan_logDue],
    fun hchanges => ?_, fun k hk hlt => ?_⟩
  · obtain ⟨j, hlog, hcode⟩ := reportReplan_reports hchanges
    refine ⟨j, ?_, hcode⟩
    rw [State.afterReplan, hinc, hlog, replanned_eq]
  · have hone : s.afterReplan all true = ((s.replanned all).reportReplan s all).writeLog true k :=
      congrArg (State.writeLogs _ true) hk
    rw [hone]
    exact logRecord_of_flash (reportReplan_flash s all) (writeLog_record _ hlt)

/-- A re-plan whose records cannot be written keeps their kinds, and reports the failure where there is one record. -/
theorem afterReplan_failed (s : State) (all : List Nat) :
    let kinds := replanKinds all s (s.replanned all)
    (s.afterReplan all false).flash = s.flash ∧ (s.afterReplan all false).pow.logDue = kinds ∧
    (∀ k, kinds = [k] → ∃ j, j.code = 0x0D09 ∧ (s.afterReplan all false).inc.log.head? = some j) := by
  intro kinds
  obtain ⟨hflash, hdue⟩ := writeLogs_failed kinds ((s.replanned all).reportReplan s all)
  refine ⟨hflash.trans (reportReplan_flash s all), hdue.trans (by rw [reportReplan_logDue, List.nil_append]), fun k hk => ?_⟩
  have hone : s.afterReplan all false = ((s.replanned all).reportReplan s all).writeLog false k :=
    congrArg (State.writeLogs _ false) hk
  rw [hone]
  exact ⟨_, rfl, congrArg List.head? (writeLog_failed _ k).2⟩

/-- What a re-plan makes of a domain, case by case. -/
theorem planned_cases (s : State) (i : Nat) :
    let d := s.dom i
    ((s.domFenced (i / 20) (i % 20) = true ∨ d.due.isSome = true) → s.planned 1 i = d) ∧
    (s.domFenced (i / 20) (i % 20) = false → d.due = none →
      (d.vpass = none → s.planned 1 i = { d with due := some 1, vcode := 200 }) ∧
      (∀ p, d.vpass = some p → let v := max (p + s.guardCodes + ceilDiv (d.ratio0 - d.ratio) 64) d.floor
        (v ≤ 200 → s.planned 1 i = { d with vcode := v }) ∧ (200 < v → s.planned 1 i = { d with due := some 1, vcode := 200 }))) :=
  ⟨planned_of_left 1, fun hfenced hdue => ⟨planned_of_noPass 1 hfenced hdue, fun _ => planned_of_pass 1 hfenced hdue⟩⟩

/-- A re-plan that is due, and one that is not. -/
theorem replans : Claim.Replans := by
  intro s logged hawake hruns
  refine ⟨fun hdue => exec_replan_of_notDue hdue [] logged, fun hdue => ?_⟩
  have hnodup : (upFrom 0 320).Nodup := nodup_upFrom 320 0
  have hmem : ∀ i, i < 320 → i ∈ upFrom 0 320 := fun i hi => mem_upFrom.mpr ⟨Nat.zero_le i, by omega⟩
  generalize hall : upFrom 0 320 = all at hnodup hmem ⊢
  obtain ⟨hdone, hcount⟩ := afterReplan_pow s all logged
  refine ⟨s.afterReplan all logged, exec_replan_of_due hall hawake hruns hdue logged, hdone, hcount, afterReplan_apart s all logged,
    fun i hi => ?doms, ?records⟩
  case doms =>
    rw [dom_afterReplan s hnodup logged (hmem i hi)]
    exact planned_cases s i
  case records =>
    intro due changed kinds
    have hdoms := (afterReplan_same s all logged).dom
    have hkinds : kinds = replanKinds all s (s.replanned all) := (replanKinds_eq_any all s hdoms).symm
    have hchanges := not_congr (no_changes_of_any all s hdoms)
    rw [hkinds]
    refine ⟨fun hnil => afterReplan_quiet hnil logged, fun hlogged => ?_, fun hlogged => ?_⟩ <;> subst hlogged
    · obtain ⟨hrecords, hlogDue, hreports, hrecord⟩ := afterReplan_written s all
      exact ⟨hrecords, hlogDue, fun hany => hreports (hchanges.mpr (by rw [Bool.not_eq_false]; exact hany)), hrecord⟩
    · exact afterReplan_failed s all

end Sys2Proof.Machine
end

section
/-! PROOF. The power of domains (14_power_ageing_resets.md R458, R464, Table PWR.6). -/
namespace Sys2Proof.Machine
open Sys2Proof.Claim

theorem exec_domainPowerOff (die : Fin 16) (domain : Fin 20) (s : State) : exec (.domainPowerOff die domain) s =
    .next (if s.domFenced die.val domain.val && (s.domOccupied (20 * die.val + domain.val)).isEmpty then
      s.setDom (20 * die.val + domain.val) { s.dom (20 * die.val + domain.val) with powered := false } else s) := rfl

theorem exec_domainPowerUp (domain : Fin 20) (s : State) : exec (.domainPowerUp domain) s = execDomainPowerUp domain s := rfl

theorem exec_domainPowerUp_of_noExit {s : State} (h : s.pow.exit = none) (domain : Fin 20) :
    exec (.domainPowerUp domain) s = .next s := by
  rw [exec_domainPowerUp, execDomainPowerUp, h]

theorem exec_domainPowerUp_of_outOfTurn {s : State} {domain : Fin 20} {c : Nat} (h : s.pow.exit = some c)
    (hturn : s.pow.powered.length ≠ domain.val) : exec (.domainPowerUp domain) s = .next s := by
  rw [exec_domainPowerUp, execDomainPowerUp, h]
  exact if_pos hturn

theorem exec_domainPowerUp_of_turn {s : State} {domain : Fin 20} {c : Nat} (h : s.pow.exit = some c)
    (hturn : s.pow.powered.length = domain.val) : exec (.domainPowerUp domain) s =
      .next (State.zeroDomain { s.at (c + 2250 * domain.val) with pow := { s.pow with powered := s.pow.powered ++ [domain.val] } }
        domain.val (upFrom 0 16)) := by
  rw [exec_domainPowerUp, execDomainPowerUp, h]
  exact if_neg (not_not_intro hturn)

theorem zeroDomain_same (k : Nat) : ∀ (dies : List Nat) (s : State), s.zeroDomain k dies = { s with mem := (s.zeroDomain k dies).mem }
  | [], _ => rfl
  | _ :: r, _ => zeroDomain_same k r _

/-- The cells that stay are those outside the domain's stock on every listed die. -/
theorem mem_zeroDomain (k : Nat) (x : Host.Cell) : ∀ (dies : List Nat) (s : State), x ∈ (s.zeroDomain k dies).mem ↔
    x ∈ s.mem ∧ ∀ d ∈ dies, x.1 < stockAddr (stallNum d 0 (4 * k)) 0 ∨ stockAddr (stallNum d 0 (4 * k)) 0 + 256 * 0x40000 ≤ x.1
  | [], _ => by simp [State.zeroDomain]
  | _ :: r, _ => by
    rw [State.zeroDomain, mem_zeroDomain k x r]
    simp only [cellsDrop, List.mem_filter, Bool.or_eq_true, decide_eq_true_eq, List.forall_mem_cons, and_assoc]

/-- Domains powered off behind a fence, and powered in turn in an exit from DARK. -/
theorem domainsArePowered : Claim.DomainsArePowered := by
  intro s die domain i off
  refine ⟨?off, ?kept, fun h => exec_domainPowerUp_of_noExit h domain, fun _ => exec_domainPowerUp_of_outOfTurn, fun c h hturn => ?turn⟩
  case off =>
    rintro ⟨hfenced, hempty⟩
    have hone := onlyDomain_setDom (fun _ => rfl) (apart_refl s) i { s.dom i with powered := false }
    refine ⟨_, ?_, hone.self, hone.others, hone.apart⟩
    rw [exec_domainPowerOff, if_pos (by rw [hfenced, hempty]; rfl)]
  case kept =>
    intro hoff
    rw [exec_domainPowerOff, if_neg (by simpa [off] using hoff)]
  case turn =>
    refine ⟨_, exec_domainPowerUp_of_turn h hturn, ?_⟩
    generalize hu : ({ s.at (c + 2250 * domain.val) with pow := { s.pow with powered := s.pow.powered ++ [domain.val] } } : State) = u
    refine ⟨?_, ?_, fun x => ?_, ?_⟩
    · rw [zeroDomain_same, ← hu]; rfl
    · rw [zeroDomain_same, ← hu]
    · rw [mem_zeroDomain, ← hu]
      simp [mem_upFrom]
    · rw [zeroDomain_same, ← hu]
      exact ⟨rfl, rfl, rfl⟩

/-- Settles O57: canaries raise codes and floors up to the fence, a re-plan gives each domain plan()'s code and writes its records, and
domains are powered off behind a fence and on in turn. -/
theorem voltageDomains : Obligations.VoltageDomains := by
  unfold Obligations.VoltageDomains
  exact ⟨canariesFire, replans, domainsArePowered⟩

end Sys2Proof.Machine
end

section
/-! PROOF. Check units fed by writes (15_check_unit_queues.md R473 to R478): the engine's check values, START and feed writes. -/
namespace Sys2Proof.Machine
open Sys2Proof.Claim

/-! ## The engine -/

/-- Each row of Table CHK.1 is one closed computation of the engine. -/
theorem crcEngine_checkValues : Claim.CheckValues := by
  simp only [Claim.CheckValues, checkValues, List.forall_mem_cons, List.not_mem_nil, false_implies, implies_true, and_true]
  refine ⟨?crc8, ?crc16, ?crc32, ?crc32c, ?crc64, ?xz⟩ <;> decide +kernel

/-- The little-endian bytes of a number are fed lowest first. -/
theorem crcFeeds_leBytes (w poly : Nat) (refin : Bool) (st n x : Nat) : crcFeeds w poly refin st (leBytes n x) =
    (upFrom 0 n).foldl (fun y i => crcFeed w poly refin y (bitsAt x (8 * i) 8)) st := by
  have hbyte : ∀ i, (BitVec.ofNat 8 (bitsAt x (8 * i) 8)).toNat = bitsAt x (8 * i) 8 := fun i => by
    rw [BitVec.toNat_ofNat, bitsAt_eq, Nat.mod_mod]
  simp only [crcFeeds, leBytes, unpackN, List.map_map, List.foldl_map, Function.comp_apply, hbyte]

/-- Under a legal width bytes go through the engine, and FED counts them. -/
theorem feed_of_width {c : CheckUnit} (h8 : 8 ≤ c.width) (h64 : c.width ≤ 64) (ctr : Nat) (l : List Byte) : c.feed ctr l =
    { c with state := crcFeeds c.width c.poly c.refin c.state l, fed := (c.fed + l.length) % 2 ^ 64 } := by
  have hok : c.widthOk = true := by simp [CheckUnit.widthOk, h8, h64]
  rw [CheckUnit.feed, if_pos hok]

/-! ## One unit changes -/

theorem cu_setCu_ne (s : State) {d u n k : Nat} (c : CheckUnit) (hu : u < 4) (hk : k < 4) (h : (n, k) ≠ (d, u)) :
    (s.setCu d u c).cu n k = s.cu n k := by
  have hkey : 4 * n + k ≠ 4 * d + u := fun heq => h (Prod.ext (by simp only; omega) (by simp only; omega))
  simp [State.cu, State.setCu, tget_tput_ne _ _ _ hkey]

theorem onlyUnit_setCu (s : State) (die : Fin 16) (unit : Fin 4) (c : CheckUnit) :
    OnlyUnit s (s.setCu die.val unit.val c) die unit c :=
  ⟨cu_setCu_self .., fun _ _ hk hne => cu_setCu_ne s c unit.isLt hk hne, rfl, rfl, rfl, apart_refl s⟩

theorem onlyUnit_of_sameButReports {s t u : State} {die : Fin 16} {unit : Fin 4} {c : CheckUnit} (h : SameButReports t u)
    (hone : OnlyUnit s t die unit c) : OnlyUnit s u die unit c := by
  rw [h.eq]
  exact hone

/-- MISUSE (R474, R477, R483) sets bit 6 of STATUS and records its incident. -/
theorem misuse_of_exec {s : State} {die : Fin 16} {unit : Fin 4} {cmd : Instr} {code field : Nat}
    (h : exec cmd s = .next (s.misuse die.val unit.val code field)) : Misuse s die unit cmd code field := by
  obtain ⟨hsame, hlog⟩ := raise_same (s.setCu die.val unit.val ((s.cu die.val unit.val).mark 6)) code die.val none unit.val 0xFFFFFFFF
    [field]
  exact ⟨_, _, h, onlyUnit_of_sameButReports hsame (onlyUnit_setCu s die unit _), hlog, rfl, rfl, rfl, rfl⟩

/-! ## Commands of a unit in service -/

/-- A unit of a die that works, in a module whose rails are on, carries out its commands. -/
theorem onUnit_of_up {s : State} {die : Fin 16} (h : UnitUp s die) (f : State → State) : s.onUnit die.val f = f s :=
  if_neg (by rw [h.1, h.2]; decide)

section
variable {s : State} {die : Fin 16} (hup : UnitUp s die) (unit : Fin 4)
include hup

theorem exec_start_of_up : exec (.start die unit) s = .next (s.chkStart die.val unit.val) :=
  congrArg Host.Outcome.next (onUnit_of_up hup _)

theorem exec_feedB_of_up (v : BitVec 32) : exec (.feedB die unit v) s = .next (s.chkFeed die.val unit.val 0x20 (leBytes 1 v.toNat)) :=
  congrArg Host.Outcome.next (onUnit_of_up hup _)

theorem exec_feedH_of_up (v : BitVec 32) : exec (.feedH die unit v) s = .next (s.chkFeed die.val unit.val 0x24 (leBytes 2 v.toNat)) :=
  congrArg Host.Outcome.next (onUnit_of_up hup _)

theorem exec_feedW_of_up (v : BitVec 32) : exec (.feedW die unit v) s = .next (s.chkFeed die.val unit.val 0x28 (leBytes 4 v.toNat)) :=
  congrArg Host.Outcome.next (onUnit_of_up hup _)

theorem exec_arm_of_up : exec (.arm die unit) s = .next (s.chkArm die.val unit.val) :=
  congrArg Host.Outcome.next (onUnit_of_up hup _)

theorem exec_resume_of_up : exec (.resume die unit) s = .next (s.chkResume die.val unit.val) :=
  congrArg Host.Outcome.next (onUnit_of_up hup _)

end

/-! ## START (R473, R474) -/

/-- A START finds no failing field exactly under legal parameters. -/
theorem badField_eq_none_iff (c : CheckUnit) : c.badField = none ↔
    8 ≤ c.width ∧ c.width ≤ 64 ∧ c.poly < 2 ^ c.width ∧ c.init < 2 ^ c.width ∧ c.xorout < 2 ^ c.width := by
  unfold CheckUnit.badField CheckUnit.widthOk
  grind

/-- START, and parameters that it refuses; the number of the failing field is log entry 32. -/
theorem checkUnitsStart : Claim.CheckUnitsStart := by
  intro s die unit hup c legal
  have hnone : c.badField = none ↔ legal := badField_eq_none_iff c
  have hexec := exec_start_of_up hup unit
  rw [State.chkStart] at hexec
  constructor
  · intro hlegal
    rw [hnone.mpr hlegal] at hexec
    exact ⟨_, hexec, onlyUnit_setCu s die unit _, rfl⟩
  · intro hillegal
    obtain ⟨field, hfield⟩ := Option.ne_none_iff_exists'.mp (mt hnone.mp hillegal)
    rw [hfield] at hexec
    exact ⟨field, misuse_of_exec hexec⟩

/-! ## Feed writes (R475, R477) -/

theorem chkFeed_of_otherMode {s : State} {die unit : Nat} (hmode : (s.cu die unit).mode ≠ 1) (reg : Nat) (l : List Byte) :
    s.chkFeed die unit reg l = s.misuse die unit 0x0E02 reg := if_pos hmode

/-- In mode 1 the low bytes of a written word go through the engine. -/
theorem chkFeed_of_writes {s : State} {die : Fin 16} {unit : Fin 4} {c : CheckUnit} (hc : s.cu die.val unit.val = c) (hmode : c.mode = 1)
    (h8 : 8 ≤ c.width) (h64 : c.width ≤ 64) (reg n x : Nat) :
    let t := s.chkFeed die.val unit.val reg (leBytes n x)
    OnlyUnit s t die unit { c with
      state := (upFrom 0 n).foldl (fun y i => crcFeed c.width c.poly c.refin y (bitsAt x (8 * i) 8)) c.state
      fed := (c.fed + n) % 2 ^ 64 } ∧ t.inc = s.inc := by
  subst hc
  rw [← crcFeeds_leBytes, State.chkFeed, if_neg (not_not_intro hmode), feed_of_width h8 h64, length_leBytes]
  exact ⟨onlyUnit_setCu s die unit _, rfl⟩

/-- Feed writes in mode 1 and in the other modes. -/
theorem feedWrites : Claim.FeedWrites := by
  intro s die unit v hup c one fed
  refine ⟨fun hmode h8 h64 => ?writes, fun hmode => ?others⟩
  case writes =>
    have hfed := chkFeed_of_writes (rfl : s.cu die.val unit.val = c) hmode h8 h64
    exact ⟨⟨_, exec_feedB_of_up hup unit v, hfed 0x20 1 v.toNat⟩, ⟨_, exec_feedH_of_up hup unit v, hfed 0x24 2 v.toNat⟩,
      ⟨_, exec_feedW_of_up hup unit v, hfed 0x28 4 v.toNat⟩⟩
  case others =>
    have hrefused := chkFeed_of_otherMode (s := s) (die := die.val) (unit := unit.val) hmode
    exact ⟨misuse_of_exec (hrefused .. ▸ exec_feedB_of_up hup unit v), misuse_of_exec (hrefused .. ▸ exec_feedH_of_up hup unit v),
      misuse_of_exec (hrefused .. ▸ exec_feedW_of_up hup unit v)⟩

end Sys2Proof.Machine
end

section
/-! PROOF. Check units fed by snoop (15_check_unit_queues.md R479 to R483): ARM and RESUME, and the lines that a unit feeds. -/
namespace Sys2Proof.Machine
open Sys2Proof.Claim

/-! ## ARM and RESUME (R479, R483) -/

/-- A unit attached to a stream, or with none to the next PRT.GO, from an output line on. -/
def CheckUnit.attachedTo (c : CheckUnit) (g : Option Nat) (line : Nat) : CheckUnit :=
  { c with attached := true, goSeq := g, nextLine := line, window := [], marks := [] }

section
variable {s : State} {die unit : Nat} {c : CheckUnit} (hc : s.cu die unit = c)
include hc

theorem chkArm_of_noStall (hstall : 5120 ≤ c.stall) : s.chkArm die unit = s.misuse die unit 0x0E06 6 := by
  subst hc; exact if_pos hstall

theorem chkArm_of_otherMode (hstall : c.stall < 5120) (hmode : c.mode ≠ 2) : s.chkArm die unit = s := by
  subst hc; rw [State.chkArm, if_neg (Nat.not_le.mpr hstall), if_pos hmode]

theorem chkArm_of_noStream (hstall : c.stall < 5120) (hmode : c.mode = 2) (hnone : s.snooped die c = none) :
    s.chkArm die unit = s.setCu die unit (c.attachedTo none 0) := by
  subst hc; rw [State.chkArm, if_neg (Nat.not_le.mpr hstall), if_neg (not_not_intro hmode), hnone]; rfl

theorem chkArm_of_stream (hstall : c.stall < 5120) (hmode : c.mode = 2) {q : Slot} {d : Desc} (hsome : s.snooped die c = some (q, d)) :
    s.chkArm die unit = s.setCu die unit (c.attachedTo (some q.goSeq) (q.nextWholeLine d)) := by
  subst hc; rw [State.chkArm, if_neg (Nat.not_le.mpr hstall), if_neg (not_not_intro hmode), hsome]; rfl

theorem chkResume_of_partLine (hfed : c.fed % 64 ≠ 0) : s.chkResume die unit = s.misuse die unit 0x0E06 5 := by
  subst hc; exact if_pos hfed

theorem chkResume_of_noStall (hfed : c.fed % 64 = 0) (hstall : 5120 ≤ c.stall) : s.chkResume die unit = s.misuse die unit 0x0E06 6 := by
  subst hc; rw [State.chkResume, if_neg (not_not_intro hfed), if_pos hstall]

theorem chkResume_of_stream (hfed : c.fed % 64 = 0) (hstall : c.stall < 5120) (hmode : c.mode = 2) {q : Slot} {d : Desc}
    (hsome : s.snooped die c = some (q, d)) :
    s.chkResume die unit = s.setCu die unit (c.attachedTo (some q.goSeq) (c.fed / 64)) := by
  subst hc
  rw [State.chkResume, if_neg (not_not_intro hfed), if_neg (Nat.not_le.mpr hstall), if_neg (not_not_intro hmode), hsome]
  rfl

end

/-- What ARM and RESUME attach to, and what they refuse. That ARM takes a stream that already runs, and does nothing outside mode 2, is the
model's reading of R479 (log entries 33 and 136). -/
theorem snoopsAttach : Claim.SnoopsAttach := by
  intro s die unit hup c attach
  have hc : s.cu die.val unit.val = c := rfl
  have harm := exec_arm_of_up hup unit
  have hresume := exec_resume_of_up hup unit
  have hattach : ∀ {cmd : Instr} {g : Option Nat} {n : Nat},
      exec cmd s = .next (s.setCu die.val unit.val (c.attachedTo g n)) → attach cmd g n :=
    fun h => ⟨_, h, onlyUnit_setCu s die unit _, rfl⟩
  refine ⟨fun hstall => ⟨6, misuse_of_exec ?noStall⟩, fun hstall hmode => ?otherMode, fun hstall hmode =>
    ⟨fun hnone => hattach ?waits, fun q d hsome => ⟨q.nextWholeLine d, hattach ?attaches⟩⟩, fun hbad => ?resumeRefused,
    fun hfed hstall hmode q d hsome => hattach ?resumes⟩
  case noStall => rw [harm, chkArm_of_noStall hc hstall]
  case otherMode => rw [harm, chkArm_of_otherMode hc hstall hmode]
  case waits => rw [harm, chkArm_of_noStream hc hstall hmode hnone]
  case attaches => rw [harm, chkArm_of_stream hc hstall hmode hsome]
  case resumes => rw [hresume, chkResume_of_stream hc hfed hstall hmode hsome]
  case resumeRefused =>
    by_cases hfed : c.fed % 64 = 0
    · have hstall : 5120 ≤ c.stall := hbad.resolve_left (not_not_intro hfed)
      exact ⟨6, misuse_of_exec (by rw [hresume, chkResume_of_noStall hc hfed hstall])⟩
    · exact ⟨5, misuse_of_exec (by rw [hresume, chkResume_of_partLine hc hfed])⟩

/-! ## Lines of the window (R480 to R482) -/

theorem bitAt_or_two_pow (x i : Nat) : bitAt (x ||| 2 ^ i) i = true := by
  have hbit : bitAt (x ||| 2 ^ i) i = (x ||| 2 ^ i).testBit i := by
    rw [bitAt, Nat.shiftRight_eq_div_pow, Nat.testBit_eq_decide_div_mod_eq]
  rw [hbit, Nat.testBit_or, Nat.testBit_two_pow_self, Bool.or_true]

/-- The unit after the line that is next in its window: its bytes are fed, and STATE and FED are marked before and after it. -/
def CheckUnit.lineFed (c : CheckUnit) (ctr : Nat) (l : Line) : CheckUnit :=
  let d := c.feed ctr (bytesOfLine l)
  { d with
    nextLine := c.nextLine + 1, window := tdel c.window c.nextLine
    marks := tput (tput c.marks c.nextLine (c.state, c.fed)) (c.nextLine + 1) (d.state, d.fed) }

/-- The unit has fed its whole window, and its slot no longer runs its stream. -/
def State.snoopEnded (s : State) (die : Nat) (c : CheckUnit) : Bool :=
  let q := (s.port (die * 8192 + c.stall)).slot c.slot
  (tdel c.window c.nextLine).isEmpty && (q.state = .free || some q.goSeq ≠ c.goSeq)

theorem snoopEnded_iff (s : State) (die : Nat) (c : CheckUnit) : s.snoopEnded die c = true ↔
    let q := (s.port (die * 8192 + c.stall)).slot c.slot
    tdel c.window c.nextLine = [] ∧ (q.state = .free ∨ some q.goSeq ≠ c.goSeq) := by
  simp [State.snoopEnded]

section
variable {s : State} {die : Fin 16} {unit : Fin 4} {c : CheckUnit} (hc : s.cu die.val unit.val = c)
include hc

theorem exec_snoopLine_of_detached (h : c.attached = false) : exec (.snoopLine die unit) s = .next s := by
  subst hc; exact if_pos (by rw [h]; rfl)

theorem exec_snoopLine_of_noLine (h : tfind c.window c.nextLine = none) : exec (.snoopLine die unit) s = .next s := by
  subst hc
  show execSnoopLine die unit s = _
  simp only [execSnoopLine, h, ite_self]

theorem exec_snoopLine_of_hidden {l : Line} (hatt : c.attached = true) (hline : tfind c.window c.nextLine = some (l, false)) :
    exec (.snoopLine die unit) s = .next ((s.setCu die.val unit.val (c.detach 5)).raise 0x0E05 die.val none (die.val * 8192 + c.stall)
      0xFFFFFFFF [unit.val, c.id]) := by
  subst hc
  show execSnoopLine die unit s = _
  simp only [execSnoopLine, hatt, hline, Bool.not_true, Bool.not_false, Bool.false_eq_true, if_false, if_true]

/-- A public line is fed, and the last of an ended stream detaches the unit with DONE. -/
theorem exec_snoopLine_of_public {l : Line} (hatt : c.attached = true) (hline : tfind c.window c.nextLine = some (l, true)) :
    exec (.snoopLine die unit) s = .next ((s.setCu die.val unit.val
      (if s.snoopEnded die.val c then (c.lineFed s.freeCtr l).detach 2 else c.lineFed s.freeCtr l)).useFree 1) := by
  subst hc
  show execSnoopLine die unit s = _
  simp only [execSnoopLine, hatt, hline, Bool.not_true, Bool.false_eq_true, if_false]
  rfl

end

/-- What an attached unit does with the next line of its window. DONE comes once the window has drained (log entry 136). -/
theorem snoopedLinesAreFed : Claim.SnoopedLinesAreFed := by
  intro s die unit l c cmd
  have hc : s.cu die.val unit.val = c := rfl
  refine ⟨?nothing, fun hatt hline => ?hidden, fun hatt hline h8 h64 => ?fed⟩
  case nothing =>
    rintro (hdetached | hnoLine)
    · exact exec_snoopLine_of_detached hc hdetached
    · exact exec_snoopLine_of_noLine hc hnoLine
  case hidden =>
    obtain ⟨hsame, hlog⟩ := raise_same (s.setCu die.val unit.val (c.detach 5)) 0x0E05 die.val none (die.val * 8192 + c.stall) 0xFFFFFFFF
      [unit.val, c.id]
    exact ⟨_, exec_snoopLine_of_hidden hc hatt hline, onlyUnit_of_sameButReports hsame (onlyUnit_setCu s die unit _), hlog⟩
  case fed =>
    have hfeed := feed_of_width h8 h64 s.freeCtr (bytesOfLine l)
    rw [length_bytesOfLine] at hfeed
    refine ⟨_, _, exec_snoopLine_of_public hc hatt hline, onlyUnit_setCu s die unit _, rfl, ?_⟩
    have hdone := snoopEnded_iff s die.val c
    by_cases hend : s.snoopEnded die.val c = true
    · rw [if_pos hend, CheckUnit.lineFed, hfeed]
      exact ⟨rfl, rfl, fun _ => ⟨rfl, bitAt_or_two_pow _ 2⟩, fun hnot => absurd (hdone.mp hend) hnot⟩
    · rw [if_neg hend, CheckUnit.lineFed, hfeed]
      exact ⟨rfl, rfl, fun h => absurd (hdone.mpr h) hend, fun _ => ⟨hatt, rfl, rfl, rfl⟩⟩

end Sys2Proof.Machine
end

section
/-! PROOF. Errors of clock-crossing queues (15_check_unit_queues.md R486, R487, Table CHK.4). -/
namespace Sys2Proof.Machine
open Sys2Proof.Claim

/-! ## Reads while EMPTY and writes while FULL (R486) -/

theorem exec_underrun_of_up {s : State} {die : Fin 16} (hup : UnitUp s die) (hreach : HostReaches s) (q : Fin 17) :
    exec (.registerWrite (.underrun die.val q.val)) s = .next (s.underrun die.val q.val) :=
  (if_neg (by rw [hreach.1, hostPath_of_reaches hreach]; decide)).trans
    (congrArg Host.Outcome.next (if_pos ⟨die.isLt, q.isLt, by rw [hup.2]; rfl⟩))

theorem exec_overrun_of_up {s : State} {die : Fin 16} (hup : UnitUp s die) (hreach : HostReaches s) (q : Fin 17) :
    exec (.registerWrite (.overrun die.val q.val)) s = .next (s.overrun die.val q.val) :=
  (if_neg (by rw [hreach.1, hostPath_of_reaches hreach]; decide)).trans
    (congrArg Host.Outcome.next (if_pos ⟨die.isLt, q.isLt, by rw [hup.2]; rfl⟩))

/-- A queue register that changes with one incident, and nothing else. -/
theorem setCq_raiseDie_records (s : State) (die q : Nat) (c : CQueue) (code : Nat) (detail : List Nat) :
    let t := (s.setCq die q c).raiseDie code die detail
    t.cq die q = c ∧ Records s t code die detail ∧ Apart s t := by
  intro t
  obtain ⟨hsame, hlog⟩ := raiseDie_same (s.setCq die q c) code die detail
  refine ⟨?_, hlog, apart_of_sameButReports hsame (apart_refl s)⟩
  exact (congrArg (State.cq · die q) hsame.eq).trans (cq_setCq_self ..)

/-! ## A pointer mismatch (R487) -/

/-- A queue whose reset is counted and recorded, before what its entries ask for. -/
def State.queueReset (s : State) (n q occ : Nat) : State :=
  (s.setCq n q { s.cq n q with resets := satInc (s.cq n q).resets, armed := true }).raiseDie 0x0E01 n [q, occ]

/-- What every reset of a queue leaves. -/
structure QueueWasReset (s t : State) (n q occ : Nat) : Prop where
  queue : t.cq n q = { s.cq n q with resets := satInc (s.cq n q).resets, armed := true }
  record : ∃ i ∈ t.inc.log, i.code = 0x0E01 ∧ i.detail = [q, occ]
  mem : t.mem = s.mem

/-- What comes after the reset neither touches queues and memory nor takes back a record. -/
theorem queueWasReset_of_kept {s t : State} {n q occ : Nat} (hqueues : t.queues = (s.queueReset n q occ).queues)
    (hmem : t.mem = (s.queueReset n q occ).mem) (hlog : (s.queueReset n q occ).inc.log <:+ t.inc.log) : QueueWasReset s t n q occ := by
  obtain ⟨hq, hrec, hapart⟩ := setCq_raiseDie_records s n q
    { s.cq n q with resets := satInc (s.cq n q).resets, armed := true } 0x0E01 [q, occ]
  obtain ⟨-, hkept, -⟩ := hapart
  have hnewest := hlog.subset (hrec ▸ List.mem_cons_self)
  refine ⟨?_, ⟨_, hnewest, rfl, rfl⟩, hmem.trans hkept⟩
  rw [← hq, State.cq, State.cq, hqueues]
  rfl

theorem queueWasReset_of_traffic {s t : State} {n q occ : Nat} (h : SameButTraffic (s.queueReset n q occ) t) :
    QueueWasReset s t n q occ :=
  queueWasReset_of_kept (by rw [h.eq]) (by rw [h.eq]) h.adds.log

/-- Error answers over a link end requests alone. -/
theorem failRequests_traffic (link code : Nat) : ∀ (l : List Req) (s : State), SameButTraffic s (s.failRequests link code l)
  | [], s => .refl s
  | r :: l, s => by
    refine SameButTraffic.trans ?_ (failRequests_traffic link code l _)
    split
    · exact ⟨rfl, .of_eq rfl rfl rfl⟩
    · exact .refl s

/-- A port reset changes the port, records 0x0903 unless the port is OFF, and may fault the sets that lose a member (R330). -/
theorem portReset_traffic (s : State) (p : Nat) : SameButTraffic s (s.portReset p) ∧
    ((s.wport p).state ≠ 0 → ∃ i ∈ (s.portReset p).inc.log, i.code = 0x0903 ∧ i.die = p) := by
  by_cases hoff : (s.wport p).state = 0
  · rw [State.portReset, if_pos hoff]
    exact ⟨.refl s, fun h => absurd hoff h⟩
  · rw [State.portReset, if_neg hoff]
    dsimp only
    generalize (if s.portEnabled p = true then _ else _ : WPort) = w
    have hset : SameButTraffic s (s.setWport p w) := .of_fab ..
    obtain ⟨hsame, hlog⟩ := raise_same (s.setWport p w) 0x0903 p none 0 0xFFFFFFFF [p, 2, (s.wport p).holds]
    have hraised := hset.trans (hsame.traffic (raise_adds ..))
    have hlost := loseMembers_traffic ((s.setWport p w).raise 0x0903 p none 0 0xFFFFFFFF [p, 2, (s.wport p).holds])
    exact ⟨hraised.trans hlost, fun _ => ⟨_, hlost.adds.log.subset (by rw [hlog]; exact List.mem_cons_self), rfl, rfl⟩⟩

section
variable {s : State} {die : Fin 16} (hup : UnitUp s die) (q : Fin 17) (occ : Nat)
include hup

/-- An edge queue: requests over its link, where there is one, get error responses. -/
theorem exec_queueMismatch_of_edge (hq : q.val < 9) : ∃ t, exec (.queueMismatch die q occ) s = .next t ∧
    SameButTraffic (s.queueReset die.val q.val occ) t := by
  have hexec : exec (.queueMismatch die q occ) s = match edgeLink die.val q.val with
      | some link => .next ((s.queueReset die.val q.val occ).failRequests link 0x0E01 (s.queueReset die.val q.val occ).reqs)
      | none => .next (s.queueReset die.val q.val occ) := by
    show execQueueMismatch die q occ s = _
    rw [execQueueMismatch, hup.1, hup.2]
    exact if_pos hq
  cases hlink : edgeLink die.val q.val with
  | none => exact ⟨_, by rw [hexec, hlink], .refl _⟩
  | some link => exact ⟨_, by rw [hexec, hlink], failRequests_traffic ..⟩

theorem exec_queueMismatch_of_port (h9 : 9 ≤ q.val) (h13 : q.val < 13) : exec (.queueMismatch die q occ) s =
    .next ((s.queueReset die.val q.val occ).portReset die.val) := by
  show execQueueMismatch die q occ s = _
  rw [execQueueMismatch, hup.1, hup.2]
  exact (if_neg (Nat.not_lt.mpr h9)).trans (if_pos h13)

/-- A check unit's input queue: QRESET, and a STATE without meaning, which the model draws as a free value (log entry 30). -/
theorem exec_queueMismatch_of_unit (h13 : 13 ≤ q.val) : ∃ st, exec (.queueMismatch die q occ) s =
    .next (((s.queueReset die.val q.val occ).setCu die.val (q.val - 13)
      { ((s.queueReset die.val q.val occ).cu die.val (q.val - 13)).mark 7 with state := st }).useFree 1) := by
  refine ⟨Config.freeLost (s.queueReset die.val q.val occ).freeCtr % 2 ^ 64, ?_⟩
  show execQueueMismatch die q occ s = _
  rw [execQueueMismatch, hup.1, hup.2]
  exact (if_neg (Nat.not_lt.mpr (Nat.le_trans (by decide) h13))).trans (if_neg (Nat.not_lt.mpr h13))

end

/-- Underruns, overruns and mismatches of a queue. -/
theorem queueErrors : Claim.QueueErrors := by
  intro s die q occ hup hreach c
  obtain ⟨hsame, -⟩ := raiseDie_same (s.setCq die.val q.val { c with resets := satInc c.resets, armed := true }) 0x0E01 die.val [q.val, occ]
  change SameButReports _ (s.queueReset die.val q.val occ) at hsame
  refine ⟨⟨_, exec_underrun_of_up hup hreach q, setCq_raiseDie_records ..⟩, ⟨_, exec_overrun_of_up hup hreach q,
    setCq_raiseDie_records ..⟩, ?mismatch⟩
  by_cases h9 : q.val < 9
  · obtain ⟨t, hexec, htraffic⟩ := exec_queueMismatch_of_edge hup q occ h9
    obtain ⟨hqueue, hrecord, hmem⟩ := queueWasReset_of_traffic htraffic
    exact ⟨t, hexec, hqueue, hrecord, hmem, fun h => absurd h (by omega), fun k _ hk => absurd hk (by omega)⟩
  · by_cases h13 : q.val < 13
    · obtain ⟨htraffic, hport⟩ := portReset_traffic (s.queueReset die.val q.val occ) die.val
      obtain ⟨hqueue, hrecord, hmem⟩ := queueWasReset_of_traffic htraffic
      have hwport : (s.queueReset die.val q.val occ).wport die.val = s.wport die.val := by rw [hsame.eq]; rfl
      rw [hwport] at hport
      exact ⟨_, exec_queueMismatch_of_port hup q occ (Nat.not_lt.mp h9) h13, hqueue, hrecord, hmem, fun _ _ => hport,
        fun k _ hk => absurd hk (by omega)⟩
    · obtain ⟨st, hexec⟩ := exec_queueMismatch_of_unit hup q occ (Nat.not_lt.mp h13)
      obtain ⟨hqueue, hrecord, hmem⟩ := queueWasReset_of_kept (s := s) (n := die.val) (q := q.val) (occ := occ)
        (t := ((s.queueReset die.val q.val occ).setCu die.val (q.val - 13)
          { ((s.queueReset die.val q.val occ).cu die.val (q.val - 13)).mark 7 with state := st }).useFree 1) rfl rfl List.suffix_rfl
      refine ⟨_, hexec, hqueue, hrecord, hmem, fun _ h => absurd h h13, fun k _ hk => ⟨st, ?_⟩⟩
      have hunit : q.val - 13 = k := by omega
      have hcu : (s.queueReset die.val q.val occ).cu die.val k = s.cu die.val k := by rw [hsame.eq]; rfl
      rw [hunit, ← hcu]
      exact cu_setCu_self ..

/-- Settles O58: the engine gives the table's check values, units are started, fed by writes and by snoop as R473 to R483 say, and queue
errors and resets are recorded. -/
theorem checkUnits : Obligations.CheckUnits := by
  unfold Obligations.CheckUnits
  exact ⟨crcEngine_checkValues, checkUnitsStart, feedWrites, snoopsAttach, snoopedLinesAreFed, queueErrors⟩

end Sys2Proof.Machine
end
